-- ==== Sys2Proof/Word.lean ====
section
/-!
DEFINITION. Sys2Proof/Word.lean: the byte type of the device (R11: everything in memory and in packets is a row of
bytes, little-endian) and the sparse tables in which State keeps numbered resources.
-/

namespace Sys2Proof

/-- One byte of a packet, a frame or memory. -/
abbrev Byte := BitVec 8

/-- A table of numbered resources: numbers strictly rising, as `Tab.put` keeps them, which lists no entry
equal to the default value that an unlisted number reads as. -/
abbrev Tab (α : Type) := List (Nat × α)

end Sys2Proof
end

