-- ==== Sys2Proof/Syntax.lean ====
section
/-!
DEFINITION. Sys2Proof/Syntax.lean: the operand types of the block's commands and the one inductive of commands,
`Sys2Proof.Instr`, one constructor per row of the table of operations and events.
-/

namespace Sys2Proof

/-- A command source (R41, R44): the command ring of a partition, or port MP. -/
inductive Source where
  | ring (p : Nat)
  | mp
deriving DecidableEq, Repr

/-- A command packet as its source delivers it (R36, R44). The opcode is the constructor of `Instr` that carries the
packet; `params` are the bytes delivered after the 16-byte header, padding included. `stamp` is the ET of its stamp
point (R24). `mac` and `pcp` are the source MAC address and the traffic class of an MP frame (R47). -/
structure Packet where
  src : Source
  flags : Nat := 0
  part : Nat := 0
  tag : Nat := 0
  len : Nat := 0
  seq : Nat := 0
  cred : Nat := 0
  stamp : Nat := 0
  mac : Nat := 0
  pcp : Nat := 0
  params : List Byte := []
deriving DecidableEq, Repr

/-- A load or store of an initiator on the address map (R19, R66, R523): who, where, how wide and what. -/
structure BusWrite where
  init : Nat
  addr : Nat
  size : Nat
  data : Nat
  isWrite : Bool := true
deriving DecidableEq, Repr

/-- Word 0 and the flags of a dispatched stroke (R101): its due phase in ticks, overrun class 0 SKIP, 1 LATE, 2 FAULT, and
TRACE. -/
structure StrokeHd where
  phase : Nat
  ovr : Nat := 0
  trace : Bool := false
deriving DecidableEq, Repr

/-- A stroke's kind, lane, resource and argument bytes (R101, R102). -/
structure Stroke where
  kind : Nat
  lane : Nat
  res : Nat := 0
  arg : List Byte := []
deriving DecidableEq, Repr

/-- What the end of an ET millisecond yields for a channel, leg or input (R210, R219, R247, R402): the latest sense code,
the mean of all codes, the mean of the counted on-phase codes and how many they were; for a bridge leg, whether the bridge
drove in one direction throughout without pour or fault; for a digital input (`di`), the mean measure. -/
structure SenseMs where
  di : Bool := false
  code : Nat := 0
  avg : Nat := 0
  onMean : Nat := 0
  onCodes : Nat := 0
  drove : Bool := false
  measure : Nat := 0
deriving DecidableEq, Repr

/-- What stage 2 finds in a frame on a MACsec port (R305): its receive channel (4 and above: an SCI of no configured
channel), AN, packet number, whether its integrity check holds, and whether it is encrypted. -/
structure SecTag where
  sc : Nat := 0
  an : Nat := 0
  pn : Nat := 0
  valid : Bool := true
  enc : Bool := false
deriving DecidableEq, Repr

/-- An Ethernet frame as a port receives it (R286): addresses, C-tag, EtherType, R-TAG sequence number, payload after the
EtherType, and its length with FCS. `known` says that its length is known at the decision point (R288). -/
structure EthFrame where
  port : Nat
  dst : Nat := 0
  mac : Nat := 0
  tagged : Bool := false
  vid : Nat := 0
  pcp : Nat := 0
  dei : Bool := false
  etherType : Nat := 0
  rtag : Option Nat := none
  payload : List Byte := []
  len : Nat := 64
  known : Bool := false
  sec : Option SecTag := none
deriving DecidableEq, Repr

/-- A port record of SWITCH_CONFIG (R310). -/
structure SwPortCfg where
  learning : Bool := false
  floodU : Bool := false
  floodM : Bool := false
  cut : Bool := false
  macsec : Bool := false
  pvid : Nat := 1
  maxLen : Nat := 1522
  portLimit : Nat := 0
  limits : List Nat := []
  pcpMap : Nat := 0
  shaper : Nat := 0
  suite : Nat := 0
  secSci : Bool := false
  replay : Bool := false
  strict : Bool := false
  idle : List Nat := []
  window : Nat := 0
deriving DecidableEq, Repr

/-- A VLAN record (R298, R311). -/
structure VlanRec where
  vid : Nat := 0
  fid : Nat := 0
  members : Nat := 0
  untagged : Nat := 0
deriving DecidableEq, Repr

/-- A forwarding database entry (R313); `seen` is the ET at which a learned entry was last learned. Type 0 is free. -/
structure FdbEnt where
  mac : Nat := 0
  fid : Nat := 0
  ports : Nat := 0
  type : Nat := 0
  flags : Nat := 0
  seen : Nat := 0
deriving DecidableEq, Repr

/-- A stream record (R302, R311): ingress 0xFF any, meter and CB record 0xFFFF none, maximum SDU 0 none. -/
structure StreamRec where
  dst : Nat := 0
  vid : Nat := 0
  ingress : Nat := 0xFF
  gate : Nat := 1
  meter : Nat := 0xFFFF
  maxSdu : Nat := 0
  cb : Nat := 0xFFFF
deriving DecidableEq, Repr

/-- A meter record (R302, R311): rates in kb/s, bursts in bytes. -/
structure MeterRec where
  cir : Nat := 0
  cbs : Nat := 0
  eir : Nat := 0
  ebs : Nat := 0
  coupling : Bool := false
  aware : Bool := false
  dropYellow : Bool := false
deriving DecidableEq, Repr

/-- A CB record (R303, R311): function 1 generation, 2 vector recovery, 3 match recovery; timeout in µs. -/
structure CbRec where
  func : Nat := 0
  individual : Bool := false
  history : Nat := 0
  timeout : Nat := 0
  rtagPorts : Nat := 0
deriving DecidableEq, Repr

/-- A frame record (R301, R311): PDU ID offset 0xFFFF none. -/
structure FrameRec where
  buf : Nat := 0
  transmit : Bool := false
  gw : Nat := 0
  group : Nat := 0
  len : Nat := 0
  vid : Nat := 0
  pcp : Nat := 0
  dst : Nat := 0
  etherType : Nat := 0
  pduId : Nat := 0
  pduOff : Nat := 0xFFFF
deriving DecidableEq, Repr

/-- An HP delivery record (R304, R311). -/
structure HpRec where
  dst : Nat := 0
  vid : Nat := 0
  anyVid : Bool := false
  ring : Nat := 0
  hp : Nat := 0
deriving DecidableEq, Repr

/-- An entry of a TSN_GATES section (R308): phase in ticks, port, gate states. -/
structure GateEnt where
  phase : Nat := 0
  port : Nat := 0
  gates : Nat := 0
deriving DecidableEq, Repr

/-- A port record of PORT_CONFIG (R322). Training timeout and alone interval in ms. -/
structure PortRec where
  enabled : Bool := false
  startAtRun : Bool := false
  leader : Bool := false
  tc10 : Bool := false
  acceptSleep : Bool := false
  speed : Nat := 0
  node : Nat := 0
  nodes : Nat := 0
  toTimer : Nat := 0
  burst : Nat := 0
  burstTimer : Nat := 0
  training : Nat := 200
  alone : Nat := 0
deriving DecidableEq, Repr

/-- A CAN frame on the bus (R333): format 0 CC base, 1 CC extended, 2 FD base, 3 FD extended, 4 XL. -/
structure CanFrame where
  fmt : Nat := 0
  brs : Bool := false
  rtr : Bool := false
  secBit : Bool := false
  id : Nat := 0
  sdt : Nat := 0
  vcid : Nat := 0
  af : Nat := 0
  payload : List Byte := []
deriving DecidableEq, Repr

/-- A channel record of CAN_MATRIX (R336); `rate` is the nominal bit rate in kbit/s that its timing gives. -/
structure CanCfg where
  enabled : Bool := false
  fd : Bool := false
  xl : Bool := false
  listen : Bool := false
  autoRec : Bool := false
  protEx : Bool := false
  sic : Bool := false
  xlErrOff : Bool := false
  retry : Nat := 16
  ring : Nat := 0xFF
  rate : Nat := 500
  tdc : Nat := 0
  txQuota : Nat := 0
  rxQuota : Nat := 0
  quota : Nat := 0
  foreign : Nat := 0
deriving DecidableEq, Repr

/-- A transmit entry (R337); `cmdEntry` and `risRel` are format bits 7 and 6. -/
structure CanEntry where
  ch : Nat := 0
  fmt : Nat := 0
  brs : Bool := false
  rtr : Bool := false
  secBit : Bool := false
  risRel : Bool := false
  cmdEntry : Bool := false
  buf : Nat := 0xFFFF
  id : Nat := 0
  len : Nat := 0
  sdt : Nat := 0
  vcid : Nat := 0
  af : Nat := 0
deriving DecidableEq, Repr

/-- A receive filter (R338), and a host filter of CAN_SET_FILTER (R356). Window in µs of canvas phase, 0xFFFFFFFF none. -/
structure CanFilter where
  ch : Nat := 0
  formats : Nat := 0
  buf : Nat := 0xFFFF
  id : Nat := 0
  mask : Nat := 0
  toBuf : Bool := false
  toRing : Bool := false
  len : Nat := 0
  winStart : Nat := 0xFFFFFFFF
  winEnd : Nat := 0xFFFFFFFF
deriving DecidableEq, Repr

/-- A FlexRay frame at the end of its CRC (R369): `err` is its error code of RX_ERROR, none for a valid frame. -/
structure FryFrame where
  slot : Nat
  cycle : Nat := 0
  null : Bool := false
  startup : Bool := false
  syncF : Bool := false
  err : Option Nat := none
  payload : List Byte := []
deriving DecidableEq, Repr

/-- A cluster record of FLEXRAY_CONFIG (R371). Guard width in ns, retry interval in ms, `cycleNs` the cycle length. -/
structure FryCfg where
  enabled : Bool := false
  chA : Bool := false
  chB : Bool := false
  coldstart : Bool := false
  sync : Bool := false
  extCorr : Bool := false
  startAtRun : Bool := false
  keySlot : Nat := 0
  macroPerCycle : Nat := 0
  microPerMacro : Nat := 40
  attempts : Nat := 2
  staticSlots : Nat := 0
  staticSlot : Nat := 0
  minislots : Nat := 0
  minislot : Nat := 0
  actionPoint : Nat := 1
  payloadWords : Nat := 0
  symbolWindow : Nat := 0
  nit : Nat := 0
  starA : Bool := false
  starB : Bool := false
  guard : Nat := 0
  retry : Nat := 0
  offsLimit : Nat := 0
  rateLimit : Nat := 0
  ring : Nat := 0xFF
  branchesA : Nat := 1
  branchesB : Nat := 1
  toPassive : Nat := 1
  toHalt : Nat := 1
  toActive : Nat := 0
deriving DecidableEq, Repr

/-- A buffer record (R372). -/
structure FryBuf where
  cl : Nat := 0
  transmit : Bool := false
  chA : Bool := false
  chB : Bool := false
  startup : Bool := false
  syncF : Bool := false
  preamble : Bool := false
  toRing : Bool := false
  slot : Nat := 0
  base : Nat := 0
  rep : Nat := 1
  words : Nat := 0
  buf : Nat := 0xFFFF
deriving DecidableEq, Repr

/-- A branch record (R373): its owned static slots as a bit map. -/
structure FryBranchRec where
  chn : Nat := 0
  branch : Nat := 0
  dynamic : Bool := false
  symbol : Bool := false
  slots : Nat := 0
deriving DecidableEq, Repr

/-- How a LIN frame ended at its checksum stop bit (R378): error code of LIN_LAST_ERROR, 0 good, and the response data. -/
structure LinEnd where
  err : Nat := 0
  data : List Byte := []
deriving DecidableEq, Repr

/-- A channel record of LIN_SCHEDULE (R375). -/
structure LinCfg where
  enabled : Bool := false
  commander : Bool := false
  startAtRun : Bool := false
  rate : Nat := 19200
  ring : Nat := 0xFF
  quota : Nat := 0
  txQuota : Nat := 0
  rxQuota : Nat := 0
  respErrEntry : Nat := 0xFFFF
  respErrBit : Nat := 0
  idle : Nat := 4000
deriving DecidableEq, Repr

/-- A frame entry of LIN_SCHEDULE (R376): direction 0 publish, 1 subscribe, 2 neither; type 0 unconditional,
1 event-triggered, 2 sporadic, 3 command entry. -/
structure LinEnt where
  ch : Nat := 0
  id : Nat := 0
  dir : Nat := 0
  type : Nat := 0
  enhanced : Bool := false
  after : Bool := false
  len : Nat := 1
  buf : Nat := 0xFFFF
  collision : Nat := 0xFFFF
deriving DecidableEq, Repr

/-- A key slot (R455): its header, its sequence number, the key itself (the public key where it has one), and the epoch
under which a working record is wrapped. Type 0 is an empty slot. -/
structure KeySlot where
  type : Nat := 0
  flags : Nat := 0
  usage : Nat := 0
  mask : Nat := 0
  bindKind : Nat := 0
  bindIdx : Nat := 0
  keyLen : Nat := 0
  seq : Nat := 0
  label : List Byte := []
  key : List Byte := []
  epoch : Nat := 0
deriving DecidableEq, Repr

/-- What the Bamlys areas of flash and the fuses hold (R452, R458): read at a start, see BAMLYS_START. -/
structure BamStore where
  lc : Nat := 0
  count : Nat := 0
  policy : Nat := 1
  locked : Bool := false
  armed : Nat := 0x1F
  authCounter : Nat := 0
  helper : Bool := false
  slots : Tab KeySlot := []
  /-- The content of each slot's other copy, where it is valid (R460). -/
  other : Tab KeySlot := []
deriving DecidableEq, Repr

/-- What the cryptography of one Bamlys request comes to (R470): whether an authorization trailer's signatures verify,
whether the signature or the unwrapping succeeds, and the bytes it produces (signature, tag, random bytes, device nonce, key). -/
structure BamService where
  authOk : Bool := true
  valid : Bool := true
  out : List Byte := []
deriving DecidableEq, Repr

/-- The state of one slot in the slot state record (R482), with the directory fields of its image (R479). -/
structure SlotRec where
  st : Nat := 0
  sketch : Nat := 0
  version : Nat := 0
  chunks : Nat := 0
  committed : Nat := 0
  minPeer : Nat := 0
  trialStarts : Nat := 3
  trialLeft : Nat := 0
  health : Nat := 120
deriving DecidableEq, Repr

/-- The slot state record (R482). -/
structure SlotRecord where
  a : SlotRec := {}
  b : SlotRec := {}
  varnished : Nat := 0
  fallbacks : Nat := 0
  digestFails : Nat := 0
deriving DecidableEq, Repr

/-- How the checks of a chunk end (R484): its digest, for chunk 0 the directory signature, and after the last chunk the
acceptance code of the completion checks (0 passes, 0xFF a component check) with the acceptance record. -/
structure ChunkResult where
  digestOk : Bool := true
  sigOk : Bool := true
  accept : Nat := 0
  record : List Byte := []
deriving DecidableEq, Repr

/-- The settings of TIME_CONFIG and TIME_SET_SOURCES (R92, R96). `syncInt` is the Sync interval in units of 2^-5 s. -/
structure TimeCfg where
  priGptp : Nat := 0
  priFr : Nat := 0
  priPps : Nat := 0
  realignArmed : Bool := true
  ppsFalling : Bool := false
  primary : Nat := 0xFF
  hot : Nat := 0xFF
  frCluster : Nat := 0xFF
  syncTimeout : Nat := 3
  stepThr : Nat := 100000
  maxSlew : Nat := 100
  revertMs : Nat := 2000
  holdoverMs : Nat := 20000
  priority1 : Nat := 255
  priority2 : Nat := 248
  clockClass : Nat := 248
  clockAcc : Nat := 0xFE
  variance : Nat := 0xFFFF
  syncInt : Nat := 4
  portMask : Nat := 0
  roles : List Nat := []
deriving DecidableEq, Repr

/-- A pulse generator record (R94, R96): width 0 leaves it unconfigured. -/
structure PgRec where
  mode : Nat := 0
  polarity : Nat := 0
  width : Nat := 0
  period : Nat := 0
  count : Nat := 0
deriving DecidableEq, Repr

/-- A palette section (R141): its ID, strokes, head length and mode. -/
structure PaletteRec where
  id : Nat := 0
  strokes : Nat := 0
  headLen : Nat := 0
  mode : Nat := 0
  len : Nat := 0
  windows : List Nat := []
  /-- Position of the section in the directory (R147). -/
  pos : Nat := 0
deriving DecidableEq, Repr

/-- A trigger record (R186). -/
structure Trigger where
  used : Bool := false
  kind : Nat := 0
  edges : Nat := 0
  source : Nat := 0
  signal : Nat := 0
  seat : Nat := 0
  hold : Nat := 0
  group : Nat := 0
  spacing : Nat := 0
deriving DecidableEq, Repr

/-- The record of a load channel or a bridge in LOAD_TABLE with its LEDGER entry (R142, R224, R249). Currents in 0.1 A,
pour durations in 0.1 ms; the fields from `lamp` on are a channel's, those from `zeroBrake` on a bridge's. -/
structure LoadRec where
  enabled : Bool := false
  slew : Nat := 0
  safe : Nat := 0
  loadClass : Nat := 0
  retryN : Nat := 0
  steady : Nat := 0
  limit : Nat := 0
  s1c : Nat := 0
  s1d : Nat := 0
  s2c : Nat := 0
  s2d : Nat := 0
  phase : Nat := 0
  period : Nat := 0
  minPeriod : Nat := 0
  lamp : Bool := false
  olEn : Bool := false
  olThr : Nat := 0
  olFilter : Nat := 0
  slow : Bool := false
  stallEn : Bool := false
  zeroBrake : Bool := false
  stallBrake : Bool := false
  dead : Nat := 12
  stallThr : Nat := 0
  stallFilter : Nat := 0
deriving DecidableEq, Repr

/-- THERMAL_MODEL and the LEDGER header (R142, R276). -/
structure PowerRec where
  sag12 : Nat := 900
  crank : Nat := 600
  sag48 : Nat := 3600
  vref : Nat := 1350
  frac2 : Nat := 51
  frac3 : Nat := 38
  budget12 : Nat := 0
  reserve12 : Nat := 0
  budget48 : Nat := 0
  reserve48 : Nat := 0
deriving DecidableEq, Repr

/-- A DI or XI record (R399, R400). -/
structure DinRec where
  enabled : Bool := false
  rise : Bool := false
  fall : Bool := false
  wbEn : Bool := false
  mode : Nat := 0
  wetting : Nat := 0
  k : Nat := 0
  breakVal : Nat := 0
  debounce : Nat := 0
  sensorThr : Nat := 0
  breakFilter : Nat := 0
  xiType : Nat := 0
deriving DecidableEq, Repr

/-- An XO record (R400). -/
structure XoRec where
  enabled : Bool := false
  safePart : Nat := 0
  safeField : Nat := 0
deriving DecidableEq, Repr

/-- A wake line in (R511). -/
structure Wki where
  enabled : Bool := false
  level : Bool := false
  high : Bool := false
  ignition : Bool := false
  filter : Nat := 0
deriving DecidableEq, Repr

/-- A WKO record (R511). -/
structure WkoRec where
  enabled : Bool := false
  awake : Bool := false
  pulse : Bool := false
  onAbort : Bool := false
  high : Bool := false
  width : Nat := 0
  mask : Nat := 0
deriving DecidableEq, Repr

/-- A wake set (R511). -/
structure WakeSet where
  enabled : Bool := false
  wki : Nat := 0
  can : Nat := 0
  lin : Nat := 0
  ports : Nat := 0
deriving DecidableEq, Repr

/-- A partition record (R437): bases and sizes in bytes. -/
structure PartRec where
  enabled : Bool := false
  startAtRun : Bool := false
  policy : Nat := 0
  domain : Nat := 0
  ringClass : Nat := 0
  share : Nat := 0
  eventRing : Nat := 0
  postedRing : Nat := 0
  dramBase : Nat := 0
  dramSize : Nat := 0
  sramBase : Nat := 0
  sramSize : Nat := 0
  image : Nat := 0
  imageMb : Nat := 0
deriving DecidableEq, Repr

/-- A ring record (R438). -/
structure RingRec where
  type : Nat := 0
  owner : Nat := 0
  enabled : Bool := false
  irqEn : Bool := false
  depthLog : Nat := 0
  slotLog : Nat := 0
  binding : Nat := 0xFFFF
  base : Nat := 0
deriving DecidableEq, Repr

/-- A mailbox record (R440). -/
structure MbxRec where
  part : Nat := 0
  dest : Bool := false
  addr : Nat := 0
deriving DecidableEq, Repr

/-- A supervision record (R440). -/
structure Supervise where
  part : Nat := 0
  code : Nat := 0
  res : Nat := 0xFFFF
  timeoutUs : Nat := 0
deriving DecidableEq, Repr

/-- A started slot's Ploell image, section by section, as the M-core firmware reads it (R139). `accept` is the acceptance
code of R146 to which its checks come, 0 for a pass. Tables are by record number; `routes` are the records of ROUTE_TABLE
by signal ID, 32 bytes each. -/
structure Image where
  accept : Nat := 0
  failType : Nat := 0
  failSection : Nat := 0
  failDetail : Nat := 0
  imageId : Nat := 0
  version : Nat := 0
  contract : Nat := 0
  firmware : Nat := 0
  canvasUs : Nat := 10000
  maxSlew : Nat := 200
  palettes : Tab PaletteRec := []
  gates : Tab (List GateEnt) := []
  parts : Tab PartRec := []
  rings : Tab RingRec := []
  owners : Tab Nat := []
  mailboxes : Tab MbxRec := []
  supervise : List Supervise := []
  prefetchShare : Nat := 4
  routes : List (Nat × List Byte) := []
  triggers : List Trigger := []
  swPorts : Tab SwPortCfg := []
  vlans : List VlanRec := []
  fdb : List FdbEnt := []
  streams : List StreamRec := []
  meters : List MeterRec := []
  cbs : List CbRec := []
  frames : List FrameRec := []
  hp : List HpRec := []
  ageing : Nat := 300
  baseMac : Nat := 0
  ports : Tab PortRec := []
  can : Tab CanCfg := []
  canEntries : List CanEntry := []
  canFilters : List CanFilter := []
  fry : Tab FryCfg := []
  fryBufs : List FryBuf := []
  fryBranches : List FryBranchRec := []
  lin : Tab LinCfg := []
  linEntries : List LinEnt := []
  loads : Tab LoadRec := []
  power : PowerRec := {}
  dins : Tab DinRec := []
  xos : Tab XoRec := []
  time : TimeCfg := {}
  pgs : Tab PgRec := []
  wki : Tab Wki := []
  wko : Tab WkoRec := []
  sets : Tab WakeSet := []
  wakeRoutes : List (Nat × Nat) := []
  standbyBudget : Nat := 90
deriving DecidableEq, Repr

/-- The commands of the block: one constructor per row of the table of operations and events, with the
row's operands. -/
inductive Instr where
  /-- NOP (R58). -/
  | nop (pk : Packet)
  /-- IDENTIFY (R59). -/
  | identify (pk : Packet)
  /-- GET_STATE (R60). -/
  | getState (pk : Packet)
  /-- RESET (R61). -/
  | reset (pk : Packet)
  /-- ARM (R62). -/
  | arm (pk : Packet)
  /-- DISARM (R63). -/
  | disarm (pk : Packet)
  /-- TIME_GET_STATUS (R91). -/
  | timeGetStatus (pk : Packet)
  /-- TIME_SET_SOURCES (R92). -/
  | timeSetSources (pk : Packet)
  /-- TIME_SET_HOLDOVER (R93). -/
  | timeSetHoldover (pk : Packet)
  /-- PG_CONFIG (R94). -/
  | pgConfig (pk : Packet)
  /-- PG_START (R94). -/
  | pgStart (pk : Packet)
  /-- PG_STOP (R90). -/
  | pgStop (pk : Packet)
  /-- EASEL_GET_STATUS (R128). -/
  | easelGetStatus (pk : Packet)
  /-- PALETTE_LOAD (R129). -/
  | paletteLoad (pk : Packet)
  /-- PALETTE_SWITCH (R130). -/
  | paletteSwitch (pk : Packet)
  /-- PALETTE_UNLOAD (R131). -/
  | paletteUnload (pk : Packet)
  /-- EASEL_GET_OVERRUNS (R132). -/
  | easelGetOverruns (pk : Packet)
  /-- EASEL_CLEAR_COUNTERS (R133). -/
  | easelClearCounters (pk : Packet)
  /-- GW_GET_STATUS (R196). -/
  | gwGetStatus (pk : Packet)
  /-- GW_ROUTE_READ (R197). -/
  | gwRouteRead (pk : Packet)
  /-- GW_SIGNAL_READ (R198). -/
  | gwSignalRead (pk : Packet)
  /-- GW_SIGNAL_FORCE (R199). -/
  | gwSignalForce (pk : Packet)
  /-- GW_WAKE_ROUTE_SET (R200). -/
  | gwWakeRouteSet (pk : Packet)
  /-- LSW_SET (R228). -/
  | lswSet (pk : Packet)
  /-- LSW_SET_PWM (R229). -/
  | lswSetPwm (pk : Packet)
  /-- LSW_CONFIG (R230). -/
  | lswConfig (pk : Packet)
  /-- LSW_GET_STATUS (R231). -/
  | lswGetStatus (pk : Packet)
  /-- LSW_CLEAR_OC_LATCH (R232). -/
  | lswClearOcLatch (pk : Packet)
  /-- LSW_CLEAR_THERMAL_LATCH (R232). -/
  | lswClearThermalLatch (pk : Packet)
  /-- LSW_ISM_SELECT (R233). -/
  | lswIsmSelect (pk : Packet)
  /-- MBR_CONFIG (R252). -/
  | mbrConfig (pk : Packet)
  /-- MBR_DRIVE (R253). -/
  | mbrDrive (pk : Packet)
  /-- MBR_BRAKE (R253). -/
  | mbrBrake (pk : Packet)
  /-- MBR_GET_STATUS (R254). -/
  | mbrGetStatus (pk : Packet)
  /-- PWR_GET_STATUS (R280). -/
  | pwrGetStatus (pk : Packet)
  /-- PWR_GET_THERMAL (R280). -/
  | pwrGetThermal (pk : Packet)
  /-- PWR_SET_SAG_THRESHOLD (R281). -/
  | pwrSetSagThreshold (pk : Packet)
  /-- PWR_UNLATCH_UV (R282). -/
  | pwrUnlatchUv (pk : Packet)
  /-- PWR_GET_LEDGER (R283). -/
  | pwrGetLedger (pk : Packet)
  /-- SWC_GET_COUNTERS (R315). -/
  | swcGetCounters (pk : Packet)
  /-- SWC_FDB_READ (R316). -/
  | swcFdbRead (pk : Packet)
  /-- SWC_FDB_WRITE (R317). -/
  | swcFdbWrite (pk : Packet)
  /-- SWC_FDB_FLUSH (R318). -/
  | swcFdbFlush (pk : Packet)
  /-- SWC_CLEAR_COUNTERS (R319). -/
  | swcClearCounters (pk : Packet)
  /-- PRT_GET_STATUS (R331). -/
  | prtGetStatus (pk : Packet)
  /-- PRT_ENABLE (R331). -/
  | prtEnable (pk : Packet)
  /-- PRT_DISABLE (R331). -/
  | prtDisable (pk : Packet)
  /-- PRT_CABLE_DIAG (R328). -/
  | prtCableDiag (pk : Packet)
  /-- PRT_TC10_SLEEP (R327). -/
  | prtTc10Sleep (pk : Packet)
  /-- CAN_GET_STATUS (R353). -/
  | canGetStatus (pk : Packet)
  /-- CAN_TX (R354). -/
  | canTx (pk : Packet)
  /-- CAN_TX_CANCEL (R349). -/
  | canTxCancel (pk : Packet)
  /-- CAN_SET_FILTER (R356). -/
  | canSetFilter (pk : Packet)
  /-- CAN_SET_WAKE (R350). -/
  | canSetWake (pk : Packet)
  /-- CAN_RECOVER (R358). -/
  | canRecover (pk : Packet)
  /-- FRY_GET_STATUS (R384). -/
  | fryGetStatus (pk : Packet)
  /-- FRY_START (R384). -/
  | fryStart (pk : Packet)
  /-- FRY_HALT (R384). -/
  | fryHalt (pk : Packet)
  /-- FRY_BRANCH_ENABLE (R384). -/
  | fryBranchEnable (pk : Packet)
  /-- LIN_GET_STATUS (R385). -/
  | linGetStatus (pk : Packet)
  /-- LIN_TX (R385). -/
  | linTx (pk : Packet)
  /-- LIN_WAKE_PULSE (R385). -/
  | linWakePulse (pk : Packet)
  /-- LIN_GOTO_SLEEP (R385). -/
  | linGotoSleep (pk : Packet)
  /-- DIO_GET_INPUTS (R403). -/
  | dioGetInputs (pk : Packet)
  /-- DIO_CONFIG (R404). -/
  | dioConfig (pk : Packet)
  /-- DIO_SET_XO (R405). -/
  | dioSetXo (pk : Packet)
  /-- DIO_WIREBREAK_TEST (R406). -/
  | dioWirebreakTest (pk : Packet)
  /-- PART_GET_STATUS (R444). -/
  | partGetStatus (pk : Packet)
  /-- PART_RESET (R444). -/
  | partReset (pk : Packet)
  /-- PART_RESTART (R444). -/
  | partRestart (pk : Packet)
  /-- RING_GET_STATUS (R444). -/
  | ringGetStatus (pk : Packet)
  /-- RING_RESET (R435). -/
  | ringReset (pk : Packet)
  /-- PART_READ_POSTED_ERRORS (R444). -/
  | partReadPostedErrors (pk : Packet)
  /-- BAM_GET_STATUS (R471). -/
  | bamGetStatus (pk : Packet)
  /-- BAM_SESSION_OPEN (R473). -/
  | bamSessionOpen (pk : Packet)
  /-- BAM_KEY_INSTALL (R472). -/
  | bamKeyInstall (pk : Packet)
  /-- BAM_SIGN (R474). -/
  | bamSign (pk : Packet)
  /-- BAM_VERIFY (R474). -/
  | bamVerify (pk : Packet)
  /-- BAM_RANDOM (R474). -/
  | bamRandom (pk : Packet)
  /-- BAM_LIFECYCLE_SET (R463). -/
  | bamLifecycleSet (pk : Packet)
  /-- BAM_TAMPER_POLICY (R475). -/
  | bamTamperPolicy (pk : Packet)
  /-- UPD_GET_STATUS (R494). -/
  | updGetStatus (pk : Packet)
  /-- UPD_BEGIN (R489). -/
  | updBegin (pk : Packet)
  /-- UPD_CHUNK (R496). -/
  | updChunk (pk : Packet)
  /-- UPD_ACTIVATE (R497). -/
  | updActivate (pk : Packet)
  /-- UPD_VARNISH (R486). -/
  | updVarnish (pk : Packet)
  /-- UPD_ABORT (R497). -/
  | updAbort (pk : Packet)
  /-- WAKE_GET_SOURCE (R515). -/
  | wakeGetSource (pk : Packet)
  /-- SLEEP_REQUEST (R499). -/
  | sleepRequest (pk : Packet)
  /-- WAKE_CONFIG (R516). -/
  | wakeConfig (pk : Packet)
  /-- WAKE_CLEAR_SOURCE (R515). -/
  | wakeClearSource (pk : Packet)
  /-- FLT_GET_STATUS (R537). -/
  | fltGetStatus (pk : Packet)
  /-- FLT_READ_LOG (R538). -/
  | fltReadLog (pk : Packet)
  /-- FLT_CLEAR (R539). -/
  | fltClear (pk : Packet)
  /-- FLT_INJECT (R540). -/
  | fltInject (pk : Packet)
  /-- DB_PRODUCER (R431). -/
  | dbProducer (p : Nat) (ring : Nat) (v : Nat)
  /-- DB_CONSUMER (R431). -/
  | dbConsumer (p : Nat) (ring : Nat) (v : Nat)
  /-- IRQ_ACK (R425). -/
  | irqAck (p : Nat) (ring : Nat) (v : Nat)
  /-- VI_CONSUME (R427). -/
  | viConsume (p : Nat) (v : Nat)
  /-- VI_OVF_ACK (R427). -/
  | viOvfAck (p : Nat) (v : Nat)
  /-- LOW_WORD_READ (R66). -/
  | lowWordRead (p : Nat) (a : Nat)
  /-- STATUS_WINDOW_STORE (R66). -/
  | statusWindowStore (w : BusWrite)
  /-- ROUTE (R182). -/
  | route (h : StrokeHd) (pipe : Nat) (first : Nat) (count : Nat)
  /-- ROUTE_EXECUTION (R182). -/
  | routeExecution (pipe : Nat)
  /-- ROUTE_COMMIT (R178). -/
  | routeCommit (pipe : Nat)
  /-- INPUT_LATCH (R102). -/
  | inputLatch (h : StrokeHd) (group : Nat)
  /-- LOAD_SET (R205). -/
  | loadSet (h : StrokeHd) (ch : Nat) (mode : Nat) (duty : Nat) (period : Nat)
  /-- LOAD_APPLY (R103). -/
  | loadApply (h : StrokeHd) (ch : Nat) (ageLimit : Nat) (fallback : Nat)
  /-- BRIDGE_SET (R238). -/
  | bridgeSet (h : StrokeHd) (br : Nat) (mode : Nat) (duty : Nat) (period : Nat)
  /-- BRIDGE_APPLY (R103). -/
  | bridgeApply (h : StrokeHd) (br : Nat) (ageLimit : Nat) (fallback : Nat)
  /-- XO_SET (R102). -/
  | xoSet (h : StrokeHd) (xo : Nat) (level : Nat)
  /-- PG_TRIGGER (R102). -/
  | pgTrigger (h : StrokeHd) (pg : Nat) (delay : Nat)
  /-- GATE_SET (R294). -/
  | gateSet (h : StrokeHd) (port : Nat) (gates : Nat)
  /-- CAN_RELEASE (R344). -/
  | canRelease (h : StrokeHd) (ch : Nat) (entry : Nat)
  /-- FRY_COMMIT (R368). -/
  | fryCommit (h : StrokeHd) (cl : Nat) (slot : Nat) (cycle : Nat) (chans : Nat)
  /-- LIN_RELEASE (R378). -/
  | linRelease (h : StrokeHd) (ch : Nat) (entry : Nat)
  /-- WINDOW (R417). -/
  | window (h : StrokeHd) (pair : Nat) (part : Nat) (switchNs : Nat)
  /-- PF_ROUTE (R161). -/
  | pfRoute (h : StrokeHd) (first : Nat) (count : Nat)
  /-- PF_STROKE (R111). -/
  | pfStroke (h : StrokeHd) (first : Nat) (count : Nat)
  /-- OPEN (R116). -/
  | openStroke (h : StrokeHd) (cls : Nat) (count : Nat)
  /-- STROKE_OVERRUN (R118). -/
  | strokeOverrun (h : StrokeHd) (st : Stroke)
  /-- STROKE_BLOCK_ARRIVED (R111). -/
  | strokeBlockArrived
  /-- RISTRETTO_SLOT (R108). -/
  | ristrettoSlot
  /-- RISTRETTO_EXECUTE (R188). -/
  | ristrettoExecute
  /-- CANVAS_BOUNDARY (R71). -/
  | canvasBoundary
  /-- DECISION_POINT (R114). -/
  | decisionPoint (headOk : Bool)
  /-- PALETTE_LOADED (R113). -/
  | paletteLoaded (code : Nat) (detail : Nat)
  /-- GPTP_SYNC_RECEIVED (R75). -/
  | gptpSyncReceived (dom : Nat) (phaseErr : Int) (ratePpb : Int) (gm : Nat)
  /-- PPS_EDGE (R73). -/
  | ppsEdge (phaseErr : Int) (spacing : Nat) (width : Nat)
  /-- SYNC_RECEIPT_TIMEOUT (R73). -/
  | syncReceiptTimeout (dom : Nat)
  /-- PPS_TIMEOUT (R73). -/
  | ppsTimeout
  /-- REVERT_HOLDOFF_EXPIRY (R74). -/
  | revertHoldoffExpiry (src : Nat)
  /-- HOLDOVER_EXPIRED (R78). -/
  | holdoverExpired
  /-- TIME_WAIT_TIMEOUT (R28). -/
  | timeWaitTimeout
  /-- RTC_WRITE (R72). -/
  | rtcWrite
  /-- PG_EDGE (R89). -/
  | pgEdge (pg : Nat)
  /-- OC_TRIP (R213). -/
  | ocTrip (ch : Nat) (current : Nat)
  /-- OC_PAUSE_ELAPSED (R215). -/
  | ocPauseElapsed (ch : Nat)
  /-- OC_RETRY (R214). -/
  | ocRetry (ch : Nat)
  /-- OC_RECOVERED (R215). -/
  | ocRecovered (ch : Nat)
  /-- POUR_STEP_END (R212). -/
  | pourStepEnd (ch : Nat)
  /-- THERMAL_SHUTDOWN (R216). -/
  | thermalShutdown (ch : Nat) (tj : Int) (dt : Int)
  /-- THERMAL_RESTART (R216). -/
  | thermalRestart (ch : Nat) (tj : Int) (dt : Int)
  /-- COOLDOWN_OVERRUN (R216). -/
  | cooldownOverrun (ch : Nat)
  /-- PWM_PERIOD_START (R207). -/
  | pwmPeriodStart (ch : Nat)
  /-- SENSE_MILLISECOND (R210). -/
  | senseMillisecond (ch : Nat) (m : SenseMs)
  /-- OPEN_LOAD (R219). -/
  | openLoad (ch : Nat)
  /-- OPEN_LOAD_CLEARED (R219). -/
  | openLoadCleared (ch : Nat)
  /-- STALL (R247). -/
  | stall (br : Nat)
  /-- XCOND_FAULT (R242). -/
  | xcondFault (br : Nat) (leg : Nat) (side : Nat)
  /-- SHED_RESUME (R268). -/
  | shedResume (feed : Nat)
  /-- SAG_ENTER (R257). -/
  | sagEnter (feed : Nat) (v : Nat)
  /-- SAG_EXIT (R258). -/
  | sagExit (feed : Nat) (v : Nat)
  /-- CRANK_START (R257). -/
  | crankStart (v : Nat)
  /-- CRANK_END (R258). -/
  | crankEnd (v : Nat)
  /-- UV_LATCH (R259). -/
  | uvLatch (feed : Nat) (mv : Nat)
  /-- OVERVOLTAGE (R258). -/
  | overvoltage (feed : Nat) (v : Nat)
  /-- OVERVOLTAGE_END (R258). -/
  | overvoltageEnd (feed : Nat) (v : Nat)
  /-- OVERLOAD (R261). -/
  | overload (feed : Nat) (amps : Nat)
  /-- OVERLOAD_CLASS2_SHED (R261). -/
  | overloadClass2Shed (feed : Nat) (amps : Nat)
  /-- OVERLOAD_END (R261). -/
  | overloadEnd (feed : Nat) (amps : Nat)
  /-- STANDBY_ENTRY (R564). -/
  | standbyEntry (mv : Nat)
  /-- POWER_OFF (R27). -/
  | powerOff (mv : Nat)
  /-- POWER_ON (R27). -/
  | powerOn (mv : Nat) (straps : Nat)
  /-- THERMAL_MODEL_EVAL (R272). -/
  | thermalModelEval (psw : Nat) (railMw : Nat) (tcp : Int) (tjc : Int)
  /-- DERATING_STEP_FALL (R272). -/
  | deratingStepFall
  /-- DERATING_STEP3_ENTRY (R272). -/
  | deratingStep3Entry
  /-- RAIL_FAULT (R275). -/
  | railFault (rail : Nat)
  /-- FRAME_DECISION_POINT (R287). -/
  | frameDecisionPoint (f : EthFrame)
  /-- FRAME_END (R286). -/
  | frameEnd (port : Nat) (good : Bool) (symbol : Bool)
  /-- TRANSMISSION_SELECT (R293). -/
  | transmissionSelect (port : Nat)
  /-- FDB_AGEING (R300). -/
  | fdbAgeing (mac : Nat) (fid : Nat)
  /-- CB_RESET_TIMEOUT (R303). -/
  | cbResetTimeout (cb : Nat)
  /-- LINK_UP (R323). -/
  | linkUp (port : Nat)
  /-- LINK_DOWN (R323). -/
  | linkDown (port : Nat) (localFault : Bool)
  /-- TRAIN_FAIL (R323). -/
  | trainFail (port : Nat)
  /-- TC10_ASLEEP (R327). -/
  | tc10Asleep (port : Nat)
  /-- TC10_SLEEP_TIMEOUT (R327). -/
  | tc10SleepTimeout (port : Nat)
  /-- TC10_REMOTE_SLEEP (R327). -/
  | tc10RemoteSleep (port : Nat)
  /-- TC10_WAKE (R327). -/
  | tc10Wake (port : Nat) (remote : Bool)
  /-- PHY_FAULT (R323). -/
  | phyFault (port : Nat)
  /-- PLCA_BEACON_LOST (R325). -/
  | plcaBeaconLost (port : Nat)
  /-- PLCA_BEACON_RECEIVED (R325). -/
  | plcaBeaconReceived (port : Nat)
  /-- SEGMENT_ALONE (R326). -/
  | segmentAlone (port : Nat)
  /-- CABLE_DIAG_DONE (R328). -/
  | cableDiagDone (port : Nat) (result : Nat) (distance : Nat)
  /-- CAN_FRAME_RECEIVED (R343). -/
  | canFrameReceived (ch : Nat) (f : CanFrame)
  /-- CAN_FRAME_VALID (R343). -/
  | canFrameValid (ch : Nat)
  /-- CAN_ATTEMPT_START (R346). -/
  | canAttemptStart (ch : Nat)
  /-- CAN_ARBITRATION_LOST (R346). -/
  | canArbitrationLost (ch : Nat)
  /-- CAN_BUS_ERROR (R346). -/
  | canBusError (ch : Nat) (kind : Nat) (past : Bool) (more : Bool)
  /-- CAN_TX_SUCCESS (R346). -/
  | canTxSuccess (ch : Nat)
  /-- CAN_INTEGRATED (R341). -/
  | canIntegrated (ch : Nat)
  /-- BUS_OFF_RECOVERED (R348). -/
  | busOffRecovered (ch : Nat)
  /-- CAN_WAKE (R350). -/
  | canWake (ch : Nat) (reason : Nat)
  /-- FRY_CYCLE_START (R370). -/
  | fryCycleStart (cl : Nat) (cycle : Nat) (phaseErr : Int) (rateCorr : Int) (offsCorr : Int)
  /-- FRY_ACTION_POINT (R368). -/
  | fryActionPoint (chn : Nat) (slot : Nat) (cycle : Nat)
  /-- FRY_FRAME_RECEIVED (R369). -/
  | fryFrameReceived (chn : Nat) (f : FryFrame)
  /-- BRANCH_TX_START (R363). -/
  | branchTxStart (chn : Nat) (branch : Nat) (seg : Nat) (slot : Nat) (offsetNs : Int)
  /-- BRANCH_TRUNCATED (R363). -/
  | branchTruncated (chn : Nat) (branch : Nat) (slot : Nat)
  /-- POC_STATE (R365). -/
  | pocState (cl : Nat) (code : Nat)
  /-- FR_ALONE (R367). -/
  | frAlone (cl : Nat)
  /-- COLDSTART_RETRY (R367). -/
  | coldstartRetry (cl : Nat)
  /-- LIN_FRAME_END (R378). -/
  | linFrameEnd (ch : Nat) (e : LinEnd)
  /-- LIN_RESPONSE_TIMEOUT (R378). -/
  | linResponseTimeout (ch : Nat) (data : List Byte)
  /-- LIN_HEADER_RECEIVED (R379). -/
  | linHeaderReceived (ch : Nat) (id : Nat) (sleep : Bool)
  /-- LIN_IDLE_SLEEP (R381). -/
  | linIdleSleep (ch : Nat)
  /-- LIN_WAKE (R381). -/
  | linWake (ch : Nat) (sent : Bool)
  /-- LIN_WAKING_END (R381). -/
  | linWakingEnd (ch : Nat)
  /-- LIN_WAKE_NO_HEADER (R381). -/
  | linWakeNoHeader (ch : Nat)
  /-- FILTERED_EDGE (R389). -/
  | filteredEdge (input : Nat) (level : Bool) (first : Nat)
  /-- DI_EDGE (R391). -/
  | diEdge (input : Nat)
  /-- DI_FEED_LOW (R392). -/
  | diFeedLow (v : Nat)
  /-- DI_SAMPLING_RESUME (R392). -/
  | diSamplingResume (v : Nat)
  /-- WIRE_BREAK (R393). -/
  | wireBreak (di : Nat)
  /-- WIRE_OK (R393). -/
  | wireOk (di : Nat)
  /-- WIREBREAK_TEST_DONE (R406). -/
  | wirebreakTestDone (skipped : Nat) (brk : Nat) (shrt : Nat)
  /-- BARRIER_LOST (R395). -/
  | barrierLost (logicSide : Bool) (viso : Bool)
  /-- BARRIER_RESTORED (R395). -/
  | barrierRestored
  /-- XO_FAULT (R396). -/
  | xoFault (xo : Nat) (current : Nat) (thermal : Bool)
  /-- XO_RETRY (R396). -/
  | xoRetry (xo : Nat) (holds : Bool)
  /-- XVS_LOST (R396). -/
  | xvsLost (v : Nat)
  /-- FIELD_HOLD_EXPIRY (R397). -/
  | fieldHoldExpiry (xo : Nat)
  /-- LOCKSTEP_MISMATCH (R413). -/
  | lockstepMismatch (pair : Nat) (railFault : Bool)
  /-- M_CORE_MISMATCH (R415). -/
  | mCoreMismatch (railFault : Bool)
  /-- PAIR_HALTED (R416). -/
  | pairHalted (pair : Nat)
  /-- PAIR_RESUMED (R416). -/
  | pairResumed (pair : Nat)
  /-- SECURE_INTERRUPT (R419). -/
  | secureInterrupt (pair : Nat)
  /-- PART_RESET_DONE (R422). -/
  | partResetDone (p : Nat)
  /-- PART_RESTARTED (R423). -/
  | partRestarted (p : Nat) (digestOk : Bool) (image : List Byte)
  /-- SUPERVISION_TIMEOUT (R424). -/
  | supervisionTimeout (serial : Nat)
  /-- EVENT_DELIVERY (R434). -/
  | eventDelivery
  /-- RING_SLOT_MOVE (R429). -/
  | ringSlotMove (ring : Nat)
  /-- BAM_REQUEST_EXECUTE (R448). -/
  | bamRequestExecute (svc : BamService)
  /-- BAMLYS_START (R451). -/
  | bamlysStart (pufFails : Nat) (recovered : List Nat) (store : BamStore) (measurement : List Byte) (fwOk : Bool)
  /-- BAMLYS_RESTART (R465). -/
  | bamlysRestart (cause : Nat) (fwOk : Bool) (pufFails : Nat) (recovered : List Nat) (measurement : List Byte)
  /-- KEY_REGISTER_REMASK (R457). -/
  | keyRegisterRemask
  /-- MKA_SAK_INSTALL (R456). -/
  | mkaSakInstall (port : Nat) (an : Nat) (scs : Nat) (xpn : Bool)
  /-- TAMPER_ALARM (R468). -/
  | tamperAlarm (src : Nat) (phase : Nat) (programming : Bool)
  /-- TAMPER_BOOT_RETRY (R468). -/
  | tamperBootRetry
  /-- REFERENCE_QUALIFIED (R549). -/
  | referenceQualified (record : SlotRecord)
  /-- REFERENCE_TIMEOUT (R549). -/
  | referenceTimeout
  /-- MCORE_FIRMWARE_START (R487). -/
  | mcoreFirmwareStart (img : Image) (componentsOk : Bool)
  /-- START_LOAD_COMPLETE (R487). -/
  | startLoadComplete
  /-- CHUNK_COMMIT (R484). -/
  | chunkCommit (c : ChunkResult)
  /-- HEALTH_EXPIRED (R486). -/
  | healthExpired
  /-- ACTIVATE_RESET (R497). -/
  | activateReset
  /-- RESET_DELAY_EXPIRY (R61). -/
  | resetDelayExpiry
  /-- PREP_FALLBACK_TIMEOUT (R500). -/
  | prepFallbackTimeout
  /-- SLEEP_ARMING (R501). -/
  | sleepArming
  /-- TC10_SLEEP_FORCED (R501). -/
  | tc10SleepForced (port : Nat)
  /-- SLEEP_ENTERED (R502). -/
  | sleepEntered
  /-- WAKE_LINE (R507). -/
  | wakeLine (line : Nat) (level : Bool)
  /-- WAKE_FROM_SLEEP (R504). -/
  | wakeFromSleep
  /-- WKO_PULSE_END (R508). -/
  | wkoPulseEnd (line : Nat)
  /-- BRIDGE_RETRY (R521). -/
  | bridgeRetry
  /-- BUS_TIMEOUT (R527). -/
  | busTimeout (w : BusWrite) (crossing : Nat) (isLoad : Bool)
  /-- HOLD_BUFFER_DRAIN (R527). -/
  | holdBufferDrain (crossing : Nat)
  /-- CDC_OVERRUN (R526). -/
  | cdcOverrun (src : Nat)
  /-- PATROL_SCRUB (R528). -/
  | patrolScrub (dram : Bool)
  /-- ECC_CORRECTED (R528). -/
  | eccCorrected (mem : Nat) (addr : Nat)
  /-- ECC_UNCORRECTABLE (R528). -/
  | eccUncorrectable (mem : Nat) (addr : Nat)
  /-- POISON_READ (R529). -/
  | poisonRead (p : Nat) (addr : Nat)
  /-- FAULT_REPORT (R532). -/
  | faultReport
  /-- MCORE_WATCHDOG_EXPIRY (R530). -/
  | mcoreWatchdogExpiry
  /-- LOG_FLUSH (R534). -/
  | logFlush
  /-- XVS_RETURN (R396). -/
  | xvsReturn (v : Nat)
  /-- PRT_TRAIN_TIMEOUT (R331). -/
  | prtTrainTimeout (port : Nat)
  /-- FRY_START_TIMEOUT (R384). -/
  | fryStartTimeout (cl : Nat)
  /-- SYNC_TRANSMIT (R96). -/
  | syncTransmit (port : Nat)
  /-- FLASH_WRITE_RESUME (R482). -/
  | flashWriteResume (v : Nat)
deriving DecidableEq, Repr

end Sys2Proof
end

