-- ==== Sys2Proof/Machine/Operands.lean ====
section
/-!
DEFINITION. Sys2Proof/Machine/Operands.lean: reading and writing little-endian fields (R11) of parameter blocks, records,
results and frames.
-/

namespace Sys2Proof.Machine

/-- The low `n` bytes of a number, least significant first (R11). -/
def leBytes : Nat → Nat → List Byte
  | 0, _ => []
  | n + 1, v => BitVec.ofNat 8 v :: leBytes n (v / 256)

/-- The number that little-endian bytes spell (R11). -/
def leNat : List Byte → Nat
  | [] => 0
  | b :: bs => b.toNat + 256 * leNat bs

/-- Field of `n` bytes at offset `o`; bytes that are not there read 0. -/
def rd (ps : List Byte) (o n : Nat) : Nat := leNat ((ps.drop o).take n)

def u8 (ps : List Byte) (o : Nat) : Nat := rd ps o 1
def u16 (ps : List Byte) (o : Nat) : Nat := rd ps o 2
def u32 (ps : List Byte) (o : Nat) : Nat := rd ps o 4
def u40 (ps : List Byte) (o : Nat) : Nat := rd ps o 5
def u64 (ps : List Byte) (o : Nat) : Nat := rd ps o 8

/-- Bits [lo + n - 1 : lo] of a number (R11). -/
def bits (v lo n : Nat) : Nat := v / 2 ^ lo % 2 ^ n

/-- A two's-complement number of `n` bits. -/
def signed (n v : Nat) : Int :=
  if v % 2 ^ n < 2 ^ (n - 1) then (v % 2 ^ n : Nat) else (v % 2 ^ n : Nat) - (2 ^ n : Nat)

/-- The `n` low bits of an integer in two's complement. -/
def twos (n : Nat) (i : Int) : Nat := (i % (2 ^ n : Nat)).toNat

/-- Whether the bytes at offset `o`, `n` of them, are all zero (reserved fields, R12). -/
def zeroAt (ps : List Byte) (o n : Nat) : Bool := rd ps o n == 0

/-- A parameter block of exactly `n` bytes (R48 check 4). -/
def lenIs (n : Nat) (ps : List Byte) : Bool := ps.length == n

/-- The difference of a 40-bit time and the present ET, in the signed range (R88). -/
def diff40 (v et : Nat) : Int := signed 40 (twos 40 ((v : Int) - (et : Int)))

/-- The full ET that a 40-bit time stands for (R88). -/
def full40 (v et : Nat) : Nat := ((et : Int) + diff40 v et).toNat

/-- The bytes of 32-bit words, in order. -/
def wordBytes : List Nat → List Byte
  | [] => []
  | w :: ws => leBytes 4 w ++ wordBytes ws

/-- `n` numbers from `a` up. -/
def upFrom : Nat → Nat → List Nat
  | _, 0 => []
  | a, n + 1 => a :: upFrom (a + 1) n

/-- Bytes cut or padded with zeros to `n`. -/
def fit : Nat → List Byte → List Byte
  | 0, _ => []
  | n + 1, [] => 0 :: fit n []
  | n + 1, b :: bs => b :: fit n bs

/-- The number that bytes in wire order spell, as MAC addresses and EtherTypes are (R313's example, R322). -/
def beNat (bs : List Byte) : Nat := leNat bs.reverse

/-- The `n` low bytes of a number in wire order. -/
def beBytes (n v : Nat) : List Byte := (leBytes n v).reverse

/-- `a` divided by `b`, rounded up. -/
def ceilDiv (a b : Nat) : Nat := (a + b - 1) / b

/-- A list with element `i` replaced, unchanged beyond its end. -/
def setAt {α : Type} : List α → Nat → α → List α
  | [], _, _ => []
  | _ :: xs, 0, y => y :: xs
  | x :: xs, i + 1, y => x :: setAt xs i y

/-- The least number of a list. -/
def leastOf : List Nat → Option Nat
  | [] => none
  | x :: xs => match leastOf xs with | none => some x | some y => some (min x y)

end Sys2Proof.Machine
end

