-- ==== Sys2Proof/Machine/Flags.lean ====
section
/-!
DEFINITION. Sys2Proof/Machine/Flags.lean: how status words are put together from their fields (the Bits columns of the
status window tables), and the saturating and wrapping counters of those fields.
-/

namespace Sys2Proof.Machine

/-- A flag as a one-bit field. -/
def b2n (b : Bool) : Nat := if b then 1 else 0

/-- A status word from fields (low bit, width, value), each cut to its width. -/
def pack : List (Nat × Nat × Nat) → Nat
  | [] => 0
  | (lo, n, v) :: fs => v % 2 ^ n * 2 ^ lo + pack fs

/-- The low 32 bits of a number. -/
def lo32 (v : Nat) : Nat := v % 2 ^ 32

/-- Bits 63 to 32 of a number. -/
def hi32 (v : Nat) : Nat := v / 2 ^ 32 % 2 ^ 32

/-- A counter of `n` bits that saturates. -/
def satAdd (n c d : Nat) : Nat := if c + d < 2 ^ n then c + d else 2 ^ n - 1

def sat8 (c : Nat) : Nat := satAdd 8 c 1
def sat16 (c : Nat) : Nat := satAdd 16 c 1
def sat32 (c : Nat) : Nat := satAdd 32 c 1

/-- A counter of `n` bits that wraps. -/
def wrapAdd (n c d : Nat) : Nat := (c + d) % 2 ^ n

def wrap32 (c : Nat) : Nat := wrapAdd 32 c 1

/-- A value clipped to `n` bits, saturating. -/
def clip (n v : Nat) : Nat := if v < 2 ^ n then v else 2 ^ n - 1

/-- A signed value clipped to the 32-bit range, in two's complement (REALIGN, R87). -/
def clipS32 (i : Int) : Nat :=
  twos 32 (if i < -2147483648 then -2147483648 else if 2147483647 < i then 2147483647 else i)

/-- Bit `i` of a map set or cleared. -/
def setBit (m i : Nat) (b : Bool) : Nat :=
  if m.testBit i then (if b then m else m - 2 ^ i) else (if b then m + 2 ^ i else m)

/-- `t` where `c` holds, `s` otherwise: an event that the part's state does not allow has no effect. -/
def onlyIf {α : Type} (c : Bool) (s t : α) : α := if c then t else s

/-- The map whose bit i, below `n`, is `f i`. -/
def mapBits (f : Nat → Bool) : Nat → Nat
  | 0 => 0
  | n + 1 => mapBits f n + b2n (f n) * 2 ^ n

end Sys2Proof.Machine
end

