-- ==== Sys2Proof/Config.lean ====
section
/-!
DEFINITION. Sys2Proof/Config.lean: what one device or one implementation fixes and the spec does not state (an identity, a
hash, a cipher's value), and the free values. Each is an opaque constant: nothing can be proved of its value.
-/

namespace Sys2Proof.Config

/-- A value the spec leaves open at one moment of a run: applied to the counter `State.free`, which the step advances. -/
opaque freeValue : Nat → Nat

/-- The 8-byte Miroth device identity (R59), as a little-endian number. -/
opaque deviceIdentity : Nat

/-- The 32-byte resource model hash of the device (R135), as a little-endian number. -/
opaque resourceModelHash : Nat

/-- Silicon revision (R59). -/
opaque siliconRevision : Nat

/-- Ordering variant at shipment: true is TZ9800-ES (R6, R7). -/
opaque variantES : Bool

/-- The first four bytes of the AES-CMAC of a message under a session key (R45), as a little-endian number. -/
opaque cmac32 : Nat → List Byte → Nat

/-- The bucket that a MAC address and FID hash to, taken modulo 8192 (R299: published with each Ploell release). -/
opaque fdbBucket : Nat → Nat → Nat

/-- The MP session key (R473): from the root key, partition, host nonce and device nonce. -/
opaque sessionKey : List Byte → Nat → List Byte → List Byte → Nat

/-- The public keys of the ROM anchors, slots 0 and 1, and of the derived slots 16 and 17 (R453, R454): by slot and epoch. -/
opaque publicKey : Nat → Nat → List Byte

/-- Usage, state mask and label of the slots that no command installs, 0, 1, 16 and 17: by slot and field number. -/
opaque fixedHeader : Nat → Nat → Nat

/-- Whether the selective wake of a CAN transceiver decodes a nominal bit rate, in kbit/s (R357). -/
opaque wakeRate : Nat → Bool

end Sys2Proof.Config
end

