-- ==== Sys2Proof/Machine/State.lean ====
section
/-!
DEFINITION. Sys2Proof/Machine/State.lean: the state of the device as plain data, block by block in the order of the
spec's chapters, with every register, queue, buffer, counter, mode and pin that the spec names, and the queue of waiting
commands. The defaults written at the fields are the values right after reset (entry to STARTING); where the spec gives
none, the assumption log names the value. All times are ET in nanoseconds unless a field says otherwise.
-/

namespace Sys2Proof.Machine

/-! ### Stops -/

/-- Why the machine stops with a fault. No command of the device has a fault: every access error the spec describes is an
effect (a bus error counted, a posted error recorded). The one constructor is never raised; it is safe. -/
inductive Fault where
  /-- Never raised: the spec gives every command an effect. Safe. -/
  | none
deriving DecidableEq, Repr

/-- Why a command has no meaning. -/
inductive Refusal where
  /-- Raised by `exec` for a command that the model does not give a meaning yet, with its mnemonic. Safe. -/
  | notModelled (mnemonic : String)
deriving DecidableEq, Repr

/-! ### Events and replies -/

/-- An event record (R84). -/
structure EventRec where
  et : Nat := 0
  src : Nat := 0
  kind : Nat := 0
  data : Nat := 0
deriving DecidableEq, Repr

/-- A raised event on its way to the event ring of partition `dest` (R434), and the moment of the raise. -/
structure Raised where
  dest : Nat
  raisedAt : Nat
  ev : EventRec
deriving DecidableEq, Repr

/-- A reply as it is written (R39): its source, status, echoed tag and sequence number, ET and result; `mac` and `pcp`
are where a reply on MP goes (R47). -/
structure Reply where
  src : Source
  status : Nat
  tag : Nat
  seq : Nat
  et : Nat
  result : List Byte
  mac : Nat := 0
  pcp : Nat := 0
deriving DecidableEq, Repr

/-! ### Device (chapter 01) -/

/-- The device states (R26). -/
inductive DevState where
  | off | standby | starting | run | degraded | sleepPrep | sleep
deriving DecidableEq, Repr

/-- A RESET command counting down its delay (R61). -/
structure ResetPend where
  scope : Nat
  due : Nat
deriving DecidableEq, Repr

/-- Device state and the items of the identify reply that change. -/
structure Dev where
  state : DevState := .starting
  armed : Bool := false
  causeTemp : Bool := false
  causeSag : Bool := false
  causeCrank : Bool := false
  causeTime : Bool := false
  /-- STANDBY entered by a tamper lockout: left only through OFF (R27). -/
  lockout : Bool := false
  /-- FEED12 has been below 3.0 V in this STANDBY (R27). -/
  fell : Bool := false
  /-- Spread straps SS1, SS0 as sampled at entry to STARTING (R546). -/
  straps : Nat := 3
  imageId : Nat := 0
  imageVersion : Nat := 0
  contractVersion : Nat := 0
  fwVersion : Nat := 0
  /-- Slot that runs: 0 A, 1 B (R59). -/
  activeSlot : Nat := 0
  /-- ET of entry to STARTING, and of entry to RUN. -/
  startEt : Nat := 0
  runEt : Nat := 0
  /-- Start cause of the start mark (R534). -/
  startCause : Nat := 0
  /-- Entry to RUN is the first after SLEEP or STANDBY (R512). -/
  wokenDue : Bool := false
  /-- The M-core firmware runs, and its start-up loads have ended (R487). -/
  mcoreUp : Bool := false
  loadsDone : Bool := false
  loadsEnd : Nat := 0
  resetPend : Option ResetPend := none
  /-- Kinds that are raised at most once per canvas and have been raised in this one: (source, kind, recipient). -/
  onceCanvas : List (Nat × Nat × Nat) := []
  /-- High words latched by low-word reads, per reading partition (R66). -/
  latch : Tab (Nat × Nat) := []
  /-- The value the last status window load returned, none after a bus error (R66). -/
  lastLoad : Option Nat := none
  /-- AP pairs whose A-core clocks are halved by over-temperature (R34). -/
  clocksHalved : Bool := false
deriving DecidableEq, Repr

/-! ### Commands (chapter 02) -/

/-- A command of completion type O in the open-stroke queue of its class (R49): its opcode, packet and resource key. -/
structure Queued where
  code : Nat
  res : Nat
  pk : Packet
deriving DecidableEq, Repr

/-- An asynchronous command outstanding (R51). `started` is false while it is held;
`startEt` is the ET of its start and `due` its supervision timeout, 0 none; `discard` is set by a reset of its partition (R53). -/
structure Outst where
  code : Nat
  res : Nat
  pk : Packet
  started : Bool := false
  startEt : Nat := 0
  due : Nat := 0
  discard : Bool := false
deriving DecidableEq, Repr

/-- A command taken and validated that waits for earlier commands of its source (R37, R52). `barrier`: it waits for all of
them; otherwise for those on the same resource. `code` and `res` as in `Queued`. -/
structure HeldCmd where
  code : Nat
  res : Nat
  pk : Packet
  barrier : Bool
deriving DecidableEq, Repr

/-- Command statistics of one partition's ring (R68). -/
structure CmdStat where
  taken : Nat := 0
  error : Nat := 0
  discard : Nat := 0
  discardDone : Nat := 0
  lastStatus : Nat := 0
  lastOpcode : Nat := 0
deriving DecidableEq, Repr

/-- The MP session of one partition (R46): its key, the highest accepted sequence number and the window below it (bit k
stands for `high - k`). -/
structure Session where
  isOpen : Bool := false
  key : Nat := 0
  high : Nat := 0
  window : Nat := 0
deriving DecidableEq, Repr

/-- Command intake, queues and replies. -/
structure Cmd where
  /-- Open-stroke queues by class (R49, R116), head first. -/
  queues : Tab (List Queued) := []
  async : List Outst := []
  held : List HeldCmd := []
  stats : Tab CmdStat := []
  /-- Replies written, newest first: the model's own record beside the reply rings in memory. -/
  replies : List Reply := []
  sessions : Tab Session := []
  /-- Per source MAC address, the ET millisecond of its last AUTH_FAIL reply plus one (R47). -/
  authMs : Tab Nat := []
  mpCmdRx : Nat := 0
  mpAuthFail : Nat := 0
  mpReplay : Nat := 0
  mpSuppressed : Nat := 0
deriving DecidableEq, Repr

/-! ### Zone time (chapter 03) -/

/-- One external time source (R73): qualified, refused for a realignment (R77), its run of good references, the last
reference and the phase error there. -/
structure TimeSrc where
  qualified : Bool := false
  refused : Bool := false
  good : Nat := 0
  lastErr : Int := 0
  lastAt : Nat := 0
  qualAt : Nat := 0
  /-- Change of ZT_OFFSET since that reference. -/
  adj : Int := 0
  gm : Nat := 0
deriving DecidableEq, Repr

/-- A pulse generator (R89, R94, R98): `st` 0 idle, 1 waiting for start, 2 running. -/
structure PulseGen where
  configured : Bool := false
  mode : Nat := 0
  polarity : Nat := 0
  width : Nat := 0
  period : Nat := 0
  count : Nat := 0
  st : Nat := 0
  start : Nat := 0
  pulses : Nat := 0
  active : Bool := false
  next : Nat := 0
  stopping : Bool := false
deriving DecidableEq, Repr

/-- Zone time state (R70 to R98). -/
structure Time where
  ztOffset : Int := 0
  source : Nat := 4
  ztState : Nat := 0
  /-- The state that applied before ACQUIRE (R78). -/
  before : Nat := 0
  phaseErr : Int := 0
  rateAdj : Int := 0
  /-- Part of a 2 ns step not yet inserted or withheld (R70), in 10^-9 ns. -/
  rateAcc : Int := 0
  /-- Correction that follows the selected source's frequency, and the ET at which the present phase error is corrected;
  the corrections of the last 1 s with the ET each began, newest first (R75, R79). -/
  freq : Int := 0
  slewEnd : Nat := 0
  rateHist : List (Nat × Int) := []
  /-- Maximum slew that the image declares (R83), and the settings and pulse generators of its TIME_CONFIG, which apply from the
  start of palette 0 (R96). -/
  imgSlew : Nat := 200
  imgCfg : TimeCfg := {}
  imgPgs : Tab PgRec := []
  realignPending : Bool := false
  realignCount : Nat := 0
  switchCount : Nat := 0
  gm : Bool := false
  holdoverStart : Option Nat := none
  /-- Correction held through holdover and free run (R79). -/
  heldRate : Int := 0
  waitSince : Option Nat := none
  cfg : TimeCfg := {}
  srcs : Tab TimeSrc := []
  pgs : Tab PulseGen := []
  /-- gPTP Sync messages sent per port (R80). -/
  syncSent : Tab Nat := []
deriving DecidableEq, Repr

/-! ### Easel (chapter 04) -/

/-- One lane (R105, R126). -/
structure Lane where
  dispatched : Nat := 0
  skip : Nat := 0
  late : Nat := 0
  fault : Nat := 0
  maxLag : Nat := 0
  specific : Nat := 0
  lastPhase : Nat := 0
  lastKind : Nat := 0
  lastRes : Nat := 0
deriving DecidableEq, Repr

/-- One palette slot (R113, R127): `st` 0 EMPTY, 1 LOADING, 2 LOADED, 3 RUNNING; `failed` after a failed start-up load. -/
structure PalSlot where
  st : Nat := 0
  sect : Nat := 0
  strokes : Nat := 0
  id : Nat := 0
  headLen : Nat := 0
  pages : Nat := 0
  failed : Bool := false
  /-- Dispatch windows of lanes 0–4, ns (R105). -/
  windows : List Nat := []
deriving DecidableEq, Repr

/-- A LATE stroke that has overrun and not started yet (R118, R119); `counted` says that it has been dispatched. -/
structure LateStroke where
  phase : Nat
  st : Stroke
  counted : Bool := false
deriving DecidableEq, Repr

/-- Overruns on the resources of one partition (R132): counters by `3 * lane + OVR`, and the last STROKE_OVERRUN. -/
structure PartOvr where
  ctr : Tab Nat := []
  risLate : Nat := 0
  last : EventRec := {}
deriving DecidableEq, Repr

/-- An event of the ristretto queue (R108): its trigger, source ID, stamp, the slot at which it first became ready, and the
level after a DI edge. -/
structure RisEvent where
  trig : Nat
  src : Nat
  et : Nat
  ready : Nat
  level : Nat := 0
deriving DecidableEq, Repr

/-- Easel's block state (R125) with its slots, lanes, stroke buffer and ristretto queue. -/
structure Easel where
  run : Nat := 0
  running : Bool := false
  normal : Nat := 0
  next : Nat := 0
  /-- Reason of PALETTE_STARTED for the slot chosen (R122). -/
  reason : Nat := 0
  switchPending : Bool := false
  /-- The PALETTE_SWITCH that the last decision point took (R130). -/
  switchDue : Option Packet := none
  realignHold : Bool := false
  canvasLen : Nat := 0
  canvasCount : Nat := 0
  /-- ET of the boundary that began the present canvas, and its number on ZT: floor(ZT / L). -/
  canvasEt : Nat := 0
  canvasIdx : Int := 0
  /-- The decision point of the present canvas has passed. -/
  decided : Bool := false
  switchCount : Nat := 0
  realignSkips : Nat := 0
  peakRate : Nat := 0
  bufMin : Nat := 0x4000
  overrunTotal : Nat := 0
  lastSwitch : Nat := 0
  slots : Tab PalSlot := []
  lanes : Tab Lane := []
  parts : Tab PartOvr := []
  /-- Palette sections of the running image by index (R141). -/
  sections : Tab PaletteRec := []
  /-- The palette load in progress and those waiting: (slot, section), and the ET of the start of the first (R113). -/
  loads : List (Nat × Nat) := []
  loadAt : Nat := 0
  /-- Blocks in the stroke buffer: first stroke index and the index after the last one; the head block fetched for the next
  canvas; whether dispatch waits for a block (R111, R112). -/
  blocks : List (Nat × Nat) := []
  head : Option Nat := none
  miss : Bool := false
  /-- Index of the next stroke of the canvas, and the phase of the last one (R100). -/
  idx : Nat := 0
  phaseAt : Nat := 0
  /-- ET of the dispatches of the last 1 µs, newest first (R104), and of the last dispatch. -/
  recent : List Nat := []
  lastDispatch : Nat := 0
  late : List LateStroke := []
  /-- Strokes lost to an uncorrectable error of the stroke store: slot and index (R528). -/
  bad : List (Nat × Nat) := []
  /-- Ristretto queue (R108), its deepest fill, records dropped since the last LOST with the first one's ET (R109), and the
  last command of the ristretto path per power-die resource: its slot (R106). -/
  ris : List RisEvent := []
  risMax : Nat := 0
  risLost : Nat := 0
  risLostEt : Nat := 0
  risLink : Tab Nat := []
deriving DecidableEq, Repr

/-! ### Partitions, pairs and rings (chapter 15) -/

/-- A posted-error record (R524). -/
structure PostedRec where
  et : Nat := 0
  addr : Nat := 0
  part : Nat := 0
  path : Nat := 0
  cause : Nat := 0
  size : Nat := 0
  pair : Nat := 0xFF
  seq : Nat := 0
deriving DecidableEq, Repr

/-- A partition (R420, R437, R442): `st` 0 UNUSED, 1 RUNNING, 2 RESETTING, 3 HELD, 4 RESTARTING. -/
structure Part where
  st : Nat := 0
  startAtRun : Bool := false
  policy : Nat := 0
  domain : Nat := 0
  ringClass : Nat := 0
  share : Nat := 0
  eventRing : Nat := 0
  postedRing : Nat := 0
  dramBase : Nat := 0
  dramSize : Nat := 0
  sramBase : Nat := 0
  sramSize : Nat := 0
  image : Nat := 0
  imageMb : Nat := 0
  vi : List Nat := []
  viOvf : Bool := false
  resets : Nat := 0
  restarts : Nat := 0
  lastCause : Nat := 0
  mismatches : Nat := 0
  viDiscarded : Nat := 0
  eventsDiscarded : Nat := 0
  postedErrors : Nat := 0
  /-- Records received from partitions in reset, and records dropped (R444). -/
  postedOthers : Nat := 0
  postedDropped : Nat := 0
  lastPosted : List PostedRec := []
  dramBytes : Nat := 0
  supTimeouts : Nat := 0
  lastReset : Nat := 0
  windows : Nat := 0
  recoveries : Nat := 0
  /-- From the start of a reset to RUNNING: events are discarded (R422). -/
  inReset : Bool := false
  /-- Entries discarded in the reset in progress. -/
  viGone : Nat := 0
  /-- A restart follows the reset in progress (R421). -/
  restartNext : Bool := false
  restartDue : Nat := 0
  /-- Pairs whose virtual hart resumes at the recovery entry (R414). -/
  recover : List Nat := []
deriving DecidableEq, Repr

/-- A lockstep pair (R411 to R419, R442): `st` 0 running, 1 idle, 2 reset, 3 halted. -/
structure Pair where
  st : Nat := 0
  part : Nat := 0x1F
  /-- Last partition that ran on the pair, 0x1F none (R417). -/
  last : Nat := 0x1F
  halted : Bool := false
  mismatches : Nat := 0
  railFaults : Nat := 0
  switches : Nat := 0
  predClears : Nat := 0
  debugSkips : Nat := 0
  secureIrqs : Nat := 0
  lastSecureMs : Nat := 0
  maxSwitch : Nat := 0
  lastMismatch : Nat := 0
deriving DecidableEq, Repr

/-- A ring (R430, R438, R443). -/
structure Ring where
  type : Nat := 0
  enabled : Bool := false
  irqEn : Bool := false
  armed : Bool := false
  pendingLost : Bool := false
  owner : Nat := 0
  depthLog : Nat := 0
  slotLog : Nat := 0
  binding : Nat := 0xFFFF
  base : Nat := 0
  prod : Nat := 0
  cons : Nat := 0
  slots : Nat := 0
  drops : Nat := 0
  indexErrors : Nat := 0
  tooSmall : Nat := 0
  peak : Nat := 0
  /-- Records dropped since the last LOST or RING_OVERFLOW, and the first one's ET (R85, R432). -/
  lost : Nat := 0
  lostEt : Nat := 0
deriving DecidableEq, Repr

/-- Partitions, pairs, rings, ownership. -/
structure Parts where
  parts : Tab Part := []
  pairs : Tab Pair := []
  mPair : Pair := {}
  rings : Tab Ring := []
  /-- Owners by resource class and index (R439): key `class * 1024 + index`; 0x80 is Bamlys; unlisted is P0 (R21). -/
  owner : Tab Nat := []
  supervise : List Supervise := []
  /-- Records of frames delivered at an HP port, waiting for the ring engine: ring and bytes (R304). -/
  hpQueue : List (Nat × List Byte) := []
  prefetchShare : Nat := 0
deriving DecidableEq, Repr

/-! ### Sleep and wake (chapter 18) -/

/-- A wake line out (R508, R511). -/
structure Wko where
  enabled : Bool := false
  awake : Bool := false
  pulse : Bool := false
  onAbort : Bool := false
  high : Bool := false
  width : Nat := 0
  mask : Nat := 0
  /-- Active now, and the RTC time at which its pulse ends (0 none). -/
  active : Bool := false
  pulseEnd : Nat := 0
deriving DecidableEq, Repr

/-- The wake and sleep supervisor (R499 to R517). -/
structure Wake where
  phase : Nat := 0
  set : Nat := 0
  prepMs : Nat := 0
  acceptEt : Nat := 0
  /-- State of slot 3 at acceptance: 0 LOADED, 1 LOADING or still to load, 2 EMPTY after a failed load (R500). -/
  slot3 : Nat := 0
  /-- ET from which the prep time counts, once known. -/
  prepFrom : Option Nat := none
  armEt : Nat := 0
  commitEt : Nat := 0
  /-- Ports of the set still in their TC10 sleep handshake. -/
  tc10Wait : List Nat := []
  wkiLevel : Nat := 0
  /-- Wake source register, always-on (R505): map, first source, its RTC time in ns, WAKE_LATE. -/
  map : Nat := 0
  first : Nat := 0
  firstRtc : Nat := 0
  late : Bool := false
  count : Nat := 0
  sleeps : Nat := 0
  aborts : Nat := 0
  lateCount : Nat := 0
  tc10Forced : Nat := 0
  armed : Nat := 0
  budget : Nat := 0
  wki : Tab Wki := []
  wko : Tab Wko := []
  sets : Tab WakeSet := []
deriving DecidableEq, Repr

/-! ### Fault collection (chapter 19) -/

/-- A fault report (R533). -/
structure FltReport where
  et : Nat := 0
  src : Nat := 0
  cls : Nat := 0
  level : Nat := 0
  injected : Bool := false
  attempts : Nat := 0
  part : Nat := 0x1F
  kind : Nat := 0
  data : Nat := 0
  seq : Nat := 0
  actionEt : Nat := 0
deriving DecidableEq, Repr

/-- A report held for the lower mechanism (R532): on which resource source, until when. -/
structure HeldReport where
  rep : FltReport
  due : Nat
deriving DecidableEq, Repr

/-- A record of the log region: a fault report, or 32 bytes of another type (R534). -/
structure LogRec where
  et : Nat := 0
  src : Nat := 0
  cls : Nat := 0
  type : Nat := 0
  body : List Byte := []
deriving DecidableEq, Repr

/-- Fault status of one partition (R536). -/
structure FltPart where
  reports : Nat := 0
  strokes : List Nat := []
  lastSeq : Nat := 0
  poisonReads : Nat := 0
  loadErrors : Nat := 0
  lastEt : Nat := 0
deriving DecidableEq, Repr

/-- Fault collector, bridges and crossings. -/
structure Flt where
  nextSeq : Nat := 1
  count : Tab Nat := []
  esc : Tab Nat := []
  bridgeRetries : Nat := 0
  bridgeTimeouts : Nat := 0
  /-- The alternation token is at the host side (R521). -/
  tokenHost : Bool := true
  cdcOverruns : Nat := 0
  cdcSticky : List Nat := []
  eccCorr : Tab Nat := []
  eccUncorr : Tab Nat := []
  /-- Poisoned units by address (R529). -/
  poison : List Nat := []
  parts : Tab FltPart := []
  held : List HeldReport := []
  /-- The last 1024 fault reports, newest first (R534). -/
  recent : List FltReport := []
  /-- Records buffered in the management area, newest first, and records in flash, newest first. -/
  buffer : List LogRec := []
  log : List LogRec := []
  lastFlush : Nat := 0
  /-- HOLD buffers by crossing (R527): 0 Bamlys mailbox, 1 + k pair k, 7 always-on registers. -/
  hold : Tab (List BusWrite) := []
  /-- Fault sequence of the injected fault while it is being reported (R540). -/
  inject : Option Nat := none
  /-- ET of the last service of the M-core firmware watchdog (R530). -/
  wdog : Nat := 0
  /-- Patrol scrubs completed: SRAM, DRAM (R528). -/
  scrubs : Nat := 0
  dramScrubs : Nat := 0
deriving DecidableEq, Repr

/-! ### Signal gateway (chapter 06) -/

/-- A receive buffer (R166, R169): declared length, the resource that binds it (class, index), the last payload, whether it
ever held one, its age. -/
structure RxBuf where
  len : Nat := 0
  cls : Nat := 0
  idx : Nat := 0
  data : List Byte := []
  has : Bool := false
  age : Nat := 255
deriving DecidableEq, Repr

/-- A frame buffer to be sent (R167): declared length, the resource that binds it, its bytes, and whether a commit has
written it since its last transmission (R378, R379). -/
structure TxBuf where
  len : Nat := 0
  cls : Nat := 0
  idx : Nat := 0
  data : List Byte := []
  written : Bool := false
deriving DecidableEq, Repr

/-- An input group latched by INPUT_LATCH (R166). -/
structure InGroup where
  levels : Nat := 0
  has : Bool := false
  age : Nat := 255
deriving DecidableEq, Repr

/-- A mailbox (R171, R440): its address, partition and direction, and for a source the SEQ last seen and its age. -/
structure Mbx where
  addr : Nat := 0
  part : Nat := 0
  dest : Bool := false
  placed : Bool := false
  seqSeen : Nat := 0
  has : Bool := false
  age : Nat := 255
deriving DecidableEq, Repr

/-- An actuator command record (R172): value, written age, boundaries since the write, ET of the write, hold count. -/
structure ActRec where
  has : Bool := false
  value : Int := 0
  age : Nat := 0
  since : Nat := 0
  et : Nat := 0
  hold : Nat := 0
deriving DecidableEq, Repr

/-- What the gateway keeps of a signal's last execution (R198), and its force (R177). -/
structure SigStat where
  value : Nat := 0
  age : Nat := 0
  sat : Bool := false
  bad : Bool := false
  execs : Nat := 0
  lastEt : Nat := 0
  force : Nat := 0
  forceVal : Nat := 0
  ever : Bool := false
deriving DecidableEq, Repr

/-- One destination write of an execution, committed at its end (R178): the signal, the kind, ID and field of the
destination, the saturated value, the age, the offset of the age byte, and the mailbox flags. -/
structure GwWrite where
  sig : Nat
  kind : Nat
  id : Nat
  field : Nat
  value : Int
  age : Nat
  agePos : Option Nat := none
  outType : Nat := 0
  sat : Bool := false
  forced : Bool := false
deriving DecidableEq, Repr

/-- What a trace record says of a stroke (R101, R534): the ET of its due phase, its 16 bytes, started late, its palette slot. -/
structure TraceOf where
  due : Nat
  bytes : List Byte
  late : Bool := false
  slot : Nat := 0
deriving DecidableEq, Repr

/-- A dispatched ROUTE stroke (R182), with its trace where it has the TRACE flag. -/
structure RouteStroke where
  first : Nat
  count : Nat
  trace : Option TraceOf := none
deriving DecidableEq, Repr

/-- A route pipeline (R182, R194): its queue, and the stroke in execution with the writes it will commit. -/
structure Pipe where
  queue : List RouteStroke := []
  busy : Bool := false
  start : Nat := 0
  trace : Option TraceOf := none
  writes : List GwWrite := []
  strokes : Nat := 0
  entries : Nat := 0
  maxExec : Nat := 0
  lastSignal : Nat := 0
  queueMax : Nat := 0
deriving DecidableEq, Repr

/-- Gateway state (R159 to R202). The route table itself stands in DRAM at 0x8_0000_0000. -/
structure Gw where
  /-- Route SRAM slots: the signal held plus one, 0 empty (R161). -/
  slots : Tab Nat := []
  /-- Signals whose DRAM entry has an uncorrectable error (R163). -/
  dramBad : List Nat := []
  rx : Tab RxBuf := []
  tx : Tab TxBuf := []
  groups : Tab InGroup := []
  mbx : Tab Mbx := []
  /-- Records of channels 0–55, and of bridge b at 56 + b. -/
  recs : Tab ActRec := []
  sigs : Tab SigStat := []
  pipes : Tab Pipe := []
  /-- Value and ET of the last write of each frame field: key `buffer * 2^24 + field` (R181). -/
  fieldW : Tab (Int × Nat) := []
  wakeRoutes : List (Nat × Nat) := []
  triggers : Tab Trigger := []
  /-- Events handed to the ristretto path and not yet executed (R108). -/
  risRun : List RisEvent := []
  routes : Nat := 0
  risRoutes : Nat := 0
  cacheMisses : Nat := 0
  saturations : Nat := 0
  invalid : Nat := 0
  empty : Nat := 0
  isolated : Nat := 0
  heldDrops : Nat := 0
  eccCorrected : Nat := 0
  eccRefetch : Nat := 0
  seatA : Nat := 0
  seatB : Nat := 0
  maxLat : Nat := 0
  notApplied : Nat := 0
deriving DecidableEq, Repr

/-! ### Load switches, bridges, feeds (chapters 07 to 09) -/

/-- The power side of a load channel or a bridge: whether its output is on, what it holds in the ledger and where its pour
stands (R143, R206, R212, R264). `acct`: 0 scheduled, 1 command. `pend`: a turn-on into PWM waits for the next period
start (R207). `retry`: the pour is a retry's, its excess stands in the command account (R214). -/
structure Outlet where
  on : Bool := false
  pend : Bool := false
  acct : Option Nat := none
  step : Nat := 0
  stepEnd : Nat := 0
  retry : Bool := false
  c1 : Nat := 0
  d1 : Nat := 0
  c2 : Nat := 0
  d2 : Nat := 0
  shed : Bool := false
  shedAcct : Nat := 0
deriving DecidableEq, Repr

/-- What LOAD_TABLE, the LEDGER section and LSW_CONFIG or MBR_CONFIG set for a channel or a bridge (R142, R224, R249).
Currents in 0.1 A, pour durations in 0.1 ms. `img…` and `e…` are the image's values and its ledger entry, against which
R156 checks; `minPeriod` is the shortest period the image schedules, 0 none. -/
structure LoadCfg where
  enabled : Bool := false
  slew : Nat := 0
  safe : Nat := 0
  loadClass : Nat := 0
  retryN : Nat := 0
  steady : Nat := 0
  limit : Nat := 0
  s1c : Nat := 0
  s1d : Nat := 0
  s2c : Nat := 0
  s2d : Nat := 0
  imgLimit : Nat := 0
  imgRetry : Nat := 0
  e1c : Nat := 0
  e1d : Nat := 0
  e2c : Nat := 0
  e2d : Nat := 0
  minPeriod : Nat := 0
  phase : Nat := 0
deriving DecidableEq, Repr

/-- The protection machines of a channel or leg (R215, R216): over-current `oc` 0 READY, 1 PAUSE, 2 DEFERRED,
3 RECOVERING, 4 LATCHED with attempts `att`; thermal `th` 0 COOL, 1 HOT, 2 LATCHED. -/
structure Prot where
  oc : Nat := 0
  att : Nat := 0
  pauseEnd : Nat := 0
  deferAt : Nat := 0
  deferNb : Bool := false
  /-- Since when the output has been on without pour (R215), none while it is not. -/
  okSince : Option Nat := none
  th : Nat := 0
  shutdowns : List Nat := []
  thAt : Nat := 0
  thOver : Bool := false
  /-- A thermal restart that waits for the ledger, since when (R214). -/
  thWait : Option Nat := none
  tj : Int := 0
  dt : Int := 0
  trips : Nat := 0
  thShutdowns : Nat := 0
  deferrals : Nat := 0
  lastTrip : Nat := 0
  sense : Nat := 0
  avg : Nat := 0
  senseOn : Nat := 0
deriving DecidableEq, Repr

/-- A load channel 0–55 (R205 to R227): `cmd` 0 off, 1 on, 2 PWM; `duty` commanded, `curDuty` applied. -/
structure Chan where
  cfg : LoadCfg := {}
  o : Outlet := {}
  lamp : Bool := false
  olEn : Bool := false
  olThr : Nat := 0
  olFilter : Nat := 0
  /-- An over-current limit that applies when the pour ends (R230). -/
  nextLimit : Option Nat := none
  cmd : Nat := 0
  duty : Nat := 0
  period : Nat := 0
  curDuty : Nat := 0
  curPeriod : Nat := 0
  safe : Bool := false
  /-- Open load: 0 IDLE, 1 WATCH, 2 SUSPECT, 3 OPEN; counted milliseconds below, and at or above 1.125 × threshold. -/
  ol : Nat := 0
  olRun : Nat := 0
  olOk : Nat := 0
  olMean : Nat := 0
  olEvents : Nat := 0
  clamps : Nat := 0
deriving DecidableEq, Repr

/-- A bridge (R235 to R255): `cmd` and `out` are mode codes of R237; `dir` is the direction stalled, 0 none. -/
structure Bridge where
  cfg : LoadCfg := {}
  o : Outlet := {}
  slow : Bool := false
  stallEn : Bool := false
  zeroBrake : Bool := false
  stallBrake : Bool := false
  dead : Nat := 0
  stallThr : Nat := 0
  stallFilter : Nat := 0
  nextLimit : Option Nat := none
  cmd : Nat := 0
  duty : Nat := 0
  period : Nat := 0
  curDuty : Nat := 0
  out : Nat := 0
  safe : Bool := false
  stalled : Nat := 0
  stallRun : Nat := 0
  current : Nat := 0
  xlock : Bool := false
  stalls : Nat := 0
  xcond : Nat := 0
  clamps : Nat := 0
deriving DecidableEq, Repr

/-- The load switch array and the bridges; protection machines of channels 0–55 and legs 56–67. -/
structure Lsw where
  chans : Tab Chan := []
  bridges : Tab Bridge := []
  prot : Tab Prot := []
  ism : Nat := 0xFF
  slow : Bool := false
  trefLv : Int := 0
  tref48 : Int := 0
deriving DecidableEq, Repr

/-- A feed (R256 to R261, R279): 0 is FEED12, 1 FEED48. Voltages in 10 mV, currents in 0.1 A. -/
structure Feed where
  v : Nat := 0
  i : Nat := 0
  sag : Bool := false
  sagAt : Nat := 0
  crank : Bool := false
  crankAt : Nat := 0
  uv : Bool := false
  uvNow : Bool := false
  overload : Bool := false
  overload2 : Bool := false
  overAt : Nat := 0
  overvolt : Bool := false
  sagTh : Nat := 0
  crankTh : Nat := 0
  vMin : Nat := 0xFFFF
  iPeak : Nat := 0
  budget : Nat := 0
  reserve : Nat := 0
  refusals : Nat := 0
  sagCount : Nat := 0
  uvCount : Nat := 0
  overloads : Nat := 0
  /-- Outlets waiting to resume after shedding, and when the next one may (R268). -/
  resume : List Nat := []
  resumeAt : Nat := 0
deriving DecidableEq, Repr

/-- Feeds, thermal model and rails (R256 to R284). Temperatures in 0.1 °C, powers in mW. -/
structure Pwr where
  feeds : Tab Feed := []
  step : Nat := 0
  stepCause : Nat := 0
  stepAt : Nat := 0
  /-- Since when the leave condition of the present step has held (R272). -/
  leaveAt : Option Nat := none
  psw : Nat := 0
  pmod : Nat := 0
  pmax : Nat := 120000
  tcp : Int := 0
  tjc : Int := 0
  stepCount : Nat := 0
  railFaults : Nat := 0
  pswPeak : Nat := 0
  vref : Nat := 0
  frac2 : Nat := 0
  frac3 : Nat := 0
  /-- Feed states at power-on that gate the compute side: rails up, reference qualified (R274, R549). -/
  railsUp : Bool := false
  refOk : Bool := false
deriving DecidableEq, Repr

/-! ### Switch core (chapter 10) -/

/-- A frame in the packet buffer (R290): the frame, its classification, whether it has fully arrived, the copies left and
the cells it holds. -/
structure FrameBuf where
  f : EthFrame
  vid : Nat := 0
  pcp : Nat := 0
  tc : Nat := 0
  /-- CB record of its stream, and its R-TAG sequence number. -/
  cb : Option Nat := none
  seq : Option Nat := none
  complete : Bool := false
  copies : Nat := 0
  cells : Nat := 1
deriving DecidableEq, Repr

/-- A copy in an output queue (R288, R290): its frame, the cells charged, whether it may be sent cut-through. -/
structure Copy where
  frame : Nat
  cells : Nat
  cut : Bool := false
deriving DecidableEq, Repr

/-- The frame a port is sending: its copy and class, whether it is tagged, its length on the wire with FCS, whether it is
protected and whether it will end stomped (R293, R297). -/
structure SwTx where
  copy : Copy
  cls : Nat
  tagged : Bool := false
  rtag : Bool := false
  len : Nat := 0
  secured : Bool := false
  stomped : Bool := false
deriving DecidableEq, Repr

/-- The frame a port is receiving, after its decision point: its frame in the buffer if it has one, what to learn from it,
its length. -/
structure SwRx where
  frame : Option Nat := none
  /-- Dropped at a stage of R286, which has counted it. -/
  dropped : Bool := false
  learn : Option (Nat × Nat) := none
  len : Nat := 0
deriving DecidableEq, Repr

/-- One class of a port: queue, credit in 10^-6 bits at the ET `since`, drop counter (R288, R295). -/
structure SwCls where
  queue : List Copy := []
  credit : Int := 0
  since : Nat := 0
  drops : Nat := 0
deriving DecidableEq, Repr

/-- A port of the switch core (R285, R306, R314). `rxSa`: next acceptable PN plus one of receive SA 4·SC + AN. -/
structure SwPort where
  cfg : SwPortCfg := {}
  gates : Nat := 0xFF
  cls : Tab SwCls := []
  tx : Option SwTx := none
  rx : Option SwRx := none
  secTx : Bool := false
  txAn : Nat := 0
  txPn : Nat := 0
  exhausted : Bool := false
  xpn : Bool := false
  rxSa : Tab Nat := []
  zeroized : Bool := false
  rxFrames : Nat := 0
  rxOctets : Nat := 0
  rxBad : Nat := 0
  rxDiscard : Nat := 0
  txFrames : Nat := 0
  txOctets : Nat := 0
  txStomped : Nat := 0
  cutThrough : Nat := 0
  qciDrops : Nat := 0
  eliminated : Nat := 0
  downDrops : Nat := 0
  inOk : Nat := 0
  inBad : Nat := 0
  inLate : Nat := 0
  inNoSa : Nat := 0
  outProt : Nat := 0
  closedDrops : Nat := 0
deriving DecidableEq, Repr

/-- A stream with its gate as it stands (R302). -/
structure Stream where
  r : StreamRec
  shut : Bool := false
deriving DecidableEq, Repr

/-- A flow meter's buckets, in 10^-6 bits, at the ET `since`. -/
structure Meter where
  r : MeterRec := {}
  c : Nat := 0
  e : Nat := 0
  since : Nat := 0
deriving DecidableEq, Repr

/-- A recovery function (R303): it takes any sequence number next, the last one accepted, the history vector (bit k for
`last - k`), and the ET of its last reset of the timeout. -/
structure CbState where
  takeAny : Bool := true
  last : Nat := 0
  history : Nat := 0
  since : Nat := 0
  nextSeq : Nat := 0
deriving DecidableEq, Repr

/-- The switch core. -/
structure Swc where
  ports : Tab SwPort := []
  frames : Tab (Option FrameBuf) := []
  nextFrame : Nat := 0
  /-- Forwarding database by index bucket · 8 + way (R299). -/
  fdb : Tab FdbEnt := []
  vlans : Tab VlanRec := []
  streams : List Stream := []
  meters : Tab Meter := []
  cbs : Tab CbRec := []
  /-- Recovery and generation state by record · 32 + ingress port of an individual recovery, 31 otherwise. -/
  cbState : Tab CbState := []
  records : List FrameRec := []
  hp : List HpRec := []
  /-- TSN_GATES lists by palette ID (R294, R308). -/
  gateLists : Tab (List GateEnt) := []
  /-- Base MAC address (R322). -/
  baseMac : Nat := 0
  ageing : Nat := 300
  peak : Nat := 0
  learnFail : Nat := 0
  resetLost : Nat := 0
deriving DecidableEq, Repr

/-! ### Backbone, edge and multidrop ports (chapter 11) -/

/-- A port 0–15 (R322 to R331): `st` 0 OFF, 1 TRAINING, 2 UP, 3 ASLEEP, 4 PHY_FAULT. -/
structure Prt where
  cfg : PortRec := {}
  st : Nat := 0
  /-- ET at which the present training began, and consecutive failed attempts. -/
  trainAt : Nat := 0
  fails : Nat := 0
  /-- A TC10 sleep request is in progress: the ET at which it ends without acknowledgement. -/
  sleepDue : Option Nat := none
  plcaOk : Bool := false
  /-- Consecutive BEACONs since PLCA was lost, and the ET of the loss. -/
  beacons : Nat := 0
  lostAt : Nat := 0
  alone : Bool := false
  /-- ET of the last frame or other opportunity seen, or of the last SEGMENT_ALONE. -/
  heardAt : Nat := 0
  sqi : Nat := 0
  linkUps : Nat := 0
  trainFails : Nat := 0
  symbols : Nat := 0
  collisions : Nat := 0
  beaconLosses : Nat := 0
  sleeps : Nat := 0
  wakes : Nat := 0
  diagResult : Nat := 0
  diagDist : Nat := 0
  lastUp : Nat := 0
  /-- ET of the last entry to ASLEEP, or of a segment to OFF (R181). -/
  sleptAt : Nat := 0
deriving DecidableEq, Repr

/-! ### CAN (chapter 12) -/

/-- A transmit request (R344 to R346): its entry, the frame, the CAN_TX command it carries if any, its attempts. -/
structure CanReq where
  entry : Nat
  frame : CanFrame
  cmd : Option Packet := none
  attempts : Nat := 0
  lost : Bool := false
  /-- ET of the SOF of the last attempt. -/
  sof : Nat := 0
deriving DecidableEq, Repr

/-- Wake detection of a channel (R350, R357). -/
structure CanWakeCfg where
  mode : Nat := 0
  ext : Bool := false
  id : Nat := 0
  mask : Nat := 0
  dlc : Nat := 0
  dataEn : Bool := false
  dataMask : Nat := 0
deriving DecidableEq, Repr

/-- A frame received whose end of frame is still to come: the buffer it was stored in and whether it goes to the ring. -/
structure CanRx where
  frame : CanFrame
  stamp : Nat
  buf : Option Nat := none
  toRing : Bool := false
deriving DecidableEq, Repr

/-- A CAN channel (R336 to R352): `st` 0 OFF, 1 INTEGRATING, 2 RUNNING, 3 BUS_OFF, 4 ASLEEP; `err` 0 active, 1 passive,
2 bus-off. -/
structure Can where
  cfg : CanCfg := {}
  st : Nat := 0
  err : Nat := 0
  /-- Bus-off recovery runs, and whether it was started by the channel flag. -/
  recovering : Bool := false
  recAuto : Bool := false
  /-- CAN_TX requests that wait for the command entry, oldest first; placed requests, oldest first. -/
  waiting : List CanReq := []
  placed : List CanReq := []
  /-- The placed request in an attempt, and requests to be placed when it completes (R345). -/
  attempt : Option CanReq := none
  next : List CanReq := []
  /-- A cancel that meets the attempt (R349): the CAN_TX_CANCEL command, or none for a supervision timeout. -/
  cancelling : Bool := false
  cancelBy : List Packet := []
  supCancel : Bool := false
  rx : Option CanRx := none
  /-- Receive FIFO toward the ring: stamp and frame, oldest first. -/
  fifo : List (Nat × CanFrame) := []
  host : Tab CanFilter := []
  wakeCfg : CanWakeCfg := {}
  armed : Bool := false
  /-- ET of the last entry to ASLEEP (R181). -/
  sleptAt : Nat := 0
  alone : Bool := false
  tec : Nat := 0
  rxErr : Nat := 0
  noack : Nat := 0
  txOk : Nat := 0
  txFail : Nat := 0
  rxOk : Nat := 0
  rxDrops : Nat := 0
  dropsSince : Nat := 0
  unmatched : Nat := 0
  arbLost : Nat := 0
  superseded : Nat := 0
  busOffs : Nat := 0
  lateErrors : Nat := 0
  outside : Nat := 0
  cancels : Nat := 0
  lastError : Nat := 0
  lastErrorEt : Nat := 0
deriving DecidableEq, Repr

/-- The CAN channels with their matrix (R335). -/
structure Cans where
  chans : Tab Can := []
  entries : List CanEntry := []
  filters : List CanFilter := []
deriving DecidableEq, Repr

/-! ### FlexRay and LIN (chapter 13) -/

/-- A transmit buffer record on one channel (R368): the commit waiting, its ET, cycle (0xFF next) and lateness counted, and
the payload last committed and sent. -/
structure FryTx where
  pend : Option (List Byte) := none
  pendAt : Nat := 0
  pendCycle : Nat := 0xFF
  late : Bool := false
  last : Option (List Byte) := none
deriving DecidableEq, Repr

/-- A star branch, 4 the own controller (R363, R364): it is blocked before the ET `blockEnd`; `iso` counts the cycle starts
until it is restored. -/
structure FryBranch where
  blockEnd : Nat := 0
  iso : Nat := 0
  disabled : Bool := false
  run : Nat := 0
  violations : Nat := 0
  isolations : Nat := 0
deriving DecidableEq, Repr

/-- A transmission that the star forwards, or that goes out of the own controller: branch, segment, slot, cycle. -/
structure FryFwd where
  branch : Nat
  seg : Nat
  slot : Nat
  cycle : Nat
deriving DecidableEq, Repr

/-- A FlexRay channel FA.A to FB.B. -/
structure FryChan where
  branches : Tab FryBranch := []
  fwd : Option FryFwd := none
  /-- The last frame the own controller sent: slot, payload, none for a null frame. -/
  sent : Option (Nat × Option (List Byte)) := none
  rxOk : Nat := 0
  rxErrors : Nat := 0
  txFrames : Nat := 0
  repeats : Nat := 0
  nullRx : Nat := 0
  lateCommits : Nat := 0
  guardBlocks : Nat := 0
  truncations : Nat := 0
deriving DecidableEq, Repr

/-- A FlexRay cluster (R365 to R370, R383): `poc` is the code of R365. -/
structure FryCluster where
  cfg : FryCfg := {}
  poc : Nat := 0
  alone : Bool := false
  lock : Bool := false
  cycle : Nat := 0
  cycleEt : Nat := 0
  haltAtEnd : Bool := false
  /-- Coldstart attempts made since armed, ET of the last frame or CAS heard, ET of FR_ALONE. -/
  attempts : Nat := 0
  heardAt : Nat := 0
  aloneAt : Nat := 0
  leader : Nat := 0
  follower : Nat := 0
  integrations : Nat := 0
  aborts : Nat := 0
  rateCorr : Int := 0
  offsCorr : Int := 0
  passive : Nat := 0
  collisions : Nat := 0
  phaseErr : Int := 0
  /-- Frames for the receive ring: channel, stamp, frame. -/
  fifo : List (Nat × Nat × FryFrame) := []
deriving DecidableEq, Repr

/-- FlexRay. -/
structure Fry where
  clusters : Tab FryCluster := []
  chans : Tab FryChan := []
  bufs : List FryBuf := []
  /-- Transmit buffers by record · 2 + channel. -/
  tx : Tab FryTx := []
  branchRecs : List FryBranchRec := []
deriving DecidableEq, Repr

/-- A LIN frame in progress (R378, R379): its entry or none for a go-to-sleep frame, the LIN_TX or LIN_GOTO_SLEEP it
carries, the ET of its header. -/
structure LinCur where
  entry : Option Nat := none
  cmd : Option Packet := none
  start : Nat := 0
  data : List Byte := []
deriving DecidableEq, Repr

/-- A LIN channel (R375 to R383): `st` 0 OFF, 1 RUNNING, 2 ASLEEP, 3 WAKING. -/
structure Lin where
  cfg : LinCfg := {}
  st : Nat := 0
  cur : Option LinCur := none
  headerAt : Nat := 0
  sleptAt : Nat := 0
  wakeAt : Nat := 0
  /-- Pulses sent in the present wake round. -/
  pulses : Nat := 0
  respErr : Bool := false
  alone : Bool := false
  run : Nat := 0
  lastError : Nat := 0
  lastErrorEt : Nat := 0
  framesOk : Nat := 0
  noResponse : Nat := 0
  rxErrors : Nat := 0
  collisions : Nat := 0
  busy : Nat := 0
  wakes : Nat := 0
  sleeps : Nat := 0
  /-- Collided event-triggered entries and the canvas count of the collision plus one. -/
  collided : Tab Nat := []
  fifo : List (Nat × Nat × List Byte) := []
deriving DecidableEq, Repr

/-- LIN. -/
structure Lins where
  chans : Tab Lin := []
  entries : List LinEnt := []
deriving DecidableEq, Repr

/-! ### Hardened inputs and isolated I/O (chapter 14) -/

/-- An input: DI n at number n, XI n at 64 + n (R387 to R394, R399, R400). -/
structure Din where
  enabled : Bool := false
  rise : Bool := false
  fall : Bool := false
  wbEn : Bool := false
  mode : Nat := 0
  wetting : Nat := 0
  k : Nat := 0
  breakVal : Nat := 0
  debounce : Nat := 0
  sensorThr : Nat := 0
  breakFilter : Nat := 0
  xiType : Nat := 0
  /-- k in the image (R404). -/
  imageK : Nat := 0
  /-- Last sample, the counter of the filter, filtered and qualified level. -/
  raw : Bool := false
  cnt : Nat := 0
  filt : Bool := false
  qual : Bool := false
  sampled : Bool := false
  /-- End of a running debounce and the stamp of the filtered edge that began it (R391); filtered edges in it. -/
  debUntil : Option Nat := none
  stamp : Nat := 0
  pendEdges : Nat := 0
  /-- 0 OK, 1 BREAK, 2 SHORT; consecutive 1 ms means in the break, short and good bands (R393); the level held. -/
  wb : Nat := 0
  brkRun : Nat := 0
  shortRun : Nat := 0
  okRun : Nat := 0
  held : Bool := false
  measure : Nat := 0
  test : Bool := false
  edges : Nat := 0
  chatter : Nat := 0
  suppressed : Nat := 0
  breaks : Nat := 0
  lastEdge : Nat := 0
  canvasEdges : Nat := 0
deriving DecidableEq, Repr

/-- An isolated output (R395 to R397, R400). -/
structure Xo where
  enabled : Bool := false
  safePart : Nat := 0
  safeField : Nat := 0
  cmd : Bool := false
  /-- Level driven by the field side, as it reports it. -/
  out : Bool := false
  fault : Bool := false
  retryAt : Nat := 0
  /-- A safe state is in force: 0 none, 1 partition, 2 field; the end of a field hold. -/
  safe : Nat := 0
  holdUntil : Option Nat := none
  current : Nat := 0
  faults : Nat := 0
deriving DecidableEq, Repr

/-- The input and output bank. -/
structure Dio where
  ins : Tab Din := []
  xos : Tab Xo := []
  feedLow : Bool := false
  /-- ET at which F last fell below 6.0 V (R392). -/
  feedLowAt : Nat := 0
  barrierOk : Bool := false
  lostAt : Nat := 0
  xvsOk : Bool := false
  losses : Nat := 0
  crcErrors : Nat := 0
  xoLost : Nat := 0
deriving DecidableEq, Repr

/-! ### Bamlys (chapter 16) -/

/-- A record of the tamper log (R467). -/
structure TamperRec where
  src : Nat
  phase : Nat
  rtcNs : Nat
deriving DecidableEq, Repr

/-- The security island and the tamper monitor. `known`: the fuses and the key store have been read once; before that they
stand in the operand of BAMLYS_START. -/
structure Bam where
  known : Bool := false
  serving : Bool := false
  lc : Nat := 0
  count : Nat := 0
  policy : Nat := 1
  locked : Bool := false
  rootOk : Bool := false
  halted : Bool := false
  helper : Bool := false
  restarts : Nat := 0
  /-- ET of the restarts of the last 60 s, newest first (R466). -/
  restartAt : List Nat := []
  lastRestart : Nat := 0
  slots : Tab KeySlot := []
  /-- The content of each slot's other copy, where it is valid (R460). -/
  other : Tab KeySlot := []
  /-- Key registers in use: the slots whose keys they hold, last used first (R457). -/
  kr : List Nat := []
  remasks : Nat := 0
  authCounter : Nat := 0
  measurement : List Byte := []
  /-- Staging buffer of BAM_KEY_INSTALL: byte plus one by offset (R472). -/
  stage : Tab Nat := []
  /-- Requests served since the DRBG was reseeded (R470). -/
  drbg : Nat := 0
  /-- Ports whose keys were zeroized since the last restart of MKA (R456). -/
  mkaWait : List Nat := []
  armed : Nat := 0x1F
  alarms : Nat := 0
  keyAborts : Nat := 0
  log : List TamperRec := []
  logOverflow : Nat := 0
  /-- Alarms at boot in this start, and the ET at which the start is retried (R468). -/
  bootAlarms : Nat := 0
  bootRetry : Option Nat := none
  /-- The policy is still to be applied once Bamlys has started (R468). -/
  policyDue : Bool := false
  /-- The policy is applied at the end of the request in execution (R468). -/
  policyAfter : Bool := false
  /-- Alarms of SLEEP, STANDBY and start still to be delivered: source, phase and RTC time (R468). -/
  alarmsDue : List TamperRec := []
deriving DecidableEq, Repr

/-! ### Start-up and update (chapter 17) -/

/-- The update manager (R479 to R498). `known`: the slot state record has been read once; before that it stands in the
operand of REFERENCE_QUALIFIED. -/
structure Upd where
  known : Bool := false
  record : SlotRecord := {}
  method : Nat := 0
  downstream : Nat := 0
  /-- Image version and chunk count that UPD_BEGIN gave (R489). -/
  beginVersion : Nat := 0
  beginChunks : Nat := 0
  /-- Fragments staged of the chunk at the committed count (R490). -/
  staged : Tab (List Byte) := []
  /-- Chunks programmed, by slot · 192 + chunk. -/
  flash : Tab (Tab (List Byte)) := []
  /-- A chunk is complete and its commit has not ended (R484). -/
  committing : Bool := false
  relayBuf : Nat := 0
  relayOn : Bool := false
  relayFull : Nat := 0
  relayNext : Nat := 0
  /-- A slot was selected and started at this start: 0 A, 1 B; its state at start and trial starts left. -/
  started : Option Nat := none
  startState : Nat := 0
  startLeft : Nat := 0
  /-- Fall-back of this start: slot started and cause (R485). -/
  fallback : Option (Nat × Nat) := none
  /-- ET at which the health window of the TRIAL slot ends. -/
  healthEnd : Option Nat := none
  /-- ET of the device reset of UPD_ACTIVATE (R497). -/
  activateAt : Option Nat := none
deriving DecidableEq, Repr

/-- The state of the device. `pending` is the queue of waiting commands, first in first out; `free` counts the free values
taken so far (the model's own field). -/
structure State where
  pending : List Instr := []
  et : Nat := 0
  /-- Always-on real-time clock, in nanoseconds (R72). -/
  rtcNs : Nat := 0
  free : Nat := 0
  /-- Shared SRAM and DRAM (R18, R19), canonical; an unlisted byte reads 0. -/
  mem : List Host.Cell := []
  /-- Raised events not yet in their event ring, in the order of R25 (R434). -/
  evq : List Raised := []
  /-- Per event source, the last ET asked for and the ET given, so that no two of its events share one (R25). -/
  lastEv : Tab Nat := []
  dev : Dev := {}
  cmd : Cmd := {}
  time : Time := {}
  easel : Easel := {}
  gw : Gw := {}
  lsw : Lsw := {}
  pwr : Pwr := {}
  dio : Dio := {}
  par : Parts := {}
  wake : Wake := {}
  flt : Flt := {}
  swc : Swc := {}
  prt : Tab Prt := []
  can : Cans := {}
  fry : Fry := {}
  lin : Lins := {}
  bam : Bam := {}
  upd : Upd := {}
deriving DecidableEq, Repr

/-- The device right after reset: entry to STARTING with nothing loaded (R27, R29, R72). -/
def State.reset : State := {}

end Sys2Proof.Machine
end

