-- ==== Sys2Proof/Machine/Ops.lean ====
section
/-!
DEFINITION. Sys2Proof/Machine/Ops.lean: the named operations over tables, memory, events, rings and virtual interrupts that
every block shares, ownership, and the fault collector's reporting.
-/

namespace Sys2Proof

/-! ### Sparse tables -/

/-- The entry of number `k`, the default `d` where none is listed. -/
def Tab.val {α : Type} (d : α) : Tab α → Nat → α
  | [], _ => d
  | (j, x) :: t, k => if j = k then x else Tab.val d t k

/-- Entry `k` becomes `v`; numbers stay rising and an entry equal to the default is not listed. -/
def Tab.put {α : Type} [DecidableEq α] (d : α) : Tab α → Nat → α → Tab α
  | [], k, v => if v = d then [] else [(k, v)]
  | (j, x) :: t, k, v =>
    if v = d then (if j = k then Tab.put d t k v else (j, x) :: Tab.put d t k v)
    else if k < j then (k, v) :: (j, x) :: t
    else if k = j then (k, v) :: t
    else (j, x) :: Tab.put d t k v

/-- The table with `f` applied to every listed entry. -/
def Tab.mapV {α : Type} (f : Nat → α → α) : Tab α → Tab α
  | [] => []
  | (j, x) :: t => (j, f j x) :: Tab.mapV f t

end Sys2Proof

namespace Sys2Proof.Machine

/-! ### Memory (R18, R19) -/

/-- What a byte that nothing has written reads as. DESIGN CHOICE: the spec gives RAM no reset contents. -/
def memDefault : Byte := 0

/-- The byte at an address. -/
def memGet : List Host.Cell → Nat → Byte
  | [], _ => memDefault
  | (j, x) :: t, a => if j = a then x else memGet t a

/-- Memory with one byte written, in canonical form. -/
def memSet : List Host.Cell → Nat → Byte → List Host.Cell
  | [], a, b => if b = memDefault then [] else [(a, b)]
  | (j, x) :: t, a, b =>
    if b = memDefault then (if j = a then memSet t a b else (j, x) :: memSet t a b)
    else if a < j then (a, b) :: (j, x) :: t
    else if a = j then (a, b) :: t
    else (j, x) :: memSet t a b

/-- Memory with the bytes written at `a` upward. -/
def memWrite : List Host.Cell → Nat → List Byte → List Host.Cell
  | m, _, [] => m
  | m, a, b :: bs => memWrite (memSet m a b) (a + 1) bs

/-- `n` bytes from `a` upward. -/
def memRead (m : List Host.Cell) : Nat → Nat → List Byte
  | _, 0 => []
  | a, n + 1 => memGet m a :: memRead m (a + 1) n

/-- The canonical form: addresses strictly rising from `lo`, no entry equal to the default. -/
def memWfFrom : Nat → List Host.Cell → Bool
  | _, [] => true
  | lo, (j, x) :: t => decide (lo ≤ j) && decide (x ≠ memDefault) && memWfFrom (j + 1) t

/-- The canonical form of memory. -/
def memWf (m : List Host.Cell) : Bool := memWfFrom 0 m

/-- Whether an address lies in shared SRAM or DRAM (R19). -/
def inSram (a : Nat) : Bool := decide (a < 0xC00000)
def inDram (a : Nat) : Bool := decide (0x800000000 ≤ a ∧ a < 0x820000000)

/-- The ECC unit that holds an address: 8 bytes in SRAM, 64 in DRAM (R528). -/
def eccUnit (a : Nat) : Nat := if inDram a then a / 64 * 64 else a / 8 * 8
def eccSize (a : Nat) : Nat := if inDram a then 64 else 8

/-- A write of the bytes, clearing the poison of every unit it covers whole (R529). -/
def State.store (s : State) (a : Nat) (bs : List Byte) : State :=
  { s with
    mem := memWrite s.mem a bs
    flt := { s.flt with poison := s.flt.poison.filter fun u => !(decide (a ≤ u) && decide (u + eccSize u ≤ a + bs.length)) } }

/-! ### Partitions and ownership (R21, R120, R439) -/

def State.part (s : State) (p : Nat) : Part := s.par.parts.val {} p

def State.setPart (s : State) (p : Nat) (x : Part) : State :=
  { s with par := { s.par with parts := s.par.parts.put {} p x } }

def State.pair (s : State) (k : Nat) : Pair := s.par.pairs.val {} k

def State.setPair (s : State) (k : Nat) (x : Pair) : State :=
  { s with par := { s.par with pairs := s.par.pairs.put {} k x } }

def State.ring (s : State) (n : Nat) : Ring := s.par.rings.val {} n

def State.setRing (s : State) (n : Nat) (x : Ring) : State :=
  { s with par := { s.par with rings := s.par.rings.put {} n x } }

/-- Resource classes of R439. -/
def clsLoad : Nat := 0
def clsBridge : Nat := 1
def clsXo : Nat := 2
def clsPg : Nat := 3
def clsDi : Nat := 4
def clsXi : Nat := 5
def clsPort : Nat := 6
def clsCan : Nat := 7
def clsFry : Nat := 8
def clsLin : Nat := 9

/-- Bamlys as an owner (R439). -/
def bamOwner : Nat := 0x80

/-- The owner of a resource; one that the image does not assign belongs to P0 (R21). -/
def State.owner (s : State) (cls idx : Nat) : Nat := s.par.owner.val 0 (cls * 1024 + idx)

/-- A partition counts as in reset while RESETTING, HELD or RESTARTING (R120, R417). -/
def State.inReset (s : State) (p : Nat) : Bool :=
  (s.part p).st == 2 || (s.part p).st == 3 || (s.part p).st == 4

/-- The M-core runs and the palettes run (R43). -/
def State.active (s : State) : Bool :=
  s.dev.state == .run || s.dev.state == .degraded || s.dev.state == .sleepPrep

/-- The compute die is powered (R26). -/
def State.powered (s : State) : Bool := s.active || s.dev.state == .starting

/-! ### Free values -/

/-- The next free value, and the state that has taken it. -/
def State.fresh (s : State) : Nat × State := (Config.freeValue s.free, { s with free := s.free + 1 })

/-! ### Events (R24, R25, R84, R434) -/

/-- Whether event `a` goes before `b` among those raised at one moment (R25). -/
def evBefore (a b : EventRec) : Bool := decide (a.et < b.et) || (a.et == b.et && decide (a.src < b.src))

/-- The queue with `e` behind everything raised earlier and in the order of R25 among those raised at the same moment. -/
def insertEv (e : Raised) : List Raised → List Raised
  | [] => [e]
  | x :: q => if x.raisedAt == e.raisedAt && evBefore e.ev x.ev then e :: x :: q else x :: insertEv e q

/-- One copy of an event to one partition; P0 is always enabled (R437). A partition from the start of its reset until RUNNING discards it (R422). -/
def State.deliver (s : State) (ev : EventRec) (p : Nat) : State :=
  if p ≥ 16 then s
  else if (s.part p).st == 0 && p != 0 then s
  else if (s.part p).inReset then
    s.setPart p { s.part p with eventsDiscarded := sat32 (s.part p).eventsDiscarded }
  else { s with evq := insertEv ⟨p, s.et, ev⟩ s.evq }

/-- Each number once, first occurrence kept. -/
def dedup : List Nat → List Nat
  | [] => []
  | x :: xs => x :: (dedup xs).filter (fun y => y != x)

/-- The last event of a source: the ET asked for and the ET it got, kept as `2^64 * asked + got` (R25). -/
def stampOf (asked : Nat) (last : Nat) : Nat := if last / 2 ^ 64 == asked + 1 then last % 2 ^ 64 + 2 else asked

/-- Raise an event with stamp `et` to the partitions `tos` (R24, R25). -/
def State.raiseAt (s : State) (et : Nat) (tos : List Nat) (src kind data : Nat) : State :=
  let stamp := stampOf et (s.lastEv.val 0 src)
  let s := { s with lastEv := s.lastEv.put 0 src ((et + 1) * 2 ^ 64 + stamp) }
  (dedup tos).foldl (fun s p => s.deliver ⟨stamp, src, kind, lo32 data⟩ p) s

/-- Raise an event stamped now. -/
def State.raise (s : State) (tos : List Nat) (src kind data : Nat) : State := s.raiseAt s.et tos src kind data

/-- Raise an event of a kind that a source raises at most once per canvas (R123, R441, R535). -/
def State.raiseOnce (s : State) (tos : List Nat) (src kind data : Nat) : State :=
  if s.dev.onceCanvas.contains (src, kind, 0xFF) then s
  else ({ s with dev := { s.dev with onceCanvas := (src, kind, 0xFF) :: s.dev.onceCanvas } }).raise tos src kind data

/-- As `raiseOnce`, at most once per canvas and receiving partition (R123). -/
def State.raiseOncePer (s : State) (et : Nat) (tos : List Nat) (src kind data : Nat) : State :=
  let due := (dedup tos).filter fun p => !s.dev.onceCanvas.contains (src, kind, p)
  if due.isEmpty then s
  else ({ s with dev := { s.dev with onceCanvas := due.map (fun p => (src, kind, p)) ++ s.dev.onceCanvas } }).raiseAt et due src kind data

/-- P0, and partition `p` while it is RUNNING (R441, R535). -/
def State.p0and (s : State) (p : Nat) : List Nat := if (s.part p).st == 1 then [0, p] else [0]

/-! ### Rings and virtual interrupts (R425 to R432) -/

def Ring.depth (r : Ring) : Nat := 2 ^ r.depthLog
def Ring.slotSize (r : Ring) : Nat := 2 ^ r.slotLog
def Ring.fill (r : Ring) : Nat := (r.prod + 65536 - r.cons) % 65536
/-- Where the producer writes the next record (R431). -/
def Ring.nextSlot (r : Ring) : Nat := r.base + r.prod % r.depth * r.slotSize
def Ring.full (r : Ring) : Bool := decide (r.depth ≤ r.fill)

/-- Whether the ring's owner counts as in reset. -/
def State.ringStopped (s : State) (n : Nat) : Bool := s.inReset (s.ring n).owner

/-- A frame that arrives for a stopped ring is discarded and counted (R422 step 4). -/
def State.ringDiscard (s : State) (n : Nat) : State := s.setRing n { s.ring n with drops := sat32 (s.ring n).drops }

/-- A raise of the interrupt of ring `n` at its owner's pending table (R422, R426). -/
def State.raiseVi (s : State) (n : Nat) : State :=
  let p := (s.ring n).owner
  let x := s.part p
  if x.inReset then s.setPart p { x with viDiscarded := sat32 x.viDiscarded }
  else if x.vi.length < 32 then s.setPart p { x with vi := x.vi ++ [n] }
  else ((s.setPart p { x with viOvf := true }).setRing n { s.ring n with pendingLost := true }).raiseOnce
    (dedup [p, 0]) (0x180 + n) 4 0

/-- The device has advanced its own index on ring `n`: an armed ring raises and disarms (R425). -/
def State.ringIrq (s : State) (n : Nat) : State :=
  if (s.ring n).armed then (s.setRing n { s.ring n with armed := false }).raiseVi n else s

/-- VSEIP on pair `k`: asserted while the partition that the pair runs has pending entries or VI_OVERFLOW (R427). -/
def State.vseip (s : State) (k : Nat) : Bool :=
  let pr := s.pair k
  pr.st == 0 && (!(s.part pr.part).vi.isEmpty || (s.part pr.part).viOvf)

/-- Bytes moved to or from DRAM on behalf of the owner of a ring (R428, R442). -/
def State.chargeDram (s : State) (n bytes : Nat) : State :=
  let r := s.ring n
  if inDram r.base then
    s.setPart r.owner { s.part r.owner with dramBytes := wrapAdd 64 (s.part r.owner).dramBytes bytes }
  else s

/-- Whether a write of `n` bytes at `a` merges into a poisoned unit without covering it (R529). -/
def State.poisonLeft (s : State) (a n : Nat) : Bool :=
  s.flt.poison.any fun u => decide (u < a + n) && decide (a < u + eccSize u) && !(decide (a ≤ u) && decide (u + eccSize u ≤ a + n))

/-- Whether a poisoned unit lies among `n` bytes at `a`. -/
def State.poisoned (s : State) (a n : Nat) : Bool := s.flt.poison.any fun u => decide (u < a + n) && decide (a < u + eccSize u)

/-- The device writes one record into the next slot of a device-produced ring that has room: memory, producer index,
statistics and interrupt (R425, R431). A slot that a poisoned unit reaches into is skipped and counted (R529). -/
def State.ringPush (s : State) (n : Nat) (bs : List Byte) : State :=
  let r := s.ring n
  let a := r.nextSlot
  let bad := s.poisonLeft a bs.length
  let s := if bad then s else s.store a bs
  let r' := { r with prod := (r.prod + 1) % 65536, slots := wrap32 r.slots, drops := if bad then sat32 r.drops else r.drops }
  let s := s.setRing n { r' with peak := max r.peak (min r'.fill 65535) }
  (s.chargeDram n bs.length).ringIrq n

/-- The device consumes one slot of a host-produced ring (R425). -/
def State.ringPop (s : State) (n : Nat) : State :=
  let r := s.ring n
  ((s.setRing n { r with cons := (r.cons + 1) % 65536, slots := wrap32 r.slots }).chargeDram n r.slotSize).ringIrq n

/-- The 16 bytes of an event record (R84). -/
def EventRec.bytes (e : EventRec) : List Byte :=
  leBytes 8 e.et ++ leBytes 2 (e.src % 1024) ++ leBytes 2 e.kind ++ leBytes 4 e.data

/-- The event record that 16 bytes spell (R84). -/
def EventRec.ofBytes (bs : List Byte) : EventRec :=
  ⟨rd bs 0 8, rd bs 8 2 % 1024, rd bs 10 2, rd bs 12 4⟩

/-- The 32 bytes of a posted-error record (R524). -/
def PostedRec.bytes (r : PostedRec) : List Byte :=
  leBytes 8 r.et ++ leBytes 8 r.addr ++ leBytes 1 r.part ++ leBytes 1 r.path ++ leBytes 1 r.cause ++ leBytes 1 r.size ++
    leBytes 1 r.pair ++ leBytes 3 0 ++ leBytes 4 r.seq ++ leBytes 4 0

/-- A record for an EVENT or POSTED_ERROR ring: written while one slot stays free for LOST, else dropped and counted; the
first drop's ET is kept (R85, R432). RING_OVERFLOW is raised about a posted-error ring only (R434). -/
def State.ringRecord (s : State) (n et : Nat) (bs : List Byte) : State :=
  let r := s.ring n
  if !r.enabled then s
  else if r.fill + 1 < r.depth && r.lost == 0 then s.ringPush n bs
  else
    let s := s.setRing n { r with drops := sat32 r.drops, lost := r.lost + 1, lostEt := if r.lost == 0 then et else r.lostEt }
    if r.type == 2 then s else s.raiseOnce [r.owner, 0] (0x180 + n) 1 (r.lost + 1)

/-- A slot of ring `n` has freed: the LOST record goes first (R85, R432). -/
def State.ringFreed (s : State) (n : Nat) : State :=
  let r := s.ring n
  if r.lost == 0 then s
  else
    let e : EventRec := ⟨r.lostEt, 0x180 + n, 0xFFFF, lo32 r.lost⟩
    (s.setRing n { r with lost := 0, lostEt := 0 }).ringPush n (fit r.slotSize e.bytes)

/-! ### Fault reports (R530 to R533) -/

def State.fltPart (s : State) (p : Nat) : FltPart := s.flt.parts.val {} p

def State.setFltPart (s : State) (p : Nat) (x : FltPart) : State :=
  { s with flt := { s.flt with parts := s.flt.parts.put {} p x } }

/-- A record into the log buffer of the management area (R534). -/
def State.logRec (s : State) (r : LogRec) : State := { s with flt := { s.flt with buffer := r :: s.flt.buffer } }

/-- The 12 bytes of a fault report from offset 12 on are its body (R533). -/
def FltReport.body (r : FltReport) : List Byte :=
  leBytes 1 r.attempts ++ leBytes 1 r.part ++ leBytes 2 r.kind ++ leBytes 4 r.data ++ leBytes 4 r.seq ++ leBytes 8 r.actionEt

/-- The level byte of a fault report (R533). -/
def FltReport.levelByte (r : FltReport) : Nat := pack [(0, 3, r.level), (7, 1, b2n r.injected)]

/-- One fault report is made now: log record, counters and FAULT_REPORT (R532, R533, R535, R536); the report of the injected
fault says so (R540). -/
def State.makeReport (s : State) (r : FltReport) : State :=
  let r := { r with actionEt := s.et, injected := s.flt.inject == some r.seq }
  let f := s.flt
  let s := { s with flt := { f with
    count := f.count.put 0 r.cls (sat16 (f.count.val 0 r.cls))
    esc := if 3 ≤ r.level then f.esc.put 0 r.cls (sat16 (f.esc.val 0 r.cls)) else f.esc
    recent := (r :: f.recent).take 1024 } }
  let s := s.logRec ⟨r.et, r.src, r.cls, r.levelByte, r.body⟩
  let x := s.fltPart r.part
  let s := if r.part < 16 then s.setFltPart r.part { x with reports := sat16 x.reports, lastSeq := r.seq, lastEt := s.et } else s
  s.raise (s.p0and r.part) 0x200 1
    (pack [(0, 4, r.cls), (4, 3, r.level), (7, 1, b2n r.injected), (8, 8, r.attempts), (16, 16, r.seq)])

/-- The fault sequence number of a fault detected now (R532). -/
def State.nextFault (s : State) : Nat × State :=
  (s.flt.nextSeq, { s with flt := { s.flt with nextSeq := wrapAdd 32 s.flt.nextSeq 1 } })

/-- A fault detected now: reported at once when `hold` is 0, otherwise held for the lower mechanism's worst case
`hold` ns (R532). -/
def State.fault (s : State) (src cls level part kind data attempts hold : Nat) : State :=
  let (seq, s) := s.nextFault
  let r : FltReport := ⟨s.et, src, cls, level, false, attempts, part, kind, lo32 data, seq, s.et⟩
  if hold == 0 then s.makeReport r
  else { s with flt := { s.flt with held := s.flt.held ++ [⟨r, s.et + hold⟩] } }

/-- Every held report of a partition is made now at level `level`, by the higher mechanism that acted (R532). -/
def State.escalate (s : State) (p level : Nat) : State :=
  let due := s.flt.held.filter fun h => h.rep.part == p
  let s := { s with flt := { s.flt with held := s.flt.held.filter fun h => h.rep.part != p } }
  due.foldl (fun s h => s.makeReport { h.rep with level := level }) s

/-- A posted error of partition `p` (R523, R525). While the partition is in reset the record goes to P0. -/
def State.postedError (s : State) (r : PostedRec) : State :=
  let x := s.part r.part
  let stopped := s.inReset r.part
  let q := if stopped then 0 else r.part
  let s := s.setPart r.part { x with postedErrors := sat32 x.postedErrors }
  let y := s.part q
  let ring := s.ring y.postedRing
  let fits := decide (ring.fill + 1 < ring.depth) && ring.lost == 0
  let s := s.setPart q { y with
    lastPosted := (r :: y.lastPosted).take 4
    postedOthers := if stopped && r.part != 0 then sat32 y.postedOthers else y.postedOthers
    postedDropped := if fits then y.postedDropped else sat32 y.postedDropped }
  s.ringRecord y.postedRing r.et (fit 32 r.bytes)

end Sys2Proof.Machine
end

