-- ==== Sys2Proof/Machine/Engine.lean ====
section
/-!
DEFINITION. Sys2Proof/Machine/Engine.lean: what a command packet's opcode is made of (`OpSpec`: its checks and its action),
and how replies are written and commands end (R36 to R56).
-/

namespace Sys2Proof.Machine

/-! ### Common status codes (R55) -/

def stOk : Nat := 0x0000
def stAccepted : Nat := 0x0001
def stBadOpcode : Nat := 0x0100
def stBadLength : Nat := 0x0101
def stBadParam : Nat := 0x0102
def stNotOwner : Nat := 0x0103
def stOwnedSecure : Nat := 0x0104
def stWrongState : Nat := 0x0105
def stBusy : Nat := 0x0106
def stAuthFail : Nat := 0x0107
def stLocked : Nat := 0x0108
def stContract : Nat := 0x0109
def stNoResource : Nat := 0x010A
def stSecureRestarted : Nat := 0x010B
def stTamperAbort : Nat := 0x010C

/-! ### Opcodes -/

/-- The completion types (R48 ff.). -/
inductive Comp where
  | S | O | A
deriving DecidableEq, Repr

/-- The Issuer column of R57. -/
inductive Issuer where
  | any | own | ownP0 | p0 | bam
deriving DecidableEq, Repr

/-- What an action leaves: the state, and the final status with its result unless the operation goes on. -/
structure ActRes where
  st : State
  done : Option (Nat × List Byte)

def ok (s : State) : ActRes := ⟨s, some (stOk, [])⟩
def okWith (r : List Byte) (s : State) : ActRes := ⟨s, some (stOk, r)⟩
def fail (c : Nat) (s : State) : ActRes := ⟨s, some (c, [])⟩
def later (s : State) : ActRes := ⟨s, none⟩

/-- An opcode of R57: code, completion, class of its open strokes (R116), issuer, block size (check 4), field values
(check 5), owners of the resources named and the key of the resource for R52 (check 7), LOCKED (check 6), device state
(check 8), BUSY beyond the common limits (check 9), the chapter's own checks (check 10, 0 is OK), and the action. The
functions see the packet with its parameter block cut to the stated length. -/
structure OpSpec where
  code : Nat
  comp : Comp
  cls : Nat := 0
  issuer : Issuer
  len : List Byte → Bool
  fields : List Byte → State → Bool := fun _ _ => true
  owners : List Byte → State → List Nat := fun _ _ => []
  key : List Byte → Nat := fun _ => 0
  locked : Packet → State → Bool := fun _ _ => false
  okState : Packet → State → Bool := fun _ _ => true
  busy : Packet → State → Bool := fun _ _ => false
  check : Packet → State → Nat := fun _ _ => stOk
  act : Packet → State → ActRes

/-- The key under which commands on one resource are ordered (R52): the opcode's block and the resource number; 0 where the
command names no resource. DEDUCED: a command that names no resource is ordered against none. -/
def OpSpec.res (o : OpSpec) (pk : Packet) : Nat :=
  if o.key pk.params == 0 then 0 else o.code / 256 * 2 ^ 40 + o.key pk.params

def isBarrier (pk : Packet) : Bool := pk.flags.testBit 0
def isCheckOnly (pk : Packet) : Bool := pk.flags.testBit 1
def isQuiet (pk : Packet) : Bool := pk.flags.testBit 2

/-- Source ID of a command source (R86). -/
def srcId : Source → Nat
  | .ring p => 0x140 + p
  | .mp => 0x150

/-- The partition that a command acts as (R38, R57). -/
def actsAs (pk : Packet) : Nat := match pk.src with | .ring p => p | .mp => pk.part

/-! ### Replies (R39 to R42, R47, R51) -/

/-- The bytes of a reply (R39). -/
def Reply.bytes (r : Reply) : List Byte :=
  leBytes 2 r.status ++ leBytes 2 r.tag ++ leBytes 2 r.result.length ++ leBytes 2 0 ++ leBytes 8 r.et ++ leBytes 4 r.seq ++
    leBytes 4 0 ++ r.result

/-- The reply is written: into the reply ring of its source, or as a frame from MP (R41, R47). -/
def State.writeReply (s : State) (pk : Packet) (status : Nat) (result : List Byte) : State :=
  let r : Reply := ⟨pk.src, status, pk.tag, pk.seq, s.et, result, pk.mac, pk.pcp⟩
  let s := { s with cmd := { s.cmd with replies := r :: s.cmd.replies } }
  match pk.src with
  | .ring p => if (s.ring (2 * p + 1)).enabled then s.ringPush (2 * p + 1) r.bytes else s
  | .mp => s

def State.stat (s : State) (p : Nat) : CmdStat := s.cmd.stats.val {} p

def State.setStat (s : State) (p : Nat) (x : CmdStat) : State :=
  { s with cmd := { s.cmd with stats := s.cmd.stats.put {} p x } }

/-- A final reply, with the statistics of R68; QUIET withholds one whose status is OK (R37). -/
def State.finalReply (s : State) (code : Nat) (pk : Packet) (status : Nat) (result : List Byte) : State :=
  let s := match pk.src with
    | .ring p =>
      if status == stOk then s
      else s.setStat p { s.stat p with error := wrap32 (s.stat p).error, lastStatus := status, lastOpcode := code }
    | .mp => s
  if isQuiet pk && status == stOk then s else s.writeReply pk status result

/-- The ACCEPTED reply of an asynchronous command (R37, R51). -/
def State.acceptReply (s : State) (pk : Packet) : State := if isQuiet pk then s else s.writeReply pk stAccepted []

/-- An outstanding asynchronous command ends: its completion reply is written, or discarded and counted after a reset of
its partition (R51, R53). -/
def State.finishAsync (s : State) (o : Outst) (status : Nat) (result : List Byte) : State :=
  let s := { s with cmd := { s.cmd with async := s.cmd.async.erase o } }
  if o.discard then
    match o.pk.src with
    | .ring p => s.setStat p { s.stat p with discardDone := sat16 (s.stat p).discardDone }
    | .mp => s
  else s.finalReply o.code o.pk status result

/-- Every outstanding command that `f` picks ends with one status. -/
def State.finishWhere (s : State) (f : Outst → Bool) (status : Nat) (result : List Byte) : State :=
  (s.cmd.async.filter f).foldl (fun s o => s.finishAsync o status result) s

/-- Whether an asynchronous command that `f` picks is outstanding. -/
def State.outstanding (s : State) (f : Outst → Bool) : Bool := s.cmd.async.any f

/-- An outstanding, started command of opcode `code` whose block names resource `i` in its first byte. -/
def Outst.on (o : Outst) (code i : Nat) : Bool := o.code == code && o.started && u8 o.pk.params 0 == i

/-- A supervision timeout of a command of opcode `code` is settled: one event and one report at partition level, with the
lower attempts made (R158, R424, R530). -/
def State.supReport (s : State) (code : Nat) (pk : Packet) (attempts : Nat) (withdrawn : Bool) : State :=
  let p := actsAs pk
  let s := s.setPart p { s.part p with supTimeouts := sat32 (s.part p).supTimeouts }
  let d := pack [(0, 16, code), (16, 8, clip 8 attempts), (24, 1, b2n withdrawn)]
  (s.raise (s.p0and p) (0x130 + p) 5 d).fault (0x130 + p) 0xB 2 p 5 d (clip 8 attempts) 0

/-- Commands of one source taken and not yet answered: each still needs a slot of the reply ring (R42). -/
def State.unanswered (s : State) (src : Source) : Nat :=
  (s.cmd.async.filter fun o => o.pk.src == src).length +
    (s.cmd.held.filter fun h => h.pk.src == src && !(s.cmd.async.any fun o => o.pk == h.pk)).length +
    (s.cmd.queues.map fun q => (q.2.filter fun c => c.pk.src == src).length).sum

end Sys2Proof.Machine
end

