-- ==== Sys2Proof/Machine/Ledger.lean ====
section
/-!
DEFINITION. Sys2Proof/Machine/Ledger.lean: outlets (the load channels 0–55, and bridge b as outlet 56 + b), which mechanism
of R32 decides an outlet, and the current budget ledger (R142, R143, R264 to R269).
-/

namespace Sys2Proof.Machine

/-- Nanoseconds of a millisecond and of a second. -/
def nsMs : Nat := 1000000
def nsS : Nat := 1000000000

def State.chan (s : State) (i : Nat) : Chan := s.lsw.chans.val {} i

def State.setChan (s : State) (i : Nat) (x : Chan) : State :=
  { s with lsw := { s.lsw with chans := s.lsw.chans.put {} i x } }

def State.bridge (s : State) (b : Nat) : Bridge := s.lsw.bridges.val {} b

def State.setBridge (s : State) (b : Nat) (x : Bridge) : State :=
  { s with lsw := { s.lsw with bridges := s.lsw.bridges.put {} b x } }

/-- Protection machines of channel or leg `i` (R86 index 0–67). -/
def State.prot (s : State) (i : Nat) : Prot := s.lsw.prot.val {} i

def State.setProt (s : State) (i : Nat) (x : Prot) : State :=
  { s with lsw := { s.lsw with prot := s.lsw.prot.put {} i x } }

def State.feed (s : State) (f : Nat) : Feed := s.pwr.feeds.val {} f

def State.setFeed (s : State) (f : Nat) (x : Feed) : State :=
  { s with pwr := { s.pwr with feeds := s.pwr.feeds.put {} f x } }

/-! ### Outlets -/

def outCount : Nat := 62

/-- The feed of an outlet (R203, R236). -/
def feedOf (k : Nat) : Nat := if 48 ≤ k && k < 56 then 1 else 0

def State.outlet (s : State) (k : Nat) : Outlet := if k < 56 then (s.chan k).o else (s.bridge (k - 56)).o

def State.setOutlet (s : State) (k : Nat) (o : Outlet) : State :=
  if k < 56 then s.setChan k { s.chan k with o := o } else s.setBridge (k - 56) { s.bridge (k - 56) with o := o }

def State.cfgOf (s : State) (k : Nat) : LoadCfg := if k < 56 then (s.chan k).cfg else (s.bridge (k - 56)).cfg

/-- The channels whose protection machines stand behind an outlet: itself, or the two legs of a bridge (R235). -/
def machines (k : Nat) : List Nat := if k < 56 then [k] else [56 + 2 * (k - 56), 57 + 2 * (k - 56)]

/-- The outlet of a channel or leg index 0–67. -/
def outletOf (i : Nat) : Nat := if i < 56 then i else 56 + (i - 56) / 2

def State.outOwner (s : State) (k : Nat) : Nat := if k < 56 then s.owner clsLoad k else s.owner clsBridge (k - 56)

/-- Recipients of the events of an outlet (R225, R250). -/
def State.outTo (s : State) (k : Nat) : List Nat := [s.outOwner k, 0]

/-- Whether an outlet is commanded on, to PWM or to a driving mode. -/
def State.wanted (s : State) (k : Nat) : Bool :=
  if k < 56 then (s.chan k).cmd != 0 else (s.bridge (k - 56)).cmd == 1 || (s.bridge (k - 56)).cmd == 2

/-- A machine that permits its output (R217). -/
def Prot.permits (p : Prot) : Bool := (p.oc == 0 || p.oc == 3) && p.th == 0

/-- In fault (R210). -/
def Prot.fault (p : Prot) : Bool := !p.permits

/-- Protection holds the outlet off (R32 row 2, R206, R243). -/
def State.protHeld (s : State) (k : Nat) : Bool := (machines k).any fun i => (s.prot i).fault

/-- Outputs of a feed set are inert: device not armed, or a UV latch (R32 row 1, R259, R260). -/
def State.inertOut (s : State) (k : Nat) : Bool :=
  !s.active || !s.dev.armed || (s.feed 0).uv || (feedOf k == 1 && (s.feed 1).uv)

/-- What a bit of `LSW_OUT` says of an outlet (R227): 0 inert, 1 off, 2 on, 3 PWM. -/
def State.chanOut (s : State) (i : Nat) : Nat :=
  if s.inertOut i then 0 else if !(s.chan i).o.on then 1 else if (s.chan i).cmd == 2 then 3 else 2

/-! ### Pour and envelope (R206, R212, R264) -/

/-- The largest step current of an envelope: its pour steps, or the steady current. -/
def LoadCfg.largest (c : LoadCfg) : Nat :=
  max c.steady (max (if c.s1d == 0 then 0 else c.s1c) (if c.s2d == 0 then 0 else c.s2c))

def LoadCfg.hasPour (c : LoadCfg) : Bool := c.s1d != 0 || c.s2d != 0

/-- Total pour duration in ns. -/
def LoadCfg.pourNs (c : LoadCfg) : Nat := (c.s1d + c.s2d) * 100000

/-- The largest pour step current still to come of a running pour, 0 without pour. -/
def Outlet.pourMax (o : Outlet) : Nat :=
  if o.step == 1 || o.pend then max (if o.d1 == 0 then 0 else o.c1) (if o.d2 == 0 then 0 else o.c2)
  else if o.step == 2 then o.c2 else 0

/-- What an outlet holds in account `a`, given its steady current (R264). -/
def Outlet.chargeIn (o : Outlet) (steady a : Nat) : Nat :=
  match o.acct with
  | none => 0
  | some b =>
    if o.retry then (if a = b then steady else 0) + (if a = 1 then o.pourMax - steady else 0)
    else if a = b then max steady o.pourMax else 0

/-- The charge of an outlet in an account. -/
def State.outCharge (s : State) (k a : Nat) : Nat := (s.outlet k).chargeIn (s.cfgOf k).steady a

/-- The charge of account `a` (0 scheduled, 1 command) of feed `f` (R143). -/
def State.charge (s : State) (f a : Nat) : Nat :=
  ((upFrom 0 outCount).map fun k => if feedOf k = f then s.outCharge k a else 0).sum

/-- The budget fraction in force, of 64 (R269). -/
def State.fraction (s : State) : Nat := if s.pwr.step == 3 then s.pwr.frac3 else if s.pwr.step == 2 then s.pwr.frac2 else 64

/-- The limit of an account in force (R143, R269). -/
def State.acctLimit (s : State) (f a : Nat) : Nat :=
  (if a = 0 then (s.feed f).budget - (s.feed f).reserve else (s.feed f).reserve) * s.fraction / 64

/-- Whether the ledger admits an amount to an account (R264). -/
def State.admits (s : State) (f a amount : Nat) : Bool := decide (s.charge f a + amount ≤ s.acctLimit f a)

/-- The index under which the ledger names an outlet: the channel, or leg A of the bridge (R245, R283). -/
def ledgerIdx (k : Nat) : Nat := if k < 56 then k else 56 + 2 * (k - 56)

/-- A refusal: counted, and LEDGER_REFUSED raised at most once per channel and canvas (R266). Origins: 0 stroke, 1 command,
2 ristretto, 3 resume, 4 safe state. -/
def State.refused (s : State) (k a origin amount : Nat) : State :=
  let f := feedOf k
  let s := s.setFeed f { s.feed f with refusals := sat16 (s.feed f).refusals }
  if s.dev.onceCanvas.contains (3, 1, 1000 + k) then s
  else ({ s with dev := { s.dev with onceCanvas := (3, 1, 1000 + k) :: s.dev.onceCanvas } }).raise [0, s.outOwner k] 3 1
    (pack [(0, 7, ledgerIdx k), (7, 1, a), (8, 1, f), (9, 3, origin), (16, 16, amount)])

/-- A refusal of a retry or thermal restart: counted only (R266). -/
def State.refusedQuiet (s : State) (k : Nat) : State :=
  s.setFeed (feedOf k) { s.feed (feedOf k) with refusals := sat16 (s.feed (feedOf k)).refusals }

/-- The machines behind an outlet mark since when it has been on without pour (R215). -/
def State.markOk (s : State) (k : Nat) (t : Option Nat) : State :=
  (machines k).foldl (fun s i => s.setProt i { s.prot i with okSince := t }) s

/-- The pour of the next turn-on is fixed: the steps in force now, or none (R214). -/
def State.outArm (s : State) (k : Nat) (acct : Option Nat) (pour retry : Bool) : State :=
  let c := s.cfgOf k
  s.setOutlet k { s.outlet k with
    on := false, pend := true, acct := acct, step := 0, retry := pour && retry
    c1 := if pour then c.s1c else 0, d1 := if pour then c.s1d else 0
    c2 := if pour then c.s2c else 0, d2 := if pour then c.s2d else 0 }

/-- The first rising gate command of an outlet whose turn-on is armed: its pour starts (R206). -/
def State.outGo (s : State) (k : Nat) : State :=
  let o := s.outlet k
  let step := if o.d1 != 0 then 1 else if o.d2 != 0 then 2 else 0
  (s.setOutlet k { o with
    on := true, pend := false, step := step
    stepEnd := s.et + (if step == 1 then o.d1 else o.d2) * 100000 }).markOk k (if step == 0 then some s.et else none)

/-- A turn-on now, with pour or without. -/
def State.outOn (s : State) (k : Nat) (acct : Option Nat) (pour retry : Bool) : State :=
  (s.outArm k acct pour retry).outGo k

/-- The output of an outlet goes off: its pour ends; the envelope stays where it is held (R206). A bridge coasts. -/
def State.outOff (s : State) (k : Nat) : State :=
  let s := s.setOutlet k { s.outlet k with on := false, pend := false, step := 0, retry := false }
  let s := if k < 56 then s else s.setBridge (k - 56) { s.bridge (k - 56) with out := 0 }
  s.markOk k none

/-- The envelope of an outlet is released and it leaves shedding (R206, R268). -/
def State.outRelease (s : State) (k : Nat) : State :=
  let s := s.setOutlet k { s.outlet k with acct := none, shed := false }
  s.setFeed (feedOf k) { s.feed (feedOf k) with resume := (s.feed (feedOf k)).resume.filter (· != k) }

/-! ### Pour neighbourhood (R204, R214) -/

/-- The thermal cell of a channel or leg (R204). -/
def cellOf (i : Nat) : Nat :=
  if i < 4 || (8 ≤ i && i < 12) || (24 ≤ i && i < 30) then 0
  else if i < 8 || (12 ≤ i && i < 16) || (30 ≤ i && i < 36) then 1
  else if (16 ≤ i && i < 20) || (36 ≤ i && i < 42) then 2
  else if i < 48 then 3
  else if i < 52 then 6
  else if i < 56 then 7
  else if i < 62 then 4
  else 5

/-- The cell of an outlet. -/
def outCell (k : Nat) : Nat := cellOf (ledgerIdx k)

/-- The other outlets of the cell of `k` (R204; legs of other bridges only, R243). -/
def neighbours (k : Nat) : List Nat := (upFrom 0 outCount).filter fun j => j != k && outCell j == outCell k

/-- Whether any neighbour is in pour. -/
def State.nbPour (s : State) (k : Nat) : Bool := (neighbours k).any fun j => (s.outlet j).step != 0

/-- Tp: the longest total pour among the enabled outlets of the cell, in ns (R214). -/
def State.tp (s : State) (k : Nat) : Nat :=
  ((upFrom 0 outCount).filter fun j => outCell j == outCell k && (s.cfgOf j).enabled).foldl
    (fun m j => max m (s.cfgOf j).pourNs) 0

/-! ### Shedding (R267, R268) -/

/-- The causes that shed class `c` on feed `f`, as bits: 0 sag, 1 overload, 2 derating (R267). -/
def State.shedCauses (s : State) (f c : Nat) : List Nat :=
  let x := s.feed f
  (if c == 3 && x.sag then [0] else []) ++
    (if (c == 3 && x.overload) || (c == 2 && x.overload && x.overload2) then [1] else []) ++
    (if (c == 3 && 2 ≤ s.pwr.step) || (c == 2 && s.pwr.step == 3) then [2] else [])

def State.classShed (s : State) (f c : Nat) : Bool := !(s.shedCauses f c).isEmpty

/-- Outlets of a class on a feed. -/
def State.classOuts (s : State) (f c : Nat) : List Nat :=
  (upFrom 0 outCount).filter fun k => feedOf k == f && (s.cfgOf k).enabled && (s.cfgOf k).loadClass == c

/-- One outlet is shed: held off, its charge released, its commanded state kept (R221, R268). -/
def State.shedOut (s : State) (k : Nat) : State :=
  if !s.wanted k then s
  else
    let a := (s.outlet k).acct.getD (s.outlet k).shedAcct
    let s := s.outOff k
    s.setOutlet k { s.outlet k with shed := true, shedAcct := a, acct := none }

/-- A class begins to be shed on a feed. -/
def State.shedStart (s : State) (f c cause : Nat) : State :=
  let s := (s.classOuts f c).foldl State.shedOut s
  let s := s.setFeed f { s.feed f with resume := (s.feed f).resume.filter fun k => (s.cfgOf k).loadClass != c }
  s.raise [0] 3 2 (pack [(0, 2, c), (2, 1, f), (4, 2, cause)])

/-- A class stops being shed on a feed: its shed outlets still commanded on line up to resume (R268). -/
def State.shedStop (s : State) (f c cause : Nat) : State :=
  let ks := (s.classOuts f c).filter fun k => (s.outlet k).shed
  let x := s.feed f
  let s := s.setFeed f { x with resume := x.resume ++ ks, resumeAt := max x.resumeAt s.et }
  s.raise [0] 3 3 (pack [(0, 2, c), (2, 1, f), (4, 2, cause)])

/-- After causes have changed from state `old`, classes 3 and 2 of feed `f` start or stop being shed, for cause `cause`. -/
def State.reshed (s old : State) (f cause : Nat) : State :=
  [3, 2].foldl (fun s c =>
    if s.classShed f c && !old.classShed f c then s.shedStart f c cause
    else if !s.classShed f c && old.classShed f c then s.shedStop f c cause
    else s) s

/-! ### Degradation causes (R27, R34) -/

/-- RUN and DEGRADED follow the degradation causes at once (R27). -/
def State.degrade (s : State) : State :=
  let cause := s.dev.causeTemp || s.dev.causeSag || s.dev.causeCrank || s.dev.causeTime
  if s.dev.state == .run && cause then { s with dev := { s.dev with state := .degraded } }
  else if s.dev.state == .degraded && !cause then { s with dev := { s.dev with state := .run } }
  else s

/-! ### Inert transitions (R31, R32 row 1, R222) -/

/-- An outlet goes inert: commanded state off or COAST, timers and pour stopped, charge released. -/
def State.inertOne (s : State) (k : Nat) : State :=
  let s := (s.outOff k).outRelease k
  if k < 56 then s.setChan k { s.chan k with cmd := 0, duty := 0, curDuty := 0 }
  else s.setBridge (k - 56) { s.bridge (k - 56) with cmd := 0, duty := 0, curDuty := 0 }

/-- The outlets that are listed in state: the enabled ones. -/
def State.enabledOuts (s : State) : List Nat := (upFrom 0 outCount).filter fun k => (s.cfgOf k).enabled

/-- Every outlet that `f` picks goes inert. -/
def State.inertWhere (s : State) (f : Nat → Bool) : State := (s.enabledOuts.filter f).foldl State.inertOne s

end Sys2Proof.Machine
end

