-- ==== Sys2Proof/Machine/Loads.lean ====
section
/-!
DEFINITION. Sys2Proof/Machine/Loads.lean: the protected load switch array (R203 to R234): commanded state, PWM, pour,
protection machines, open load, status pages and the LSW_ opcodes.
-/

namespace Sys2Proof.Machine

/-! ### Channel classes (R203, R209) -/

/-- Class of a channel or leg: 0 LA, 1 LB, 2 LC, 3 LD, 4 MB. -/
def classOf (i : Nat) : Nat := if i < 8 then 0 else if i < 24 then 1 else if i < 48 then 2 else if i < 56 then 3 else 4

/-- Nominal current, 0.1 A. -/
def nominal (i : Nat) : Nat := match classOf i with | 0 => 400 | 1 => 150 | 2 => 50 | 3 => 200 | _ => 120

/-- Largest over-current limit, 0.1 A. -/
def limitMax (i : Nat) : Nat := match classOf i with | 0 => 500 | 1 => 187 | 2 => 62 | 3 => 250 | _ => 150

/-- Shortest PWM period of the class, µs. -/
def periodMin (i : Nat) : Nat := match classOf i with | 0 => 5000 | 3 => 2000 | _ => 1000

/-- LSB of the sense code, µA (R209). -/
def senseLsb (i : Nat) : Nat := match classOf i with | 0 => 10000 | 1 => 4000 | 2 => 1250 | 3 => 5000 | _ => 3000

/-- Minimum on and off time of a slew setting in PWM, ns (R208). -/
def slewMin (sl : Nat) : Nat := match sl with | 0 => 20000 | 1 => 40000 | 2 => 80000 | _ => 160000

/-- Canvas length in ns (R99). -/
def State.canvasNs (s : State) : Nat := s.easel.canvasLen * 8

/-- A period in µs that R207 allows on channel `i`. -/
def State.periodOk (s : State) (i p : Nat) : Bool :=
  decide (periodMin i ≤ p) && decide (p ≤ 65535) && p != 0 && s.canvasNs % (p * 1000) == 0

/-- Pour fields that meet R212 for an over-current limit. -/
def pourOk (i limit c1 d1 c2 d2 : Nat) : Bool :=
  (if d1 == 0 then c1 == 0 && d2 == 0 else decide (limit ≤ c1) && decide (c1 ≤ 4 * nominal i)) &&
    (if d2 == 0 then c2 == 0 else decide (limit ≤ c2) && decide (c2 ≤ 4 * nominal i)) && decide (d1 + d2 ≤ 300)

/-- The current of an envelope at time `t` after turn-on (R142). -/
def envAt (steady c1 d1 c2 d2 t : Nat) : Nat := if t < d1 then c1 else if t < d1 + d2 then c2 else steady

/-- An envelope nowhere above the ledger entry's (R156). -/
def envWithin (c : LoadCfg) (c1 d1 c2 d2 : Nat) : Bool :=
  decide (d1 + d2 ≤ c.e1d + c.e2d) &&
    [0, d1, c.e1d, d1 + d2, c.e1d + c.e2d].all fun t =>
      decide (envAt c.steady c1 d1 c2 d2 t ≤ envAt c.steady c.e1c c.e1d c.e2c c.e2d t)

/-! ### Commanded state (R205, R206) -/

/-- A channel is commanded off: never refused; the pour ends, the envelope is released, a deferred retry is dropped. -/
def State.loadOff (s : State) (i : Nat) : State :=
  let s := (s.outOff i).outRelease i
  let s := s.setChan i { s.chan i with cmd := 0, duty := 0, curDuty := 0 }
  let p := s.prot i
  s.setProt i { p with oc := if p.oc == 2 then 3 else p.oc, thWait := none }

/-- Commanded on (`mode` 1) or to PWM (2) through account `acct`, from origin `origin` (R206, R264). The status is OK,
NO_RESOURCE, or LSW_PROTECTED where protection holds the channel off. -/
def State.loadOn (s : State) (i mode duty acct origin : Nat) : State × Nat :=
  let c := s.chan i
  let store := fun (s : State) => s.setChan i { s.chan i with
    cmd := mode, duty := duty, curDuty := if mode == 1 then 65535 else (s.chan i).curDuty }
  let held := s.protHeld i
  if c.cmd != 0 then
    let s := store s
    let s := if c.o.pend && mode == 1 then s.outGo i else s
    (s, if held then 0x0600 else stOk)
  else if s.classShed (feedOf i) c.cfg.loadClass then
    let s := store s
    (s.setOutlet i { s.outlet i with shed := true, shedAcct := acct }, if held then 0x0600 else stOk)
  else if held then
    if s.admits (feedOf i) acct c.cfg.steady then
      let s := store s
      (s.setOutlet i { s.outlet i with acct := some acct }, 0x0600)
    else (s.refused i acct origin c.cfg.steady, stNoResource)
  else if s.admits (feedOf i) acct c.cfg.largest then
    let s := store s
    (if mode == 1 then s.outOn i (some acct) true false else s.outArm i (some acct) true false, stOk)
  else (s.refused i acct origin c.cfg.largest, stNoResource)

/-- A channel takes a mode and a duty: duty 0 is off, 65 535 on, and PWM on a channel with no configured period is executed
as on and counted (R205). -/
def State.loadCommand (s : State) (i mode duty acct origin : Nat) : State × Nat :=
  if !(s.chan i).cfg.enabled then (s, stOk)
  else
    let s := s.setChan i { s.chan i with safe := false }
    if mode == 0 || (mode == 2 && duty == 0) then (s.loadOff i, if s.protHeld i then 0x0600 else stOk)
    else if mode == 1 || duty == 65535 then s.loadOn i 1 65535 acct origin
    else if (s.chan i).period == 0 then
      (s.setChan i { s.chan i with clamps := sat16 (s.chan i).clamps }).loadOn i 1 65535 acct origin
    else s.loadOn i 2 duty acct origin

/-- A gateway value for a channel: 0 off, 65 535 on, other values PWM at that duty (R167, R205). -/
def State.loadValue (s : State) (i : Nat) (v : Int) (acct origin : Nat) : State :=
  let d := v.toNat
  (s.loadCommand i (if d == 0 then 0 else if d == 65535 then 1 else 2) d acct origin).1

/-- Age of an actuator command (R172). -/
def ActRec.cmdAge (r : ActRec) : Nat := if r.has then min 255 (r.age + r.since) else 255

def State.actRec (s : State) (k : Nat) : ActRec := s.gw.recs.val {} k

/-- LOAD_SET on a channel whose stroke executes (R205). -/
def State.loadSet (s : State) (i mode duty period : Nat) : State :=
  let s := if mode == 2 && (s.chan i).cfg.enabled then s.setChan i { s.chan i with period := period } else s
  (s.loadCommand i mode duty 0 0).1

/-- LOAD_APPLY on a channel whose stroke executes (R103, R172, R205). -/
def State.loadApply (s : State) (i ageLimit fallback : Nat) : State :=
  let r := s.actRec i
  if ageLimit != 0 && decide (ageLimit < r.cmdAge) then
    match fallback with
    | 0 => (s.loadCommand i 0 0 0 0).1
    | 2 => (s.loadCommand i 1 65535 0 0).1
    | _ => s
  else if !r.has then s
  else s.loadValue i r.value 0 0

/-! ### PWM (R207, R208, R263) -/

/-- The voltage-compensated duty of a lamp in sag (R263). -/
def State.lampDuty (s : State) (i : Nat) : Nat :=
  let c := s.chan i
  let f := feedOf i
  if c.lamp && (s.feed f).sag && (s.feed f).v != 0 then
    let vref := if f == 0 then s.pwr.vref else 4800
    min 65535 (c.duty * vref * vref / ((s.feed f).v * (s.feed f).v))
  else c.duty

/-- The on time of a period, and whether it was clamped (R207). -/
def pwmOn (periodNs duty minNs : Nat) : Nat × Bool :=
  let t := duty * periodNs / 65536 / 8 * 8
  if t < minNs then (minNs, true) else if periodNs - t < minNs then (periodNs, true) else (t, false)

/-- A PWM period of channel `i` starts. -/
def State.loadPeriod (s : State) (i : Nat) : State :=
  let c := s.chan i
  if c.cmd != 2 || !(c.o.on || c.o.pend) then s
  else
    let d := s.lampDuty i
    let clamped := (pwmOn (c.period * 1000) d (slewMin c.cfg.slew)).2
    let s := s.setChan i { c with
      curDuty := d, curPeriod := c.period, clamps := if clamped then sat16 c.clamps else c.clamps }
    if c.o.pend then s.outGo i else s

/-! ### Over-current (R212 to R215, R243) -/

/-- The trip level of the outlet of channel or leg `i`, 0.1 A (R212). -/
def State.tripLevel (s : State) (i : Nat) : Nat :=
  let k := outletOf i
  let o := s.outlet k
  match o.step with | 1 => o.c1 | 2 => o.c2 | _ => (s.cfgOf k).limit

/-- Channel or leg `i` conducts. -/
def State.conducts (s : State) (i : Nat) : Bool :=
  if i < 56 then (s.chan i).o.on else (s.bridge (outletOf i - 56)).out != 0

/-- The output of an outlet whose machines permit it follows its commanded state again: a bridge commanded to BRAKE brakes
(R217, R243). -/
def State.restoreOut (s : State) (k : Nat) : State :=
  if k < 56 then s
  else
    let b := s.bridge (k - 56)
    if b.cmd == 3 && !s.protHeld k && !b.xlock && !b.o.shed && !s.inertOut k then s.setBridge (k - 56) { b with out := 3 } else s

/-- A trip (R213, R215). -/
def State.ocTrip (s : State) (i : Nat) : State :=
  let k := outletOf i
  let o := s.outlet k
  let level := s.tripLevel i
  let n := (s.cfgOf k).retryN
  let p := s.prot i
  let s := s.outOff k
  let latch := decide (n ≤ p.att)
  let s := s.setProt i { s.prot i with
    oc := if latch then 4 else 1
    pauseEnd := s.et + 2 ^ p.att * nsMs
    trips := sat32 p.trips, lastTrip := s.et }
  let s := s.raise (s.outTo k) (0x10 + i) 1 (pack [(0, 4, p.att), (4, 2, o.step), (16, 16, level)])
  if latch then s.raise (s.outTo k) (0x10 + i) 3 (pack [(0, 4, p.att)]) else s

/-- How a waiting retry or restart that began to wait at `start` is admitted: none yet, or with or without pour (R214). -/
def State.retryVerdict (s : State) (k start : Nat) (nb : Bool) : Option Bool :=
  let c := s.cfgOf k
  let bound := decide (start + s.tp k ≤ s.et)
  if nb && s.nbPour k && !bound then none
  else if !c.hasPour then some false
  else if s.admits (feedOf k) 1 (c.largest - c.steady) then some true
  else if bound then some false else none

/-- The output of an outlet comes back after a retry or a thermal restart, with its commanded state as it stands; into PWM
at the next period start; held back while shed, inert or held by another machine (R214, R215, R243). -/
def State.outBack (s : State) (k : Nat) (pour : Bool) : State :=
  let o := s.outlet k
  if s.protHeld k || o.shed || s.inertOut k || !s.wanted k || o.on then s
  else if k < 56 then
    if (s.chan k).cmd == 2 then s.outArm k o.acct pour true else s.outOn k o.acct pour true
  else
    let b := s.bridge (k - 56)
    if b.xlock || b.stalled == b.cmd then s
    else (s.outOn k o.acct pour true).setBridge (k - 56) { (s.outOn k o.acct pour true).bridge (k - 56) with out := b.cmd }

/-- A deferred retry is admitted: a rises, the output turns on, OC_RETRY (R215, R225). -/
def State.ocRetry (s : State) (i : Nat) (pour : Bool) : State :=
  let k := outletOf i
  let p := s.prot i
  let s := s.setProt i { p with oc := 3, att := p.att + 1 }
  let s := s.outBack k pour
  s.raise (s.outTo k) (0x10 + i) 2
    (pack [(0, 4, p.att + 1), (4, 1, b2n p.deferNb), (5, 1, b2n (!pour && (s.cfgOf k).hasPour)),
      (16, 16, clip 16 ((s.et - p.deferAt) / 1000))])

/-- A retry pause has elapsed in thermal state COOL (R215). -/
def State.ocPauseEnd (s : State) (i : Nat) : State :=
  let k := outletOf i
  if !s.wanted k then (s.setProt i { s.prot i with oc := 3 }).restoreOut k
  else
    let nb := s.nbPour k && s.tp k != 0
    let s := s.setProt i { s.prot i with oc := 2, deferAt := s.et, deferNb := nb }
    match s.retryVerdict k s.et true with
    | some pour => s.ocRetry i pour
    | none =>
      let s := if nb then s else s.refusedQuiet k
      s.setProt i { s.prot i with deferrals := sat16 (s.prot i).deferrals }

/-- A running pour step ends: the next step, or the end of the pour, with a waiting over-current limit (R212, R230). -/
def State.pourStepEnd (s : State) (k : Nat) : State :=
  let o := s.outlet k
  if o.step == 1 && o.d2 != 0 then s.setOutlet k { o with step := 2, stepEnd := o.stepEnd + o.d2 * 100000 }
  else
    let s := (s.setOutlet k { o with step := 0, retry := false }).markOk k (some s.et)
    if k < 56 then
      match (s.chan k).nextLimit with
      | none => s
      | some l => s.setChan k { s.chan k with nextLimit := none, cfg := { (s.chan k).cfg with limit := l } }
    else
      match (s.bridge (k - 56)).nextLimit with
      | none => s
      | some l => s.setBridge (k - 56)
          { s.bridge (k - 56) with nextLimit := none, cfg := { (s.bridge (k - 56)).cfg with limit := l } }

/-! ### Thermal (R216, R217) -/

/-- Stored shutdowns within the last 10 s. -/
def State.recentShutdowns (s : State) (i : Nat) : List Nat :=
  (s.prot i).shutdowns.filter fun t => decide (s.et < t + 10 * nsS)

/-- A thermal shutdown of channel or leg `i`. -/
def State.thShutdown (s : State) (i : Nat) (tj dt : Int) : State :=
  let k := outletOf i
  let list := s.et :: s.recentShutdowns i
  let latch := decide (4 ≤ list.length)
  let s := s.outOff k
  let p := s.prot i
  let s := s.setProt i { p with
    th := if latch then 2 else 1, shutdowns := list, thAt := s.et, thOver := false, thWait := none, tj := tj, dt := dt
    oc := if p.oc == 2 then 1 else p.oc
    pauseEnd := if p.oc == 2 then s.et else p.pauseEnd
    thShutdowns := sat16 p.thShutdowns }
  let s := { s with lsw := if i < 48 || 56 ≤ i then { s.lsw with trefLv := tj - dt } else { s.lsw with tref48 := tj - dt } }
  let s := s.raise (s.outTo k) (0x10 + i) 5
    (pack [(0, 3, list.length), (3, 1, b2n (decide (1700 ≤ tj))), (4, 1, b2n (decide (600 ≤ dt))), (16, 16, twos 16 tj)])
  if latch then s.raise (s.outTo k) (0x10 + i) 7 (twos 32 tj) else s

/-- A hot channel has cooled: COOL, and a restart under R214 without neighbour deferral, or a wait for the ledger. -/
def State.thRestart (s : State) (i : Nat) (tj dt : Int) : State :=
  let k := outletOf i
  let p := s.prot i
  let s := s.setProt i { p with th := 0, tj := tj, dt := dt }
  let s := s.raise (s.outTo k) (0x10 + i) 6 ((s.et - p.thAt) / nsMs)
  if (p.oc == 0 || p.oc == 3) && s.wanted k then
    match s.retryVerdict k s.et false with
    | some pour => s.outBack k pour
    | none => (s.refusedQuiet k).setProt i { (s.refusedQuiet k).prot i with thWait := some s.et }
  else s.restoreOut k

/-! ### Open load (R219) -/

/-- A channel is monitored for open load. -/
def State.monitored (s : State) (i : Nat) : Bool :=
  let c := s.chan i
  c.olEn && c.o.on && c.o.step == 0 && !(s.prot i).fault && !(s.feed (feedOf i)).sag

/-- The open-load machine at the end of a millisecond with on-phase mean `mean` over `n` counted codes. -/
def State.olMs (s : State) (i mean n : Nat) : State :=
  let c := s.chan i
  if !s.monitored i then (if c.ol == 2 then s.setChan i { c with ol := 1, olRun := 0 } else s)
  else if n < 20 then s
  else
    let below := decide (mean * senseLsb i < c.olThr * 10000)
    let clear := decide (c.olThr * 10000 * 1125 ≤ mean * senseLsb i * 1000)
    let c := { c with olMean := mean }
    s.setChan i (match c.ol with
      | 3 => { c with olOk := if clear then c.olOk + 1 else 0 }
      | 2 => if below then { c with olRun := c.olRun + 1 } else { c with ol := 1, olRun := 0 }
      | _ => if below then { c with ol := 2, olRun := 1 } else { c with ol := 1, olRun := 0 })

/-! ### Sense words and status pages (R210, R211, R226, R227) -/

/-- A sense word of channel or leg `i` (R210). -/
def State.senseWord (s : State) (i code : Nat) : Nat :=
  pack [(0, 14, if (s.prot i).fault then 0x3FFF else min code 0x3FFE),
    (14, 1, b2n (s.feed (feedOf (outletOf i))).sag), (15, 1, b2n s.lsw.slow)]

/-- The level of the ISM pin in millivolts (R211). -/
def State.ismMv (s : State) : Nat :=
  if 68 ≤ s.lsw.ism then 0
  else if (s.prot s.lsw.ism).fault then 4500
  else 3000 * min (s.prot s.lsw.ism).sense 0x3FFE / 16382

/-- The ten words of the page of channel `i` (R227), or of leg `i` with the words of R251. -/
def State.chanWords (s : State) (i : Nat) : List Nat :=
  let p := s.prot i
  let c := s.chan i
  let leg := decide (56 ≤ i)
  let k := outletOf i
  let o := s.outlet k
  let b := s.bridge (k - 56)
  let legB := i % 2 == 1
  let high := (b.out == 1 && !legB) || (b.out == 2 && legB)
  let out := if leg then
      (if s.inertOut k then 0 else if b.out == 0 then 1 else if high then 2 else 3)
    else s.chanOut i
  let z := fun (v : Nat) => if leg then 0 else v
  [ pack [(0, 2, out), (2, 2, z c.cmd), (4, 3, p.oc), (8, 2, p.th), (10, 2, z c.ol), (12, 1, z (b2n (s.monitored i))),
      (13, 2, o.step), (15, 1, b2n p.fault), (16, 1, z (b2n c.safe)), (17, 1, z (b2n c.o.shed)), (18, 2, z c.cfg.slew)],
    pack [(0, 16, s.senseWord i p.sense), (16, 16, s.senseWord i p.avg)],
    pack [(0, 16, z (s.senseWord i p.senseOn)), (16, 16, z c.period)],
    pack [(0, 16, z c.curDuty), (16, 4, p.att), (20, 4, (s.cfgOf k).retryN), (24, 3, (s.recentShutdowns i).length)],
    pack [(0, 16, twos 16 p.tj), (16, 16, twos 16 p.dt)],
    lo32 p.trips,
    pack [(0, 16, p.thShutdowns), (16, 16, z c.olEvents)],
    pack [(0, 16, p.deferrals), (16, 16, z c.clamps)],
    lo32 p.lastTrip, hi32 p.lastTrip ]

/-- Page 0 of LSW_ (R226). -/
def State.lswPage0 (s : State) : List Nat :=
  let flt := mapBits (fun i => (s.prot i).fault) 56
  let ocl := mapBits (fun i => (s.prot i).oc == 4) 56
  let thl := mapBits (fun i => (s.prot i).th == 2) 56
  let cells := mapBits (fun c => (upFrom 0 outCount).any fun k => outCell k == c && (s.outlet k).step != 0) 8
  [ pack [(0, 8, s.lsw.ism), (8, 1, b2n (decide (s.lsw.ism < 68) && (s.prot s.lsw.ism).fault))],
    lo32 flt, hi32 flt, lo32 ocl, hi32 ocl, lo32 thl, hi32 thl,
    pack [(0, 1, b2n s.lsw.slow), (1, 1, b2n (s.feed 0).sag), (2, 1, b2n (s.feed 1).sag)],
    pack [(0, 16, twos 16 s.lsw.trefLv), (16, 16, twos 16 s.lsw.tref48)],
    cells ]

/-! ### Opcodes (R228 to R234) -/

/-- Open-stroke class 2 (R116). -/
def loadOwners (ps : List Byte) (s : State) : List Nat := [s.owner clsLoad (u16 ps 0)]

def chanEnabled (pk : Packet) (s : State) : Nat := if (s.chan (u16 pk.params 0)).cfg.enabled then stOk else 0x0604

def lswSetSpec : OpSpec where
  code := 0x0400
  comp := .O
  cls := 2
  issuer := .own
  len := lenIs 4
  fields := fun ps _ => decide (u16 ps 0 < 56) && decide (u8 ps 2 ≤ 1) && zeroAt ps 3 1
  owners := loadOwners
  key := fun ps => u16 ps 0 + 1
  check := chanEnabled
  act := fun pk s =>
    let i := u16 pk.params 0
    let on := u8 pk.params 2 == 1
    if s.inertOut i then (if on then fail 0x0606 s else ok s)
    else
      let r := s.loadCommand i (if on then 1 else 0) (if on then 65535 else 0) 1 1
      ⟨r.1, some (r.2, [])⟩

def lswSetPwmSpec : OpSpec where
  code := 0x0401
  comp := .O
  cls := 2
  issuer := .own
  len := lenIs 8
  fields := fun ps _ => decide (u16 ps 0 < 56) && zeroAt ps 2 2
  owners := loadOwners
  key := fun ps => u16 ps 0 + 1
  check := fun pk s =>
    if !(s.chan (u16 pk.params 0)).cfg.enabled then 0x0604
    else if s.periodOk (u16 pk.params 0) (u16 pk.params 6) then stOk else 0x0602
  act := fun pk s =>
    let i := u16 pk.params 0
    let d := u16 pk.params 4
    let p := u16 pk.params 6
    let min := (s.chan i).cfg.minPeriod
    if min != 0 && decide (p < min) then fail stContract s
    else if s.inertOut i then (if d == 0 then ok s else fail 0x0606 s)
    else
      let s1 := s.setChan i { s.chan i with period := p }
      let r := s1.loadCommand i (if d == 0 then 0 else if d == 65535 then 1 else 2) d 1 1
      if r.2 == stNoResource then ⟨r.1.setChan i { r.1.chan i with period := (s.chan i).period }, some (stNoResource, [])⟩
      else ⟨r.1, some (r.2, [])⟩

/-- The over-current limit and pour that LSW_CONFIG would leave in force. -/
def cfgLimit (ps : List Byte) (c : LoadCfg) (limOff selBit sel : Nat) : Nat := if sel.testBit selBit then u16 ps limOff else c.limit

/-- A channel after LSW_CONFIG: each selected parameter takes its value; a limit given in a pour waits for its end (R230). -/
def lswConfigured (ps : List Byte) (c : Chan) : Chan :=
  let sel := u8 ps 2
  let pouring := c.o.step != 0
  let g := c.cfg
  let g := if sel.testBit 0 then { g with slew := u8 ps 3 } else g
  let g := if sel.testBit 1 && !pouring then { g with limit := u16 ps 4 } else g
  let g := if sel.testBit 2 then
    { g with s1c := u16 ps 6, s1d := u16 ps 8, s2c := u16 ps 10, s2d := u16 ps 12 } else g
  let g := if sel.testBit 3 then { g with retryN := u8 ps 14 } else g
  let c := { c with cfg := g, nextLimit := if sel.testBit 1 then (if pouring then some (u16 ps 4) else none) else c.nextLimit }
  if sel.testBit 4 then
    { c with olEn := u8 ps 15 == 1, olThr := u16 ps 16, olFilter := u16 ps 18, ol := 0, olRun := 0, olOk := 0 } else c

def lswConfigSpec : OpSpec where
  code := 0x0402
  comp := .O
  cls := 2
  issuer := .own
  len := lenIs 24
  fields := fun ps s =>
    let i := u16 ps 0
    let sel := u8 ps 2
    let c := s.chan i
    let lim := cfgLimit ps c.cfg 4 1 sel
    decide (i < 56) && decide (sel < 32) && zeroAt ps 20 4 &&
      (if sel.testBit 0 then decide (u8 ps 3 ≤ 3) else zeroAt ps 3 1) &&
      (if sel.testBit 1 then decide (5 ≤ u16 ps 4) && decide (u16 ps 4 ≤ limitMax i) && decide (c.cfg.steady ≤ u16 ps 4)
        else zeroAt ps 4 2) &&
      (if sel.testBit 2 then decide (u16 ps 8 ≤ 300) && decide (u16 ps 12 ≤ 300) else zeroAt ps 6 8) &&
      (if sel.testBit 3 then decide (u8 ps 14 ≤ 15) else zeroAt ps 14 1) &&
      (if sel.testBit 4 then
        decide (u8 ps 15 ≤ 1) &&
          ((u8 ps 15 == 0 && u16 ps 16 == 0) || (decide (1 ≤ u16 ps 16) && decide (u16 ps 16 ≤ 1000) && decide (u16 ps 16 < lim * 10))) &&
          ((u8 ps 15 == 0 && u16 ps 18 == 0) || (decide (1 ≤ u16 ps 18) && decide (u16 ps 18 ≤ 1000)))
        else zeroAt ps 15 5)
  owners := loadOwners
  key := fun ps => u16 ps 0 + 1
  check := fun pk s =>
    let ps := pk.params
    let i := u16 ps 0
    let sel := u8 ps 2
    let c := (s.chan i).cfg
    if !c.enabled then 0x0604
    else if sel.testBit 1 && decide (c.imgLimit < u16 ps 4) then 0x0603
    else if sel.testBit 2 && !pourOk i (cfgLimit ps c 4 1 sel) (u16 ps 6) (u16 ps 8) (u16 ps 10) (u16 ps 12) then 0x0605
    else stOk
  act := fun pk s =>
    let ps := pk.params
    let i := u16 ps 0
    let sel := u8 ps 2
    let c := s.chan i
    if (sel.testBit 3 && decide (c.cfg.imgRetry < u8 ps 14)) ||
        (sel.testBit 2 && !envWithin c.cfg (u16 ps 6) (u16 ps 8) (u16 ps 10) (u16 ps 12)) then fail stContract s
    else ok (s.setChan i (lswConfigured ps c))

def lswGetStatusSpec : OpSpec where
  code := 0x0403
  comp := .S
  issuer := .ownP0
  len := lenIs 4
  fields := fun ps _ => decide (u16 ps 0 < 56) && zeroAt ps 2 2
  owners := loadOwners
  key := fun ps => u16 ps 0 + 1
  check := chanEnabled
  act := fun pk s => okWith (wordBytes (s.chanWords (u16 pk.params 0))) s

def lswClearOcLatchSpec : OpSpec where
  code := 0x0404
  comp := .O
  cls := 2
  issuer := .own
  len := lenIs 4
  fields := fun ps _ => decide (u16 ps 0 < 56) && zeroAt ps 2 2
  owners := loadOwners
  key := fun ps => u16 ps 0 + 1
  check := fun pk s =>
    let i := u16 pk.params 0
    if !(s.chan i).cfg.enabled then 0x0604 else if (s.prot i).oc == 4 then stOk else 0x0601
  act := fun pk s =>
    let i := u16 pk.params 0
    let s := s.loadOff i
    let s := s.setProt i { s.prot i with oc := 0, att := 0 }
    ok (s.raise (s.outTo i) (0x10 + i) 0xA 1)

/-- Both restart thresholds of R216 are met. -/
def Prot.cooled (p : Prot) : Bool := decide (p.tj ≤ 1500) && decide (p.dt ≤ 400)

def lswClearThermalLatchSpec : OpSpec where
  code := 0x0405
  comp := .O
  cls := 2
  issuer := .own
  len := lenIs 4
  fields := fun ps _ => decide (u16 ps 0 < 56) && zeroAt ps 2 2
  owners := loadOwners
  key := fun ps => u16 ps 0 + 1
  check := fun pk s =>
    let i := u16 pk.params 0
    if !(s.chan i).cfg.enabled then 0x0604 else if (s.prot i).th == 2 then stOk else 0x0601
  act := fun pk s =>
    let i := u16 pk.params 0
    let s := s.loadOff i
    let p := s.prot i
    let s := s.setProt i { p with th := if p.cooled then 0 else 1, shutdowns := [] }
    ok (s.raise (s.outTo i) (0x10 + i) 0xA 2)

def lswIsmSelectSpec : OpSpec where
  code := 0x0406
  comp := .O
  cls := 2
  issuer := .p0
  len := lenIs 4
  fields := fun ps _ => (decide (u16 ps 0 < 68) || u16 ps 0 == 0xFFFF) && zeroAt ps 2 2
  act := fun pk s =>
    ok { s with lsw := { s.lsw with ism := if u16 pk.params 0 == 0xFFFF then 0xFF else u16 pk.params 0 } }

end Sys2Proof.Machine
end

