-- ==== Sys2Proof/Machine/Bridges.lean ====
section
/-!
DEFINITION. Sys2Proof/Machine/Bridges.lean: the motor half-bridges (R235 to R255): modes, interlock, stall, status pages and
the MBR_ opcodes; and the safe states of channels and bridges at a partition reset (R220, R246).
-/

namespace Sys2Proof.Machine

/-- Event source of a bridge (R86). -/
def mbrSrc (b : Nat) : Nat := 0x54 + b

/-- The zero mode of a bridge (R238). -/
def Bridge.zero (x : Bridge) : Nat := if x.zeroBrake then 3 else 0

/-- Minimum on and off time, ns, and minimum dead time, ticks, of a slew setting (R240). -/
def mbrSlewMin (sl : Nat) : Nat := match sl with | 0 => 200 | 1 => 300 | 2 => 500 | _ => 1000
def mbrDeadMin (sl : Nat) : Nat := match sl with | 0 => 12 | 1 => 12 | 2 => 20 | _ => 40

/-- A PWM period in ns that R239 allows. -/
def State.mbrPeriodOk (s : State) (p : Nat) : Bool :=
  decide (25000 ≤ p) && decide (p ≤ 10000000) && p % 8 == 0 && s.canvasNs % p == 0 && p != 0

/-- MBR_STALLED clears when another mode than the stalled direction is set (R248). -/
def State.unstall (s : State) (b mode : Nat) : State :=
  let x := s.bridge b
  if x.stalled == 0 || x.stalled == mode then s
  else (s.setBridge b { x with stalled := 0 }).raise (s.outTo (56 + b)) (mbrSrc b) 2 0

/-- Bridge `b` is set to COAST or BRAKE: never refused (R244). -/
def State.bridgeOff (s : State) (b mode : Nat) : State :=
  let k := 56 + b
  let s := (s.outOff k).outRelease k
  let s := s.setBridge b { s.bridge b with cmd := mode, duty := 0, curDuty := 0 }
  let s := (machines k).foldl (fun s i =>
    s.setProt i { s.prot i with oc := if (s.prot i).oc == 2 then 3 else (s.prot i).oc, thWait := none }) s
  s.restoreOut k

/-- Bridge `b` is set to a driving mode with a duty other than 0 (R243, R244, R248). -/
def State.bridgeDrive (s : State) (b mode duty acct origin : Nat) : State × Nat :=
  let k := 56 + b
  let x := s.bridge b
  let held := s.protHeld k || x.xlock
  let pwm := duty != 65535 && x.period != 0
  let store := fun (s : State) => s.setBridge b { s.bridge b with
    cmd := mode, duty := duty, curDuty := if pwm then (s.bridge b).curDuty else 65535
    clamps := if duty != 65535 && x.period == 0 then sat16 (s.bridge b).clamps else (s.bridge b).clamps }
  if x.stalled == mode then (store s, 0x0687)
  else if x.cmd == mode then (store s, if held then 0x0680 else stOk)
  else
    let was := x.out
    let s := (s.outOff k).outRelease k
    if s.classShed 0 x.cfg.loadClass then
      let s := store s
      (s.setOutlet k { s.outlet k with shed := true, shedAcct := acct }, if held then 0x0680 else stOk)
    else
      let amount := if held then x.cfg.steady else x.cfg.largest
      if !s.admits 0 acct amount then
        ((s.refused k acct origin amount).bridgeOff b x.zero, stNoResource)
      else
        let s := store s
        if held then (s.setOutlet k { s.outlet k with acct := some acct }, 0x0680)
        else if pwm || ((was == 1 || was == 2) && x.period != 0) then
          let s := s.outArm k (some acct) true false
          (s.setBridge b { s.bridge b with out := if was == 1 || was == 2 then was else 0 }, stOk)
        else
          let s := s.outOn k (some acct) true false
          (s.setBridge b { s.bridge b with out := mode }, stOk)

/-- A bridge takes a mode and a duty (R238): a driving mode with duty 0 is the zero mode. -/
def State.bridgeCommand (s : State) (b mode duty acct origin : Nat) : State × Nat :=
  let x := s.bridge b
  if !x.cfg.enabled then (s, stOk)
  else
    let m := if (mode == 1 || mode == 2) && duty == 0 then x.zero else mode
    let s := (s.setBridge b { x with safe := false }).unstall b m
    if m == 1 || m == 2 then s.bridgeDrive b m duty acct origin
    else (s.bridgeOff b m, if s.protHeld (56 + b) || x.xlock then 0x0680 else stOk)

/-- A gateway value for a bridge (R238). -/
def State.bridgeValue (s : State) (b : Nat) (v : Int) (acct origin : Nat) : State :=
  let d := min (v.natAbs * 65535 / 32767) 65535
  if v == 0 then (s.bridgeCommand b (s.bridge b).zero 0 acct origin).1
  else (s.bridgeCommand b (if 0 < v then 1 else 2) d acct origin).1

/-- BRIDGE_SET on a bridge whose stroke executes. -/
def State.bridgeSet (s : State) (b mode duty period : Nat) : State :=
  let s := if (mode == 1 || mode == 2) && (s.bridge b).cfg.enabled && period != 0 then
    s.setBridge b { s.bridge b with period := period } else s
  (s.bridgeCommand b mode duty 0 0).1

/-- BRIDGE_APPLY on a bridge whose stroke executes (R103). -/
def State.bridgeApply (s : State) (b ageLimit fallback : Nat) : State :=
  let r := s.actRec (56 + b)
  if ageLimit != 0 && decide (ageLimit < r.cmdAge) then
    match fallback with
    | 0 => (s.bridgeCommand b 0 0 0 0).1
    | 2 => (s.bridgeCommand b 3 0 0 0).1
    | _ => s
  else if !r.has then s
  else s.bridgeValue b r.value 0 0

/-- A PWM period of bridge `b` starts: duty, and a direction that waits (R239). -/
def State.bridgePeriod (s : State) (b : Nat) : State :=
  let x := s.bridge b
  let k := 56 + b
  if x.period == 0 || !(x.o.on || x.o.pend) then s
  else
    let m := max (mbrSlewMin x.cfg.slew) (2 * x.dead * 8)
    let clamped := x.duty != 65535 && (pwmOn x.period x.duty m).2
    let s := s.setBridge b { x with curDuty := x.duty, clamps := if clamped then sat16 x.clamps else x.clamps }
    if x.o.pend then (s.outGo k).setBridge b { (s.outGo k).bridge b with out := x.cmd } else s

/-! ### Stall and interlock (R242, R247) -/

/-- The leg whose low side conducts throughout while bridge `b` drives. -/
def State.lowLeg (s : State) (b : Nat) : Option Nat :=
  match (s.bridge b).out with
  | 1 => some (57 + 2 * b)
  | 2 => some (56 + 2 * b)
  | _ => none

/-- The end of a millisecond for leg `i`: the bridge current and the stall filter (R247). -/
def State.stallMs (s : State) (i avg : Nat) (drove : Bool) : State :=
  let b := outletOf i - 56
  let x := s.bridge b
  if s.lowLeg b != some i then s
  else
    let above := drove && decide (x.stallThr * 100 < avg * 3)
    s.setBridge b { x with current := avg * 3 / 100, stallRun := if x.stallEn && above then x.stallRun + 1 else 0 }

/-- The stall filter has run out: the stall action is applied (R247). -/
def State.stall (s : State) (b : Nat) : State :=
  let x := s.bridge b
  let k := 56 + b
  let s := (s.outOff k).outRelease k
  let s := s.setBridge b { s.bridge b with
    stalled := x.out, stallRun := 0, stalls := sat16 x.stalls, out := if x.stallBrake then 3 else 0 }
  s.raise (s.outTo k) (mbrSrc b) 1 (pack [(0, 16, x.current), (16, 2, x.out)])

/-- A sensed gate still high 2 µs after its turn-off command (R242, R530). -/
def State.xcondFault (s : State) (b leg side : Nat) : State :=
  let k := 56 + b
  let s := s.outOff k
  let s := s.setBridge b { s.bridge b with xlock := true, xcond := sat16 (s.bridge b).xcond }
  let data := pack [(0, 1, leg), (1, 1, side)]
  let s := s.raise (s.outTo k) (mbrSrc b) 3 data
  s.fault (mbrSrc b) 0xC 1 (s.outOwner k) 3 data 0 0

/-! ### Status pages (R251) -/

/-- The six words of the page of bridge `b`. -/
def State.bridgeWords (s : State) (b : Nat) : List Nat :=
  let x := s.bridge b
  let out := if s.inertOut (56 + b) then 0 else x.out + 1
  [ pack [(0, 3, out), (4, 2, x.cmd), (6, 1, b2n (x.stalled != 0)), (7, 1, b2n x.xlock), (8, 1, b2n x.safe),
      (9, 1, b2n x.o.shed), (10, 2, x.o.step), (12, 2, x.cfg.slew)],
    pack [(0, 16, x.curDuty), (16, 16, x.current)],
    x.period, x.dead,
    pack [(0, 16, x.stalls), (16, 16, x.xcond)],
    x.clamps ]

/-- Page 0 of MBR_. -/
def State.mbrPage0 (s : State) : List Nat :=
  [ mapBits (fun j => (s.prot (56 + j)).fault) 12,
    pack [(0, 12, mapBits (fun j => (s.prot (56 + j)).oc == 4) 12), (16, 12, mapBits (fun j => (s.prot (56 + j)).th == 2) 12)],
    pack [(0, 6, mapBits (fun b => (s.bridge b).stalled != 0) 6), (8, 6, mapBits (fun b => (s.bridge b).xlock) 6)] ]

/-! ### Opcodes (R252 to R255) -/

def mbrOwners (ps : List Byte) (s : State) : List Nat := [s.owner clsBridge (u8 ps 0)]

/-- Over-current latches, or thermal latches, of bridge `b` are cleared on both legs together (R243). -/
def State.mbrClear (s : State) (b : Nat) (oc : Bool) : State :=
  let s := s.bridgeOff b 0
  (machines (56 + b)).foldl (fun s i =>
    let p := s.prot i
    if oc && p.oc == 4 then
      (s.setProt i { p with oc := 0, att := 0 }).raise (s.outTo (56 + b)) (0x10 + i) 0xA 1
    else if !oc && p.th == 2 then
      (s.setProt i { p with th := if p.cooled then 0 else 1, shutdowns := [] }).raise (s.outTo (56 + b)) (0x10 + i) 0xA 2
    else s) s

/-- The interlock latch of bridge `b` is cleared (R242). -/
def State.xlockClear (s : State) (b : Nat) : State :=
  let s := s.setBridge b { s.bridge b with xlock := false }
  (s.bridgeOff b 0).raise (s.outTo (56 + b)) (mbrSrc b) 5 0

/-- A bridge after MBR_CONFIG: each selected parameter takes its value; a limit given in a pour waits for its end (R252). -/
def mbrConfigured (ps : List Byte) (x : Bridge) : Bridge :=
  let sel := u16 ps 2
  let pouring := x.o.step != 0
  let g := x.cfg
  let g := if sel.testBit 0 then { g with slew := u8 ps 4 } else g
  let g := if sel.testBit 1 && !pouring then { g with limit := u16 ps 6 } else g
  let g := if sel.testBit 2 then
    { g with s1c := u16 ps 8, s1d := u16 ps 10, s2c := u16 ps 12, s2d := u16 ps 14 } else g
  let g := if sel.testBit 3 then { g with retryN := u8 ps 5 } else g
  let x := { x with
    cfg := g, nextLimit := if sel.testBit 1 then (if pouring then some (u16 ps 6) else none) else x.nextLimit
    dead := if sel.testBit 4 then u16 ps 16 else x.dead }
  if sel.testBit 5 then
    { x with stallThr := u16 ps 18, stallFilter := u16 ps 20, stallEn := u8 ps 22 == 1, stallRun := 0 } else x

def mbrConfigSpec : OpSpec where
  code := 0x0420
  comp := .O
  cls := 3
  issuer := .own
  len := lenIs 24
  fields := fun ps s =>
    let sel := u16 ps 2
    let c := (s.bridge (u8 ps 0)).cfg
    let lim := cfgLimit ps c 6 1 sel
    decide (u8 ps 0 < 6) && zeroAt ps 1 1 && zeroAt ps 23 1 && sel % 256 < 64 && decide (sel / 256 < 8) &&
      (if sel.testBit 0 then decide (u8 ps 4 ≤ 3) else zeroAt ps 4 1) &&
      (if sel.testBit 3 then decide (u8 ps 5 ≤ 15) else zeroAt ps 5 1) &&
      (if sel.testBit 1 then decide (5 ≤ u16 ps 6) && decide (u16 ps 6 ≤ 150) && decide (c.steady ≤ u16 ps 6) else zeroAt ps 6 2) &&
      (if sel.testBit 2 then decide (u16 ps 10 ≤ 300) && decide (u16 ps 14 ≤ 300) else zeroAt ps 8 8) &&
      (if sel.testBit 4 then decide (12 ≤ u16 ps 16) && decide (u16 ps 16 ≤ 250) else zeroAt ps 16 2) &&
      (if sel.testBit 5 then
        decide (1 ≤ u16 ps 18) && decide (u16 ps 18 ≤ 150) && decide (u16 ps 18 < lim) && decide (1 ≤ u16 ps 20) &&
          decide (u16 ps 20 ≤ 1000) && decide (u8 ps 22 ≤ 1)
        else zeroAt ps 18 5)
  owners := mbrOwners
  key := fun ps => 0x100 + u8 ps 0
  check := fun pk s =>
    let ps := pk.params
    let b := u8 ps 0
    let sel := u16 ps 2
    let x := s.bridge b
    let slew := if sel.testBit 0 then u8 ps 4 else x.cfg.slew
    let dead := if sel.testBit 4 then u16 ps 16 else x.dead
    if !x.cfg.enabled then 0x0684
    else if sel.testBit 1 && decide (x.cfg.imgLimit < u16 ps 6) then 0x0683
    else if sel.testBit 2 && !pourOk 56 (cfgLimit ps x.cfg 6 1 sel) (u16 ps 8) (u16 ps 10) (u16 ps 12) (u16 ps 14) then 0x0685
    else if decide (dead < mbrDeadMin slew) then 0x0686
    else if (sel.testBit 8 && !((machines (56 + b)).any fun i => (s.prot i).oc == 4)) ||
        (sel.testBit 9 && !((machines (56 + b)).any fun i => (s.prot i).th == 2)) || (sel.testBit 10 && !x.xlock) then 0x0681
    else stOk
  act := fun pk s =>
    let ps := pk.params
    let b := u8 ps 0
    let sel := u16 ps 2
    let x := s.bridge b
    if (sel.testBit 3 && decide (x.cfg.imgRetry < u8 ps 5)) ||
        (sel.testBit 2 && !envWithin x.cfg (u16 ps 8) (u16 ps 10) (u16 ps 12) (u16 ps 14)) then fail stContract s
    else
      let s := s.setBridge b (mbrConfigured ps x)
      let s := if sel.testBit 8 then s.mbrClear b true else s
      let s := if sel.testBit 9 then s.mbrClear b false else s
      ok (if sel.testBit 10 then s.xlockClear b else s)

def mbrEnabled (pk : Packet) (s : State) : Nat := if (s.bridge (u8 pk.params 0)).cfg.enabled then stOk else 0x0684

def mbrDriveSpec : OpSpec where
  code := 0x0421
  comp := .O
  cls := 3
  issuer := .own
  len := lenIs 8
  fields := fun ps _ => decide (u8 ps 0 < 6) && decide (u8 ps 1 ≤ 2)
  owners := mbrOwners
  key := fun ps => 0x100 + u8 ps 0
  check := fun pk s =>
    if mbrEnabled pk s != stOk then 0x0684
    else if u32 pk.params 4 != 0 && !s.mbrPeriodOk (u32 pk.params 4) then 0x0682 else stOk
  act := fun pk s =>
    let ps := pk.params
    let b := u8 ps 0
    let mode := u8 ps 1
    let p := u32 ps 4
    let min := (s.bridge b).cfg.minPeriod
    if p != 0 && min != 0 && decide (p < min) then fail stContract s
    else if s.inertOut (56 + b) then (if mode == 0 then ok s else fail 0x0688 s)
    else
      let s1 := if p == 0 then s else s.setBridge b { s.bridge b with period := p }
      let r := s1.bridgeCommand b mode (u16 ps 2) 1 1
      if r.2 == stNoResource then ⟨r.1.setBridge b { r.1.bridge b with period := (s.bridge b).period }, some (r.2, [])⟩
      else ⟨r.1, some (r.2, [])⟩

def mbrBrakeSpec : OpSpec where
  code := 0x0422
  comp := .O
  cls := 3
  issuer := .own
  len := lenIs 4
  fields := fun ps _ => decide (u8 ps 0 < 6) && zeroAt ps 1 3
  owners := mbrOwners
  key := fun ps => 0x100 + u8 ps 0
  check := mbrEnabled
  act := fun pk s =>
    let b := u8 pk.params 0
    if s.inertOut (56 + b) then fail 0x0688 s
    else
      let r := s.bridgeCommand b 3 0 1 1
      ⟨r.1, some (r.2, [])⟩

def mbrGetStatusSpec : OpSpec where
  code := 0x0423
  comp := .S
  issuer := .ownP0
  len := lenIs 4
  fields := fun ps _ => decide (u16 ps 0 < 18) && zeroAt ps 2 2
  owners := fun ps s => [s.owner clsBridge (if u16 ps 0 < 6 then u16 ps 0 else (u16 ps 0 - 6) / 2)]
  key := fun ps => 0x100 + (if u16 ps 0 < 6 then u16 ps 0 else (u16 ps 0 - 6) / 2)
  act := fun pk s =>
    let j := u16 pk.params 0
    okWith (wordBytes (if j < 6 then s.bridgeWords j else s.chanWords (50 + j))) s

/-! ### Safe states at partition reset (R220, R246) -/

/-- Channel `i` takes its declared safe state: off, hold or on. -/
def State.loadSafe (s : State) (i : Nat) : State :=
  let c := s.chan i
  if !c.cfg.enabled then s
  else
    let s := match c.cfg.safe with
      | 0 => s.loadOff i
      | 2 => if s.inertOut i then s else (s.loadOn i 1 65535 1 4).1
      | _ => s
    (s.setChan i { s.chan i with safe := true }).raise (s.outTo i) (0x10 + i) 0xB c.cfg.safe

/-- Bridge `b` takes its declared safe state: COAST, hold or BRAKE. -/
def State.bridgeSafe (s : State) (b : Nat) : State :=
  let x := s.bridge b
  if !x.cfg.enabled then s
  else
    let s := match x.cfg.safe with
      | 0 => (s.unstall b 0).bridgeOff b 0
      | 2 => if s.inertOut (56 + b) then s else (s.unstall b 3).bridgeOff b 3
      | _ => s
    (s.setBridge b { s.bridge b with safe := true }).raise (s.outTo (56 + b)) (mbrSrc b) 4 x.cfg.safe

end Sys2Proof.Machine
end

