-- ==== Sys2Proof/Machine/Switch.lean ====
section
/-!
DEFINITION. Sys2Proof/Machine/Switch.lean: the Ethernet switch core (R285 to R320): frame path, admission, transmission
selection, cut-through, forwarding database, policing, replication, MACsec, gateway and partition ports, and the SWC_
opcodes.
-/

namespace Sys2Proof.Machine

def State.swPort (s : State) (p : Nat) : SwPort := s.swc.ports.val {} p

def State.setSwPort (s : State) (p : Nat) (x : SwPort) : State :=
  { s with swc := { s.swc with ports := s.swc.ports.put {} p x } }

def State.prtOf (s : State) (p : Nat) : Prt := s.prt.val {} p

def State.setPrt (s : State) (p : Nat) (x : Prt) : State := { s with prt := s.prt.put {} p x }

/-- Port `p` with its record changed by `f`. -/
def State.onPort (s : State) (p : Nat) (f : SwPort → SwPort) : State := s.setSwPort p (f (s.swPort p))

/-- Recipients of the events of a port (R312). -/
def State.portTo (s : State) (p : Nat) : List Nat := [s.owner clsPort p, 0]

/-- Event source of a port (R86). -/
def portSrc (p : Nat) : Nat := 0x100 + p

/-- Rate in kb/s (R285). -/
def State.portRate (s : State) (p : Nat) : Nat :=
  let sp := (s.prtOf p).cfg.speed
  if p < 4 then (if sp == 0 then 2500000 else if sp == 1 then 5000000 else 10000000)
  else if p < 12 then (if sp == 0 then 100000 else 1000000)
  else if p < 16 then 10000
  else if p < 20 then 10000000
  else 1000000

/-- A port that passes frames (R285, R323); the internal ports do while the device runs. -/
def State.portUp (s : State) (p : Nat) : Bool := if p < 16 then (s.prtOf p).st == 2 else s.active

/-- A port whose frames are classified at frame end (R287). -/
def State.lateClass (s : State) (p : Nat) : Bool := decide (16 ≤ p) || (s.swPort p).cfg.macsec

/-- MAC address of port `p` (R322). -/
def State.portMac (s : State) (p : Nat) : Nat := (s.swc.baseMac + p) % 2 ^ 48

/-! ### Cells (R288 to R290) -/

def cellsOf (len : Nat) : Nat := ceilDiv len 256

/-- Class `c` of a port. -/
def SwPort.clsAt (x : SwPort) (c : Nat) : SwCls := x.cls.val {} c

/-- Cells charged to class `c` of a port, the frame in transmission included. -/
def SwPort.clsCells (x : SwPort) (c : Nat) : Nat :=
  ((x.clsAt c).queue.map Copy.cells).sum +
    (match x.tx with | some t => if t.cls == c then t.copy.cells else 0 | none => 0)

/-- Cells charged to a port. -/
def SwPort.portCells (x : SwPort) : Nat := ((upFrom 0 8).map x.clsCells).sum

/-- Cells allocated now. -/
def State.cellsUsed (s : State) : Nat :=
  (s.swc.frames.map fun e => match e.2 with | some b => b.cells | none => 0).sum

/-- One copy of a frame has left: the frame's cells are freed with the last one (R290). -/
def State.dropCopy (s : State) (id : Nat) : State :=
  match s.swc.frames.val none id with
  | none => s
  | some b =>
    { s with swc := { s.swc with
      frames := s.swc.frames.put none id (if b.copies ≤ 1 then none else some { b with copies := b.copies - 1 }) } }

/-- A frame's copies in the queues of a port, with their charges set (R288). -/
def SwPort.recharge (x : SwPort) (id cells : Nat) : SwPort :=
  let g := fun (c : Copy) => if c.frame == id then { c with cells := min c.cells cells } else c
  { x with
    cls := x.cls.mapV fun _ k => { k with queue := k.queue.map g }
    tx := x.tx.map fun t => { t with copy := g t.copy } }

/-! ### Gates and shaper (R294, R295) -/

/-- TSN_GATES entries of port `p` in the palette of slot `slot`. -/
def State.gateEntries (s : State) (slot p : Nat) : List GateEnt :=
  (s.swc.gateLists.val [] (s.easel.slots.val {} slot).id).filter fun e => e.port == p

/-- Gate states of a port: all open without an entry in the running list; GW ports are not gated (R294, R296). -/
def State.gatesOf (s : State) (p : Nat) : Nat :=
  if p == 16 || p == 17 || (s.gateEntries s.easel.run p).isEmpty then 0xFF else (s.swPort p).gates

/-- The next closing of gate `c` of port `p` (R294). -/
def State.nextClosing (s : State) (p c : Nat) : Option Nat :=
  let base := s.easel.canvasEt
  let now := (s.gateEntries s.easel.run p).filterMap fun e =>
    if !e.gates.testBit c && decide (s.et < base + e.phase * 8) then some (base + e.phase * 8) else none
  match leastOf now with
  | some t => some t
  | none => leastOf ((s.gateEntries s.easel.next p).filterMap fun e =>
      if !e.gates.testBit c then some (base + s.canvasNs + e.phase * 8) else none)

/-- A port's credits brought up to the present ET (R295). -/
def State.touch (s : State) (p : Nat) : State :=
  let gates := s.gatesOf p
  let rate : Int := s.portRate p
  s.onPort p fun x =>
    { x with cls := (upFrom 0 8).foldl (fun t c =>
      if !x.cfg.shaper.testBit c then t
      else
        let k := t.val {} c
        let idle : Int := x.cfg.idle.getD c 0
        let dt : Int := s.et - k.since
        let sending := match x.tx with | some t => t.cls == c | none => false
        let cr := if sending then k.credit + (idle - rate) * dt
          else if gates.testBit c && !k.queue.isEmpty then k.credit + idle * dt
          else if k.queue.isEmpty && decide (0 < k.credit) then 0 else k.credit
        t.put {} c { k with credit := cr, since := s.et }) x.cls }

/-! ### MACsec (R305 to R307) -/

/-- The controlled port is open (R306). -/
def SwPort.secOpen (x : SwPort) : Bool := x.secTx && !x.rxSa.isEmpty

/-- Expansion of a protected frame (R306). -/
def SwPort.secExtra (x : SwPort) : Nat := if x.cfg.macsec then (if x.cfg.secSci then 32 else 24) else 0

/-- Stage 2: whether the frame passes, with the counters of the ingress port. -/
def secVerify (x : SwPort) (f : EthFrame) : SwPort × Bool :=
  if !x.cfg.macsec then (x, true)
  else
    match f.sec with
    | none =>
      if f.etherType == 0x888E then (x, true)
      else if !x.secOpen then ({ x with closedDrops := sat32 x.closedDrops }, false)
      else if x.cfg.strict then ({ x with inBad := sat32 x.inBad }, false) else (x, true)
    | some t =>
      let i := 4 * t.sc + t.an
      let sa := x.rxSa.val 0 i
      let lax := !x.cfg.strict && !t.enc
      if !x.secOpen then ({ x with closedDrops := sat32 x.closedDrops }, false)
      else if 4 ≤ t.sc || sa == 0 then ({ x with inNoSa := sat32 x.inNoSa }, lax)
      else if x.cfg.replay && decide (t.pn + x.cfg.window < sa - 1) then ({ x with inLate := sat32 x.inLate }, false)
      else if !t.valid then ({ x with inBad := sat32 x.inBad }, lax)
      else ({ x with inOk := wrap32 x.inOk, rxSa := x.rxSa.put 0 i (max sa (t.pn + 2)) }, true)

/-- PN at which MACSEC_PN_NEAR is raised, and the last PN (R306). -/
def SwPort.pnNear (x : SwPort) : Nat := if x.xpn then 0xC000000000000000 else 0xC0000000
def SwPort.pnLast (x : SwPort) : Nat := if x.xpn then 2 ^ 64 - 1 else 2 ^ 32 - 1

/-- Keys of port `p` are zeroized before its block loses power; the frame in transmission is cut off (R307). Causes:
0 disable, 1 TC10 sleep, 2 SLEEP, 3 reset. -/
def State.zeroize (s : State) (p cause : Nat) : State :=
  if !(s.swPort p).cfg.macsec || 12 ≤ p then s
  else
    let s := match (s.swPort p).tx with | some t => s.dropCopy t.copy.frame | none => s
    let s := s.onPort p fun x =>
      { x with tx := none, secTx := false, rxSa := [], txPn := 0, txAn := 0, exhausted := false, zeroized := true }
    let s := { s with bam := { s.bam with mkaWait := if s.bam.mkaWait.contains p then s.bam.mkaWait else s.bam.mkaWait ++ [p] } }
    s.raise (s.portTo p) (portSrc p) 0x103 cause

/-! ### Forwarding database (R298 to R300) -/

def State.bucketOf (mac fid : Nat) : Nat := Config.fdbBucket mac fid % 8192

/-- The index of the entry for a key. -/
def State.fdbFind (s : State) (mac fid : Nat) : Option Nat :=
  ((upFrom (State.bucketOf mac fid * 8) 8).find? fun i =>
    let e := s.swc.fdb.val {} i
    e.type != 0 && e.mac == mac && e.fid == fid)

def State.setFdb (s : State) (i : Nat) (e : FdbEnt) : State :=
  { s with swc := { s.swc with fdb := s.swc.fdb.put {} i e } }

/-- Age of an entry in seconds (R313). -/
def State.fdbAge (s : State) (e : FdbEnt) : Nat := if e.type == 3 then clip 16 ((s.et - e.seen) / nsS) else 0

/-- The 16 bytes of an entry (R313). -/
def State.fdbBytes (s : State) (e : FdbEnt) : List Byte :=
  beBytes 6 e.mac ++ leBytes 2 e.fid ++ leBytes 4 e.ports ++ leBytes 1 e.type ++ leBytes 1 e.flags ++ leBytes 2 (s.fdbAge e)

def State.fidKnown (s : State) (fid : Nat) : Bool := s.swc.vlans.any fun v => v.2.fid == fid

/-- Learning of a source address at frame end (R300). -/
def State.learn (s : State) (p mac fid : Nat) : State :=
  let new : FdbEnt := ⟨mac, fid, 2 ^ p, 3, 0, s.et⟩
  match s.fdbFind mac fid with
  | some i => if (s.swc.fdb.val {} i).type == 3 then s.setFdb i new else s
  | none =>
    match (upFrom (State.bucketOf mac fid * 8) 8).find? fun i => (s.swc.fdb.val {} i).type == 0 with
    | some i => s.setFdb i new
    | none =>
      ({ s with swc := { s.swc with learnFail := sat32 s.swc.learnFail } }).raise [0] 0x120 1 (State.bucketOf mac fid)

/-! ### Streams, meters and CB (R302, R303) -/

/-- A meter at the present ET and the colour of a frame of `len` bytes: 0 green, 1 yellow, 2 red. -/
def meterRun (m : Meter) (et len : Nat) (dei : Bool) : Meter × Nat :=
  let dt := et - m.since
  let c0 := m.c + m.r.cir * dt
  let cMax := m.r.cbs * 8000000
  let c := min c0 cMax
  let e := min (m.e + m.r.eir * dt + (if m.r.coupling then c0 - c else 0)) (m.r.ebs * 8000000)
  let n := len * 8000000
  if !(m.r.aware && dei) && decide (n ≤ c) then ({ m with c := c - n, e := e, since := et }, 0)
  else if n ≤ e then ({ m with c := c, e := e - n, since := et }, 1)
  else ({ m with c := c, e := e, since := et }, 2)

/-- Stage 6 for stream number `i`: whether the frame passes. -/
def State.police (s : State) (f : EthFrame) (i : Nat) (st : Stream) : State × Bool :=
  if st.r.gate % 2 == 0 || st.shut || (st.r.maxSdu != 0 && decide (st.r.maxSdu < f.len)) then (s, false)
  else if st.r.meter == 0xFFFF then (s, true)
  else
    let r := meterRun (s.swc.meters.val {} st.r.meter) s.et f.len f.dei
    let s := { s with swc := { s.swc with meters := s.swc.meters.put {} st.r.meter r.1 } }
    if r.2 == 2 && 2 ≤ st.r.gate then
      let s := { s with swc := { s.swc with streams := setAt s.swc.streams i { st with shut := true } } }
      (s.raise (s.portTo f.port) (portSrc f.port) 0x102 i, false)
    else (s, r.2 == 0 || (r.2 == 1 && !r.1.r.dropYellow))

/-- Sequence recovery of one number (R303): the state after it and whether the frame passes. -/
def cbRecover (r : CbRec) (x : CbState) (et seq : Nat) : CbState × Bool :=
  let delta := signed 16 (seq + 65536 - x.last)
  if x.takeAny then ({ x with takeAny := false, last := seq, history := 1, since := et }, true)
  else if r.func == 3 then
    if seq == x.last then ((if r.individual then { x with since := et } else x), false)
    else ({ x with last := seq, since := et }, true)
  else if decide ((r.history : Int) ≤ delta) || decide (delta ≤ -(r.history : Int)) then
    ((if r.individual then { x with since := et } else x), false)
  else if 0 < delta then
    ({ x with last := seq, history := (x.history * 2 ^ delta.toNat + 1) % 2 ^ r.history, since := et }, true)
  else if x.history.testBit delta.natAbs then ((if r.individual then { x with since := et } else x), false)
  else ({ x with history := setBit x.history delta.natAbs true, since := et }, true)

/-- Stage 7: the sequence number the frame goes on with, or none where it is eliminated. -/
def State.cbStage (s : State) (f : EthFrame) (i : Nat) : State × Option (Option Nat) :=
  let r := s.swc.cbs.val {} i
  let k := i * 32 + (if r.individual then f.port else 31)
  let x := s.swc.cbState.val {} k
  let put := fun (y : CbState) => { s with swc := { s.swc with cbState := s.swc.cbState.put {} k y } }
  if r.func == 1 then
    if 16 ≤ f.port then (put { x with nextSeq := (x.nextSeq + 1) % 65536 }, some (some x.nextSeq)) else (s, some f.rtag)
  else if r.func == 2 || r.func == 3 then
    match f.rtag with
    | none => (s, none)
    | some q =>
      let y := cbRecover r x s.et q
      (put y.1, if y.2 then some (some q) else none)
  else (s, some f.rtag)

/-! ### Admission (R288, R291, R304) -/

/-- The delivery record of an HP port for a frame (R304). -/
def State.hpRecord (s : State) (q dst vid : Nat) : Option HpRec :=
  s.swc.hp.find? fun r => r.hp + 18 == q && r.dst == dst && (r.anyVid || r.vid == vid)

/-- Admission of one copy to port `q` in class `c` with `cells` cells (R288). -/
def State.admitOk (s : State) (q c cells dst vid : Nat) : Bool :=
  let x := s.swPort q
  decide (x.clsCells c + cells ≤ x.cfg.limits.getD c 0) && decide (x.portCells + cells ≤ x.cfg.portLimit) &&
    (match (if q == 18 || q == 19 then s.hpRecord q dst vid else none) with
      | some r => !(s.ring r.ring).full
      | none => true)

/-- A copy for port `q`: admitted to its queue, or refused, counted and reported once per canvas (R291). -/
def State.admitCopy (s : State) (q c cells ingress id dst vid : Nat) (cut : Bool) : State × Bool :=
  let s := s.touch q
  let x := s.swPort q
  let k := x.clsAt c
  if s.admitOk q c cells dst vid then
    let busy := match x.tx with | some t => t.cls == c | none => false
    let copy : Copy := ⟨id, cells, cut && k.queue.isEmpty && !busy⟩
    (s.setSwPort q { x with cls := x.cls.put {} c { k with queue := k.queue ++ [copy] } }, true)
  else
    let s := s.setSwPort q { x with cls := x.cls.put {} c { k with drops := sat32 k.drops } }
    (s.raiseOnce (s.portTo q) (portSrc q) 0x100 (pack [(0, 3, c), (8, 5, ingress), (16, 16, cells)]), false)

/-! ### Frame path (R286) -/

/-- The ingress port discards the frame at stages 3, 4, 8 or 9. -/
def State.rxDiscard (s : State) (p : Nat) : State := s.onPort p fun x => { x with rxDiscard := sat32 x.rxDiscard }

/-- Ports that a frame goes to, before the egress filter (R299). -/
def State.lookupPorts (s : State) (dst : Nat) (v : VlanRec) (e : Option FdbEnt) : Nat :=
  match e with
  | some x => x.ports
  | none =>
    let multi := dst.testBit 40
    mapBits (fun q => v.members.testBit q &&
      (if multi then (s.swPort q).cfg.floodM else (s.swPort q).cfg.floodU)) 21

/-- Stages 9 and 10 for a classified frame. -/
def State.egress (s : State) (f : EthFrame) (b : FrameBuf) (v : VlanRec) (ports : Nat) (cutOk : Bool) : State × SwRx :=
  let p := f.port
  let reserved := decide (0x0180C2000000 ≤ f.dst) && decide (f.dst ≤ 0x0180C200000F)
  let out := (upFrom 0 21).filter fun q =>
    ports.testBit q && v.members.testBit q && q != p && !(reserved && decide (p < 16) && decide (q < 16))
  let down := out.filter fun q => !s.portUp q
  let up := out.filter fun q => s.portUp q
  let s := down.foldl (fun s q => s.onPort q fun x => { x with downDrops := sat32 x.downDrops }) s
  if up.isEmpty then (s.rxDiscard p, { dropped := true })
  else
    let id := s.swc.nextFrame
    let cells := cellsOf (if f.known || s.lateClass p then f.len else (s.swPort p).cfg.maxLen)
    let r := up.foldl (fun (a : State × Nat) q =>
      let t := a.1.admitCopy q b.tc cells p id f.dst b.vid (cutOk && decide (a.1.portRate q ≤ a.1.portRate p))
      (t.1, if t.2 then a.2 + 1 else a.2)) (s, 0)
    if r.2 == 0 then (r.1, { dropped := true })
    else
      let s := { r.1 with swc := { r.1.swc with
        nextFrame := id + 1, frames := r.1.swc.frames.put none id (some { b with copies := r.2 }) } }
      ({ s with swc := { s.swc with peak := max s.swc.peak s.cellsUsed } }, { frame := some id })

/-- What is known of a frame on its way through the stages: its VLAN record, VID, PCP and class, and its stream. -/
structure SwWay where
  v : VlanRec
  vid : Nat
  pcp : Nat
  tc : Nat
  st : Option Stream

/-- The frame is dropped. -/
def rxGone : SwRx := { dropped := true }

/-- Stage 8: lookup, and the copies to the egress ports. -/
def State.forward (s : State) (f : EthFrame) (w : SwWay) (cb seq : Option Nat) : State × SwRx :=
  let p := f.port
  let x := s.swPort p
  let learn := if x.cfg.learning then some (f.mac, w.v.fid) else none
  let e := (s.fdbFind f.dst w.v.fid).map fun i => s.swc.fdb.val ({} : FdbEnt) i
  let drop := match e with | some x => x.flags.testBit 4 | none => false
  let tc := match e with | some x => (if x.flags.testBit 0 then bits x.flags 1 3 else w.tc) | none => w.tc
  let policed := match w.st with | some t => t.r.meter != 0xFFFF || t.r.maxSdu != 0 | none => false
  let cutOk := x.cfg.cut && !s.lateClass p && !policed
  if drop then (s.rxDiscard p, { rxGone with learn := learn })
  else
    let r := s.egress f { f := f, vid := w.vid, pcp := w.pcp, tc := tc, cb := cb, seq := seq } w.v
      (s.lookupPorts f.dst w.v e) cutOk
    (r.1, { r.2 with learn := learn })

/-- Stage 7: sequence generation and recovery. -/
def State.sequence (s : State) (f : EthFrame) (w : SwWay) : State × SwRx :=
  let cb := match w.st with | some t => (if t.r.cb == 0xFFFF then none else some t.r.cb) | none => none
  let q := match cb with | some k => s.cbStage f k | none => (s, some f.rtag)
  match q.2 with
  | none => (q.1.onPort f.port fun x => { x with eliminated := sat32 x.eliminated }, rxGone)
  | some seq => q.1.forward f w cb seq

/-- Stage 6: stream filtering and policing. -/
def State.streamStage (s : State) (f : EthFrame) (w : SwWay) (i : Nat) : State × SwRx :=
  let q := match w.st with | some t => s.police f i t | none => (s, true)
  if q.2 then q.1.sequence f w
  else (q.1.onPort f.port fun x => { x with qciDrops := sat32 x.qciDrops }, rxGone)

/-- Stages 3 to 5: the VLAN, the class and the stream. -/
def State.vlanStage (s : State) (f : EthFrame) : State × SwRx :=
  let p := f.port
  let x := s.swPort p
  let vid := if f.tagged && f.vid != 0 then f.vid else x.cfg.pvid
  let v := s.swc.vlans.val {} vid
  let pcp := if f.tagged then f.pcp else 0
  let i := s.swc.streams.findIdx fun t =>
    t.r.dst == f.dst && t.r.vid == vid && (t.r.ingress == 0xFF || t.r.ingress == p)
  if v.vid == 0 || !v.members.testBit p then (s.rxDiscard p, rxGone)
  else s.streamStage f ⟨v, vid, pcp, bits x.cfg.pcpMap (3 * pcp) 3, s.swc.streams[i]?⟩ i

/-- Stages 2 to 10 at a frame's decision point. -/
def State.classify (s : State) (f : EthFrame) : State × SwRx :=
  let p := f.port
  let v2 := secVerify (s.swPort p) f
  let s := s.setSwPort p v2.1
  if !v2.2 then (s, rxGone)
  else if (f.etherType == 0x88F7 && decide (p < 12)) || (f.etherType == 0x888E && (s.swPort p).cfg.macsec) then (s, {})
  else s.vlanStage f

/-- A frame in the buffer turns out bad: copies not started are discarded, those being sent are stomped (R297, R528). -/
def State.spoilFrame (s : State) (p id : Nat) : State :=
  let s := match s.swc.frames.val none id with
    | some b => { s with swc := { s.swc with frames := s.swc.frames.put none id (some { b with complete := true }) } }
    | none => s
  (upFrom 0 21).foldl (fun s q =>
    let s := s.touch q
    let x := s.swPort q
    let n := ((upFrom 0 8).map fun c => ((x.clsAt c).queue.filter fun k => k.frame == id).length).sum
    let s := s.setSwPort q { x with cls := x.cls.mapV fun _ k => { k with queue := k.queue.filter fun c => c.frame != id } }
    let s := (List.replicate n ()).foldl (fun s _ => s.dropCopy id) s
    match (s.swPort q).tx with
    | some t =>
      if t.copy.frame == id && !t.stomped then
        let s := s.onPort q fun x => { x with tx := some { t with stomped := true }, txStomped := sat32 x.txStomped }
        s.raise (s.portTo q) (portSrc q) 0x101 (pack [(8, 5, p)])
      else s
    | none => s) s

/-- The end of a classified frame (R288, R297, R300). -/
def State.finishRx (s : State) (p : Nat) (r : SwRx) (good : Bool) : State :=
  let s := s.onPort p fun x => { x with
    rx := none
    rxFrames := if good then wrap32 x.rxFrames else x.rxFrames
    rxOctets := if good then wrapAdd 64 x.rxOctets r.len else x.rxOctets
    rxBad := if !good && !r.dropped then sat32 x.rxBad else x.rxBad }
  let s := if p < 16 then s.setPrt p { s.prtOf p with alone := false, heardAt := s.et } else s
  if good then
    let s := match r.learn with | some (m, fid) => s.learn p m fid | none => s
    match r.frame with
    | none => s
    | some id =>
      match s.swc.frames.val none id with
      | none => s
      | some b =>
        let n := cellsOf r.len
        let s := { s with swc := { s.swc with
          frames := s.swc.frames.put none id (some { b with complete := true, cells := n })
          ports := s.swc.ports.mapV fun _ x => x.recharge id n } }
        { s with swc := { s.swc with peak := max s.swc.peak s.cellsUsed } }
  else
    match r.frame with
    | none => s
    | some id => s.spoilFrame p id

/-- A frame at its decision point (R287); on ports that classify at frame end, the whole reception. -/
def State.frameIn (s : State) (f : EthFrame) : State :=
  let p := f.port
  if s.lateClass p then
    if f.len < 64 || (s.swPort p).cfg.maxLen < f.len then s.onPort p fun x => { x with rxBad := sat32 x.rxBad }
    else
      let r := s.classify f
      r.1.finishRx p { r.2 with len := f.len } true
  else
    let r := s.classify f
    r.1.onPort p fun x => { x with rx := some { r.2 with len := f.len } }

/-- The end of the frame that port `p` receives: `good` without symbol or FCS error. -/
def State.frameEnd (s : State) (p : Nat) (good symbol : Bool) : State :=
  let s := if symbol && decide (p < 16) then s.setPrt p { s.prtOf p with symbols := sat32 (s.prtOf p).symbols } else s
  match (s.swPort p).rx with
  | some r => s.finishRx p r (good && !symbol && decide (r.len ≤ (s.swPort p).cfg.maxLen))
  | none =>
    if s.lateClass p && good && !symbol then s else s.onPort p fun x => { x with rxBad := sat32 x.rxBad }

/-! ### Transmission (R293 to R297, R301, R304) -/

/-- Bytes of a frame on the wire before its FCS. -/
def FrameBuf.wire (b : FrameBuf) (tagged rtag : Bool) : List Byte :=
  beBytes 6 b.f.dst ++ beBytes 6 b.f.mac ++
    (if tagged then beBytes 2 0x8100 ++ beBytes 2 (b.pcp * 8192 + b2n b.f.dei * 4096 + b.vid) else []) ++
    (if rtag then beBytes 2 0xF1C1 ++ beBytes 2 0 ++ beBytes 2 (b.seq.getD 0) else []) ++
    beBytes 2 b.f.etherType ++ b.f.payload

/-- The 32-byte header of a frame ring slot (R433). -/
def frameHeader (len origin fmt chan et id sdt vcid af : Nat) : List Byte :=
  leBytes 2 len ++ leBytes 1 origin ++ leBytes 1 fmt ++ leBytes 2 chan ++ leBytes 2 0 ++ leBytes 8 et ++ leBytes 4 id ++
    leBytes 1 sdt ++ leBytes 1 vcid ++ leBytes 2 0 ++ leBytes 4 af ++ leBytes 4 0

/-- A frame delivered to a GW port is stored in the buffer of its first matching record (R301). -/
def State.gwStore (s : State) (q : Nat) (b : FrameBuf) : State :=
  match s.swc.records.find? fun r =>
    !r.transmit && r.gw + 16 == q && r.dst == b.f.dst && r.vid == b.vid && r.etherType == b.f.etherType &&
      (r.pduOff == 0xFFFF || (decide (r.pduOff + 4 ≤ b.f.payload.length) && u32 b.f.payload r.pduOff == r.pduId)) with
  | some r =>
    let x := s.gw.rx.val {} r.buf
    { s with gw := { s.gw with rx := s.gw.rx.put {} r.buf { x with data := b.f.payload.take r.len, has := true, age := 0 } } }
  | none => s.rxDiscard q

/-- What an internal port does with a frame it has been sent. -/
def State.deliverIn (s : State) (q : Nat) (b : FrameBuf) (t : SwTx) : State :=
  if q == 16 || q == 17 then s.gwStore q b
  else if q == 18 || q == 19 then
    match s.hpRecord q b.f.dst b.vid with
    | some r =>
      let w := b.wire t.tagged t.rtag
      if s.ringStopped r.ring then s.ringDiscard r.ring
      else { s with par := { s.par with hpQueue := s.par.hpQueue ++ [(r.ring, frameHeader w.length 0 0 q s.et 0 0 0 0 ++ w)] } }
    | none => s.rxDiscard q
  else if q == 20 then
    if b.f.etherType == 0x88B5 && b.f.dst == s.portMac 20 then s else s.rxDiscard q
  else s

/-- The transmission of port `p` ends: its copy leaves (R290). -/
def State.txDone (s : State) (p : Nat) : State :=
  let s := s.touch p
  match (s.swPort p).tx with
  | none => s
  | some t =>
    let s := s.onPort p fun x =>
      let k := x.cls.val {} t.cls
      { x with
        tx := none, txFrames := wrap32 x.txFrames, txOctets := wrapAdd 64 x.txOctets t.len
        cls := x.cls.put {} t.cls (if k.queue.isEmpty && decide (0 < k.credit) then { k with credit := 0 } else k) }
    s.dropCopy t.copy.frame

/-- The length R294 counts: the true length once known, else the ingress port's maximum. -/
def State.guardLen (s : State) (b : FrameBuf) : Nat :=
  if b.complete || b.f.known then b.f.len else (s.swPort b.f.port).cfg.maxLen

/-- Class `c` of port `p` may start its first frame (R293 to R295). -/
def State.eligible (s : State) (p c : Nat) : Bool :=
  let x := s.swPort p
  let k := x.clsAt c
  match k.queue with
  | [] => false
  | copy :: _ =>
    match s.swc.frames.val none copy.frame with
    | none => false
    | some b =>
      (b.complete || copy.cut) && (s.gatesOf p).testBit c &&
        (!x.cfg.shaper.testBit c || decide (0 ≤ k.credit)) &&
        (s.easel.realignHold || p == 16 || p == 17 ||
          (match s.nextClosing p c with
            | none => true
            | some t => decide (s.et + (s.guardLen b + 20 + x.secExtra) * 8 * nsMs / s.portRate p < t)))

/-- The copy `copy` of frame `b`, of class `c`, starts at port `p`, whose registers without it are `x`: tags, length,
cut-through, MACsec packet number (R293, R309). -/
def State.sendCopy (s : State) (p c : Nat) (copy : Copy) (b : FrameBuf) (x : SwPort) : State :=
  let v := s.swc.vlans.val {} b.vid
  let tagged := !v.untagged.testBit p
  let rtag := b.seq.isSome && (match b.cb with | some i => (s.swc.cbs.val {} i).rtagPorts.testBit p | none => false)
  let len := b.f.len + (if tagged && !b.f.tagged then 4 else 0) - (if !tagged && b.f.tagged then 4 else 0) +
    (if rtag && b.f.rtag.isNone then 6 else 0) - (if !rtag && b.f.rtag.isSome then 6 else 0) + x.secExtra
  let t : SwTx := ⟨copy, c, tagged, rtag, len, x.cfg.macsec, false⟩
  let pn := x.txPn
  let x := { x with
    tx := some t
    cutThrough := if copy.cut && !b.complete then wrap32 x.cutThrough else x.cutThrough
    outProt := if x.cfg.macsec then wrap32 x.outProt else x.outProt
    txPn := if x.cfg.macsec && pn != x.pnLast then pn + 1 else pn
    exhausted := x.exhausted || (x.cfg.macsec && pn == x.pnLast) }
  let s := s.setSwPort p x
  let s := if x.cfg.macsec && pn + 1 == x.pnNear then s.raise (s.portTo p) (portSrc p) 0x104 x.txAn else s
  let s := if x.cfg.macsec && pn == x.pnLast then s.raise (s.portTo p) (portSrc p) 0x105 x.txAn else s
  if 16 ≤ p then s.deliverIn p b t else s

/-- Transmission selection with at most `n` frames dropped at a closed controlled port. -/
def State.selectTx : Nat → State → Nat → State
  | 0, s, _ => s
  | n + 1, s, p =>
    match ([7, 6, 5, 4, 3, 2, 1, 0].find? fun c => s.eligible p c) with
    | none => s
    | some c =>
      let x := s.swPort p
      let k := x.clsAt c
      match k.queue with
      | [] => s
      | copy :: rest =>
        let x := { x with cls := x.cls.put {} c { k with queue := rest } }
        if x.cfg.macsec && (!x.secOpen || x.exhausted) then
          selectTx n ((s.setSwPort p { x with closedDrops := sat32 x.closedDrops }).dropCopy copy.frame) p
        else
          match s.swc.frames.val none copy.frame with
          | none => s.setSwPort p x
          | some b => s.sendCopy p c copy b x

/-- A port is free to start a frame: the one before has ended, and the next is selected (R293). -/
def State.transmissionSelect (s : State) (p : Nat) : State :=
  let waits := match (s.swPort p).tx with
    | some t => (match s.swc.frames.val none t.copy.frame with | some b => !b.complete | none => false)
    | none => false
  if waits then s
  else
    let s := s.txDone p
    if !s.portUp p then s
    else s.selectTx (((upFrom 0 8).map fun c => ((s.swPort p).clsAt c).queue.length).sum + 1) p

/-- Queued copies of a port that has left UP are dropped, its transmission is cut off and its reception ends bad (R285,
R327). -/
def State.portFlush (s : State) (p : Nat) : State :=
  let s := match (s.swPort p).rx with | some r => s.finishRx p r false | none => s
  let x := s.swPort p
  let copies := (x.cls.map fun e => e.2.queue).flatten
  let s := match x.tx with | some t => s.dropCopy t.copy.frame | none => s
  let s := copies.foldl (fun s c => s.dropCopy c.frame) s
  s.onPort p fun x => { x with
    tx := none, downDrops := satAdd 32 x.downDrops copies.length
    cls := x.cls.mapV fun _ k => { k with queue := [] } }

/-! ### GATE_SET (R294, R296) -/

/-- The frame that a transmit record releases (R301). -/
def State.gwFrame (s : State) (r : FrameRec) : EthFrame :=
  let body := fit r.len (s.gw.tx.val {} r.buf).data
  let pay := if r.pduOff == 0xFFFF then body else body.take r.pduOff ++ leBytes 4 r.pduId ++ body.drop (r.pduOff + 4)
  { port := 16 + r.gw, dst := r.dst, mac := s.portMac (16 + r.gw), tagged := true, vid := r.vid, pcp := r.pcp,
    etherType := r.etherType, payload := pay, len := max 64 (22 + pay.length), known := true }

def State.gateSet (s : State) (p gates : Nat) : State :=
  if p == 16 || p == 17 then
    (s.swc.records.filter fun r => r.transmit && r.gw + 16 == p && gates.testBit r.group).foldl
      (fun s r => s.frameIn (s.gwFrame r)) s
  else (s.touch p).onPort p fun x => { x with gates := gates % 256 }

/-! ### Frames from a partition (R304, R433) -/

/-- The frame that the bytes of a transmit slot spell, entering at HP port `p`. -/
def parseFrame (p : Nat) (w : List Byte) : EthFrame :=
  let t := beNat ((w.drop 12).take 2) == 0x8100
  let tci := beNat ((w.drop 14).take 2)
  let w1 := if t then w.drop 16 else w.drop 12
  let r := beNat (w1.take 2) == 0xF1C1
  let w2 := if r then w1.drop 6 else w1
  { port := p, dst := beNat (w.take 6), mac := beNat ((w.drop 6).take 6), tagged := t, vid := tci % 4096,
    pcp := tci / 8192 % 8, dei := tci.testBit 12, etherType := beNat (w2.take 2),
    rtag := if r then some (beNat ((w1.drop 4).take 2)) else none, payload := w2.drop 2, len := max 64 (w.length + 4),
    known := true }

/-! ### Status pages (R314) -/

def State.swcPage0 (s : State) : List Nat :=
  [s.cellsUsed, s.swc.peak, (s.swc.fdb.filter fun e => e.2.type != 0).length, s.swc.learnFail, s.swc.resetLost]

/-- The 40 words of the page of port `p`. -/
def State.swWords (s : State) (p : Nat) : List Nat :=
  let x := s.swPort p
  let q := fun c => clip 16 (x.clsCells c)
  [ pack [(0, 8, s.gatesOf p), (8, 1, b2n x.secOpen), (9, 1, b2n x.zeroized), (10, 2, x.txAn)],
    x.rxFrames, lo32 x.rxOctets, hi32 x.rxOctets, x.rxBad, x.rxDiscard, x.txFrames, lo32 x.txOctets, hi32 x.txOctets,
    x.txStomped, x.cutThrough, x.qciDrops, x.eliminated, x.downDrops, 0, 0 ] ++
  ((upFrom 0 8).map fun c => (x.clsAt c).drops) ++
  [ pack [(0, 16, q 0), (16, 16, q 1)], pack [(0, 16, q 2), (16, 16, q 3)], pack [(0, 16, q 4), (16, 16, q 5)],
    pack [(0, 16, q 6), (16, 16, q 7)], x.portCells, 0, 0, 0,
    x.inOk, x.inBad, x.inLate, x.inNoSa, x.outProt, lo32 x.txPn, hi32 x.txPn, x.closedDrops ]

/-! ### Opcodes (R315 to R319) -/

def swcGetCountersSpec : OpSpec where
  code := 0x0600
  comp := .S
  issuer := .ownP0
  len := lenIs 4
  fields := fun ps _ => decide (u8 ps 0 ≤ 20) && zeroAt ps 1 3
  owners := fun ps s => [s.owner clsPort (u8 ps 0)]
  key := fun ps => u8 ps 0 + 1
  act := fun pk s => okWith (wordBytes (s.swWords (u8 pk.params 0))) s

def swcFdbReadSpec : OpSpec where
  code := 0x0601
  comp := .S
  issuer := .p0
  len := lenIs 16
  fields := fun ps _ =>
    zeroAt ps 1 3 && ((u8 ps 0 == 0 && zeroAt ps 4 4 && decide (1 ≤ u16 ps 14) && decide (u16 ps 14 ≤ 4094)) ||
      (u8 ps 0 == 1 && decide (u32 ps 4 ≤ 65535) && zeroAt ps 8 8))
  check := fun pk s =>
    let ps := pk.params
    if u8 ps 0 == 1 then stOk
    else if !s.fidKnown (u16 ps 14) then 0x0803
    else if (s.fdbFind (beNat ((ps.drop 8).take 6)) (u16 ps 14)).isNone then 0x0800 else stOk
  act := fun pk s =>
    let ps := pk.params
    let i := if u8 ps 0 == 1 then u32 ps 4 else (s.fdbFind (beNat ((ps.drop 8).take 6)) (u16 ps 14)).getD 0
    okWith (s.fdbBytes (s.swc.fdb.val {} i) ++ leBytes 4 i) s

def swcFdbWriteSpec : OpSpec where
  code := 0x0602
  comp := .O
  cls := 5
  issuer := .p0
  len := lenIs 20
  fields := fun ps _ =>
    decide (u8 ps 0 ≤ 1) && zeroAt ps 1 3 && decide (1 ≤ u16 ps 10) && decide (u16 ps 10 ≤ 4094) &&
      decide (u32 ps 12 < 2 ^ 21) && u8 ps 16 == 2 && decide (u8 ps 17 < 32) && zeroAt ps 18 2 &&
      (!(u8 ps 17).testBit 4 || zeroAt ps 12 4)
  check := fun pk s =>
    let ps := pk.params
    let mac := beNat ((ps.drop 4).take 6)
    let fid := u16 ps 10
    let i := s.fdbFind mac fid
    let type := match i with | some i => (s.swc.fdb.val {} i).type | none => 0
    let free := (upFrom (State.bucketOf mac fid * 8) 8).any fun i =>
      (s.swc.fdb.val {} i).type == 0 || (s.swc.fdb.val {} i).type == 3
    if !s.fidKnown fid then 0x0803
    else if type == 1 then 0x0801
    else if u8 ps 0 == 1 then (if type == 2 then stOk else 0x0800)
    else if type == 0 && !free then 0x0802 else stOk
  act := fun pk s =>
    let ps := pk.params
    let mac := beNat ((ps.drop 4).take 6)
    let fid := u16 ps 10
    let new : FdbEnt := ⟨mac, fid, u32 ps 12, 2, u8 ps 17, 0⟩
    let way := upFrom (State.bucketOf mac fid * 8) 8
    match s.fdbFind mac fid with
    | some i => ok (s.setFdb i (if u8 ps 0 == 1 then {} else new))
    | none =>
      match way.find? fun i => (s.swc.fdb.val {} i).type == 0 with
      | some i => ok (s.setFdb i new)
      | none =>
        let seen := leastOf (way.filterMap fun i => if (s.swc.fdb.val {} i).type == 3 then some (s.swc.fdb.val {} i).seen else none)
        match way.find? fun i => (s.swc.fdb.val {} i).type == 3 && some (s.swc.fdb.val {} i).seen == seen with
        | some i => ok (s.setFdb i new)
        | none => ok s

def swcFdbFlushSpec : OpSpec where
  code := 0x0603
  comp := .O
  cls := 5
  issuer := .p0
  len := lenIs 8
  fields := fun ps _ =>
    decide (1 ≤ u8 ps 0) && decide (u8 ps 0 ≤ 3) && (decide (u8 ps 1 ≤ 20) || u8 ps 1 == 0xFF) &&
      ((decide (1 ≤ u16 ps 2) && decide (u16 ps 2 ≤ 4094)) || u16 ps 2 == 0xFFFF) && zeroAt ps 4 4
  check := fun pk s => if u16 pk.params 2 == 0xFFFF || s.fidKnown (u16 pk.params 2) then stOk else 0x0803
  act := fun pk s =>
    let ps := pk.params
    let hit := fun (e : FdbEnt) =>
      ((e.type == 3 && (u8 ps 0).testBit 0) || (e.type == 2 && (u8 ps 0).testBit 1)) &&
        (u8 ps 1 == 0xFF || e.ports.testBit (u8 ps 1)) && (u16 ps 2 == 0xFFFF || e.fid == u16 ps 2)
    ok { s with swc := { s.swc with fdb := s.swc.fdb.filter fun e => !hit e.2 } }

/-- The counters of a port page at 0 (R319). -/
def SwPort.cleared (x : SwPort) : SwPort :=
  { x with
    rxFrames := 0, rxOctets := 0, rxBad := 0, rxDiscard := 0, txFrames := 0, txOctets := 0, txStomped := 0, cutThrough := 0,
    qciDrops := 0, eliminated := 0, downDrops := 0, inOk := 0, inBad := 0, inLate := 0, inNoSa := 0, outProt := 0,
    closedDrops := 0, cls := x.cls.mapV fun _ k => { k with drops := 0 } }

def swcClearCountersSpec : OpSpec where
  code := 0x0604
  comp := .S
  issuer := .p0
  len := lenIs 4
  fields := fun ps _ => decide (u32 ps 0 < 2 ^ 22)
  act := fun pk s =>
    let m := u32 pk.params 0
    let s := { s with swc := { s.swc with ports := s.swc.ports.mapV fun p x => if m.testBit p then x.cleared else x } }
    ok (if m.testBit 21 then { s with swc := { s.swc with peak := s.cellsUsed, learnFail := 0 } } else s)

/-! ### Timed rows -/

/-- A learned entry leaves after the ageing time (R300). -/
def State.fdbAgeing (s : State) (mac fid : Nat) : State :=
  match s.fdbFind mac fid with
  | some i =>
    let e := s.swc.fdb.val {} i
    if e.type == 3 && decide (e.seen + s.swc.ageing * nsS ≤ s.et) then s.setFdb i {} else s
  | none => s

/-- The reset timeout of CB record `i` has run out without a frame: its recovery takes any number next (R303). -/
def State.cbTimeout (s : State) (i : Nat) : State :=
  let r := s.swc.cbs.val {} i
  { s with swc := { s.swc with cbState := s.swc.cbState.mapV fun k x =>
    if k / 32 == i && (r.func == 2 || r.func == 3) && decide (x.since + r.timeout * 1000 ≤ s.et) then { x with takeAny := true }
    else x } }

/-- A SAK is installed on port `p` as association `an`, for sending and for the receive channels in the map `scs` (R306). -/
def State.sakInstall (s : State) (p an scs : Nat) (xpn : Bool) : State :=
  if 12 ≤ p || !(s.swPort p).cfg.macsec || 4 ≤ an then s
  else
    let s := s.onPort p fun x => { x with
      secTx := true, txAn := an, txPn := 1, xpn := xpn, exhausted := false, zeroized := false
      rxSa := (upFrom 0 4).foldl (fun t c => if scs.testBit c then t.put 0 (4 * c + an) 2 else t) x.rxSa }
    { s with bam := { s.bam with mkaWait := s.bam.mkaWait.filter (· != p) } }

end Sys2Proof.Machine
end

