-- ==== Sys2Proof/Machine/Links.lean ====
section
/-!
DEFINITION. Sys2Proof/Machine/Links.lean: what the blocks of the network side share: the wake source register and the
sleep-abort (R503 to R508), channels asleep, receive buffers made fresh (R169), and the ristretto queue (R108, R109).
-/

namespace Sys2Proof.Machine

def State.canOf (s : State) (n : Nat) : Can := s.can.chans.val {} n

def State.setCan (s : State) (n : Nat) (x : Can) : State :=
  { s with can := { s.can with chans := s.can.chans.put {} n x } }

def State.linOf (s : State) (n : Nat) : Lin := s.lin.chans.val {} n

def State.setLin (s : State) (n : Nat) (x : Lin) : State :=
  { s with lin := { s.lin with chans := s.lin.chans.put {} n x } }

def canSrc (n : Nat) : Nat := 0xD0 + n
def linSrc (n : Nat) : Nat := 0xF0 + n
def State.canTo (s : State) (n : Nat) : List Nat := [s.owner clsCan n, 0]
def State.linTo (s : State) (n : Nat) : List Nat := [s.owner clsLin n, 0]

/-! ### Wake source register (R505, R506) -/

/-- The map bit of a source code. -/
def wakeBit (code : Nat) : Nat :=
  if code < 0x14 then code - 0x10
  else if code < 0x30 then code - 0x20 + 4
  else if code < 0x3C then code - 0x30 + 20
  else if code < 0x4C then code - 0x40 + 32
  else code - 0x50 + 44

/-- A detection is recorded (R505). -/
def State.noteSource (s : State) (code : Nat) : State :=
  let w := s.wake
  let isLate := w.phase == 4
  { s with wake := { w with
    map := setBit w.map (wakeBit code) true
    first := if w.map == 0 then code else w.first
    firstRtc := if w.map == 0 then s.rtcNs else w.firstRtc
    late := if w.map == 0 then isLate else w.late
    lateCount := if isLate then sat16 w.lateCount else w.lateCount
    count := sat16 w.count } }

/-- The class of a source in a pulse mask of R511: 0 WKI, 1 CAN, 2 LIN, 3 Ethernet, 4 tamper; 5 none of them. -/
def wakeClass (code : Nat) : Nat :=
  if code < 0x20 then 0 else if code < 0x30 then 1 else if code < 0x40 then 2 else if code < 0x50 then 3
  else if code == 0x50 then 4 else 5

/-- WKO lines that `f` picks give their pulse (R508). -/
def State.wkoPulse (s : State) (f : Wko → Bool) : State :=
  let pulse := fun (_ : Nat) (k : Wko) =>
    if k.enabled && f k then { k with active := true, pulseEnd := s.rtcNs + k.width * nsMs } else k
  { s with wake := { s.wake with wko := s.wake.wko.mapV pulse } }

/-! ### Local wakes (R327, R350, R381, R509) -/

/-- A sleeping CAN channel integrates again. -/
def State.canUp (s : State) (n : Nat) : State :=
  let x := s.canOf n
  if x.st == 4 then s.setCan n { x with st := 1, armed := false } else s

/-- A wake pulse on a LIN channel that is asleep, sent or detected: WAKING (R381). -/
def State.linWaking (s : State) (n : Nat) (sent : Bool) : State :=
  let x := s.linOf n
  if x.st == 2 then
    (s.setLin n { x with st := 3, wakeAt := s.et, pulses := if sent then 1 else 0, wakes := sat16 x.wakes }).raise
      (s.linTo n) (linSrc n) 5 (b2n sent)
  else s

/-- Training of a port starts. -/
def State.portTrain (s : State) (p : Nat) : State :=
  s.setPrt p { s.prtOf p with st := 1, trainAt := s.et, fails := 0, sleepDue := none }

/-- The PRT_TC10_SLEEP command outstanding on a port ends. -/
def State.tc10End (s : State) (p status : Nat) : State := s.finishWhere (fun o => o.on 0x0704 p) status []

/-- A TC10 wake of a port: out of ASLEEP, or the abort of a sleep in progress (R327). -/
def State.portWake (s : State) (p : Nat) (remote : Bool) : State :=
  let x := s.prtOf p
  let ev := fun (s : State) => s.raise (s.portTo p) (portSrc p) 5 (b2n remote)
  if x.st == 3 then ev ((s.setPrt p { x with wakes := sat16 x.wakes }).portTrain p)
  else if x.sleepDue.isSome then
    let s := s.setPrt p { x with sleepDue := none, wakes := sat16 x.wakes }
    let s := { s with wake := { s.wake with tc10Wait := s.wake.tc10Wait.filter (· != p) } }
    (ev s).tc10End p 0x0905
  else s

/-! ### Sleep-abort (R503) -/

/-- A sleep request is in progress before its commit point. -/
def State.beforeCommit (s : State) : Bool := s.dev.state == .sleepPrep && s.wake.phase != 4 && s.wake.phase != 0

/-- The SLEEP_REQUEST whose operation is 0 ends. -/
def State.sleepEnd (s : State) (status : Nat) (result : List Byte) : State :=
  s.finishWhere (fun o => o.code == 0x0F01 && u8 o.pk.params 0 == 0) status result

/-- A wake before commit aborts the sleep. -/
def State.sleepAbort (s : State) (code : Nat) (cancel : Bool) : State :=
  let armed := s.wake.armed
  let waits := s.wake.tc10Wait
  let s := { s with
    dev := { s.dev with state := .run }
    wake := { s.wake with phase := 0, armed := 0, prepFrom := none, tc10Wait := [], aborts := sat16 s.wake.aborts } }
  let s := s.degrade
  let s := ((upFrom 0 16).filter fun n => armed.testBit (4 + n)).foldl State.canUp s
  let s := ((upFrom 0 12).filter fun n => armed.testBit (20 + n) && (s.linOf n).cfg.commander).foldl
    (fun s n => s.linWaking n true) s
  let s := ((upFrom 0 12).filter fun p => armed.testBit (32 + p) || waits.contains p).foldl (fun s p => s.portWake p false) s
  let s := s.wkoPulse fun k => k.onAbort
  let s := s.raise [0] 0x174 3 (pack [(0, 8, code), (8, 1, b2n cancel)])
  s.sleepEnd (if cancel then 0x1101 else 0x1100) (leBytes 4 code)

/-- A wake from a source is detected: recorded; before a commit it aborts the sleep; later it wakes the device, with the
pulses of R508. -/
def State.wakeFrom (s : State) (code : Nat) : State :=
  let s := s.noteSource code
  if s.beforeCommit then s.sleepAbort code false
  else if s.dev.state == .sleep || s.wake.phase == 4 || (s.dev.state == .standby && wakeClass code == 0) then
    s.wkoPulse fun k => k.pulse && k.mask.testBit (wakeClass code)
  else s

/-- A single sleeping channel or port woken in RUN or DEGRADED: also TRANSCEIVER_WAKE to its owner (R512). -/
def State.wakeTransceiver (s : State) (code : Nat) (tos : List Nat) : State :=
  let run := s.dev.state == .run || s.dev.state == .degraded
  let s := s.wakeFrom code
  if run then s.raise tos 0x174 5 code else s

/-! ### Isolation by sleep (R181) -/

/-- Whether the channel, segment or port that binds a frame buffer (class and index) is asleep. -/
def State.asleep (s : State) (cls idx : Nat) : Bool :=
  if cls == clsCan then (s.canOf idx).st == 4
  else if cls == clsLin then (s.linOf idx).st == 2 || (s.linOf idx).st == 3
  else if cls == clsPort then (s.prtOf idx).st == 3 || (decide (12 ≤ idx) && decide (idx < 16) && (s.prtOf idx).st == 0)
  else false

/-- The gateway requests the wake of a target (R509). -/
def State.wakeRequest (s : State) (cls idx : Nat) : State :=
  let code := 0x53
  let inSet := let w := s.wake.sets.val {} s.wake.set
    (cls == clsCan && w.can.testBit idx) || (cls == clsLin && w.lin.testBit idx) || (cls == clsPort && w.ports.testBit idx)
  let s := if s.beforeCommit && !inSet then s.noteSource code else s.wakeFrom code
  if cls == clsCan then s.canUp idx
  else if cls == clsLin then s.linWaking idx true
  else if decide (12 ≤ idx) then (if (s.prtOf idx).st == 0 && (s.prtOf idx).cfg.enabled then s.portTrain idx else s)
  else s.portWake idx false

/-! ### Ristretto queue (R108, R109, R186) -/

/-- A qualified event of trigger `t` with stamp `et` from source `src` enters the queue; a full queue drops it. -/
def State.risPush (s : State) (t src et level : Nat) : State :=
  let e := s.easel
  if !e.running then s
  else if 16 ≤ e.ris.length then
    let s := s.fault 0x12D 1 0 0x1F 0xFFFF (e.risLost + 1) 0 0
    { s with easel := { s.easel with risLost := e.risLost + 1, risLostEt := if e.risLost == 0 then et else e.risLostEt } }
  else
    let s := if e.risLost == 0 then s
      else ({ s with easel := { s.easel with risLost := 0, risLostEt := 0 } }).raiseAt e.risLostEt [0] 0x12D 0xFFFF e.risLost
    let q := s.easel.ris ++ [⟨t, src, et, (s.et + 6 + 31) / 32 * 32, level⟩]
    { s with easel := { s.easel with ris := q, risMax := max s.easel.risMax q.length } }

/-- Every trigger that `f` picks is pushed. -/
def State.triggerWhere (s : State) (f : Trigger → Bool) (src et level : Nat) : State :=
  s.gw.triggers.foldl (fun s e => if e.2.used && f e.2 then s.risPush e.1 src et level else s) s

/-- A receive buffer takes a payload and becomes fresh (R169). -/
def State.freshBuf (s : State) (buf : Nat) (data : List Byte) : State :=
  let x := s.gw.rx.val {} buf
  { s with gw := { s.gw with rx := s.gw.rx.put {} buf { x with data := data, has := true, age := 0 } } }

/-- A transmit buffer's bytes as they stand. -/
def State.txData (s : State) (buf : Nat) : List Byte := let x := s.gw.tx.val {} buf; fit x.len x.data

/-- A frame of a transmit buffer has gone out: its commits count as sent (R378). -/
def State.txSent (s : State) (buf : Nat) : State :=
  { s with gw := { s.gw with tx := s.gw.tx.put {} buf { s.gw.tx.val {} buf with written := false } } }

end Sys2Proof.Machine
end

