-- ==== Sys2Proof/Machine/Can.lean ====
section
/-!
DEFINITION. Sys2Proof/Machine/Can.lean: the CAN channels (R333 to R359): reception and filters, transmit requests, attempts
and their ends, cancel, bus-off, sleep and wake, and the CAN_ opcodes.
-/

namespace Sys2Proof.Machine

/-! ### Frames -/

/-- Cells of a frame with its 16 bytes of length and stamp (R340). -/
def canCells (len : Nat) : Nat := ceilDiv (len + 16) 64

/-- The order in which arbitration is won: the lower number wins (R345). -/
def canPrio (f : CanFrame) : Nat :=
  if f.fmt == 1 || f.fmt == 3 then f.id / 2 ^ 18 * 2 ^ 21 + 2 + f.id % 2 ^ 18 * 2 + b2n f.rtr
  else f.id % 2 ^ 11 * 2 ^ 21 + b2n f.rtr

/-- A length that a format allows (R337). -/
def canLenOk (fmt len : Nat) : Bool :=
  if fmt ≤ 1 then decide (len ≤ 8)
  else if fmt ≤ 3 then decide (len ≤ 8) || [12, 16, 20, 24, 32, 48, 64].contains len
  else fmt == 4 && decide (1 ≤ len) && decide (len ≤ 2048)

/-- The request's frame is that of CAN_TX number `n` of its source. -/
def CanReq.isCmd (r : CanReq) (src : Source) (tag : Nat) : Bool :=
  match r.cmd with | some pk => pk.src == src && pk.tag == tag | none => false

/-- Transmit FIFO cells in use (R340). -/
def Can.txCells (x : Can) : Nat :=
  ((x.waiting ++ x.placed ++ x.next).map fun r => if r.cmd.isSome then canCells r.frame.payload.length else 0).sum

/-- Receive FIFO cells in use. -/
def Can.rxCells (x : Can) : Nat := (x.fifo.map fun e => canCells e.2.payload.length).sum

/-- Buffer cells of channel `n` (R339). -/
def State.canStatic (s : State) (n : Nat) : Nat :=
  ((s.can.entries.filter fun e => e.ch == n && !e.cmdEntry).map fun e => canCells e.len).sum +
    ((s.can.filters.filter fun f => f.ch == n && f.toBuf).map fun f => canCells f.len).sum

/-! ### Final statuses (R346) -/

/-- The result of a CAN_TX final reply (R354). -/
def canResult (r : CanReq) (lastError : Nat) : List Byte :=
  leBytes 8 r.sof ++ leBytes 1 r.attempts ++ leBytes 1 lastError ++ leBytes 1 (b2n r.lost) ++ leBytes 5 0

/-- Counts a final status of any origin: the NO_ACK run and ALONE (R347). -/
def State.canNoAck (s : State) (n status : Nat) : State :=
  let x := s.canOf n
  if status == 0x0A02 then
    let x := { x with noack := sat8 x.noack }
    if 8 ≤ x.noack && !x.alone then (s.setCan n { x with alone := true }).raise (s.canTo n) (canSrc n) 3 x.noack
    else s.setCan n x
  else s

/-- A request ends with a final status: the CAN_TX command is answered, a scheduled request that does not end OK raises
TX_FAILED, and the counters follow (R346, R351). -/
def State.canEnd (s : State) (n : Nat) (r : CanReq) (status : Nat) : State :=
  let x := s.canOf n
  let sent := status == stOk || status == 0x0A00
  let s := s.setCan n { x with
    txOk := if sent then wrap32 x.txOk else x.txOk
    txFail := if sent || status == 0x0A01 || status == 0x0E05 then x.txFail else sat32 x.txFail
    cancels := if status == 0x0A01 || status == 0x0E05 then sat16 x.cancels else x.cancels }
  let s := s.canNoAck n status
  match r.cmd with
  | some pk =>
    s.finishWhere (fun o => o.code == 0x0801 && o.pk == pk) status (canResult r (s.canOf n).lastError)
  | none =>
    let s := if sent then s.txSent ((s.can.entries.getD r.entry {}).buf) else s
    if sent then s
    else s.raiseOnce (s.canTo n) (canSrc n) 1 (pack [(0, 16, r.entry), (16, 8, status % 256), (24, 8, r.attempts)])

/-- The cancels that meet a request end: CAN_TX_CANCEL commands, and a supervision timeout (R349, R424). -/
def State.cancelEnd (s : State) (n status : Nat) (r : Option CanReq) : State :=
  let x := s.canOf n
  let s := s.setCan n { x with cancelling := false, cancelBy := [], supCancel := false }
  let s := s.finishWhere (fun o => o.code == 0x0802 && x.cancelBy.contains o.pk) status []
  match r with
  | some r => match r.cmd with
    | some pk => if x.supCancel then s.supReport 0x0801 pk r.attempts (status == stOk) else s
    | none => s
  | none => s

/-! ### Placing (R344, R345) -/

/-- The frame of a scheduled entry, with its buffer as it stands. -/
def State.entryFrame (s : State) (e : CanEntry) : CanFrame :=
  ⟨e.fmt, e.brs, e.rtr, e.secBit, e.id, e.sdt, e.vcid, e.af, fit e.len (s.gw.tx.val {} e.buf).data⟩

/-- A request is placed in the controller. -/
def State.canPlace (s : State) (n : Nat) (r : CanReq) : State :=
  let x := s.canOf n
  let inAttempt := match x.attempt with | some a => a.entry == r.entry && a.cmd.isNone && r.cmd.isNone | none => false
  let old := if r.cmd.isNone then x.placed.find? fun q => q.entry == r.entry && q.cmd.isNone else none
  if inAttempt then s.setCan n { x with next := x.next.filter (fun q => !(q.entry == r.entry && q.cmd.isNone)) ++ [r] }
  else
    match old with
    | some q =>
      let s := s.setCan n { x with placed := x.placed.erase q ++ [r], superseded := sat16 x.superseded }
      s.raiseOnce (s.canTo n) (canSrc n) 2 r.entry
    | none =>
      if 64 ≤ x.placed.length + (if x.attempt.isSome then 1 else 0) then
        (s.setCan n { x with txFail := sat32 x.txFail }).raiseOnce (s.canTo n) (canSrc n) 1
          (pack [(0, 16, r.entry), (16, 8, 0xFF)])
      else s.setCan n { x with placed := x.placed ++ [r] }

/-- CAN_RELEASE of entry number `i` on channel `n`, and the request of a ristretto commit (R344). -/
def State.canRelease (s : State) (n i : Nat) : State :=
  let e := s.can.entries.getD i {}
  let x := s.canOf n
  if e.ch != n || x.st == 0 || x.st == 4 || s.can.entries.length ≤ i then s
  else if e.cmdEntry then
    match x.waiting with
    | [] => s
    | r :: rest =>
      if x.st == 3 then (s.setCan n { x with waiting := rest }).canEnd n r 0x0A04
      else (s.setCan n { x with waiting := rest }).canPlace n { r with entry := i }
  else
    let r : CanReq := { entry := i, frame := s.entryFrame e }
    if x.st == 3 then s.canEnd n r 0x0A04 else s.canPlace n r

/-- A ristretto commit to buffer `buf`: the entry with ristretto release is placed (R344). -/
def State.canRisRelease (s : State) (buf : Nat) : State :=
  let i := s.can.entries.findIdx fun e => e.buf == buf && e.risRel && !e.cmdEntry
  match s.can.entries[i]? with
  | some e => s.canRelease e.ch i
  | none => s

/-- The requests that waited for the completion of an attempt are placed. -/
def State.canNext (s : State) (n : Nat) : State :=
  let x := s.canOf n
  x.next.foldl (fun s r => s.canPlace n r) (s.setCan n { x with next := [] })

/-! ### Error state (R347, R348, R351) -/

/-- All requests of a channel end TX_BUS_OFF. -/
def State.canAllOff (s : State) (n : Nat) : State :=
  let x := s.canOf n
  let all := (match x.attempt with | some a => [a] | none => []) ++ x.placed ++ x.next ++ x.waiting
  let s := s.setCan n { x with attempt := none, placed := [], next := [], waiting := [] }
  let s := all.foldl (fun s r => s.canEnd n r 0x0A04) s
  if x.cancelling then s.cancelEnd n stOk x.attempt else s

/-- The error counters have changed: error passive, error active, bus-off. -/
def State.canErrState (s : State) (n : Nat) : State :=
  let x := s.canOf n
  let d := pack [(0, 9, x.tec), (16, 8, x.rxErr)]
  if 255 < x.tec && x.st != 3 then
    let s := s.setCan n { x with
      st := 3, err := 2, busOffs := sat16 x.busOffs, recovering := x.cfg.autoRec, recAuto := x.cfg.autoRec, rx := none }
    (s.canAllOff n).raise (s.canTo n) (canSrc n) 7 0
  else if (128 ≤ x.tec || 128 ≤ x.rxErr) && x.err == 0 then (s.setCan n { x with err := 1 }).raise (s.canTo n) (canSrc n) 5 d
  else if x.tec < 128 && x.rxErr < 128 && x.err == 1 then (s.setCan n { x with err := 0 }).raise (s.canTo n) (canSrc n) 6 d
  else s

/-! ### Reception (R342, R343) -/

/-- A filter matches a frame by format and masked identifier (R338). -/
def canHits (g : CanFilter) (f : CanFrame) : Bool :=
  g.formats.testBit f.fmt &&
    (let m := if f.fmt == 1 || f.fmt == 3 then g.mask else g.mask % 2 ^ 11
     Nat.land f.id m == Nat.land g.id m)

/-- The canvas phase of a stamp lies in a filter's reception window (R338). -/
def State.inWindow (s : State) (g : CanFilter) (stamp : Nat) : Bool :=
  let ph := (stamp - s.easel.canvasEt) / 1000
  g.winStart == 0xFFFFFFFF ||
    (if g.winStart < g.winEnd then decide (g.winStart ≤ ph) && decide (ph < g.winEnd)
     else decide (g.winStart ≤ ph) || decide (ph < g.winEnd))

/-- The first filter of channel `n` that a frame matches: those of the section, then the host filters by slot. -/
def State.canFilter (s : State) (n : Nat) (f : CanFrame) : Option CanFilter :=
  match s.can.filters.find? fun g => g.ch == n && canHits g f with
  | some g => some g
  | none => ((s.canOf n).host.map fun e => e.2).find? fun g => canHits g f

/-- End of CRC of a received frame: filtered, stored, ristretto trigger (R342, R343, R190). -/
def State.canReceive (s : State) (n : Nat) (f : CanFrame) : State :=
  let x := s.canOf n
  if x.st != 2 || x.rx.isSome then s
  else
    match s.canFilter n f with
    | none => s.setCan n { x with unmatched := sat32 x.unmatched, rx := some ⟨f, s.et, none, false⟩ }
    | some g =>
      let s := s.setCan n { x with
        rx := some ⟨f, s.et, if g.toBuf then some g.buf else none, g.toRing⟩
        outside := if g.toBuf && !s.inWindow g s.et then sat16 x.outside else x.outside }
      if g.toBuf then
        (s.freshBuf g.buf (f.payload.take g.len)).triggerWhere (fun t => t.kind == 1 && t.source == g.buf) (canSrc n) s.et 0
      else s

/-- The frame is valid: counted, and on its way to the ring (R342, R343). -/
def State.canValid (s : State) (n : Nat) : State :=
  let x := s.canOf n
  match x.rx with
  | none => s
  | some r =>
    let cells := canCells r.frame.payload.length
    let gone := r.toRing && s.ringStopped x.cfg.ring
    let drop := r.toRing && !gone && decide (x.cfg.rxQuota < x.rxCells + cells)
    let s := s.setCan n { x with
      rx := none, rxOk := wrap32 x.rxOk
      rxErr := if 127 < x.rxErr then 127 else x.rxErr - 1
      fifo := if r.toRing && !drop && !gone then x.fifo ++ [(r.stamp, r.frame)] else x.fifo
      rxDrops := if drop then sat32 x.rxDrops else x.rxDrops
      dropsSince := if drop then x.dropsSince + 1 else x.dropsSince }
    let s := if gone then s.ringDiscard x.cfg.ring else s
    let s := s.canErrState n
    if drop && !s.dev.onceCanvas.contains (canSrc n, 9, 0xFF) then
      let s := s.raiseOnce (s.canTo n) (canSrc n) 9 (s.canOf n).dropsSince
      s.setCan n { s.canOf n with dropsSince := 0 }
    else s

/-! ### Transmission (R345 to R347) -/

/-- The placed request that would win arbitration, the older one among equals (R345). -/
def bestReq : List CanReq → Option CanReq
  | [] => none
  | r :: rs =>
    match bestReq rs with
    | none => some r
    | some q => if canPrio r.frame ≤ canPrio q.frame then some r else some q

/-- SOF of an attempt. -/
def State.canAttempt (s : State) (n : Nat) : State :=
  let x := s.canOf n
  if x.st != 2 || x.attempt.isSome || x.rx.isSome then s
  else
    match bestReq x.placed with
    | none => s
    | some r =>
      s.setCan n { x with
        placed := x.placed.erase r
        attempt := some { r with attempts := r.attempts + 1, sof := s.et } }

/-- The attempt of a request ends without success, by status `status` once its attempts are used up; a cancel that met it
before its cancel point removes it, after the point it is not retried (R346, R349). -/
def State.canRetry (s : State) (n status : Nat) (past : Bool) : State :=
  let x := s.canOf n
  match x.attempt with
  | none => s
  | some r =>
    let s := s.setCan n { x with attempt := none }
    let s :=
      if x.cancelling then
        (s.canEnd n r (if x.supCancel && !past then 0x0E05 else 0x0A01)).cancelEnd n (if past then 0x0A05 else stOk) (some r)
      else if x.cfg.retry ≤ r.attempts then s.canEnd n r status
      else s.setCan n { s.canOf n with placed := r :: (s.canOf n).placed }
    s.canNext n

def State.canLost (s : State) (n : Nat) : State :=
  let x := s.canOf n
  match x.attempt with
  | none => s
  | some r => (s.setCan n { x with attempt := some { r with lost := true }, arbLost := sat16 x.arbLost }).canRetry n 0x0A03 false

/-- An error on the bus (R346, R351): kinds as CAN_LAST_ERROR. `past` says that the attempt is past its cancel point,
`more` that dominant bits followed the error flag, which ISO 11898-1 counts by 8 more. -/
def State.canError (s : State) (n kind : Nat) (past more : Bool) : State :=
  let x := s.canOf n
  if x.st != 2 then s
  else if kind == 7 && x.cfg.protEx then
    (s.setCan n { x with lastError := 7, lastErrorEt := s.et, rx := none }).raise (s.canTo n) (canSrc n) 0xC 0
  else
    let kind := if kind == 7 then 2 else kind
    let sending := x.attempt.isSome
    let exempt := kind == 3 && x.err == 1
    let extra := if more then 8 else 0
    let late := x.rx
    let s := s.setCan n { x with
      lastError := kind, lastErrorEt := s.et, rx := none
      tec := if sending then min 511 (x.tec + (if exempt then 0 else 8) + extra) else x.tec
      rxErr := if sending then x.rxErr else min 255 (x.rxErr + 1 + extra)
      lateErrors := if late.isSome then sat16 x.lateErrors else x.lateErrors }
    let s := match late with
      | some r => s.raiseOnce (s.canTo n) (canSrc n) 0xB (r.buf.getD 0xFFFF)
      | none => s
    let s := s.canErrState n
    if (s.canOf n).st == 3 then s
    else s.canRetry n (if kind == 3 then 0x0A02 else 0x0A03) past

/-- The frame of an attempt completes without error (R346, R347, R349). -/
def State.canSuccess (s : State) (n : Nat) : State :=
  let x := s.canOf n
  match x.attempt with
  | none => s
  | some r =>
    let s := s.setCan n { x with attempt := none, tec := x.tec - 1, noack := 0, alone := false }
    let s := if x.alone then s.raise (s.canTo n) (canSrc n) 4 0 else s
    let s := s.canErrState n
    let s := s.canEnd n r (if x.cancelling then 0x0A00 else stOk)
    let s := if x.cancelling then s.cancelEnd n 0x0A05 (some r) else s
    s.canNext n

/-! ### Cancel (R349) -/

/-- A cancel of the CAN_TX of one source and tag reaches the controller: the state and, where it is decided at once,
whether the request was removed. `pk` is the CAN_TX_CANCEL, none for a supervision timeout. -/
def State.canCancel (s : State) (n : Nat) (src : Source) (tag : Nat) (pk : Option Packet) : State × Bool :=
  let x := s.canOf n
  match (x.waiting ++ x.placed ++ x.next).find? fun r => r.isCmd src tag with
  | some r =>
    let s := s.setCan n { x with
      waiting := x.waiting.filter fun q => !q.isCmd src tag
      placed := x.placed.filter fun q => !q.isCmd src tag
      next := x.next.filter fun q => !q.isCmd src tag }
    (s.canEnd n r (if pk.isSome then 0x0A01 else 0x0E05), true)
  | none =>
    (s.setCan n { x with cancelling := true, cancelBy := x.cancelBy ++ pk.toList, supCancel := x.supCancel || pk.isNone }, false)

/-! ### States (R341, R348, R350) -/

def State.canIntegrated (s : State) (n : Nat) : State :=
  let x := s.canOf n
  if x.st == 1 then s.setCan n { x with st := 2 } else s

def State.canRecovered (s : State) (n : Nat) : State :=
  let x := s.canOf n
  if x.st == 3 && x.recovering then
    (s.setCan n { x with st := 1, recovering := false, err := 0, tec := 0, rxErr := 0 }).raise (s.canTo n) (canSrc n) 8
      (b2n x.recAuto)
  else s

/-- A channel's detector is armed and its transceiver put to sleep (R350, R501). -/
def State.canSleep (s : State) (n : Nat) : State :=
  let x := s.canOf n
  s.setCan n { x with
    st := 4, armed := true, rx := none, sleptAt := s.et
    placed := (match x.attempt with | some a => [a] | none => []) ++ x.placed, attempt := none }

/-- A wake pattern, wake frame or counter overflow on an armed channel (R350). -/
def State.canWake (s : State) (n reason : Nat) : State :=
  let x := s.canOf n
  if x.st != 4 || !x.armed || 2 < reason || (reason == 0) != (x.wakeCfg.mode != 2) then s
  else
    let run := s.dev.state == .run || s.dev.state == .degraded || s.beforeCommit
    let s := s.wakeTransceiver (0x20 + n) (s.canTo n)
    if run then (s.canUp n).raise (s.canTo n) (canSrc n) 0xA reason else s

/-! ### Status pages (R352) -/

def State.canPage0 (s : State) : List Nat :=
  let st := ((upFrom 0 16).map s.canStatic).sum
  [ st + ((upFrom 0 16).map fun n => (s.canOf n).txCells + (s.canOf n).rxCells).sum, st,
    mapBits (fun n => (s.canOf n).armed) 16 ]

/-- The 15 words of the page of channel `n`. -/
def State.canWords (s : State) (n : Nat) : List Nat :=
  let x := s.canOf n
  let placed := x.placed.length + (if x.attempt.isSome then 1 else 0)
  [ pack [(0, 3, x.st), (4, 2, x.err), (8, 1, b2n x.alone), (9, 1, b2n x.cfg.listen), (10, 1, b2n x.armed),
      (11, 2, x.wakeCfg.mode)],
    pack [(0, 9, x.tec), (16, 8, x.rxErr), (24, 8, x.noack)],
    x.txOk, x.txFail, x.rxOk, x.rxDrops, x.unmatched, pack [(0, 16, x.arbLost), (16, 16, x.superseded)],
    pack [(0, 16, x.busOffs), (16, 16, x.lateErrors)], pack [(0, 16, x.waiting.length), (16, 7, placed)],
    pack [(0, 16, x.txCells + x.rxCells), (16, 16, x.cfg.quota)], pack [(0, 16, x.outside), (16, 16, x.cancels)],
    x.lastError, lo32 x.lastErrorEt, hi32 x.lastErrorEt ]

/-! ### Opcodes (R353 to R358) -/

def canOwners (ps : List Byte) (s : State) : List Nat := [s.owner clsCan (u8 ps 0)]
def canDisabled (pk : Packet) (s : State) : Bool := !(s.canOf (u8 pk.params 0)).cfg.enabled

def canGetStatusSpec : OpSpec where
  code := 0x0800
  comp := .S
  issuer := .ownP0
  len := lenIs 4
  fields := fun ps _ => decide (u8 ps 0 < 16) && zeroAt ps 1 3
  owners := canOwners
  key := fun ps => u8 ps 0 + 1
  check := fun pk s => if canDisabled pk s then 0x0A07 else stOk
  act := fun pk s => okWith (wordBytes (s.canWords (u8 pk.params 0))) s

/-- The frame that a CAN_TX block names (R354). -/
def canTxFrame (ps : List Byte) : CanFrame :=
  ⟨u8 ps 1 % 8, (u8 ps 1).testBit 3, (u8 ps 1).testBit 4, (u8 ps 1).testBit 5, u32 ps 4, u8 ps 8, u8 ps 9, u32 ps 12, (ps.drop 16).take (u16 ps 2)⟩

def canTxSpec : OpSpec where
  code := 0x0801
  comp := .A
  issuer := .own
  len := fun ps => decide (16 ≤ ps.length) && ps.length == 16 + 4 * ceilDiv (u16 ps 2) 4
  fields := fun ps _ =>
    decide (u8 ps 0 < 16) && decide (u8 ps 1 < 64) && decide (u32 ps 4 < 2 ^ 29) && zeroAt ps 10 2 &&
      zeroAt ps (16 + u16 ps 2) 4
  owners := canOwners
  key := fun ps => u8 ps 0 + 1
  check := fun pk s =>
    let ps := pk.params
    let x := s.canOf (u8 ps 0)
    let fmt := u8 ps 1 % 8
    if canDisabled pk s then 0x0A07
    else if x.st == 4 then 0x0A08
    else if x.cfg.listen then 0x0A0D
    else if 4 < fmt || ((fmt == 2 || fmt == 3) && !x.cfg.fd) || (fmt == 4 && !x.cfg.xl) || !canLenOk fmt (u16 ps 2) ||
        ((u8 ps 1).testBit 3 && fmt != 2 && fmt != 3) || ((u8 ps 1).testBit 4 && 1 < fmt) ||
        ((u8 ps 1).testBit 5 && fmt != 4) then 0x0A09
    else if !(s.can.entries.any fun e => e.ch == u8 ps 0 && e.cmdEntry) then 0x0A0A
    else if x.st == 3 then 0x0A04
    else if x.cfg.txQuota < x.txCells + canCells (u16 ps 2) then stNoResource
    else stOk
  act := fun pk s =>
    let n := u8 pk.params 0
    let x := s.canOf n
    later (s.setCan n { x with waiting := x.waiting ++ [{ entry := 0, frame := canTxFrame pk.params, cmd := some pk }] })

/-- An outstanding CAN_TX of a source, tag and channel. -/
def Outst.isCanTx (o : Outst) (src : Source) (tag n : Nat) : Bool :=
  o.code == 0x0801 && o.started && o.pk.src == src && o.pk.tag == tag && u8 o.pk.params 0 == n

def canTxCancelSpec : OpSpec where
  code := 0x0802
  comp := .A
  issuer := .own
  len := lenIs 4
  fields := fun ps _ => decide (u8 ps 0 < 16) && zeroAt ps 1 1
  owners := canOwners
  key := fun ps => u8 ps 0 + 1
  check := fun pk s =>
    if canDisabled pk s then 0x0A07
    else if s.outstanding fun o => o.isCanTx pk.src (u16 pk.params 2) (u8 pk.params 0) then stOk else 0x0A06
  act := fun pk s =>
    let r := s.canCancel (u8 pk.params 0) pk.src (u16 pk.params 2) (some pk)
    if r.2 then ok r.1 else later r.1

def canSetFilterSpec : OpSpec where
  code := 0x0803
  comp := .O
  cls := 7
  issuer := .own
  len := lenIs 16
  fields := fun ps _ =>
    decide (u8 ps 0 < 16) && decide (u8 ps 1 < 16) && decide (u8 ps 2 ≤ 1) && decide (u8 ps 3 < 32) &&
      decide (u32 ps 4 < 2 ^ 29) && decide (u32 ps 8 < 2 ^ 29) && zeroAt ps 12 4 && (u8 ps 2 == 1 || u8 ps 3 == 0)
  owners := canOwners
  key := fun ps => u8 ps 0 + 1
  check := fun pk s =>
    let ps := pk.params
    if canDisabled pk s then 0x0A07
    else if u8 ps 2 == 1 && (s.canOf (u8 ps 0)).cfg.ring == 0xFF then 0x0A0E
    else if u8 ps 2 == 1 && u8 ps 3 == 0 then 0x0A09 else stOk
  act := fun pk s =>
    let ps := pk.params
    let x := s.canOf (u8 ps 0)
    let g : CanFilter := if u8 ps 2 == 1 then
      { ch := u8 ps 0, formats := u8 ps 3, id := u32 ps 4, mask := u32 ps 8, toRing := true } else {}
    ok (s.setCan (u8 ps 0) { x with host := x.host.put {} (u8 ps 1) g })

def canSetWakeSpec : OpSpec where
  code := 0x0804
  comp := .O
  cls := 7
  issuer := .own
  len := lenIs 24
  fields := fun ps _ =>
    let wuf := u8 ps 2 == 2
    decide (u8 ps 0 < 16) && decide (u8 ps 1 ≤ 2) && decide (u8 ps 2 ≤ 2) && zeroAt ps 14 2 &&
      (if wuf then decide (u8 ps 3 ≤ 1) && decide (u32 ps 4 < 2 ^ 29) && decide (u32 ps 8 < 2 ^ 29) && decide (u8 ps 13 ≤ 1)
        else zeroAt ps 3 1 && zeroAt ps 4 10) &&
      ((wuf && u8 ps 13 == 1) || zeroAt ps 16 8)
  owners := canOwners
  key := fun ps => u8 ps 0 + 1
  check := fun pk s =>
    let ps := pk.params
    if canDisabled pk s then 0x0A07
    else if u8 ps 2 == 2 && (8 < u8 ps 12 || !Config.wakeRate (s.canOf (u8 ps 0)).cfg.rate) then 0x0A0C
    else if u8 ps 1 == 1 && u8 ps 2 == 0 then 0x0A0C else stOk
  act := fun pk s =>
    let ps := pk.params
    let n := u8 ps 0
    if u8 ps 1 == 2 then ok (s.canUp n)
    else
      let s := s.setCan n { s.canOf n with
        wakeCfg := ⟨u8 ps 2, u8 ps 3 == 1, u32 ps 4, u32 ps 8, u8 ps 12, u8 ps 13 == 1, u64 ps 16⟩
        armed := (s.canOf n).armed && u8 ps 2 != 0 }
      ok (if u8 ps 1 == 1 then s.canSleep n else s)

def canRecoverSpec : OpSpec where
  code := 0x0805
  comp := .O
  cls := 7
  issuer := .own
  len := lenIs 4
  fields := fun ps _ => decide (u8 ps 0 < 16) && zeroAt ps 1 3
  owners := canOwners
  key := fun ps => u8 ps 0 + 1
  check := fun pk s =>
    if canDisabled pk s then 0x0A07 else if (s.canOf (u8 pk.params 0)).st == 3 then stOk else 0x0A0B
  act := fun pk s =>
    let n := u8 pk.params 0
    let x := s.canOf n
    ok (if x.recovering then s else s.setCan n { x with recovering := true, recAuto := false })

end Sys2Proof.Machine
end

