-- ==== Sys2Proof/Machine/Time.lean ====
section
/-!
DEFINITION. Sys2Proof/Machine/Time.lean: zone time (R70 to R98): sources, selection, realignment, the states of zone time,
holdover, the RTC, and the pulse generators, with the ZT_ pages and the time group's opcodes.
-/

namespace Sys2Proof.Machine

/-! ### Clocks (R70 to R72) -/

/-- ZT now (R71). -/
def State.zt (s : State) : Int := s.et + s.time.ztOffset

/-- Canvas phase now, in ticks (R71). -/
def State.canvasPhase (s : State) : Nat :=
  if s.canvasNs == 0 then 0 else (s.zt % s.canvasNs).toNat / 8

/-- ET as the RTC gives it at entry to STARTING (R72). -/
def rtcEt (rtcNs : Nat) : Nat :=
  let sec := rtcNs / nsS
  let frac := rtcNs % nsS * 32768 / nsS
  (sec * nsS + frac * nsS / 2 ^ 15) / 2 * 2

/-! ### Rate correction (R75, R79) -/

/-- The history of corrections without what lies wholly before the last second. -/
def pruneRates (from_ : Nat) : List (Nat × Int) → List (Nat × Int)
  | [] => []
  | (t, c) :: r => if t ≤ from_ then [(t, c)] else (t, c) :: pruneRates from_ r

/-- The sum of correction times duration back from `till` to `lo`. -/
def rateSum (lo : Nat) : Nat → List (Nat × Int) → Int
  | _, [] => 0
  | till, (t, c) :: r => c * ((till : Int) - (max t lo : Nat)) + (if t ≤ lo then 0 else rateSum lo t r)

/-- The average correction of the last 1 s. -/
def State.avgRate (s : State) : Int :=
  let lo := s.et - nsS
  let first := (s.time.rateHist.getLast?.getD (s.et, 0)).1
  let span := s.et - max lo first
  if span == 0 then s.time.rateAdj else rateSum lo s.et s.time.rateHist / (span : Int)

def State.setRate (s : State) (c : Int) : State :=
  { s with time := { s.time with
    rateAdj := c, slewEnd := 0, rateHist := pruneRates (s.et - nsS) ((s.et, c) :: s.time.rateHist) } }

/-- The phase error is corrected in rate, at the maximum slew beside the source's frequency, until it is gone. -/
def State.steer (s : State) (err : Int) : State :=
  let c := s.time.freq
  if err == 0 then s.setRate c
  else
    let slew : Int := s.time.cfg.maxSlew
    let s := s.setRate (if 0 < err then c - slew * 1000 else c + slew * 1000)
    { s with time := { s.time with slewEnd := s.et + err.natAbs * 1000000 / s.time.cfg.maxSlew } }

/-! ### Sources (R73, R74, R96) -/

def State.timeSrc (s : State) (c : Nat) : TimeSrc := s.time.srcs.val {} c

def State.setTimeSrc (s : State) (c : Nat) (x : TimeSrc) : State :=
  { s with time := { s.time with srcs := s.time.srcs.put {} c x } }

/-- Source ID of a source code (R86). -/
def timeSrcId (c : Nat) : Nat := 0x009 + c

def srcEnabled (g : TimeCfg) (c : Nat) : Bool :=
  match c with
  | 0 => g.priGptp != 0 && g.primary != 0xFF && g.portMask != 0
  | 1 => g.priGptp != 0 && g.hot != 0xFF && g.portMask != 0
  | 2 => g.priFr != 0 && g.frCluster != 0xFF
  | 3 => g.priPps != 0
  | _ => false

def srcAny (g : TimeCfg) : Bool := [0, 1, 2, 3].any fun c => srcEnabled g c

/-- Rank of a source: its priority, the primary domain before the hot standby, the TCXO last. -/
def srcRank (g : TimeCfg) (c : Nat) : Nat :=
  match c with
  | 0 => 2 * g.priGptp
  | 1 => 2 * g.priGptp + 1
  | 2 => 2 * g.priFr
  | 3 => 2 * g.priPps
  | _ => 100

/-- Whether a source may be selected: as grandmaster the device takes neither gPTP domain (R81). -/
def State.candidate (s : State) (c : Nat) : Bool :=
  let x := s.timeSrc c
  srcEnabled s.time.cfg c && x.qualified && !x.refused && !(s.time.gm && c ≤ 1)

/-- External sources by rank. -/
def State.byRank (s : State) : List Nat :=
  let g := s.time.cfg
  (upFrom 0 10).flatMap fun r => [0, 1, 2, 3].filter fun c => srcRank g c == r

/-- Qualified bits by source code (R91). -/
def State.qualMask (s : State) : Nat :=
  16 + mapBits (fun c => (s.timeSrc c).qualified || (c == 0 && s.time.gm)) 4

/-- Grandmaster identity (R91): the device's own as grandmaster, else that of a qualified domain. -/
def State.gmIdentity (s : State) : Nat :=
  if s.time.gm then Config.deviceIdentity
  else if (s.timeSrc 0).qualified then (s.timeSrc 0).gm
  else if (s.timeSrc 1).qualified then (s.timeSrc 1).gm else 0

/-- The last phase error of a source against the present ZT. -/
def TimeSrc.err (x : TimeSrc) : Int := x.lastErr + x.adj

/-- A source whose selection would need a refused realignment (R77). -/
def State.refusable (s : State) (err : Int) : Bool :=
  s.dev.armed && !s.time.cfg.realignArmed && decide (s.time.cfg.stepThr ≤ err.natAbs)

def State.markRefused (s : State) (c : Nat) : State :=
  if (s.timeSrc c).refused then s
  else (s.setTimeSrc c { s.timeSrc c with refused := true }).raise [0] 0x008 8 c

/-! ### States of zone time (R78) -/

def State.enterAcquire (s : State) : State :=
  if s.time.ztState == 1 then s
  else { s with time := { s.time with before := s.time.ztState, ztState := 1 } }

/-- Entry to LOCKED: holdover and CAUSE_TIME end. -/
def State.enterLocked (s : State) : State :=
  ({ s with
    time := { s.time with ztState := 2, before := 2, holdoverStart := none, waitSince := none }
    dev := { s.dev with causeTime := false } }).degrade

/-- External time is lost in fact (R28, R79). -/
def State.causeTime (s : State) : State := ({ s with dev := { s.dev with causeTime := true } }).degrade

/-- The state follows the phase error measured at a reference instant of the selected source. -/
def State.followErr (s : State) (err : Int) : State :=
  if s.time.cfg.stepThr ≤ err.natAbs then
    ({ s with time := { s.time with realignPending := true } }).setRate s.time.freq |>.enterAcquire
  else if err.natAbs < 1000 then (s.steer err).enterLocked
  else (s.steer err).enterAcquire

/-- The selected source changes (R74, R87). -/
def State.setSource (s : State) (c : Nat) : State :=
  let prev := s.time.source
  ({ s with time := { s.time with
    source := c, realignPending := false, slewEnd := 0, switchCount := sat16 s.time.switchCount } }).raise [0] 0x008 3
    (pack [(0, 8, c), (8, 8, prev)])

/-- Fall-back to the TCXO from source `lost` (R78, R79); a grandmaster of the primary domain stays LOCKED (R81). -/
def State.timeFall (s : State) (lost : Nat) : State :=
  let st := if s.time.ztState == 1 then s.time.before else s.time.ztState
  let s := s.setSource 4
  if s.time.gm then (s.setRate s.time.heldRate).enterLocked
  else if st == 2 then
    let r := s.avgRate
    let s := s.setRate r
    ({ s with time := { s.time with ztState := 3, heldRate := r, holdoverStart := some s.et } }).raise [0] 0x008 4 lost
  else
    let s := s.setRate (if st == 0 then 0 else s.time.heldRate)
    { s with time := { s.time with ztState := st } }

/-- The first candidate of a list, those that would need a refused realignment marked so. -/
def State.pickSource : List Nat → State → State × Option Nat
  | [], s => (s, none)
  | c :: cs, s =>
    if !s.candidate c then State.pickSource cs s
    else if c != s.time.source && s.refusable (s.timeSrc c).err then State.pickSource cs (s.markRefused c)
    else (s, some c)

/-- The selected source follows R74. -/
def State.reselect (s : State) : State :=
  let (s, best) := s.pickSource s.byRank
  let cur := s.time.source
  match best with
  | none => if cur == 4 then s else s.timeFall cur
  | some c =>
    let hold := cur != 4 && s.candidate cur && decide (s.et < (s.timeSrc c).qualAt + s.time.cfg.revertMs * nsMs)
    if c == cur || hold then s
    else
      let s := s.setSource c
      let s := { s with time := { s.time with gm := s.time.gm && c != 0 } }
      s.followErr (s.timeSrc c).err

/-- A source is lost (R73). -/
def State.timeLost (s : State) (c : Nat) : State :=
  let x := s.timeSrc c
  let s := s.setTimeSrc c { x with good := 0, qualified := false, refused := false }
  if x.qualified then (s.raise [0] (timeSrcId c) 2 c).reselect else s

/-- A source counts good references: `good` so far with this one, qualified at `need`. -/
def State.timeGood (s : State) (c good need : Nat) (err : Int) : State :=
  let x := s.timeSrc c
  let q := decide (need ≤ good) && !x.qualified
  let s := s.setTimeSrc c { x with
    good := good, lastErr := err, adj := 0, lastAt := s.et, qualified := x.qualified || q, qualAt := if q then s.et else x.qualAt }
  if q then
    let s := if c == 0 then { s with time := { s.time with gm := false } } else s
    (s.raise [0] (timeSrcId c) 1 c).reselect
  else s

/-- A reference instant of source `c` with phase error `err`: measured and corrected where the source is selected (R75). -/
def State.timeRef (s : State) (c : Nat) (err : Int) (freq : Option Int) (was : Nat) : State :=
  if s.time.source == c then
    let s := { s with time := { s.time with phaseErr := err, freq := freq.getD s.time.freq } }
    if s.refusable err then (s.markRefused c).reselect
    else if was != c || s.time.realignPending then s
    else s.followErr err
  else if (s.timeSrc c).refused && !s.refusable err then
    (s.setTimeSrc c { s.timeSrc c with refused := false }).reselect
  else s

/-- A phase error reduced into (-p/2, p/2] (R73). -/
def ambig (p : Nat) (e : Int) : Int :=
  if p == 0 then e else let r := e % p; if (p : Int) < 2 * r then r - p else r

/-- A gPTP Sync of domain `c` (0 primary, 1 hot standby). -/
def State.gptpSync (s : State) (c : Nat) (err ratePpb : Int) (gm : Nat) : State :=
  if 1 < c || !srcEnabled s.time.cfg c then s
  else
    let x := s.timeSrc c
    let was := s.time.source
    let rateOk := decide (ratePpb.natAbs ≤ 50000)
    let run := x.good != 0 && decide ((err - x.lastErr).natAbs ≤ 1000)
    let good := if rateOk then (if run then x.good + 1 else 1) else 0
    let s := if x.gm != gm then
      (s.setTimeSrc c { x with gm := gm }).raise [0] (timeSrcId c) 7 gm else s
    let s := if was == c then s else { s with time := { s.time with freq := if s.time.source == 4 then ratePpb else s.time.freq } }
    (s.timeGood c good 4 err).timeRef c err (some ratePpb) was

/-- A TIME_PPS edge, `spacing` ns of ET after the one before, of a pulse `width` ns wide. -/
def State.ppsEdge (s : State) (e : Int) (spacing width : Nat) : State :=
  if !srcEnabled s.time.cfg 3 then s
  else
    let err := ambig nsS e
    let x := s.timeSrc 3
    let was := s.time.source
    let run := x.good != 0 && decide (999990000 ≤ spacing) && decide (spacing ≤ 1000010000)
    let good := if width < 1000 then 0 else if run then x.good + 1 else 1
    let freq := if run then some ((nsS : Int) - spacing + s.time.rateAdj) else none
    let s := if was == 4 then { s with time := { s.time with freq := freq.getD 0 } } else s
    (s.timeGood 3 good 3 err).timeRef 3 err freq was

/-- A cycle start of the selected FlexRay cluster in normal active operation; the reference instant is cycle 0 (R73, R82).
`cycleNs` is its cycle length. -/
def State.frRef (s : State) (cycleNs cycle : Nat) (e : Int) : State :=
  let p := 64 * cycleNs
  let err := ambig (if s.canvasNs == 0 then p else min p s.canvasNs) e
  let x := s.timeSrc 2
  let was := s.time.source
  let gap := x.good != 0 && decide (x.lastAt + 3 * cycleNs ≤ s.et)
  let s := if gap then s.timeLost 2 else s
  let good := (s.timeSrc 2).good + 1
  let s := if was == 4 then { s with time := { s.time with freq := 0 } } else s
  let s := s.timeGood 2 good 9 (if cycle == 0 then err else (s.timeSrc 2).lastErr)
  if cycle == 0 then s.timeRef 2 err none was else s

/-! ### Realignment (R76) -/

/-- ZT_OFFSET is set so that the phase error of the selected source becomes zero; refused while armed where R77 says so. -/
def State.realign (s : State) : State :=
  let c := s.time.source
  let e := (s.timeSrc c).err
  if s.dev.armed && !s.time.cfg.realignArmed then
    (({ s with time := { s.time with realignPending := false } }).markRefused c).reselect
  else
    let s := { s with time := { s.time with
      ztOffset := s.time.ztOffset - e, realignPending := false, realignCount := sat16 s.time.realignCount
      srcs := s.time.srcs.mapV fun _ x => { x with adj := x.adj - e } } }
    s.raise [0] 0x008 6 (clipS32 ((-e).tdiv 1000))

/-! ### Waiting, holdover, grandmaster -/

/-- The source selector at entry to RUN (R78). -/
def State.timeRun (s : State) : State :=
  let t := s.time
  if !srcAny t.cfg then { s with time := { t with ztState := if t.gm then 2 else 4 } }
  else if t.ztState == 2 then s
  else { s with time := { t with waitSince := some s.et } }

/-- 20 s of RUN without LOCKED (R28, R78). -/
def State.waitTimeout (s : State) : State :=
  match s.time.waitSince with
  | none => s
  | some t =>
    if s.et < t + 20 * nsS then s
    else
      let s := { s with time := { s.time with waitSince := none } }
      if s.time.ztState == 0 then
        ({ s.setRate 0 with time := { (s.setRate 0).time with ztState := 4, heldRate := 0 } }).causeTime
      else if s.time.ztState == 1 && s.time.before == 0 then
        ({ s with time := { s.time with before := 4, heldRate := 0 } }).causeTime
      else s

/-- The holdover limit has passed (R78, R79). -/
def State.holdoverExpire (s : State) : State :=
  match s.time.holdoverStart with
  | none => s
  | some t =>
    if s.et < t + s.time.cfg.holdoverMs * nsMs then s
    else
      let s := s.raise [0] 0x008 5 s.time.cfg.holdoverMs
      let x := s.time
      ({ s with time := { x with
        holdoverStart := none
        ztState := if x.ztState == 3 then 4 else x.ztState
        before := if x.before == 3 then 4 else x.before } }).causeTime

def State.holdoverLeft (s : State) : Nat :=
  match s.time.holdoverStart with
  | some t => if s.time.ztState == 3 then (t + s.time.cfg.holdoverMs * nsMs - s.et) / nsMs else 0
  | none => 0

/-- No Sync for syncReceiptTimeout intervals: the domain is lost, and a grandmaster-capable device becomes the grandmaster of
the primary domain (R73, R81). -/
def State.syncTimeout (s : State) (c : Nat) : State :=
  let g := s.time.cfg
  if 1 < c || !srcEnabled g c then s
  else
    let capable := c == 0 && decide (g.priority1 < 255) && g.roles.all (· == 0) && !s.time.gm
    let s := if capable then
      ({ s with time := { s.time with gm := true } }).raise [0] (timeSrcId 0) 7 Config.deviceIdentity else s
    let s := s.timeLost c
    if capable && s.time.source == 4 then (s.setRate s.time.heldRate).enterLocked else s

def State.ppsTimeout (s : State) : State :=
  let x := s.timeSrc 3
  if x.good == 0 && !x.qualified || s.et < x.lastAt + 1100 * nsMs then s else s.timeLost 3

/-- The RTC takes whole ZT seconds while LOCKED on a source other than the TCXO (R72). -/
def State.rtcWrite (s : State) : State :=
  if s.time.ztState == 2 && s.time.source != 4 then { s with rtcNs := (s.zt / nsS).toNat * nsS } else s

/-- A two-step Sync on a gPTP master port (R80, R96). -/
def State.syncTransmit (s : State) (p : Nat) : State :=
  let g := s.time.cfg
  let role := g.roles.getD p 0
  if g.portMask.testBit p && p < 12 && (role == 1 || role == 0) && s.portUp p &&
      (s.time.gm || (s.timeSrc 0).qualified || (s.timeSrc 1).qualified) then
    { s with time := { s.time with syncSent := s.time.syncSent.put 0 p (s.time.syncSent.val 0 p + 1) } }
  else s

/-- Settings of TIME_CONFIG from the start of palette 0 (R96). A device whose external port configuration names no slave port
is the grandmaster. -/
def State.timeApply (s : State) (g : TimeCfg) (imgSlew : Nat) (pgs : Tab PgRec) : State :=
  let used := (upFrom 0 12).filter fun p => g.portMask.testBit p
  let gm := g.primary != 0xFF && !used.isEmpty && used.all fun p => g.roles.getD p 0 != 0 && g.roles.getD p 0 != 2
  { s with time := { s.time with
    cfg := g, imgSlew := imgSlew, gm := gm
    pgs := (pgs.filter fun e => e.2.width != 0).map fun e =>
      (e.1, { configured := true, mode := e.2.mode, polarity := e.2.polarity, width := e.2.width, period := e.2.period
              count := e.2.count }) } }

/-! ### Pulse generators (R89, R90) -/

def State.pg (s : State) (n : Nat) : PulseGen := s.time.pgs.val {} n

def State.setPg (s : State) (n : Nat) (x : PulseGen) : State :=
  { s with time := { s.time with pgs := s.time.pgs.put {} n x } }

def State.pgTo (s : State) (n : Nat) : List Nat := [s.owner clsPg n]

/-- A generator goes idle, raising PG_DONE or PG_STOPPED. -/
def State.pgIdle (s : State) (n kind : Nat) : State :=
  let x := s.pg n
  (s.setPg n { x with st := 0, active := false, stopping := false, next := 0 }).raise (s.pgTo n) (0x0C0 + n) kind x.pulses

/-- A start at ET `at_` of a generator that does not run. -/
def State.pgBegin (s : State) (n at_ : Nat) : State :=
  s.setPg n { s.pg n with st := 1, start := at_, next := at_, pulses := 0, active := false, stopping := false }

/-- PG_STOP, and a partition reset of the owner: an active pulse completes (R90). -/
def State.pgStop (s : State) (n : Nat) : State :=
  let x := s.pg n
  if x.st == 0 then s
  else if x.active then s.setPg n { x with stopping := true }
  else s.pgIdle n 2

/-- The next edge of a generator. -/
def State.pgEdge (s : State) (n : Nat) : State :=
  let x := s.pg n
  if x.st == 0 || s.et < x.next then s
  else if !x.active then s.setPg n { x with st := 2, active := true, next := x.next + x.width }
  else
    let k := x.pulses + 1
    let s := s.setPg n { x with active := false, pulses := k % 2 ^ 32, next := x.next - x.width + x.period }
    if x.stopping then s.pgIdle n 2
    else if x.mode == 0 || k == x.count then s.pgIdle n 1
    else s

/-- Every generator stops and its pin goes inert (R31, R90). -/
def State.pgInert (s : State) : State :=
  { s with time := { s.time with pgs := s.time.pgs.mapV fun _ x => { x with st := 0, active := false, stopping := false, next := 0 } } }

/-- Present pin level: the weak pull-down while not armed. -/
def State.pgLevel (s : State) (n : Nat) : Bool := s.dev.armed && ((s.pg n).active != ((s.pg n).polarity == 1))

/-! ### ZT_ pages (R97, R98) -/

def State.ztPage0 (s : State) : List Nat :=
  let t := s.time
  let o := twos 64 t.ztOffset
  [ pack [(0, 3, t.source), (4, 3, t.ztState), (8, 1, b2n t.gm), (9, 1, b2n t.realignPending), (16, 5, s.qualMask)], 0,
    lo32 o, hi32 o, clipS32 t.phaseErr, clipS32 t.rateAdj, s.holdoverLeft,
    pack [(0, 16, t.realignCount), (16, 16, t.switchCount)], s.canvasPhase, lo32 s.gmIdentity, hi32 s.gmIdentity ]

def State.pgWords (s : State) (n : Nat) : List Nat :=
  let x := s.pg n
  [ pack [(0, 2, x.st), (4, 1, b2n (s.pgLevel n))], x.pulses, lo32 x.next, x.next / 2 ^ 32 % 256 ]

/-! ### Opcodes (R91 to R95) -/

def timeGetStatusSpec : OpSpec where
  code := 0x0100
  comp := .S
  issuer := .any
  len := lenIs 0
  act := fun _ s =>
    let t := s.time
    okWith (leBytes 1 t.source ++ leBytes 1 t.ztState ++ leBytes 1 s.qualMask ++
      leBytes 1 (pack [(0, 1, b2n t.gm), (1, 1, b2n t.realignPending)]) ++ leBytes 4 (clipS32 t.phaseErr) ++
      leBytes 8 (twos 64 t.ztOffset) ++ leBytes 4 (clipS32 t.rateAdj) ++ leBytes 2 s.holdoverLeft ++
      leBytes 2 t.realignCount ++ leBytes 8 s.gmIdentity) s

/-- Non-zero priorities are distinct. -/
def priDistinct (a b c : Nat) : Bool :=
  decide (a = 0 ∨ b = 0 ∨ a ≠ b) && decide (a = 0 ∨ c = 0 ∨ a ≠ c) && decide (b = 0 ∨ c = 0 ∨ b ≠ c)

/-- The settings that a TIME_SET_SOURCES block leaves in force (R92). -/
def timeCfgOf (ps : List Byte) (g : TimeCfg) : TimeCfg :=
  { g with
    priGptp := u8 ps 0, priFr := u8 ps 1, priPps := u8 ps 2
    realignArmed := (u8 ps 3).testBit 0, ppsFalling := (u8 ps 3).testBit 1
    primary := u8 ps 4, hot := u8 ps 5, frCluster := u8 ps 6
    stepThr := u32 ps 8, maxSlew := u16 ps 12, revertMs := u16 ps 14 }

/-- TIME_SET_SOURCES takes effect: a source that it disables or replaces is lost, a slew in progress goes on within the new
maximum (R92). -/
def State.timeSet (s : State) (ps : List Byte) : State :=
  let old := s.time.cfg
  let g := timeCfgOf ps old
  let left := if s.time.slewEnd == 0 then 0 else (s.time.slewEnd - s.et) * old.maxSlew / 1000000
  let err : Int := if s.time.rateAdj < s.time.freq then left else -left
  let s := { s with time := { s.time with cfg := g } }
  let s := if left == 0 then s else s.steer err
  let gone := [0, 1, 2, 3].filter fun c =>
    !srcEnabled g c || (c == 0 && g.primary != old.primary) || (c == 1 && g.hot != old.hot) ||
      (c == 2 && g.frCluster != old.frCluster)
  let s := gone.foldl State.timeLost s
  let s := if srcEnabled g 0 then s else { s with time := { s.time with gm := false } }
  if srcAny g then s.reselect
  else
    let s := s.setRate 0
    ({ s with
      time := { s.time with ztState := 4, before := 4, heldRate := 0, freq := 0, holdoverStart := none, waitSince := none }
      dev := { s.dev with causeTime := false } }).degrade

def timeSetSourcesSpec : OpSpec where
  code := 0x0101
  comp := .O
  cls := 0
  issuer := .p0
  len := lenIs 16
  fields := fun ps _ =>
    decide (u8 ps 0 ≤ 3) && decide (u8 ps 1 ≤ 3) && decide (u8 ps 2 ≤ 3) && decide (u8 ps 3 < 4) &&
      priDistinct (u8 ps 0) (u8 ps 1) (u8 ps 2) && decide (u8 ps 4 ≤ 127) &&
      (u8 ps 5 == 0xFF || (decide (u8 ps 5 ≤ 127) && u8 ps 5 != u8 ps 4)) && decide (u8 ps 6 ≤ 1) && zeroAt ps 7 1 &&
      decide (10000 ≤ u32 ps 8) && decide (u32 ps 8 ≤ 10000000) && decide (10 ≤ u16 ps 12) && decide (u16 ps 12 ≤ 200) &&
      decide (100 ≤ u16 ps 14) && decide (u16 ps 14 ≤ 10000)
  check := fun pk s =>
    let ps := pk.params
    if u8 ps 0 != 0 && s.time.cfg.portMask == 0 then 0x0300
    else if u8 ps 1 != 0 && !(s.fry.clusters.val {} (u8 ps 6)).cfg.enabled then 0x0300
    else if s.time.imgSlew < u16 ps 12 then stContract else stOk
  act := fun pk s => ok (s.timeSet pk.params)

def timeSetHoldoverSpec : OpSpec where
  code := 0x0102
  comp := .O
  cls := 0
  issuer := .p0
  len := lenIs 8
  fields := fun ps _ => decide (1000 ≤ u32 ps 0) && decide (u32 ps 0 ≤ 20000) && zeroAt ps 4 4
  act := fun pk s =>
    ok ({ s with time := { s.time with cfg := { s.time.cfg with holdoverMs := u32 pk.params 0 } } }).holdoverExpire

def pgOwners (ps : List Byte) (s : State) : List Nat := [s.owner clsPg (u8 ps 0)]
def pgBusy (pk : Packet) (s : State) : Nat := if (s.pg (u8 pk.params 0)).st == 2 then 0x0301 else stOk

/-- Mode, width, period and count that R89 and R94 allow. -/
def pgFields (mode width period count : Nat) : Bool :=
  width % 2 == 0 && decide (16 ≤ width) &&
    (if mode == 0 then period == 0 && count == 0
     else period % 2 == 0 && decide (32 ≤ period) && decide (width + 16 ≤ period))

def pgConfigSpec : OpSpec where
  code := 0x0103
  comp := .O
  cls := 0
  issuer := .own
  len := lenIs 16
  fields := fun ps _ =>
    decide (u8 ps 0 < 16) && decide (u8 ps 1 ≤ 1) && decide (u8 ps 2 ≤ 1) && zeroAt ps 3 1 &&
      pgFields (u8 ps 1) (u32 ps 4) (u32 ps 8) (u32 ps 12)
  owners := pgOwners
  key := fun ps => u8 ps 0 + 1
  check := pgBusy
  act := fun pk s =>
    let ps := pk.params
    ok (s.setPg (u8 ps 0) { s.pg (u8 ps 0) with
      configured := true, mode := u8 ps 1, polarity := u8 ps 2, width := u32 ps 4, period := u32 ps 8, count := u32 ps 12 })

def pgStartSpec : OpSpec where
  code := 0x0104
  comp := .O
  cls := 0
  issuer := .own
  len := lenIs 8
  fields := fun ps _ => decide (u8 ps 0 < 16) && zeroAt ps 1 2 && u40 ps 3 % 2 == 0
  owners := pgOwners
  key := fun ps => u8 ps 0 + 1
  okState := fun pk s => s.dev.armed && (s.pg (u8 pk.params 0)).configured
  check := pgBusy
  act := fun pk s =>
    let t := u40 pk.params 3
    if diff40 t s.et ≤ 0 then fail 0x0302 s else ok (s.pgBegin (u8 pk.params 0) (full40 t s.et))

def pgStopSpec : OpSpec where
  code := 0x0105
  comp := .O
  cls := 0
  issuer := .own
  len := lenIs 4
  fields := fun ps _ => decide (u8 ps 0 < 16) && zeroAt ps 1 3
  owners := pgOwners
  key := fun ps => u8 ps 0 + 1
  act := fun pk s => ok (s.pgStop (u8 pk.params 0))

end Sys2Proof.Machine
end

