-- ==== Sys2Proof/Machine/FryLin.lean ====
section
/-!
DEFINITION. Sys2Proof/Machine/FryLin.lean: the FlexRay clusters with the active star (R360 to R373) and the LIN channels
(R374 to R381), their status pages and opcodes (R382 to R386).
-/

namespace Sys2Proof.Machine

/-! ### FlexRay: accessors -/

def State.cluster (s : State) (c : Nat) : FryCluster := s.fry.clusters.val {} c

def State.setCluster (s : State) (c : Nat) (x : FryCluster) : State :=
  { s with fry := { s.fry with clusters := s.fry.clusters.put {} c x } }

/-- Channel 0 FA.A, 1 FA.B, 2 FB.A, 3 FB.B. -/
def State.fryCh (s : State) (k : Nat) : FryChan := s.fry.chans.val {} k

def State.setFryCh (s : State) (k : Nat) (x : FryChan) : State :=
  { s with fry := { s.fry with chans := s.fry.chans.put {} k x } }

def State.fryTo (s : State) (c : Nat) : List Nat := [s.owner clsFry c, 0]

def chanOn (c : FryCfg) (k : Nat) : Bool := if k % 2 == 0 then c.chA else c.chB
def chanStar (c : FryCfg) (k : Nat) : Bool := if k % 2 == 0 then c.starA else c.starB
def chanBranches (c : FryCfg) (k : Nat) : Nat := if k % 2 == 0 then c.branchesA else c.branchesB

/-- Length of a macrotick and of a cycle in ns (R361). -/
def macroNs (c : FryCfg) : Nat := c.microPerMacro * 25
def cycleNs (c : FryCfg) : Nat := c.macroPerCycle * macroNs c

/-- Start of the window of static slot `slot` in the cycle that began at `at_` (R361). -/
def windowAt (c : FryCfg) (at_ slot : Nat) : Nat :=
  at_ + ((slot - 1) * c.staticSlot + c.actionPoint) * macroNs c - c.guard

/-- A record takes part on a channel in a slot and cycle (R372). -/
def bufMatches (b : FryBuf) (k slot cycle : Nat) : Bool :=
  b.cl == k / 2 && (if k % 2 == 0 then b.chA else b.chB) && b.slot == slot && cycle % b.rep == b.base

/-- Static slots of a channel that a branch owns; the own controller owns those of its transmit buffers (R363). -/
def State.ownsSlot (s : State) (k branch slot : Nat) : Bool :=
  if branch == 4 then
    s.fry.bufs.any fun b => b.transmit && b.cl == k / 2 && (if k % 2 == 0 then b.chA else b.chB) && b.slot == slot
  else s.fry.branchRecs.any fun r => r.chn == k && r.branch == branch && r.slots.testBit slot

/-- The window start of the next own slot of a branch (R363); a branch without slots stays blocked. -/
def State.nextOwn (s : State) (k branch : Nat) : Nat :=
  let x := s.cluster (k / 2)
  let own := (upFrom 1 x.cfg.staticSlots).filter fun n => s.ownsSlot k branch n
  let here := own.map (windowAt x.cfg x.cycleEt)
  let after := own.map (windowAt x.cfg (x.cycleEt + cycleNs x.cfg))
  ((here ++ after).find? fun t => s.et < t).getD (2 ^ 64)

/-! ### POC states (R365 to R367) -/

/-- An entry to a POC state with its counters and events. -/
def State.setPoc (s : State) (c code : Nat) : State :=
  let x := s.cluster c
  let old := x.poc
  if old == code then s
  else
    let started := code == 12 && (old == 6 || old == 8 || old == 11)
    let role := if old == 6 then 0 else if old == 8 then 1 else 2
    let s := s.setCluster c { x with
      poc := code
      haltAtEnd := x.haltAtEnd && code != 14
      attempts := if code == 5 && old == 4 then x.attempts + 1 else x.attempts
      collisions := if code == 5 then sat16 x.collisions else x.collisions
      aborts := if code == 7 || (code == 4 && (old == 5 || old == 6)) then sat16 x.aborts else x.aborts
      passive := if code == 13 then sat16 x.passive else x.passive
      leader := if started && role == 0 then sat16 x.leader else x.leader
      follower := if started && role == 1 then sat16 x.follower else x.follower
      integrations := if started && role == 2 then sat16 x.integrations else x.integrations
      alone := x.alone && code != 12 }
    let s := s.raise (s.fryTo c) (0xE4 + c) 1 (pack [(0, 4, code), (8, 4, old)])
    let s := if started then s.raise (s.fryTo c) (0xE4 + c) 2 role else s
    let s := if x.alone && code == 12 then s.raise (s.fryTo c) (0xE4 + c) 4 0 else s
    let s := if code == 12 then s.finishWhere (fun o => o.on 0x0901 c) stOk [] else s
    if old == 12 && s.time.cfg.frCluster == c then s.timeLost 2 else s

/-- The controller changes its POC state; before its configuration it has none to change. -/
def State.pocChange (s : State) (c code : Nat) : State :=
  if !(s.cluster c).cfg.enabled || (s.cluster c).poc < 2 || code < 2 || 14 < code then s else s.setPoc c code

/-- Startup begins: WAKEUP with a WUP, else as coldstart or integrating node. -/
def State.fryStartUp (s : State) (c : Nat) (wup : Bool) : State :=
  let x := s.cluster c
  (s.setCluster c { x with attempts := 0, heardAt := s.et }).setPoc c (if wup then 3 else if x.cfg.coldstart then 4 else 9)

/-- Entry to RUN (R365). -/
def State.fryRun (s : State) : State :=
  [0, 1].foldl (fun s c =>
    if (s.cluster c).cfg.enabled then
      let s := s.setPoc c 2
      if (s.cluster c).cfg.startAtRun then s.fryStartUp c false else s
    else s) s

/-- Entry to SLEEP: DEFAULT_CONFIG, drivers and star powered down. -/
def State.fryDown (s : State) : State :=
  let s := { s with fry := { s.fry with clusters := s.fry.clusters.mapV fun _ x => { x with poc := 0, lock := false } } }
  if s.time.cfg.frCluster ≤ 1 then s.timeLost 2 else s

/-- In a startup state. -/
def inStartup (poc : Nat) : Bool := decide (3 ≤ poc) && decide (poc ≤ 11)

def State.frAlone (s : State) (c : Nat) : State :=
  let x := s.cluster c
  let spent := x.cfg.coldstart && decide (x.cfg.attempts ≤ x.attempts)
  let silent := decide (x.heardAt + 64 * cycleNs x.cfg ≤ s.et)
  if !x.cfg.enabled || !inStartup x.poc || !(spent || silent) || (x.alone && x.poc == 9) then s
  else
    let s := s.setCluster c { x with alone := true, aloneAt := s.et }
    (s.setPoc c 9).raise (s.fryTo c) (0xE4 + c) 3 x.attempts

def State.coldstartRetry (s : State) (c : Nat) : State :=
  let x := s.cluster c
  if !x.alone || !x.cfg.coldstart || x.cfg.retry == 0 || x.poc != 9 || s.et < x.aloneAt + x.cfg.retry * nsMs then s
  else (s.setCluster c { x with attempts := 0, heardAt := s.et }).setPoc c 4

def State.fryStartTimeout (s : State) (c : Nat) : State :=
  s.finishWhere (fun o => o.on 0x0901 c && decide (o.startEt + u16 o.pk.params 2 * nsMs ≤ s.et)) 0x0B02 []

/-! ### Cycles and frames (R368 to R370) -/

/-- Isolated branches of a channel count down and are restored (R364). -/
def State.fryRestore (s : State) (c k : Nat) : State :=
  (upFrom 0 5).foldl (fun s b =>
    let x := s.fryCh k
    let y := x.branches.val {} b
    if y.iso == 0 then s
    else
      let y' := { y with iso := y.iso - 1, run := if y.iso == 1 then 0 else y.run, blockEnd := if y.iso == 1 then 0 else y.blockEnd }
      let s := s.setFryCh k { x with branches := x.branches.put {} b y' }
      if y.iso == 1 then s.raise (s.fryTo c) (0xE0 + k) 4 b else s) s

/-- The phase error at cycle 0 decides the lock (R370). -/
def State.fryLock (s : State) (c : Nat) (err : Int) : State :=
  let x := s.cluster c
  let lock := decide (err.natAbs < 10000)
  let s := s.setCluster c { x with phaseErr := err, lock := lock }
  if lock && !x.lock then s.raise (s.fryTo c) (0xE4 + c) 6 0
  else if !lock && x.lock then s.raise (s.fryTo c) (0xE4 + c) 5 (clipS32 (err.tdiv 1000))
  else s

def State.fryCycle (s : State) (c cycle : Nat) (err rate offs : Int) : State :=
  let x := s.cluster c
  if !x.cfg.enabled || x.poc < 3 || x.poc == 14 || 64 ≤ cycle then s
  else
    let s := s.setCluster c { x with cycle := cycle, cycleEt := s.et, rateCorr := rate, offsCorr := offs }
    let s := (s.fryRestore c (2 * c)).fryRestore c (2 * c + 1)
    let p := 64 * cycleNs x.cfg
    let e := ambig (if s.canvasNs == 0 then p else min p s.canvasNs) err
    let s := if cycle == 0 && (x.poc == 12 || x.poc == 13) then s.fryLock c e else s
    let s := if x.poc == 12 && s.time.cfg.frCluster == c && srcEnabled s.time.cfg 2 then s.frRef (cycleNs x.cfg) cycle err else s
    if x.haltAtEnd then s.setPoc c 14 else s

def State.fryTx (s : State) (j : Nat) : FryTx := s.fry.tx.val {} j

def State.setFryTx (s : State) (j : Nat) (x : FryTx) : State := { s with fry := { s.fry with tx := s.fry.tx.put {} j x } }

/-- FRY_COMMIT: the matching transmit records take their frame buffer as it stands (R368). -/
def State.fryCommit (s : State) (c slot cycle chans : Nat) : State :=
  (upFrom 0 s.fry.bufs.length).foldl (fun s i =>
    match s.fry.bufs[i]? with
    | none => s
    | some b =>
      [0, 1].foldl (fun s h =>
        if b.transmit && chans.testBit h && b.cl == c && (if h == 0 then b.chA else b.chB) && b.slot == slot &&
            (cycle == 0xFF || cycle % b.rep == b.base) then
          let j := 2 * i + h
          s.setFryTx j { s.fryTx j with
            pend := some (fit (2 * b.words) (s.gw.tx.val {} b.buf).data), pendAt := s.et, pendCycle := cycle, late := false }
        else s) s) s

/-- A frame goes out of the own controller. -/
def State.frySend (s : State) (k slot : Nat) (data : Option (List Byte)) (isRepeat : Bool) : State :=
  let x := s.fryCh k
  s.setFryCh k { x with
    sent := some (slot, data), txFrames := wrap32 x.txFrames, repeats := if isRepeat then sat32 x.repeats else x.repeats }

/-- The action point of a slot on a channel (R368). A commit within the lead applies to the occurrence after. In the states
of a coldstart the key slot carries a null frame. -/
def State.fryAction (s : State) (k slot cycle : Nat) : State :=
  let c := k / 2
  let x := s.cluster c
  let i := s.fry.bufs.findIdx fun b => b.transmit && bufMatches b k slot cycle
  match s.fry.bufs[i]? with
  | none => s
  | some b =>
    if !x.cfg.enabled || !chanOn x.cfg k || x.alone then s
    else if x.poc == 5 || x.poc == 6 || x.poc == 8 then
      if slot == x.cfg.keySlot then s.frySend k slot none false else s
    else if x.poc != 12 then s
    else
      let j := 2 * i + k % 2
      let y := s.fryTx j
      let due := decide (y.pendAt + 2000 ≤ s.et)
      let here := y.pend.isSome && (y.pendCycle == 0xFF || y.pendCycle == cycle)
      if here && due then
        ((s.setFryTx j { y with pend := none, last := y.pend }).frySend k slot y.pend false).txSent b.buf
      else
        let ch := s.fryCh k
        let s := if here && !y.late then
          (s.setFryTx j { y with late := true }).setFryCh k { ch with lateCommits := sat16 ch.lateCommits } else s
        if x.cfg.staticSlots < slot then s
        else s.frySend k slot y.last y.last.isSome

/-- End of the CRC of a received frame (R369). -/
def State.fryReceive (s : State) (k : Nat) (f : FryFrame) : State :=
  let c := k / 2
  let x := s.cluster c
  if !x.cfg.enabled || !chanOn x.cfg k || x.poc < 3 || x.poc == 14 then s
  else
    let s := s.setCluster c { x with heardAt := s.et }
    let y := s.fryCh k
    match f.err with
    | some e =>
      (s.setFryCh k { y with rxErrors := sat32 y.rxErrors }).raiseOnce (s.fryTo c) (0xE0 + k) 5
        (pack [(0, 2, e), (4, 11, f.slot)])
    | none =>
      if f.null then s.setFryCh k { y with nullRx := sat16 y.nullRx }
      else
        let s := s.setFryCh k { y with rxOk := wrap32 y.rxOk }
        if x.poc != 12 && x.poc != 13 then s
        else
          match s.fry.bufs.find? fun b => !b.transmit && bufMatches b k f.slot f.cycle with
          | none => s
          | some b =>
            let data := f.payload.take (2 * b.words)
            let s := if b.buf == 0xFFFF then s
              else (s.freshBuf b.buf data).triggerWhere (fun t => t.kind == 2 && t.source == b.buf) (0xE0 + k) s.et 0
            if b.toRing && x.cfg.ring != 0xFF && s.ringStopped x.cfg.ring then s.ringDiscard x.cfg.ring
            else if b.toRing && x.cfg.ring != 0xFF then
              let z := s.cluster c
              s.setCluster c { z with fifo := z.fifo ++ [(k, s.et, f)] }
            else s

/-! ### Guardian and star (R362 to R364) -/

/-- A slot violation of a branch: blocked, counted, isolated at a run of 3. -/
def State.violation (s : State) (k branch slot : Nat) (notOwned : Bool) : State :=
  let c := k / 2
  let x := s.fryCh k
  let y := x.branches.val {} branch
  let run := y.run + 1
  let iso := decide (3 ≤ run)
  let s := s.setFryCh k { x with branches := x.branches.put {} branch { y with
    blockEnd := s.nextOwn k branch, run := run, violations := sat16 y.violations, iso := if iso then 2 else 0
    isolations := if iso then sat8 y.isolations else y.isolations } }
  let key := (0xE0 + k, 1, 0x100 + branch)
  let s := if s.dev.onceCanvas.contains key then s
    else ({ s with dev := { s.dev with onceCanvas := key :: s.dev.onceCanvas } }).raise (s.fryTo c) (0xE0 + k) 1
      (pack [(0, 3, branch), (3, 1, b2n notOwned), (4, 11, slot), (16, 2, run)])
  if iso then s.raise (s.fryTo c) (0xE0 + k) 3 (pack [(0, 3, branch), (16, 6, (s.cluster c).cycle)]) else s

/-- A transmission of a branch begins: segment 0 static, 1 dynamic, 2 symbol window, 3 NIT; in a static slot `off` is its
start against the action point, ns. -/
def State.branchTx (s : State) (k branch seg slot : Nat) (off : Int) : State :=
  let c := k / 2
  let x := s.cluster c
  let ch := s.fryCh k
  let y := ch.branches.val {} branch
  let normal := x.poc == 12 || x.poc == 13
  let fwd : FryFwd := ⟨branch, seg, slot, x.cycle⟩
  let forward := fun (s : State) => s.setFryCh k { s.fryCh k with fwd := some fwd }
  let block := fun (s : State) =>
    let z := s.fryCh k
    s.setFryCh k { z with branches := z.branches.put {} branch { y with blockEnd := s.nextOwn k branch } }
  let owns := s.ownsSlot k branch slot
  let inGuard := decide (off.natAbs ≤ x.cfg.guard)
  if !x.cfg.enabled || !chanOn x.cfg k || x.poc < 2 || 4 < branch then s
  else if !chanStar x.cfg k then
    let allowed := (seg == 0 && owns && inGuard) || seg == 1 || seg == 2
    if branch != 4 || allowed then s else s.setFryCh k { ch with guardBlocks := sat16 ch.guardBlocks }
  else if branch != 4 && chanBranches x.cfg k ≤ branch then s
  else if y.disabled || y.iso != 0 then s
  else if !normal then (if ch.fwd.isSome then s else forward s)
  else if seg == 0 then
    if owns && inGuard then
      forward (s.setFryCh k { ch with branches := ch.branches.put {} branch { y with run := 0, blockEnd := 0 } })
    else s.violation k branch slot (!owns)
  else
    let r := s.fry.branchRecs.find? fun r => r.chn == k && r.branch == branch
    let busy := match ch.fwd with
      | some g => g.seg == 1 && g.slot == slot && g.cycle == x.cycle && g.branch != branch
      | none => false
    let flag := if seg == 1 then branch == 4 || (match r with | some r => r.dynamic | none => false)
      else if seg == 2 then branch == 4 || (match r with | some r => r.symbol | none => false) else false
    if s.et < y.blockEnd then s
    else if flag && !(seg == 1 && busy) then forward s
    else block s

/-- A forwarded transmission still active at the end of its window is truncated (R363). -/
def State.branchTruncated (s : State) (k branch slot : Nat) : State :=
  let ch := s.fryCh k
  match ch.fwd with
  | none => s
  | some g =>
    let x := s.cluster (k / 2)
    if g.branch != branch || !chanStar x.cfg k || !(x.poc == 12 || x.poc == 13) then s
    else
      (s.setFryCh k { ch with fwd := none, truncations := sat16 ch.truncations }).raise (s.fryTo (k / 2)) (0xE0 + k) 2
        (pack [(0, 3, branch), (4, 11, if g.seg == 0 then slot else 0)])

/-! ### FlexRay status and opcodes (R383, R384) -/

def State.fryWords (s : State) (c : Nat) : List Nat :=
  let x := s.cluster c
  [ pack [(0, 4, x.poc), (4, 1, b2n x.alone), (5, 1, b2n x.lock), (8, 6, x.cycle)],
    pack [(0, 16, x.leader), (16, 16, x.follower)], pack [(0, 16, x.integrations), (16, 16, x.aborts)],
    pack [(0, 16, twos 16 x.rateCorr), (16, 16, twos 16 x.offsCorr)], pack [(0, 16, x.passive), (16, 16, x.collisions)],
    clipS32 x.phaseErr ]

def State.branchState (s : State) (b : FryBranch) : Nat :=
  if b.disabled then 3 else if b.iso != 0 then 2 else if s.et < b.blockEnd then 1 else 0

def State.fryChWords (s : State) (k : Nat) : List Nat :=
  let x := s.cluster (k / 2)
  let y := s.fryCh k
  let br := fun b => y.branches.val {} b
  let on := x.cfg.enabled
  [ pack [(0, 1, b2n (chanStar x.cfg k)), (1, 3, if on then chanBranches x.cfg k else 0),
      (4, 1, b2n (chanStar x.cfg k && x.poc != 0 && x.poc != 12 && x.poc != 13))],
    pack ((upFrom 0 5).map fun b => (2 * b, 2, s.branchState (br b))),
    y.rxOk, y.rxErrors, y.txFrames, y.repeats, pack [(0, 16, y.nullRx), (16, 16, y.lateCommits)],
    pack [(0, 16, y.guardBlocks), (16, 16, y.truncations)] ] ++
    (upFrom 0 5).map fun b => pack [(0, 16, (br b).violations), (16, 8, (br b).isolations), (24, 2, (br b).run)]

def fryEnabled (c : Nat) (s : State) : Nat := if (s.cluster c).cfg.enabled then stOk else 0x0B00

def fryGetStatusSpec : OpSpec where
  code := 0x0900
  comp := .S
  issuer := .ownP0
  len := lenIs 4
  fields := fun ps _ => decide (u8 ps 0 < 6) && zeroAt ps 1 3
  owners := fun ps s => [s.owner clsFry (if u8 ps 0 < 2 then u8 ps 0 else (u8 ps 0 - 2) / 2)]
  key := fun ps => u8 ps 0 + 1
  check := fun pk s => let i := u8 pk.params 0; fryEnabled (if i < 2 then i else (i - 2) / 2) s
  act := fun pk s =>
    let i := u8 pk.params 0
    okWith (wordBytes (if i < 2 then s.fryWords i else s.fryChWords (i - 2))) s

def fryOwners (ps : List Byte) (s : State) : List Nat := [s.owner clsFry (u8 ps 0)]

def fryStartSpec : OpSpec where
  code := 0x0901
  comp := .A
  issuer := .own
  len := lenIs 4
  fields := fun ps _ => decide (u8 ps 0 < 2) && decide (u8 ps 1 < 4) && decide (u16 ps 2 ≤ 60000)
  owners := fryOwners
  key := fun ps => u8 ps 0 + 1
  check := fun pk s =>
    let c := u8 pk.params 0
    if fryEnabled c s != stOk then 0x0B00
    else if (s.cluster c).poc == 2 || (s.cluster c).poc == 14 then stOk else 0x0B01
  act := fun pk s =>
    let s := s.fryStartUp (u8 pk.params 0) (u8 pk.params 1 != 0)
    if u16 pk.params 2 == 0 then ok s else later s

def fryHaltSpec : OpSpec where
  code := 0x0902
  comp := .O
  cls := 8
  issuer := .own
  len := lenIs 4
  fields := fun ps _ => decide (u8 ps 0 < 2) && decide (u8 ps 1 ≤ 1) && zeroAt ps 2 2
  owners := fryOwners
  key := fun ps => u8 ps 0 + 1
  check := fun pk s =>
    let c := u8 pk.params 0
    if fryEnabled c s != stOk then 0x0B00
    else if u8 pk.params 1 == 0 && (s.cluster c).poc != 12 && (s.cluster c).poc != 13 then 0x0B01 else stOk
  act := fun pk s =>
    let c := u8 pk.params 0
    ok (if u8 pk.params 1 == 0 then s.setCluster c { s.cluster c with haltAtEnd := true } else s.setPoc c 14)

def fryBranchEnableSpec : OpSpec where
  code := 0x0903
  comp := .O
  cls := 8
  issuer := .own
  len := lenIs 4
  fields := fun ps _ => decide (u8 ps 0 < 4) && decide (u8 ps 1 < 4) && decide (u8 ps 2 ≤ 1) && zeroAt ps 3 1
  owners := fun ps s => [s.owner clsFry (u8 ps 0 / 2)]
  key := fun ps => 0x100 + u8 ps 0 * 4 + u8 ps 1
  check := fun pk s =>
    let k := u8 pk.params 0
    let x := s.cluster (k / 2)
    if !x.cfg.enabled then 0x0B00
    else if !chanStar x.cfg k || chanBranches x.cfg k ≤ u8 pk.params 1 then 0x0B03
    else if u8 pk.params 2 == 1 && ((s.fryCh k).branches.val {} (u8 pk.params 1)).iso != 0 then 0x0B04 else stOk
  act := fun pk s =>
    let k := u8 pk.params 0
    let b := u8 pk.params 1
    let x := s.fryCh k
    ok (s.setFryCh k { x with branches := x.branches.put {} b { x.branches.val {} b with disabled := u8 pk.params 2 == 0 } })

/-! ### LIN: states and errors (R378 to R381) -/

/-- Outstanding LIN_TX commands of channel `n`, oldest first. -/
def State.linQueue (s : State) (n : Nat) : List Outst := s.cmd.async.filter fun o => o.on 0x0A01 n

/-- The LIN_GOTO_SLEEP outstanding on channel `n`. -/
def State.linSleepCmd (s : State) (n : Nat) : Option Outst := s.cmd.async.find? fun o => o.on 0x0A03 n

/-- ASLEEP (R381): `why` 0 by command, 1 idle. -/
def State.linSleep (s : State) (n why : Nat) : State :=
  let x := s.linOf n
  (s.setLin n { x with st := 2, cur := none, sleeps := sat16 x.sleeps, sleptAt := s.et }).raise (s.linTo n) (linSrc n) 4 why

/-- Entry to RUN: RUNNING or ASLEEP. -/
def State.linRun (s : State) : State :=
  (upFrom 0 12).foldl (fun s n =>
    let x := s.linOf n
    if x.cfg.enabled then s.setLin n { x with st := if x.cfg.startAtRun then 1 else 2, headerAt := s.et } else s) s

/-- The final reply of a LIN_TX (R385). -/
def State.linTxEnd (s : State) (pk : Packet) (start err : Nat) (data : List Byte) : State :=
  let n := data.length
  let status := if err == 0 then stOk else if err == 1 then 0x0C05 else 0x0C06
  s.finishWhere (fun o => o.code == 0x0A01 && o.pk == pk) status
    (leBytes 8 start ++ leBytes 1 err ++ leBytes 1 n ++ leBytes 6 0 ++ fit 8 data)

/-- The frame ID of a frame in progress. -/
def State.linId (s : State) (c : LinCur) : Nat :=
  match c.entry with | some i => (s.lin.entries.getD i {}).id | none => 0x3C

/-- Whether the device subscribes to the response of a frame in progress. -/
def State.linSubs (s : State) (c : LinCur) : Bool :=
  match c.cmd, c.entry with
  | some pk, some _ => u8 pk.params 2 == 1
  | none, some i => (s.lin.entries.getD i {}).dir == 1
  | _, none => false

/-- An error other than a collision or a missing response: counted, and raised once per canvas (R380). -/
def State.linError (s : State) (n err id : Nat) : State :=
  let x := s.linOf n
  (s.setLin n { x with
    lastError := err, lastErrorEt := s.et, rxErrors := sat16 x.rxErrors, respErr := x.respErr || !x.cfg.commander
    run := if x.cfg.commander then 0 else x.run }).raiseOnce (s.linTo n) (linSrc n) 1 (pack [(0, 8, err), (8, 6, id)])

/-- A good response to a subscribing commander ends the no-response run (R380). -/
def State.linGood (s : State) (n : Nat) (subs : Bool) : State :=
  let x := s.linOf n
  let s := s.setLin n { x with
    framesOk := wrap32 x.framesOk, run := if subs then 0 else x.run, alone := x.alone && !subs }
  if x.alone && subs then s.raise (s.linTo n) (linSrc n) 3 0 else s

/-- A received response: into its buffer, and into the receive FIFO of the ring while its quota has room. -/
def State.linStore (s : State) (n : Nat) (c : LinCur) (data : List Byte) : State :=
  let e := match c.entry with | some i => s.lin.entries.getD i {} | none => {}
  let s := if c.cmd.isNone && e.buf != 0xFFFF then s.freshBuf e.buf (data.take e.len) else s
  let x := s.linOf n
  if x.cfg.ring != 0xFF && s.ringStopped x.cfg.ring then s.ringDiscard x.cfg.ring
  else if x.cfg.ring != 0xFF && x.fifo.length < x.cfg.rxQuota then
    s.setLin n { x with fifo := x.fifo ++ [(s.et, s.linId c, data)] }
  else s

/-- A frame ends at its checksum stop bit (R378). -/
def State.linFrameEnd (s : State) (n : Nat) (e : LinEnd) : State :=
  let x := s.linOf n
  match x.cur with
  | none => s
  | some c =>
    let s := s.setLin n { x with cur := none }
    let subs := s.linSubs c
    let ent := match c.entry with | some i => s.lin.entries.getD i {} | none => {}
    let id := s.linId c
    if e.err == 0 then
      let s := s.linGood n (subs && x.cfg.commander)
      let s := if subs then s.linStore n c e.data else if c.cmd.isNone then s.txSent ent.buf else s
      let s := if !subs && c.cmd.isNone && c.entry == some x.cfg.respErrEntry then
        s.setLin n { s.linOf n with respErr := false } else s
      match c.cmd, c.entry with
      | some _, none => (s.linSleep n 0).finishWhere (fun o => o.on 0x0A03 n) stOk []
      | some pk, some _ => s.linTxEnd pk c.start 0 (if subs then e.data.take 8 else [])
      | none, _ => s
    else if ent.type == 1 && subs && c.cmd.isNone && (e.err == 3 || e.err == 5) then
      let y := s.linOf n
      s.setLin n { y with
        collisions := sat16 y.collisions, lastError := 7, lastErrorEt := s.et
        collided := y.collided.put 0 (c.entry.getD 0) (s.easel.canvasCount + 1) }
    else
      let s := s.linError n e.err id
      match c.cmd, c.entry with
      | some pk, some _ => s.linTxEnd pk c.start e.err (if subs then e.data.take 8 else [])
      | _, _ => s

/-- The response time passes (R378): no response, or an incomplete one with the bytes that arrived. -/
def State.linTimeout (s : State) (n : Nat) (data : List Byte) : State :=
  let x := s.linOf n
  match x.cur with
  | none => s
  | some c =>
    let s := s.setLin n { x with cur := none }
    if !s.linSubs c then s
    else
      let s :=
        if data.isEmpty then
          let run := if x.cfg.commander then sat8 x.run else x.run
          let alone := x.cfg.commander && decide (8 ≤ run) && !x.alone
          let s := s.setLin n { s.linOf n with
            lastError := 1, lastErrorEt := s.et, noResponse := sat16 x.noResponse, run := run, alone := x.alone || alone }
          if alone then s.raise (s.linTo n) (linSrc n) 2 run else s
        else s.linError n 2 (s.linId c)
      match c.cmd, c.entry with
      | some pk, some _ => s.linTxEnd pk c.start (if data.isEmpty then 1 else 2) (data.take 8)
      | _, _ => s

/-! ### LIN: commander and responder (R378, R379) -/

/-- The oldest LIN_TX of a channel for a frame ID. -/
def State.linTxFor (s : State) (n id : Nat) : Option Outst := (s.linQueue n).find? fun o => u8 o.pk.params 1 == id

/-- The 8 bytes of a LIN_TX block's data, cut to its length. -/
def linTxData (pk : Packet) : List Byte := (pk.params.drop 8).take (u8 pk.params 3)

/-- LIN_RELEASE of entry `i` on commander channel `n`. -/
def State.linRelease (s : State) (n i : Nat) : State :=
  let x := s.linOf n
  match s.lin.entries[i]? with
  | none => s
  | some e =>
    if e.ch != n || !x.cfg.commander || x.st != 1 then s
    else if x.cur.isSome then s.setLin n { x with busy := sat16 x.busy }
    else
      let start := fun (c : LinCur) => s.setLin n { x with cur := some { c with start := s.et } }
      if e.after && !(s.easel.canvasCount != 0 && x.collided.val 0 e.collision == s.easel.canvasCount) then s
      else if e.type == 3 then
        match s.linSleepCmd n with
        | some o => start { entry := none, cmd := some o.pk, data := 0 :: List.replicate 7 0xFF }
        | none =>
          match s.linTxFor n e.id with
          | some o => start { entry := some i, cmd := some o.pk, data := linTxData o.pk }
          | none => s
      else if e.type == 2 && !(s.gw.tx.val {} e.buf).written then s
      else start { entry := some i, data := if e.dir == 0 then s.txData e.buf else [] }

/-- The payload with one bit set or cleared (R380). -/
def withBit (bs : List Byte) (i : Nat) (b : Bool) : List Byte :=
  match bs[i / 8]? with
  | some x => setAt bs (i / 8) (BitVec.ofNat 8 (setBit x.toNat (i % 8) b))
  | none => bs

/-- A header received on a responder channel; `sleep`: it begins the go-to-sleep command (R379, R381). -/
def State.linHeader (s : State) (n id : Nat) (sleep : Bool) : State :=
  let x := s.linOf n
  if !x.cfg.enabled || x.cfg.commander || !(x.st == 1 || x.st == 3) then s
  else
    let x := { x with st := 1, headerAt := s.et, cur := none, pulses := 0 }
    let s := s.setLin n x
    if sleep then s.linSleep n 0
    else
      let start := fun (c : LinCur) => s.setLin n { x with cur := some { c with start := s.et } }
      let i := s.lin.entries.findIdx fun e => e.ch == n && e.id == id
      match s.lin.entries[i]? with
      | none => s
      | some e =>
        if e.type == 3 then
          match s.linTxFor n id with
          | some o => start { entry := some i, cmd := some o.pk, data := linTxData o.pk }
          | none => s
        else if e.dir == 1 then start { entry := some i }
        else if e.dir == 0 && (e.type != 1 || (s.gw.tx.val {} e.buf).written) then
          let d := s.txData e.buf
          start { entry := some i, data := if i == x.cfg.respErrEntry then withBit d x.cfg.respErrBit x.respErr else d }
        else s

/-! ### LIN: sleep and wake (R381) -/

def State.linIdle (s : State) (n : Nat) : State :=
  let x := s.linOf n
  if x.cfg.enabled && !x.cfg.commander && x.st == 1 && decide (x.headerAt + x.cfg.idle * nsMs ≤ s.et) then s.linSleep n 1 else s

/-- A wake pulse sent or detected. A detected one is a transceiver wake of the device (R512), and aborts a LIN_GOTO_SLEEP that
waits. -/
def State.linWake (s : State) (n : Nat) (sent : Bool) : State :=
  let x := s.linOf n
  if !x.cfg.enabled then s
  else if sent then
    if x.st == 2 then s.linWaking n true
    else if x.st == 3 && !x.cfg.commander && x.pulses < 3 then
      s.setLin n { x with pulses := x.pulses + 1, wakeAt := if x.pulses == 0 then s.et else x.wakeAt }
    else s
  else if x.st == 2 then
    if (s.dev.state == .sleep || s.wake.phase == 4) && !s.wake.armed.testBit (20 + n) then s
    else (s.linWaking n false).wakeTransceiver (0x30 + n) (s.linTo n)
  else if x.st == 1 && (s.linSleepCmd n).isSome then
    (s.finishWhere (fun o => o.on 0x0A03 n) 0x0C07 []).wakeTransceiver (0x30 + n) (s.linTo n)
  else s

/-- WAKING of a commander ends 100 ms after its 1 ms pulse. -/
def State.linWakingEnd (s : State) (n : Nat) : State :=
  let x := s.linOf n
  if x.st == 3 && x.cfg.commander && decide (x.wakeAt + 101 * nsMs ≤ s.et) then s.setLin n { x with st := 1, pulses := 0 } else s

/-- A wake round of a responder without a header: each pulse waits 250 ms. -/
def State.linNoHeader (s : State) (n : Nat) : State :=
  let x := s.linOf n
  if x.st == 3 && !x.cfg.commander && x.pulses != 0 && decide (x.wakeAt + 250 * x.pulses * nsMs ≤ s.et) then
    (s.setLin n { x with pulses := 0 }).raise (s.linTo n) (linSrc n) 6 x.pulses
  else s

/-! ### LIN status and opcodes (R383, R385) -/

/-- Cells of a channel in use (R377). -/
def State.linCells (s : State) (n : Nat) : Nat :=
  (s.linQueue n).length + (s.linOf n).fifo.length + (s.lin.entries.filter fun e => e.ch == n && e.buf != 0xFFFF).length

def State.linPage0 (s : State) : List Nat := [((upFrom 0 12).map s.linCells).sum % 4096]

def State.linWords (s : State) (n : Nat) : List Nat :=
  let x := s.linOf n
  [ pack [(0, 2, x.st), (2, 1, b2n x.cfg.commander), (3, 1, b2n x.alone), (4, 1, b2n x.respErr)], x.framesOk,
    pack [(0, 16, x.noResponse), (16, 16, x.rxErrors)], pack [(0, 16, x.collisions), (16, 16, x.busy)],
    pack [(0, 8, x.run), (8, 8, x.lastError), (16, 16, x.wakes)], pack [(0, 12, s.linCells n), (16, 12, x.cfg.quota)],
    pack [(0, 16, (s.linQueue n).length), (16, 16, x.sleeps)], lo32 x.lastErrorEt, hi32 x.lastErrorEt ]

def linOwners (ps : List Byte) (s : State) : List Nat := [s.owner clsLin (u8 ps 0)]
def linBlock (ps : List Byte) : Bool := decide (u8 ps 0 < 12) && zeroAt ps 1 3
def linDisabled (pk : Packet) (s : State) : Bool := !(s.linOf (u8 pk.params 0)).cfg.enabled

def linGetStatusSpec : OpSpec where
  code := 0x0A00
  comp := .S
  issuer := .ownP0
  len := lenIs 4
  fields := fun ps _ => linBlock ps
  owners := linOwners
  key := fun ps => u8 ps 0 + 1
  check := fun pk s => if linDisabled pk s then 0x0C00 else stOk
  act := fun pk s => okWith (wordBytes (s.linWords (u8 pk.params 0))) s

def linTxSpec : OpSpec where
  code := 0x0A01
  comp := .A
  issuer := .own
  len := lenIs 16
  fields := fun ps _ => decide (u8 ps 0 < 12) && decide (u8 ps 2 ≤ 1) && decide (u8 ps 4 ≤ 1) && zeroAt ps 5 3 &&
    (decide (8 < u8 ps 3) || zeroAt ps (8 + u8 ps 3) (8 - u8 ps 3))
  owners := linOwners
  key := fun ps => u8 ps 0 + 1
  check := fun pk s =>
    let ps := pk.params
    let x := s.linOf (u8 ps 0)
    if linDisabled pk s then 0x0C00
    else if x.st != 1 then 0x0C03
    else if 63 < u8 ps 1 || u8 ps 3 == 0 || 8 < u8 ps 3 || (u8 ps 2 == 1 && !x.cfg.commander) then 0x0C08
    else if !(s.lin.entries.any fun e => e.ch == u8 ps 0 && e.type == 3 && e.id == u8 ps 1) then 0x0C02
    else if x.cfg.txQuota ≤ (s.linQueue (u8 ps 0)).length then stNoResource else stOk
  act := fun _ s => later s

def linWakePulseSpec : OpSpec where
  code := 0x0A02
  comp := .O
  cls := 9
  issuer := .own
  len := lenIs 4
  fields := fun ps _ => linBlock ps
  owners := linOwners
  key := fun ps => u8 ps 0 + 1
  check := fun pk s =>
    if linDisabled pk s then 0x0C00 else if (s.linOf (u8 pk.params 0)).st == 2 then stOk else 0x0C04
  act := fun pk s => ok (s.linWaking (u8 pk.params 0) true)

def linGotoSleepSpec : OpSpec where
  code := 0x0A03
  comp := .A
  issuer := .own
  len := lenIs 4
  fields := fun ps _ => linBlock ps
  owners := linOwners
  key := fun ps => u8 ps 0 + 1
  check := fun pk s =>
    let x := s.linOf (u8 pk.params 0)
    if linDisabled pk s then 0x0C00
    else if !x.cfg.commander then 0x0C01
    else if x.st != 1 then 0x0C03
    else if s.lin.entries.any fun e => e.ch == u8 pk.params 0 && e.type == 3 then stOk else 0x0C02
  act := fun _ s => later s

end Sys2Proof.Machine
end

