-- ==== Sys2Proof/Machine/Gateway.lean ====
section
/-!
DEFINITION. Sys2Proof/Machine/Gateway.lean: the signal gateway (R159 to R202): route entries and route SRAM, sources,
conversion, the writes of an execution and their commit, the pipelines, the ristretto path, the GW_ pages and opcodes.
-/

namespace Sys2Proof.Machine

/-! ### Route entries and route SRAM (R159 to R165) -/

/-- DRAM address of the route table (R159). -/
def routeBase : Nat := 0x800000000

/-- Route SRAM slots (R161). -/
def routeSlots : Nat := 131072

/-- The 32 bytes of the entry of a signal. -/
def State.routeBytes (s : State) (sig : Nat) : List Byte := memRead s.mem (routeBase + 32 * sig) 32

/-- Type, source kind and types of an entry (R164). -/
def rType (e : List Byte) : Nat := u8 e 0
def rPinned (e : List Byte) : Bool := (u8 e 1).testBit 0
def rForceOk (e : List Byte) : Bool := (u8 e 1).testBit 1
def rBNonzero (e : List Byte) : Bool := (u8 e 1).testBit 3
def rSrcKind (e : List Byte) : Nat := u8 e 2 % 16
def rInType (e : List Byte) : Nat := bits (u8 e 2) 4 2
def rXform (e : List Byte) : Nat := bits (u8 e 2) 6 2
def rOutType (e : List Byte) : Nat := u8 e 3 % 4
def rShift (e : List Byte) : Nat := bits (u8 e 3) 2 5
def rSrcId (e : List Byte) : Nat := u16 e 4
def rSrcField (e : List Byte) : Nat := rd e 6 3
def rAgePos (e : List Byte) : Option Nat := if (u16 e 10).testBit 15 then some (u16 e 10 % 2048) else none
def rScale (e : List Byte) : Nat := u32 e 12
def rOffset (e : List Byte) : Int := signed 32 (u32 e 16)
def rKindA (e : List Byte) : Nat := u8 e 20 % 16
def rKindB (e : List Byte) : Nat := u8 e 20 / 16
def rIdA (e : List Byte) : Nat := u16 e 22
def rFieldA (e : List Byte) : Nat := rd e 24 3
def rIdB (e : List Byte) : Nat := u16 e 27
def rFieldB (e : List Byte) : Nat := rd e 29 3

/-- A signal route or a ristretto route. -/
def rUsed (e : List Byte) : Bool := rType e == 1 || rType e == 2

/-- Whether the entry of a signal stands in its slot (R161, R162). -/
def State.routePresent (s : State) (sig : Nat) : Bool := s.gw.slots.val 0 (sig % routeSlots) == sig + 1

/-- The slot of a signal holds a pinned entry. -/
def State.slotPinned (s : State) (sig : Nat) : Bool :=
  let h := s.gw.slots.val 0 (sig % routeSlots)
  h != 0 && rPinned (s.routeBytes (h - 1))

/-- An entry enters its slot; a pinned entry is never replaced. -/
def State.routeLoad (s : State) (sig : Nat) : State :=
  if s.slotPinned sig then s
  else { s with gw := { s.gw with slots := s.gw.slots.put 0 (sig % routeSlots) (sig + 1) } }

/-- The resource (class and index) that binds the destination `kind`, `id` (R167). -/
def State.destRes (s : State) (kind id : Nat) : Nat × Nat :=
  if kind == 1 then ((s.gw.tx.val {} id).cls, (s.gw.tx.val {} id).idx)
  else if kind == 2 then (clsLoad, id) else (clsBridge, id)

def State.destOwner (s : State) (kind id : Nat) : Nat :=
  if kind == 4 then (s.gw.mbx.val {} id).part
  else if kind == 0 then 0 else s.owner (s.destRes kind id).1 (s.destRes kind id).2

/-- The owner of a signal: that of its destination A; P0 for other records (R167). -/
def State.sigOwner (s : State) (sig : Nat) : Nat :=
  let e := s.routeBytes sig
  if rUsed e then s.destOwner (rKindA e) (rIdA e) else 0

/-! ### Fields (R168) -/

/-- The buffer bits that hold value bits `n - 1` down to 0 in byte order 1, from the most significant one at `k`. -/
def walkBits : Nat → Nat → List Nat
  | 0, _ => []
  | n + 1, k => k :: walkBits n (if k % 8 == 0 then k + 15 else k - 1)

/-- The buffer bit of each value bit, from bit 0 up. -/
def fieldBits (f : Nat) : List Nat :=
  let start := f % 2 ^ 14
  let len := bits f 14 6 + 1
  if f.testBit 20 then (walkBits len start).reverse else upFrom start len

def fieldLen (f : Nat) : Nat := bits f 14 6 + 1

def bufBit (bs : List Byte) (k : Nat) : Bool := ((bs.getD (k / 8) 0).toNat).testBit (k % 8)

/-- The number whose bits stand at the listed places. -/
def gatherBits (bs : List Byte) : List Nat → Nat
  | [] => 0
  | k :: ks => b2n (bufBit bs k) + 2 * gatherBits bs ks

/-- Value bits stored at the listed places. -/
def scatterBits : List Byte → List Nat → Nat → List Byte
  | bs, [], _ => bs
  | bs, k :: ks, v => scatterBits (withBit bs k (v % 2 == 1)) ks (v / 2)

/-- The field of a payload, none where it lies beyond it (R176). -/
def readField (bs : List Byte) (f : Nat) : Option Nat :=
  if (fieldBits f).all fun k => k / 8 < bs.length then some (gatherBits bs (fieldBits f)) else none

/-! ### Numbers (R173 to R176) -/

/-- A value read: `num / 2^den`, or an infinity. -/
inductive GwNum where
  | fin (num : Int) (den : Nat)
  | inf (neg : Bool)
deriving DecidableEq, Repr

/-- A binary32 value; none for a NaN. -/
def f32Num (b : Nat) : Option GwNum :=
  let neg := b.testBit 31
  let ex := bits b 23 8
  let fr := b % 2 ^ 23
  if ex == 255 then (if fr == 0 then some (.inf neg) else none)
  else
    let m : Nat := if ex == 0 then fr else (fr + 2 ^ 23) * 2 ^ (ex - 1)
    some (.fin (if neg then -(m : Int) else m) 149)

/-- The extracted value of a raw field (R173). -/
def gwExtract (inType len raw : Nat) : Option GwNum :=
  match inType with
  | 0 => some (.fin raw 0)
  | 1 => some (.fin (signed len raw) 0)
  | _ => f32Num raw

/-- `n / 2^d` to the nearest integer, halves away from zero (R175). -/
def roundAway (n : Int) (d : Nat) : Int :=
  let m : Nat := (2 * n.natAbs + 2 ^ d) / 2 ^ (d + 1)
  if n < 0 then -(m : Int) else m

/-- `a / 2^d` to the nearest integer, ties to even. -/
def roundEven (a d : Nat) : Nat :=
  let q := a / 2 ^ d
  let r := 2 * (a % 2 ^ d)
  if 2 ^ d < r || (r == 2 ^ d && q % 2 == 1) then q + 1 else q

/-- The largest finite binary32 value. -/
def f32Max : Nat := 0x7F7FFFFF

/-- `n / 2^d` to the nearest binary32 value, and whether its magnitude was clamped (R175). -/
def toF32 (n : Int) (d : Nat) : Nat × Bool :=
  let a := n.natAbs
  let sign := if n < 0 then 2 ^ 31 else 0
  if a == 0 then (0, false)
  else if (2 ^ 24 - 1) * 2 ^ (104 + d) < a then (sign + f32Max, true)
  else
    -- the quantum is 2^(u - 149)
    let top := a.log2 + 149
    let u := if top < d + 23 then 0 else top - d - 23
    let m := if d ≤ 149 then
        let k := 149 - d
        if u ≤ k then a * 2 ^ (k - u) else roundEven a (u - k)
      else roundEven a (u + (d - 149))
    -- a mantissa of 2^24 carries into the exponent by itself
    (sign + (if m < 2 ^ 23 then m else u * 2 ^ 23 + m), false)

/-- The integer that stands for an infinity before saturation. -/
def gwHuge (neg : Bool) : Int := if neg then -(2 ^ 200 : Nat) else (2 ^ 200 : Nat)

/-- The rounded result of an exact `n / 2^d` for an OUT_TYPE: the value (bits for binary32) and whether rounding clamped. -/
def gwRound (out : Nat) (n : Int) (d : Nat) : Int × Bool :=
  if out == 2 then ((toF32 n d).1, (toF32 n d).2) else (roundAway n d, false)

/-- The rounded result beyond every range. -/
def gwBeyond (out : Nat) (neg : Bool) : Int × Bool :=
  if out == 2 then ((if neg then 2 ^ 31 + f32Max else f32Max : Nat), true) else (gwHuge neg, true)

/-- Value `i` of the LOOKUP table at a base signal (R164, R174). -/
def State.lookupVal (s : State) (base i out : Nat) : Int :=
  let v := u16 (s.routeBytes (base + i / 15)) (2 + 2 * (i % 15))
  if out == 1 then signed 16 v else v

/-- Transform and rounding: y and whether a clamp occurred (R174, R175). -/
def State.convert (s : State) (e : List Byte) (raw : Nat) (r : GwNum) : Int × Bool :=
  let out := rOutType e
  match rXform e, r with
  | 0, .inf neg => gwBeyond out neg
  | 0, .fin n d => if out == 2 then ((raw : Int), false) else (roundAway n d, false)
  | 1, .inf neg =>
    let a := signed 32 (rScale e)
    if a == 0 then gwRound out (rOffset e) 0 else gwBeyond out (neg != decide (a < 0))
  | 1, .fin n d =>
    gwRound out (n * signed 32 (rScale e) + rOffset e * (2 ^ (rShift e + d) : Nat)) (rShift e + d)
  | _, _ =>
    let last := bits (rScale e) 20 8
    (s.lookupVal (rScale e % 2 ^ 20) (min raw last) out + rOffset e, decide (last < raw))

/-- y saturated to a destination, and whether that clamped it (R175). -/
def gwSaturate (kind field out : Nat) (y : Int) : Int × Bool :=
  let clamp := fun (lo hi : Int) => if y < lo then (lo, true) else if hi < y then (hi, true) else (y, false)
  if kind == 2 then clamp 0 65535
  else if kind == 3 then clamp (-32768) 32767
  else if out == 2 then
    if (2 ^ 31 + f32Max : Nat) < y then ((2 ^ 31 + f32Max : Nat), true)
    else if (f32Max : Int) < y && y < (2 ^ 31 : Nat) then ((f32Max : Int), true) else (y, false)
  else
    let n := fieldLen field
    if out == 1 then clamp (-(2 ^ (n - 1) : Nat)) ((2 ^ (n - 1) : Nat) - 1) else clamp 0 ((2 ^ n : Nat) - 1)

/-- y as GW_SIGNAL_READ gives it: 64 bits and whether they clamped it (R198). -/
def sigValue (out : Nat) (y : Int) : Nat × Bool :=
  if out == 2 then (twos 32 y, false)
  else
    let z := if out == 1 then gwSaturate 4 (63 * 2 ^ 14) 1 y else gwSaturate 4 (63 * 2 ^ 14) 0 y
    (twos 64 z.1, z.2)

/-- The y that a forced value stands for (R199). -/
def forcedY (out v : Nat) : Int := if out == 1 then signed 64 v else if out == 2 then (v % 2 ^ 32 : Nat) else v

/-! ### Sources (R166, R169 to R171) -/

/-- The level an input reads: its qualified level, or its break value (R391, R393). -/
def State.inLevel (s : State) (n : Nat) : Bool :=
  let x := s.dio.ins.val {} n
  if x.wb == 0 then x.qual else if x.breakVal == 1 then false else if x.breakVal == 2 then true else x.held

/-- The source mailbox `n` is read: SEQ first; a new SEQ makes it fresh (R171). -/
def State.mailboxRead (s : State) (n : Nat) : State × Option (List Byte × Nat) :=
  let m := s.gw.mbx.val {} n
  if !m.placed || m.dest then (s, none)
  else
    let seq := u16 (memRead s.mem (m.addr + 10) 2) 0
    let m := if seq != m.seqSeen then { m with seqSeen := seq, has := true, age := 0 } else m
    let s := { s with gw := { s.gw with mbx := s.gw.mbx.put {} n m } }
    (s, if m.has then some (memRead s.mem m.addr 8, m.age) else none)

/-- The bytes a source holds with its age, none while it never held a value. `edge` is the DI and the level of a ristretto
trigger; a ristretto execution reads the filtered level of a DI (R391). -/
def State.sourceRead (s : State) (e : List Byte) (edge : Option (Nat × Nat)) : State × Option (List Byte × Nat) :=
  let id := rSrcId e
  match rSrcKind e with
  | 0 => let b := s.gw.rx.val {} id; (s, if b.has then some (b.data, b.age) else none)
  | 1 => let g := s.gw.groups.val {} id; (s, if g.has then some (leBytes 2 g.levels, g.age) else none)
  | 2 =>
    let l := match edge with
      | some (di, v) => if di == id then v % 2 == 1 else (s.dio.ins.val {} id).filt
      | none => s.inLevel id
    (s, some ([BitVec.ofNat 8 (b2n l)], 0))
  | 3 => s.mailboxRead id
  | _ => (s, none)

/-- INPUT_LATCH of a group; the XI group does not latch while the barrier link is lost (R102, R395). -/
def State.inputLatch (s : State) (g : Nat) : State :=
  if 4 < g || (g == 4 && !s.dio.barrierOk) then s
  else
    let levels := mapBits (fun j => s.inLevel (16 * g + j)) 16
    { s with gw := { s.gw with groups := s.gw.groups.put {} g ⟨levels, true, 0⟩ } }

/-! ### Execution of one entry (R173 to R177) -/

/-- An event of a pipeline about a signal (R202). -/
def State.gwEvent (s : State) (src kind sig data : Nat) : State := s.raiseOnce [s.sigOwner sig, 0] src kind data

def State.sigStat (s : State) (sig : Nat) : SigStat := s.gw.sigs.val {} sig

def State.setSig (s : State) (sig : Nat) (x : SigStat) : State :=
  { s with gw := { s.gw with sigs := s.gw.sigs.put {} sig x } }

/-- The destination writes of a result y of age `age`; `clamped`: the rounding clamped it. -/
def gwWrites (e : List Byte) (sig : Nat) (y : Int) (age : Nat) (clamped forced : Bool) : List GwWrite × Bool × Bool :=
  let out := rOutType e
  let a := gwSaturate (rKindA e) (rFieldA e) out y
  let satA := a.2 || clamped
  let nz := rBNonzero e
  let yNot0 := if out == 2 then y % (2 ^ 31 : Nat) != 0 else y != 0
  let b := if nz then (((b2n yNot0 : Nat) : Int), false) else gwSaturate (rKindB e) (rFieldB e) out y
  let satB := rKindB e != 0 && (b.2 || (clamped && !nz))
  let ageA := if rKindA e == 1 then rAgePos e else none
  let ageB := if rKindA e != 1 && rKindB e == 1 then rAgePos e else none
  let wa : List GwWrite := [⟨sig, rKindA e, rIdA e, rFieldA e, a.1, age, ageA, out, satA, forced⟩]
  let wb : List GwWrite :=
    if rKindB e == 0 then []
    else [⟨sig, rKindB e, rIdB e, rFieldB e, b.1, age, ageB, if nz then 0 else out, satB, forced⟩]
  (wa ++ wb, satA, satB)

/-- One entry, scheduled or ristretto, for the pipeline with event source `src`: the writes to be committed. -/
def State.execEntry (s : State) (sig src : Nat) (edge : Option (Nat × Nat)) : State × List GwWrite :=
  let e := s.routeBytes sig
  let st := s.sigStat sig
  let rdv := s.sourceRead e edge
  let s := rdv.1
  let raw := match rdv.2 with
    | none => none
    | some (bs, _) => if rSrcKind e == 2 then some (gatherBits bs [0]) else readField bs (rSrcField e)
  let val := match raw with
    | none => none
    | some v => gwExtract (rInType e) (if rSrcKind e == 2 then 1 else fieldLen (rSrcField e)) v
  let empty := rdv.2.isNone
  let s := if empty then
      (({ s with gw := { s.gw with empty := sat32 s.gw.empty } }).gwEvent src 3 sig sig)
    else if val.isNone then
      (({ s with gw := { s.gw with invalid := sat32 s.gw.invalid } }).gwEvent src 2 sig sig)
    else s
  let st := { st with execs := wrap32 st.execs, lastEt := s.et, ever := true, bad := val.isNone }
  let forced := st.force != 0
  let res : Option ((Int × Bool) × Nat) :=
    if forced then some ((forcedY (rOutType e) st.forceVal, false), 0)
    else match val, raw, rdv.2 with
      | some v, some w, some (_, age) => some (s.convert e w v, age)
      | _, _, _ => none
  match res with
  | none => (s.setSig sig { st with sat := false }, [])
  | some ((y, clamped), age) =>
    let w := gwWrites e sig y age clamped forced
    let v := sigValue (rOutType e) y
    let s := s.setSig sig { st with value := v.1, age := age, sat := w.2.1 || w.2.2 || v.2 }
    let s := if w.2.1 || w.2.2 then
        ({ s with gw := { s.gw with saturations := sat32 s.gw.saturations } }).gwEvent src 1 sig
          (pack [(0, 20, sig), (20, 1, b2n w.2.1), (21, 1, b2n w.2.2)])
      else s
    (s, w.1)

/-! ### Writing destinations (R178 to R181) -/

/-- External ports through which the gateway frame of a buffer leaves. -/
def State.framePorts (s : State) (buf : Nat) : List Nat :=
  match s.swc.records.find? fun r => r.buf == buf && r.transmit with
  | none => []
  | some r =>
    match s.swc.vlans.find? fun v => v.2.vid == r.vid with
    | none => []
    | some (_, v) =>
      let m := s.lookupPorts r.dst v ((s.fdbFind r.dst v.fid).map fun i => s.swc.fdb.val {} i)
      (upFrom 0 16).filter fun p => m.testBit p && v.members.testBit p

/-- The channel, segment or ports that carry a frame buffer (class and index). -/
def State.carriers (s : State) (buf : Nat) : List (Nat × Nat) :=
  let x := s.gw.tx.val {} buf
  if x.cls == clsPort then (s.framePorts buf).map fun p => (clsPort, p) else [(x.cls, x.idx)]

/-- The class and index of a wake-route target (R200). -/
def wakeTarget (t : Nat) : Option (Nat × Nat) :=
  let i := t % 4096
  match t / 4096 with
  | 1 => if i < 16 then some (clsCan, i) else none
  | 2 => if i < 12 then some (clsLin, i) else none
  | 3 => if i < 4 then some (clsPort, 12 + i) else none
  | 4 => if i < 8 then some (clsPort, 4 + i) else none
  | _ => none

/-- ET at which a carrier last went to sleep. -/
def State.sleptAt (s : State) (cls idx : Nat) : Nat :=
  if cls == clsCan then (s.canOf idx).sleptAt else if cls == clsLin then (s.linOf idx).sleptAt else (s.prtOf idx).sleptAt

/-- The wake-route entry of a signal that names a sleeping carrier of a buffer. -/
def State.wakeRouteOf (s : State) (sig : Nat) (cs : List (Nat × Nat)) : Option (Nat × Nat × Nat) :=
  s.gw.wakeRoutes.findSome? fun w =>
    match wakeTarget w.2 with
    | some t => if w.1 == sig && cs.contains t && s.asleep t.1 t.2 then some (w.2, t.1, t.2) else none
    | none => none

/-- The bits of a value as a field stores them. -/
def fieldRaw (w : GwWrite) : Nat := twos (fieldLen w.field) w.value

/-- Key of a frame field in the table of last written values. -/
def fieldKey (w : GwWrite) : Nat := w.id * 2 ^ 24 + w.field

/-- The field and the age byte of a frame buffer are written. -/
def State.putField (s : State) (w : GwWrite) : State :=
  let x := s.gw.tx.val {} w.id
  let d := scatterBits (fit x.len x.data) (fieldBits w.field) (fieldRaw w)
  let d := match w.agePos with | some p => setAt d p (BitVec.ofNat 8 w.age) | none => d
  { s with gw := { s.gw with
    tx := s.gw.tx.put {} w.id { x with data := d, written := true }
    fieldW := s.gw.fieldW.put (0, 0) (fieldKey w) (w.value, s.et + 1) } }

/-- A write to a frame buffer under R181: the state and whether it was performed. -/
def State.writeFrame (s : State) (src : Nat) (w : GwWrite) : State × Bool :=
  let cs := s.carriers w.id
  if cs.isEmpty || !(cs.all fun c => s.asleep c.1 c.2) then (s.putField w, true)
  else
    match s.wakeRouteOf w.sig cs with
    | none =>
      (({ s with gw := { s.gw with isolated := sat32 s.gw.isolated } }).gwEvent src 4 w.sig w.sig, false)
    | some (target, cls, idx) =>
      let last := s.gw.fieldW.val (0, 0) (fieldKey w)
      if last.2 != 0 && decide (s.sleptAt cls idx < last.2) && last.1 == w.value then (s, false)
      else
        let s := (s.putField w).wakeRequest cls idx
        (s.raiseOnce [s.sigOwner w.sig, 0] 0x125 3 target, true)

/-- Actuator record of a load channel or bridge destination. -/
def recOf (w : GwWrite) : Nat := if w.kind == 2 then w.id else 56 + w.id

/-- A write to a record that nothing holds off (R179). -/
def State.putRec (s : State) (w : GwWrite) (hold : Nat) : State :=
  { s with gw := { s.gw with
    recs := s.gw.recs.put {} (recOf w) { has := true, value := w.value, age := w.age, since := 0, et := s.et, hold := hold } } }

/-- A scheduled write to an actuator record: discarded while held, and from a reset of the owner until it runs again
(R179, R422). -/
def State.writeRec (s : State) (src : Nat) (w : GwWrite) : State :=
  let x := s.actRec (recOf w)
  if x.hold != 0 then
    ({ s with gw := { s.gw with heldDrops := sat32 s.gw.heldDrops } }).gwEvent src 5 w.sig w.sig
  else if (s.part (s.destOwner w.kind w.id)).inReset then s
  else s.putRec w 0

/-- A destination mailbox is written: VALUE, then AGE and MB_FLAGS, then SEQ (R171, R180). -/
def State.writeMailbox (s : State) (w : GwWrite) : State :=
  let m := s.gw.mbx.val {} w.id
  if !m.placed || !m.dest then s
  else
    let v := if w.outType == 1 then twos 64 w.value else w.value.toNat
    let seq := u16 (memRead s.mem (m.addr + 10) 2) 0
    let s := s.store m.addr (leBytes 8 v)
    let s := s.store (m.addr + 8) (leBytes 1 w.age ++ leBytes 1 (pack [(0, 1, b2n w.sat), (1, 1, b2n w.forced)]))
    s.store (m.addr + 10) (leBytes 2 (seq + 1))

/-- One scheduled destination write. -/
def State.commitWrite (s : State) (src : Nat) (w : GwWrite) : State :=
  match w.kind with
  | 1 => (s.writeFrame src w).1
  | 4 => s.writeMailbox w
  | 0 => s
  | _ => s.writeRec src w

/-! ### Pipelines (R182) -/

def State.pipe (s : State) (p : Nat) : Pipe := s.gw.pipes.val {} p

def State.setPipe (s : State) (p : Nat) (x : Pipe) : State :=
  { s with gw := { s.gw with pipes := s.gw.pipes.put {} p x } }

/-- A ROUTE stroke enters the queue of its pipeline; it does not while the queue is full. -/
def State.routeQueue (s : State) (p first count : Nat) (trace : Option TraceOf) : State :=
  let x := s.pipe p
  if 3 < p || 16 ≤ x.queue.length then s
  else s.setPipe p { x with queue := x.queue ++ [⟨first, count, trace⟩], queueMax := max x.queueMax (x.queue.length + 1) }

/-- A route cache miss: fetched on demand, counted and reported (R110, R162). -/
def State.routeMiss (s : State) (sig : Nat) : State :=
  let s := s.routeLoad sig
  let l := s.easel.lanes.val {} 0
  let s := { s with
    gw := { s.gw with cacheMisses := sat32 s.gw.cacheMisses }
    easel := { s.easel with lanes := s.easel.lanes.put {} 0 { l with specific := sat32 l.specific } } }
  (s.raiseOnce [0] 0x128 5 sig).fault 0x128 1 0 0x1F 5 sig 0 0

/-- One entry of a stroke; an entry whose DRAM copy cannot be read leaves its destinations unchanged (R163). -/
def State.routeOne (p : Nat) (acc : State × List GwWrite) (sig : Nat) : State × List GwWrite :=
  let s := acc.1
  let s := if s.routePresent sig then s else s.routeMiss sig
  if s.gw.dramBad.contains sig || !rUsed (s.routeBytes sig) then (s, acc.2)
  else
    let r := s.execEntry sig (0x121 + p) none
    let s := { r.1 with gw := { r.1.gw with routes := wrap32 r.1.gw.routes } }
    let x := s.pipe p
    (s.setPipe p { x with entries := wrap32 x.entries, lastSignal := sig }, acc.2 ++ r.2)

/-- A pipeline starts its next stroke and converts its entries; the writes wait for the completion. -/
def State.routeStart (s : State) (p : Nat) : State :=
  let x := s.pipe p
  match x.queue with
  | [] => s
  | q :: rest =>
    if x.busy then s
    else
      let s := s.setPipe p { x with queue := rest, busy := true, start := s.et, trace := q.trace, strokes := wrap32 x.strokes }
      let r := (upFrom q.first q.count).foldl (State.routeOne p) (s, [])
      r.1.setPipe p { r.1.pipe p with writes := r.2 }

/-- The trace record of a stroke of lane `l` that completes now (R534). -/
def State.traceLog (s : State) (l : Nat) (t : Option TraceOf) : State :=
  match t with
  | none => s
  | some t => s.logRec ⟨s.et, 0x128 + l, 0, 2,
      t.bytes ++ leBytes 2 (clip 16 (s.et - t.due)) ++ leBytes 1 t.slot ++ leBytes 1 (b2n t.late)⟩

/-- The stroke completes: its writes are committed together (R178). -/
def State.routeCommit (s : State) (p : Nat) : State :=
  let x := s.pipe p
  if !x.busy then s
  else
    let s := s.setPipe p { x with busy := false, writes := [], trace := none, maxExec := max x.maxExec (clip 16 (s.et - x.start)) }
    (x.writes.foldl (fun s w => s.commitWrite (0x121 + p) w) s).traceLog 0 x.trace

/-- PF_ROUTE (R161). -/
def State.prefetchRoutes (s : State) (first count : Nat) : State := (upFrom first count).foldl State.routeLoad s

/-! ### Ristretto path (R108, R109, R188, R191) -/

/-- The order of R25 among waiting events. -/
def risBefore (a b : RisEvent) : Bool := decide (a.et < b.et) || (a.et == b.et && decide (a.src < b.src))

/-- The first event of a queue in the order of R25 among those ready. -/
def risFirst (now : Nat) : List RisEvent → Option RisEvent
  | [] => none
  | x :: q =>
    match risFirst now q with
    | none => if x.ready ≤ now then some x else none
    | some y => if x.ready ≤ now && !risBefore y x then some x else some y

/-- The owner of the source of an event (R122). -/
def State.risOwner (s : State) (src : Nat) : Nat :=
  if src < 0x0A0 then s.owner clsDi (src - 0x060)
  else if src < 0x0E0 then s.owner clsCan (src - 0x0D0)
  else s.owner clsFry ((src - 0x0E0) / 2)

/-- One event is taken from the queue; one that has waited longer than its slot is late (R109). -/
def State.risTake (s : State) : State :=
  match risFirst s.et s.easel.ris with
  | none => s
  | some e =>
    let l := s.easel.lanes.val {} 5
    let isLate := decide (e.ready + 32 ≤ s.et)
    let s := { s with
      easel := { s.easel with
        ris := s.easel.ris.erase e
        lanes := s.easel.lanes.put {} 5 { l with
          dispatched := wrap32 l.dispatched, specific := if isLate then sat32 l.specific else l.specific } }
      gw := { s.gw with risRun := s.gw.risRun ++ [e] } }
    if isLate then
      let p := s.risOwner e.src
      let x := s.easel.parts.val {} p
      let s := { s with easel := { s.easel with parts := s.easel.parts.put {} p { x with risLate := sat32 x.risLate } } }
      let slots := (s.et - e.ready) / 32
      let d := pack [(0, 10, e.src), (16, 16, clip 16 slots)]
      (s.raiseOnce [0, p] 0x12D 2 d).fault 0x12D 1 0 p 2 d 0 0
    else s

/-- A slot start: up to two events (R108). -/
def State.risSlot (s : State) : State :=
  if s.easel.running then (s.risTake).risTake else s

/-- Destination A of a ristretto execution (R191). -/
def State.risDestA (s : State) (w : GwWrite) (hold : Nat) : State :=
  let owner := s.destOwner w.kind w.id
  let notApplied := fun (s : State) => { s with gw := { s.gw with notApplied := sat32 s.gw.notApplied } }
  if w.kind == 1 then
    let r := s.writeFrame 0x121 w
    if r.2 then r.1.canRisRelease w.id else r.1
  else if w.kind != 2 && w.kind != 3 then s
  else if s.inReset owner then notApplied s
  else
    let s := s.putRec w hold
    if !s.dev.armed then notApplied s
    else
      let k := recOf w
      let s := { s with easel := { s.easel with risLink := s.easel.risLink.put 0 k (s.et / 32 + 1) } }
      if w.kind == 2 then s.loadValue w.id w.value 1 2 else s.bridgeValue w.id w.value 1 2

/-- The ristretto path executes the next event handed to it (R188). -/
def State.risExecute (s : State) : State :=
  match s.gw.risRun with
  | [] => s
  | e :: rest =>
    let t := s.gw.triggers.val {} e.trig
    let s := { s with gw := { s.gw with
      risRun := rest
      risRoutes := wrap32 s.gw.risRoutes
      seatA := if t.seat == 0 then wrap32 s.gw.seatA else s.gw.seatA
      seatB := if t.seat == 0 then s.gw.seatB else wrap32 s.gw.seatB
      maxLat := max s.gw.maxLat (clip 16 (s.et - e.et)) } }
    let s := if s.routePresent t.signal then s else s.routeMiss t.signal
    if s.gw.dramBad.contains t.signal || !rUsed (s.routeBytes t.signal) then s
    else
      let r := s.execEntry t.signal 0x121 (if t.kind == 0 then some (t.source, e.level) else some (0xFFFF, 0))
      match r.2 with
      | [] => r.1
      | a :: bs => bs.foldl (fun s w => s.commitWrite 0x121 w) (r.1.risDestA a t.hold)

/-! ### Boundary and start (R169, R171, R172, R177, R179) -/

/-- A canvas boundary: ages rise, hold counts and forces run down. -/
def State.gwBoundary (s : State) : State :=
  let g := s.gw
  let ended := (g.sigs.filter fun e => e.2.force == 1).map fun e => e.1
  let s := { s with gw := { g with
    rx := g.rx.mapV fun _ x => { x with age := sat8 x.age }
    groups := g.groups.mapV fun _ x => { x with age := sat8 x.age }
    mbx := g.mbx.mapV fun _ x => { x with age := sat8 x.age }
    recs := g.recs.mapV fun _ x => { x with since := sat8 x.since, hold := x.hold - 1 }
    sigs := g.sigs.mapV fun _ x => { x with force := if x.force == 255 then 255 else x.force - 1 } } }
  ended.foldl (fun s sig => s.gwEvent 0x125 2 sig sig) s

/-- Palette 0 starts: the SEQ that each source mailbox holds counts as seen (R171). -/
def State.mailboxStart (s : State) : State :=
  let seen := fun (_ : Nat) (m : Mbx) =>
    if m.placed && !m.dest then { m with seqSeen := u16 (memRead s.mem (m.addr + 10) 2) 0 } else m
  { s with gw := { s.gw with mbx := s.gw.mbx.mapV seen } }

/-! ### Status pages (R193 to R195) -/

def State.gwPinned (s : State) : Nat :=
  (s.gw.slots.filter fun e => e.2 != 0 && rPinned (s.routeBytes (e.2 - 1))).length

def State.gwPage0 (s : State) : List Nat :=
  let g := s.gw
  [ g.routes, g.risRoutes, g.cacheMisses, g.saturations, g.invalid, g.empty, g.isolated, g.heldDrops, s.gwPinned,
    pack [(0, 16, (g.sigs.filter fun e => e.2.force != 0).length), (16, 7, g.wakeRoutes.length)], g.eccCorrected,
    g.eccRefetch ]

def State.pipeWords (s : State) (p : Nat) : List Nat :=
  let x := s.pipe p
  [x.strokes, x.entries, x.maxExec, x.lastSignal, x.queueMax]

def State.risWords (s : State) : List Nat :=
  let g := s.gw
  [ g.seatA, g.seatB, g.maxLat, (g.recs.filter fun e => e.2.hold != 0).length, g.notApplied,
    (g.triggers.filter fun e => e.2.used).length ]

/-! ### Opcodes (R196 to R201) -/

def sigUsed (pk : Packet) (s : State) : Nat := if rUsed (s.routeBytes (u32 pk.params 0)) then stOk else 0x0500
def sigOk (ps : List Byte) : Bool := decide (0 < u32 ps 0) && decide (u32 ps 0 < 2 ^ 20)
def sigOwners (ps : List Byte) (s : State) : List Nat := [s.sigOwner (u32 ps 0)]

def gwGetStatusSpec : OpSpec where
  code := 0x0300
  comp := .S
  issuer := .p0
  len := lenIs 0
  act := fun _ s => okWith (wordBytes s.gwPage0) s

def gwRouteReadSpec : OpSpec where
  code := 0x0301
  comp := .S
  issuer := .ownP0
  len := lenIs 4
  fields := fun ps _ => sigOk ps
  owners := sigOwners
  key := fun ps => u32 ps 0 + 1
  check := sigUsed
  act := fun pk s =>
    let sig := u32 pk.params 0
    let e := s.routeBytes sig
    let hold := if rKindA e == 2 then (s.actRec (rIdA e)).hold else if rKindA e == 3 then (s.actRec (56 + rIdA e)).hold else 0
    let res := if s.routePresent sig then (if rPinned e then 2 else 1) else 0
    okWith (e ++ leBytes 1 res ++ leBytes 1 hold ++ leBytes 6 0) s

def gwSignalReadSpec : OpSpec where
  code := 0x0302
  comp := .S
  issuer := .ownP0
  len := lenIs 4
  fields := fun ps _ => sigOk ps
  owners := sigOwners
  key := fun ps => u32 ps 0 + 1
  check := sigUsed
  act := fun pk s =>
    let x := s.sigStat (u32 pk.params 0)
    okWith (leBytes 8 x.value ++ leBytes 1 x.age ++
      leBytes 1 (pack [(0, 1, b2n (x.force != 0)), (1, 1, b2n x.sat), (2, 1, b2n (!x.ever)), (3, 1, b2n x.bad)]) ++
      leBytes 1 x.force ++ leBytes 5 0 ++ leBytes 8 x.lastEt ++ leBytes 4 x.execs ++ leBytes 4 0) s

/-- A forced value in the format of R198: a binary32 value that is no NaN, bytes 4 to 7 zero. -/
def forceOk (out v : Nat) : Bool := out != 2 || (decide (v < 2 ^ 32) && (f32Num v).isSome)

def gwSignalForceSpec : OpSpec where
  code := 0x0303
  comp := .O
  cls := 1
  issuer := .own
  len := lenIs 16
  fields := fun ps s => sigOk ps && zeroAt ps 5 3 && forceOk (rOutType (s.routeBytes (u32 ps 0))) (u64 ps 8)
  owners := sigOwners
  key := fun ps => u32 ps 0 + 1
  check := fun pk s =>
    if sigUsed pk s != stOk then 0x0500
    else if rForceOk (s.routeBytes (u32 pk.params 0)) then stOk else 0x0501
  act := fun pk s =>
    let sig := u32 pk.params 0
    ok (s.setSig sig { s.sigStat sig with force := u8 pk.params 4, forceVal := u64 pk.params 8 })

/-- Frame buffers that an entry writes. -/
def destBufs (e : List Byte) : List Nat :=
  (if rKindA e == 1 then [rIdA e] else []) ++ (if rKindB e == 1 then [rIdB e] else [])

def gwWakeRouteSetSpec : OpSpec where
  code := 0x0304
  comp := .O
  cls := 1
  issuer := .p0
  len := lenIs 8
  fields := fun ps _ => sigOk ps && decide (u8 ps 4 ≤ 1) && zeroAt ps 5 1
  key := fun ps => u32 ps 0 + 1
  check := fun pk s =>
    let sig := u32 pk.params 0
    let t := u16 pk.params 6
    let present := s.gw.wakeRoutes.contains (sig, t)
    if sigUsed pk s != stOk then 0x0500
    else if u8 pk.params 4 == 0 then (if present then stOk else 0x0504)
    else
      match wakeTarget t with
      | none => 0x0503
      | some c =>
        if !((destBufs (s.routeBytes sig)).any fun b => (s.carriers b).contains c) then 0x0503
        else if !present && 64 ≤ s.gw.wakeRoutes.length then 0x0502 else stOk
  act := fun pk s =>
    let w := (u32 pk.params 0, u16 pk.params 6)
    let rest := s.gw.wakeRoutes.filter (· != w)
    ok { s with gw := { s.gw with wakeRoutes := if u8 pk.params 4 == 1 then rest ++ [w] else rest } }

end Sys2Proof.Machine
end

