-- ==== Sys2Proof/Machine/Power.lean ====
section
/-!
DEFINITION. Sys2Proof/Machine/Power.lean: the feeds (R256 to R263), resumption after shedding (R268), the thermal model and
its derating steps (R269 to R273), the PWR_ pages and opcodes (R277 to R284).
-/

namespace Sys2Proof.Machine

def fltMs : Nat := 50 * nsMs

/-- Recipients of a feed's events: P0 and every owner of a channel on the feed (R277). -/
def State.feedTo (s : State) (f : Nat) : List Nat :=
  0 :: ((upFrom 0 outCount).filter fun k => feedOf k == f).map s.outOwner

/-- A filtered voltage is taken: extreme, and the raw level counts as back when it is above the UV level (R279). -/
def State.feedV (s : State) (f v : Nat) : State :=
  let x := s.feed f
  s.setFeed f { x with v := v, vMin := min x.vMin v, uvNow := x.uvNow && decide (v < if f == 0 then 450 else 2400) }

/-- A filtered current is taken. -/
def State.feedI (s : State) (f i : Nat) : State :=
  let x := s.feed f
  s.setFeed f { x with i := i, iPeak := max x.iPeak i }

/-! ### Sag and crank (R257, R258, R260) -/

def State.sagEnter (s : State) (f v : Nat) : State :=
  let s := s.feedV f v
  let x := s.feed f
  if 1 < f || x.sag || x.sagTh ≤ v then s
  else
    let s' := s.setFeed f { x with sag := true, sagAt := s.et, sagCount := sat16 x.sagCount }
    let s' := s'.raise (s.feedTo f) f 1 v
    let s' := s'.reshed s f 0
    if f == 0 then ({ s' with dev := { s'.dev with causeSag := true } }).degrade else s'

/-- Crank ends. -/
def State.crankStop (s : State) (v : Nat) : State :=
  let s := s.setFeed 0 { s.feed 0 with crank := false }
  ({ s with dev := { s.dev with causeCrank := false } }).raise (s.feedTo 0) 0 4 v

def State.sagExit (s : State) (f v : Nat) : State :=
  let s := s.feedV f v
  let x := s.feed f
  if 1 < f || !x.sag || v < x.sagTh + (if f == 0 then 50 else 200) || s.et < x.sagAt + fltMs then s
  else
    let s' := s.setFeed f { x with sag := false }
    let s' := if f == 0 && x.crank then s'.crankStop v else s'
    let s' := s'.raise (s.feedTo f) f 2 v
    let s' := s'.reshed s f 0
    if f == 0 then ({ s' with dev := { s'.dev with causeSag := false } }).degrade else s'

/-- Crank is reported only while FEED12 is in sag. -/
def State.crankStart (s : State) (v : Nat) : State :=
  let s := s.feedV 0 v
  let x := s.feed 0
  if !x.sag || x.crank || x.crankTh ≤ v then s
  else
    let s := (s.setFeed 0 { x with crank := true, crankAt := s.et }).raise (s.feedTo 0) 0 3 v
    ({ s with dev := { s.dev with causeCrank := true } }).degrade

def State.crankEnd (s : State) (v : Nat) : State :=
  let s := s.feedV 0 v
  let x := s.feed 0
  if !x.crank || v < x.crankTh + 100 || s.et < x.crankAt + fltMs then s else (s.crankStop v).degrade

/-! ### UV latch (R257, R259, R260) -/

/-- Every XO goes to its off state (R29). -/
def State.xosInert (s : State) : State :=
  let off := fun (_ : Nat) (x : Xo) => { x with cmd := false, out := false, safe := 0, holdUntil := none, retryAt := 0 }
  { s with dio := { s.dio with xos := s.dio.xos.mapV off } }

/-- Every output goes inert (R29, R31). -/
def State.allInert (s : State) : State := ((s.inertWhere fun _ => true).xosInert).pgInert

/-- The UV latch of a feed sets. -/
def State.uvSet (s : State) (f : Nat) : State :=
  let x := s.feed f
  if x.uv then s
  else
    let s := s.setFeed f { x with uv := true, uvNow := true, uvCount := sat16 x.uvCount }
    let s := s.raise (s.feedTo f) f 5 0
    if f == 0 then s.allInert else s.inertWhere fun k => feedOf k == 1

/-- The comparator of a feed trips at `mv` millivolts. -/
def State.uvLatch (s : State) (f mv : Nat) : State :=
  if 1 < f || (if f == 0 then 4500 else 24000) ≤ mv then s else s.uvSet f

/-! ### Overvoltage and overload (R258, R260, R261) -/

def overvoltLevel (f : Nat) : Nat := if f == 0 then 3200 else 5400

def State.overvoltage (s : State) (f v : Nat) : State :=
  let s := s.feedV f v
  let x := s.feed f
  if 1 < f || x.overvolt || v ≤ overvoltLevel f then s
  else (s.setFeed f { x with overvolt := true }).raise (s.feedTo f) f 9 v

def State.overvoltageEnd (s : State) (f v : Nat) : State :=
  let s := s.feedV f v
  let x := s.feed f
  if 1 < f || !x.overvolt || overvoltLevel f < v then s
  else (s.setFeed f { x with overvolt := false }).raise (s.feedTo f) f 0xA v

/-- Rating of a feed, 0.1 A. -/
def feedRating (f : Nat) : Nat := if f == 0 then 3000 else 1200

def State.overload (s : State) (f i : Nat) : State :=
  let s := s.feedI f i
  let x := s.feed f
  if 1 < f || x.overload || i ≤ feedRating f * 11 / 10 then s
  else
    let s' := (s.setFeed f { x with overload := true, overAt := s.et, overloads := sat16 x.overloads }).raise (s.feedTo f) f 7 i
    s'.reshed s f 1

def State.overload2 (s : State) (f i : Nat) : State :=
  let s := s.feedI f i
  let x := s.feed f
  if 1 < f || !x.overload || x.overload2 || i ≤ feedRating f * 11 / 10 || s.et < x.overAt + 10 * nsMs then s
  else (s.setFeed f { x with overload2 := true }).reshed s f 1

def State.overloadEnd (s : State) (f i : Nat) : State :=
  let s := s.feedI f i
  let x := s.feed f
  if 1 < f || !x.overload || feedRating f ≤ i || s.et < x.overAt + 100 * nsMs then s
  else
    let s' := (s.setFeed f { x with overload := false, overload2 := false }).raise (s.feedTo f) f 8 i
    s'.reshed s f 1

/-! ### Resumption (R268) -/

/-- The next shed outlet of a feed resumes, or moves to the end of the order. -/
def State.shedResume (s : State) (f : Nat) : State :=
  let x := s.feed f
  match x.resume with
  | [] => s
  | k :: rest =>
    if s.et < x.resumeAt then s
    else
      let s := s.setFeed f { x with resume := rest, resumeAt := s.et + nsMs }
      let o := s.outlet k
      if !o.shed || !s.wanted k || s.inertOut k then s
      else
        let c := s.cfgOf k
        let b := s.bridge (k - 56)
        let held := s.protHeld k || (decide (56 ≤ k) && b.xlock)
        let amount := if held then c.steady else c.largest
        if !s.admits f o.shedAcct amount then
          let s := s.refused k o.shedAcct 3 amount
          s.setFeed f { s.feed f with resume := rest ++ [k] }
        else
          let s := s.setOutlet k { o with shed := false, acct := some o.shedAcct }
          if held then s
          else if k < 56 then
            if (s.chan k).cmd == 2 then s.outArm k (some o.shedAcct) true false else s.outOn k (some o.shedAcct) true false
          else if b.stalled == b.cmd then s
          else
            let s := s.outOn k (some o.shedAcct) true false
            s.setBridge (k - 56) { s.bridge (k - 56) with out := b.cmd }

/-! ### Thermal model (R270 to R273) -/

/-- The module limit at a cold-plate temperature in 0.1 °C (R270). -/
def pmaxAt (tcp : Int) : Nat := (120000 - 240 * (tcp - 750).toNat)

/-- Entry conditions of step `n` (1 or 2, and 3 as 2), as cause bits (R272, R277). -/
def State.entryBits (s : State) (n : Nat) : Nat :=
  let p := s.pwr
  if n ≤ 1 then
    pack [(0, 1, b2n (decide (72000 ≤ p.psw))), (1, 1, b2n (decide (9 * p.pmax ≤ 10 * p.pmod))),
      (2, 1, b2n (decide (850 ≤ p.tcp))), (3, 1, b2n (decide (1150 ≤ p.tjc)))]
  else
    pack [(0, 1, b2n (decide (80000 ≤ p.psw))), (1, 1, b2n (decide (p.pmax ≤ p.pmod))), (2, 1, b2n (decide (880 ≤ p.tcp))),
      (3, 1, b2n (decide (1200 ≤ p.tjc)))]

/-- The leave condition of step `n` (R272). -/
def State.leaveOk (s : State) (n : Nat) : Bool :=
  let p := s.pwr
  if n ≤ 1 then
    decide (p.psw < 64000) && decide (10 * p.pmod < 8 * p.pmax) && decide (p.tcp < 820) && decide (p.tjc < 1100)
  else decide (p.psw < 72000) && decide (10 * p.pmod < 9 * p.pmax) && decide (p.tcp < 850) && decide (p.tjc < 1150)

/-- The derating step changes: shedding, limits, CAUSE_TEMP and events (R269, R273). -/
def State.stepTo (s : State) (n : Nat) : State :=
  let old := s.pwr.step
  let rise := decide (old < n)
  let cause := if rise then s.entryBits n else 0
  let s' := { s with
    pwr := { s.pwr with
      step := n, stepCause := cause, stepAt := s.et
      leaveAt := if s.leaveOk n then some s.et else none
      stepCount := if rise then sat16 s.pwr.stepCount else s.pwr.stepCount }
    dev := { s.dev with causeTemp := n != 0 } }
  let s' := s'.raise [0] 2 1 (pack [(0, 2, n), (2, 2, old), (4, 4, cause)])
  let s' := if s'.fraction == s.fraction then s' else s'.raise [0] 3 4 s'.fraction
  ((s'.reshed s 0 2).reshed s 1 2).degrade

/-- The 1 ms evaluation: the switch loss over the last second, the rails' power, and the two temperatures in 0.1 °C. -/
def State.thermalEval (s : State) (psw rail : Nat) (tcp tjc : Int) : State :=
  let p := s.pwr
  let s := { s with pwr := { p with
    psw := psw, pmod := psw + rail, pmax := pmaxAt tcp, tcp := tcp, tjc := tjc, pswPeak := max p.pswPeak psw } }
  let want := if s.entryBits 2 != 0 then 2 else if s.entryBits 1 != 0 then 1 else 0
  if p.step < want then s.stepTo want
  else
    let leave := if s.leaveOk p.step then some (p.leaveAt.getD s.et) else none
    { s with pwr := { s.pwr with leaveAt := leave } }

/-- The leave condition has held for 10 s: the step falls by one. -/
def State.stepFall (s : State) : State :=
  match s.pwr.leaveAt with
  | some t => if s.pwr.step != 0 && decide (t + 10 * nsS ≤ s.et) then s.stepTo (s.pwr.step - 1) else s
  | none => s

/-- Step 2 held for 1 s with one of its entry conditions still true: step 3. -/
def State.step3Entry (s : State) : State :=
  if s.pwr.step == 2 && decide (s.pwr.stepAt + nsS ≤ s.et) && s.entryBits 2 != 0 then s.stepTo 3 else s

/-! ### Status pages (R278, R279) -/

def State.shedBits (s : State) (f : Nat) : Nat := mapBits (fun c => s.classShed f (c + 1)) 3

def State.pwrPage0 (s : State) : List Nat :=
  let p := s.pwr
  [ pack [(0, 2, p.step), (4, 4, p.stepCause), (8, 3, s.shedBits 0), (12, 3, s.shedBits 1)], p.psw, p.pmod, p.pmax,
    pack [(0, 16, twos 16 p.tcp), (16, 16, twos 16 p.tjc)], pack [(0, 16, p.stepCount), (16, 16, p.railFaults)], p.pswPeak ]

def State.feedWords (s : State) (f : Nat) : List Nat :=
  let x := s.feed f
  [ pack [(0, 16, x.v), (16, 16, x.i)],
    pack [(0, 1, b2n x.sag), (1, 1, b2n x.crank), (2, 1, b2n x.uv), (3, 1, b2n x.uvNow), (4, 1, b2n x.overload),
      (5, 1, b2n x.overvolt)],
    pack [(0, 16, x.sagTh), (16, 16, x.crankTh)], pack [(0, 16, x.vMin), (16, 16, x.iPeak)],
    pack [(0, 16, s.acctLimit f 0), (16, 16, s.acctLimit f 1)], pack [(0, 16, s.charge f 0), (16, 16, s.charge f 1)],
    pack [(0, 16, x.refusals), (16, 16, x.sagCount)], pack [(0, 16, x.uvCount), (16, 16, x.overloads)] ]

/-! ### Opcodes (R280 to R283) -/

def pwrGetStatusSpec : OpSpec where
  code := 0x0500
  comp := .S
  issuer := .any
  len := lenIs 0
  act := fun _ s => okWith (wordBytes (s.feedWords 0 ++ s.feedWords 1)) s

def pwrGetThermalSpec : OpSpec where
  code := 0x0504
  comp := .S
  issuer := .any
  len := lenIs 0
  act := fun _ s => okWith (wordBytes s.pwrPage0) s

/-- The thresholds that a PWR_SET_SAG_THRESHOLD block leaves: FEED12 sag, crank, FEED48 sag (R281). -/
def newThresholds (ps : List Byte) (s : State) : Nat × Nat × Nat :=
  let keep := fun (v old : Nat) => if v == 0 then old else v
  (keep (u16 ps 0) (s.feed 0).sagTh, keep (u16 ps 2) (s.feed 0).crankTh, keep (u16 ps 4) (s.feed 1).sagTh)

/-- The limits of R276. -/
def thresholdsOk (t : Nat × Nat × Nat) : Bool :=
  decide (700 ≤ t.1) && decide (t.1 ≤ 2400) && decide (450 ≤ t.2.1) && decide (t.2.1 ≤ 800) && decide (t.2.1 + 50 ≤ t.1) &&
    decide (3000 ≤ t.2.2) && decide (t.2.2 ≤ 4000)

def pwrSetSagThresholdSpec : OpSpec where
  code := 0x0501
  comp := .O
  cls := 4
  issuer := .p0
  len := lenIs 8
  fields := fun ps _ => zeroAt ps 6 2
  check := fun pk s => if thresholdsOk (newThresholds pk.params s) then stOk else 0x0700
  act := fun pk s =>
    let t := newThresholds pk.params s
    let s := s.setFeed 0 { s.feed 0 with sagTh := t.1, crankTh := t.2.1 }
    ok (s.setFeed 1 { s.feed 1 with sagTh := t.2.2 })

/-- The unlatch level of a feed, 10 mV (R259, R260). -/
def unlatchLevel (f : Nat) : Nat := if f == 0 then 650 else 2600

def pwrUnlatchUvSpec : OpSpec where
  code := 0x0502
  comp := .O
  cls := 4
  issuer := .p0
  len := lenIs 4
  fields := fun ps _ => decide (u32 ps 0 < 4) && u32 ps 0 != 0
  check := fun pk s =>
    let sel := [0, 1].filter fun f => (u32 pk.params 0).testBit f
    if sel.any fun f => !(s.feed f).uv then 0x0702
    else if sel.any fun f => (s.feed f).v ≤ unlatchLevel f then 0x0701 else stOk
  act := fun pk s =>
    let sel := [0, 1].filter fun f => (u32 pk.params 0).testBit f
    ok (sel.foldl (fun s f => (s.setFeed f { s.feed f with uv := false }).raise (s.feedTo f) f 6 (s.feed f).v) s)

/-- The entry of channel or leg `i` in the ledger's result (R283). -/
def State.ledgerEntry (s : State) (i : Nat) : Nat :=
  let k := outletOf i
  if 56 ≤ i && i % 2 == 1 then 0
  else pack [(0, 15, s.outCharge k 0 + s.outCharge k 1), (15, 1, (s.outlet k).acct.getD 0)]

def pwrGetLedgerSpec : OpSpec where
  code := 0x0503
  comp := .S
  issuer := .p0
  len := lenIs 0
  act := fun _ s =>
    let accts := [s.acctLimit 0 0, s.acctLimit 0 1, s.charge 0 0, s.charge 0 1, s.acctLimit 1 0, s.acctLimit 1 1,
      s.charge 1 0, s.charge 1 1]
    okWith ((accts ++ (upFrom 0 68).map s.ledgerEntry).flatMap (leBytes 2)) s

end Sys2Proof.Machine
end

