-- ==== Sys2Proof/Machine/Dio.lean ====
section
/-!
DEFINITION. Sys2Proof/Machine/Dio.lean: the hardened inputs and the isolated bank (R387 to R407): filter and debounce, wire
break, barrier link, isolated outputs, the DIO_ pages and opcodes.
-/

namespace Sys2Proof.Machine

/-! ### Inputs: DI n is number n, XI n is 64 + n -/

def State.din (s : State) (n : Nat) : Din := s.dio.ins.val {} n

def State.setDin (s : State) (n : Nat) (x : Din) : State := { s with dio := { s.dio with ins := s.dio.ins.put {} n x } }

/-- Event source of an input (R86, R401). -/
def dinSrc (n : Nat) : Nat := if n < 64 then 0x60 + n else 0xA0 + (n - 64)

def State.dinOwner (s : State) (n : Nat) : Nat := if n < 64 then s.owner clsDi n else s.owner clsXi (n - 64)

def State.dinTo (s : State) (n : Nat) : List Nat := [s.dinOwner n, 0]

/-- Recipients of a bank-wide event (R401). -/
def State.bankTo (s : State) : List Nat :=
  0 :: ((upFrom 0 16).map fun n => s.owner clsXi n) ++ ((upFrom 0 8).map fun n => s.owner clsXo n)

/-- The input ignores its samples: a DI while F is low, an XI while the barrier link is lost (R392, R395). -/
def State.dinHeld (s : State) (n : Nat) : Bool := if n < 64 then s.dio.feedLow else !s.dio.barrierOk

/-! ### Filter and debounce (R389 to R392) -/

/-- A qualified change: level, count, stamp and event (R391, R401). While the input reads its break value there is none. -/
def State.qualify (s : State) (n : Nat) : State :=
  let x := s.din n
  let x := { x with qual := x.filt, debUntil := none, pendEdges := 0 }
  if x.wb != 0 then s.setDin n x
  else
    let x := { x with edges := wrap32 x.edges, lastEdge := x.stamp }
    if !s.active || !(if x.qual then x.rise else x.fall) then s.setDin n x
    else if 16 ≤ x.canvasEdges then s.setDin n { x with suppressed := sat16 x.suppressed }
    else (s.setDin n { x with canvasEdges := x.canvasEdges + 1 }).raiseAt x.stamp (s.dinTo n) (dinSrc n) 1 (b2n x.qual)

/-- The debounce that a filtered level leaves: none, a change at once, or one that runs. -/
def State.debounceOf (s : State) (n : Nat) : State :=
  let x := s.din n
  if x.filt == x.qual then s.setDin n { x with debUntil := none, chatter := satAdd 16 x.chatter x.pendEdges, pendEdges := 0 }
  else if x.debounce == 0 then s.qualify n
  else s.setDin n { x with debUntil := some (s.et + x.debounce * 1000) }

/-- The counter filter of an input reaches its threshold at the level `level`; `first` is the sample at which the counter
left 0. Before anything of an input is known, this is its first sample: both levels, no edge. -/
def State.filteredEdge (s : State) (n : Nat) (level : Bool) (first : Nat) : State :=
  let x := s.din n
  if 80 ≤ n || !x.enabled || !s.powered || s.dinHeld n || s.et < first then s
  else if !x.sampled then s.setDin n { x with sampled := true, raw := level, filt := level, qual := level, cnt := 0 }
  else if x.filt == level then s
  else
    let s := s.setDin n { x with raw := level, filt := level, cnt := 0, stamp := first, pendEdges := x.pendEdges + 1 }
    let s := s.debounceOf n
    if 64 ≤ n then s
    else s.triggerWhere (fun t => t.kind == 0 && t.source == n && t.edges.testBit (if level then 0 else 1)) (dinSrc n) first
      (b2n level)

/-- The filtered level has held for the debounce time. -/
def State.diEdge (s : State) (n : Nat) : State :=
  let x := s.din n
  match x.debUntil with
  | none => s
  | some t => if 80 ≤ n || s.dinHeld n || s.et < t || x.filt == x.qual then s else s.qualify n

/-- Samples are ignored from here on: a running debounce is cancelled. -/
def State.dinHold (s : State) (lo hi : Nat) : State :=
  let hold := fun (n : Nat) (x : Din) => if lo ≤ n && n < hi then { x with debUntil := none } else x
  { s with dio := { s.dio with ins := s.dio.ins.mapV hold } }

/-- Samples count again: the counter restarts, and a filtered level that differs from the qualified one is debounced from
here on. -/
def State.dinResume (s : State) (lo hi : Nat) : State :=
  let resume := fun (n : Nat) (x : Din) =>
    if lo ≤ n && n < hi then
      { x with cnt := 0, debUntil := if x.sampled && x.filt != x.qual then some (s.et + x.debounce * 1000) else none }
    else x
  { s with dio := { s.dio with ins := s.dio.ins.mapV resume } }

/-- F falls below 6.0 V (R392). -/
def State.diFeedLow (s : State) (v : Nat) : State :=
  if !s.powered || 600 ≤ v then s
  else
    let s := s.feedV 0 v
    if s.dio.feedLow then s
    else ({ s with dio := { s.dio with feedLow := true, feedLowAt := s.et } }).dinHold 0 64

/-- F has stayed above 6.5 V for 1 ms. -/
def State.diResume (s : State) (v : Nat) : State :=
  if !s.powered || v ≤ 650 then s
  else
    let s := s.feedV 0 v
    if !s.dio.feedLow || s.et < s.dio.feedLowAt + nsMs then s
    else ({ s with dio := { s.dio with feedLow := false } }).dinResume 0 64

/-- Entry to RUN: an enabled input of which no sample has been reported reads 0 (R389). -/
def State.dinStart (s : State) : State :=
  let first := fun (n : Nat) (x : Din) => if x.enabled && (decide (n < 64) || s.dio.barrierOk) then { x with sampled := true } else x
  { s with dio := { s.dio with ins := s.dio.ins.mapV first } }

/-! ### Wire break (R393, R402, R406) -/

/-- Whether a mean lies in the break band, and in the short band, of a mode at a feed voltage in 10 mV (R387). -/
def inBreak (mode f measure : Nat) : Bool :=
  match mode with
  | 0 => decide (f ≤ measure + 150)
  | 1 => decide (measure ≤ 150)
  | _ => decide (measure < 20)

def inShort (mode measure : Nat) : Bool := mode == 2 && decide (300 < measure)

/-- The end of a millisecond for a DI: its mean, and the runs of means in each band; suspended while FEED12 is in sag. -/
def State.dinMs (s : State) (n measure : Nat) : State :=
  let x := s.din n
  if 64 ≤ n || !x.enabled then s
  else
    let x := { x with measure := measure }
    let on := x.wbEn && !(s.feed 0).sag
    let b := inBreak x.mode (s.feed 0).v measure
    let h := inShort x.mode measure
    s.setDin n { x with
      brkRun := if on && b then x.brkRun + 1 else 0
      shortRun := if on && h then x.shortRun + 1 else 0
      okRun := if on && !b && !h then x.okRun + 1 else 0 }

/-- An input enters BREAK or SHORT. -/
def State.wireBreak (s : State) (n : Nat) : State :=
  let x := s.din n
  let st := if x.breakFilter ≤ x.brkRun then 1 else if x.breakFilter ≤ x.shortRun then 2 else 0
  if 64 ≤ n || !x.wbEn || x.breakFilter == 0 || st == 0 || st == x.wb then s
  else
    let s := s.setDin n { x with
      held := if x.wb == 0 then x.qual else x.held, wb := st, breaks := sat16 x.breaks }
    s.raise (s.dinTo n) (dinSrc n) 2 (pack [(0, 2, st), (16, 16, x.measure)])

/-- An input returns to OK. -/
def State.wireOk (s : State) (n : Nat) : State :=
  let x := s.din n
  if 64 ≤ n || !x.wbEn || x.wb == 0 || x.okRun < x.breakFilter then s
  else (s.setDin n { x with wb := 0 }).raise (s.dinTo n) (dinSrc n) 3 (pack [(16, 16, x.measure)])

/-- The inputs of a wire-break test: its map. -/
def testMap (o : Outst) : Nat := u64 o.pk.params 0

/-- The end of its window. -/
def testEnd (o : Outst) : Nat := o.startEt + u16 o.pk.params 8 * nsMs

/-- Wire-break tests running. -/
def State.diTests (s : State) : List Outst := s.cmd.async.filter fun o => o.code == 0x0B03 && o.started

/-- Input `n` is under test. -/
def State.underTest (s : State) (n : Nat) : Bool := s.diTests.any fun o => (testMap o).testBit n

/-- The window of the test that began first, among those whose window is over, has ended: `skipped`, `brk` and `shrt` are
the inputs skipped under R392, and those found in the break and short bands. -/
def State.testDone (s : State) (skipped brk shrt : Nat) : State :=
  match s.diTests.find? fun o => decide (testEnd o ≤ s.et) with
  | none => s
  | some o =>
    let tested := mapBits (fun n => (testMap o).testBit n && !skipped.testBit n) 64
    let found := fun (m : Nat) => mapBits (fun n => tested.testBit n && m.testBit n) 64
    let short := mapBits (fun n => (found shrt).testBit n && (s.din n).mode == 2) 64
    s.finishAsync o stOk (leBytes 8 tested ++ leBytes 8 (found brk) ++ leBytes 8 short)

/-! ### Isolated outputs (R395 to R397) -/

def State.xo (s : State) (n : Nat) : Xo := s.dio.xos.val {} n

def State.setXo (s : State) (n : Nat) (x : Xo) : State := { s with dio := { s.dio with xos := s.dio.xos.put {} n x } }

/-- Isolated outputs are inert (R29, R32 row 1). -/
def State.xoInert (s : State) : Bool := !s.active || !s.dev.armed || (s.feed 0).uv

/-- The level that the field side drives for a commanded level: nothing without field supply or in fault. -/
def State.xoDrive (s : State) (x : Xo) (level : Bool) : Bool := level && s.dio.xvsOk && !x.fault

/-- An isolated output takes a commanded level: the field safe state ends (R395). -/
def State.xoPut (s : State) (n : Nat) (level : Bool) : State :=
  let x := s.xo n
  s.setXo n { x with cmd := level, safe := 0, holdUntil := none, out := s.xoDrive x level }

/-- XO_SET or DIO_SET_XO reaches an output; it is lost with the link (R395). -/
def State.xoSet (s : State) (n : Nat) (level : Bool) : State :=
  if !(s.xo n).enabled || s.xoInert then s
  else if !s.dio.barrierOk then { s with dio := { s.dio with xoLost := sat16 s.dio.xoLost } }
  else s.xoPut n level

/-- The partition safe state of an output (R397); the field safe state in force goes before it. -/
def State.xoSafe (s : State) (n : Nat) : State :=
  let x := s.xo n
  if !x.enabled then s
  else
    let level := if x.safePart == 0 then false else if x.safePart == 2 then !s.xoInert else x.cmd
    let field := x.safe == 2 || !s.dio.barrierOk
    s.setXo n { x with
      cmd := level, safe := if field then x.safe else 1
      out := if field then x.out else if x.safePart == 1 then x.out else s.xoDrive x level }

/-- The barrier link is lost: XI levels freeze, every output goes to its field safe state (R395, R397). -/
def State.barrierLost (s : State) (logicSide viso : Bool) : State :=
  if !s.powered || !s.dio.barrierOk then s
  else
    let field := fun (_ : Nat) (x : Xo) =>
      if !x.enabled then x
      else if x.safeField == 1 then { x with safe := 2, holdUntil := some (s.et + 500 * nsMs) }
      else { x with safe := 2, holdUntil := none, out := false }
    let s := { s with dio := { s.dio with
      barrierOk := false, lostAt := s.et, losses := sat16 s.dio.losses, xos := s.dio.xos.mapV field } }
    (s.dinHold 64 80).raise s.bankTo 0xB0 3 (pack [(0, 1, b2n logicSide), (1, 1, b2n viso)])

/-- Sixteen valid frames in both directions. -/
def State.barrierRestored (s : State) : State :=
  if !s.powered || s.dio.barrierOk then s
  else
    let lost := (s.et - s.dio.lostAt) / 1000
    let s := { s with dio := { s.dio with barrierOk := true } }
    (s.dinResume 64 80).raise s.bankTo 0xB0 4 (clip 32 lost)

/-- The end of a field safe hold. -/
def State.fieldHoldEnd (s : State) (n : Nat) : State :=
  let x := s.xo n
  match x.holdUntil with
  | none => s
  | some t => if s.et < t then s else s.setXo n { x with holdUntil := none, out := false }

/-- Recipients of an output's events. -/
def State.xoTo (s : State) (n : Nat) : List Nat := [s.owner clsXo n, 0]

/-- An output above 0.7 A for 50 µs, or at its thermal limit, turns off (R396). The field side reports it over the link. -/
def State.xoFault (s : State) (n current : Nat) (thermal : Bool) : State :=
  let x := s.xo n
  if 8 ≤ n || !x.enabled || !x.out || (!thermal && current ≤ 700) then s
  else
    let s' := s.setXo n { x with
      out := false, fault := true, current := clip 16 current, faults := sat16 x.faults, retryAt := s.et + 100 * nsMs }
    if s.dio.barrierOk then
      s'.raise (s.xoTo n) (0xB0 + n) 1 (pack [(0, 16, clip 16 current), (16, 1, b2n thermal)])
    else s'

/-- A retry of a faulted output while it is commanded on. -/
def State.xoRetry (s : State) (n : Nat) (holds : Bool) : State :=
  let x := s.xo n
  if 8 ≤ n || !x.fault || !x.cmd || s.et < x.retryAt || s.xoInert || x.safe == 2 || !s.dio.xvsOk then s
  else if holds then (s.setXo n { x with fault := false, out := true }).raise (s.xoTo n) (0xB0 + n) 2 0
  else s.setXo n { x with retryAt := s.et + 100 * nsMs }

/-- XVS falls below 18 V (10 mV units). -/
def State.xvsLost (s : State) (v : Nat) : State :=
  if !s.powered || !s.dio.xvsOk || 1800 ≤ v then s
  else
    let off := fun (_ : Nat) (x : Xo) => { x with out := false }
    ({ s with dio := { s.dio with xvsOk := false, xos := s.dio.xos.mapV off } }).raise s.bankTo 0xB0 5 v

/-- XVS is back: outputs outside their field safe state follow their commanded states. -/
def State.xvsReturn (s : State) (v : Nat) : State :=
  if !s.powered || s.dio.xvsOk || v < 1800 then s
  else
    let s := { s with dio := { s.dio with xvsOk := true } }
    let on := fun (_ : Nat) (x : Xo) => if x.safe == 2 || s.xoInert then x else { x with out := s.xoDrive x x.cmd }
    { s with dio := { s.dio with xos := s.dio.xos.mapV on } }

/-- A canvas boundary: the sixteen events of R401 count anew. -/
def State.dinBoundary (s : State) : State :=
  let reset := fun (_ : Nat) (x : Din) => { x with canvasEdges := 0 }
  { s with dio := { s.dio with ins := s.dio.ins.mapV reset } }

/-! ### Status pages (R402) -/

def State.dioFlags (s : State) : Nat :=
  pack [(0, 1, b2n s.dio.feedLow), (1, 1, b2n s.dio.barrierOk), (2, 1, b2n s.dio.xvsOk),
    (3, 1, b2n ((upFrom 0 8).any fun n => (s.xo n).safe != 0))]

def State.dinLevels (s : State) (lo n : Nat) : Nat := mapBits (fun i => s.inLevel (lo + i)) n
def State.dinBreaks (s : State) : Nat := mapBits (fun i => (s.din i).wb != 0) 64
def State.xoOuts (s : State) : Nat := mapBits (fun i => (s.xo i).out) 8

def State.dioPage0 (s : State) : List Nat :=
  let l := s.dinLevels 0 64
  let b := s.dinBreaks
  [ lo32 l, hi32 l, pack [(0, 16, s.dinLevels 64 16), (16, 8, s.xoOuts)], lo32 b, hi32 b, s.dioFlags,
    pack [(0, 16, s.dio.losses), (16, 16, s.dio.crcErrors)], s.dio.xoLost ]

def State.dinWords (s : State) (n : Nat) : List Nat :=
  let x := s.din n
  [ pack [(0, 1, b2n (s.inLevel n)), (1, 1, b2n x.filt), (2, 1, b2n x.raw), (4, 2, x.mode), (6, 2, x.wb),
      (8, 1, b2n (s.underTest n))],
    x.measure, x.edges, pack [(0, 16, x.chatter), (16, 16, x.suppressed)], if n < 64 then x.breaks else 0,
    lo32 x.lastEdge, hi32 x.lastEdge ]

def State.xoWords (s : State) (n : Nat) : List Nat :=
  let x := s.xo n
  [ pack [(0, 1, b2n x.cmd), (1, 1, b2n x.out), (2, 1, b2n x.fault), (3, 1, b2n (x.safe != 0))],
    pack [(0, 16, x.current), (16, 16, x.faults)] ]

/-! ### Opcodes (R403 to R406) -/

def dioGetInputsSpec : OpSpec where
  code := 0x0B00
  comp := .S
  issuer := .any
  len := lenIs 0
  act := fun pk s =>
    let p := actsAs pk
    let mine := fun (cls n : Nat) => p == 0 || s.owner cls n == p
    let di := fun (f : Nat → Bool) => mapBits (fun n => f n && mine clsDi n) 64
    okWith (leBytes 8 (di fun n => s.inLevel n) ++
      leBytes 2 (mapBits (fun n => s.inLevel (64 + n) && mine clsXi n) 16) ++
      leBytes 1 (mapBits (fun n => (s.xo n).out && mine clsXo n) 8) ++ leBytes 1 s.dioFlags ++
      leBytes 8 (di fun n => (s.din n).wb != 0) ++ leBytes 4 0 ++ leBytes 8 s.et) s

def dioOwners (ps : List Byte) (s : State) : List Nat := [s.dinOwner (u16 ps 0)]

/-- The smallest k of an input (R389, R394). -/
def kMin (n : Nat) : Nat := if n < 16 then 2 else 1

def dioConfigSpec : OpSpec where
  code := 0x0B01
  comp := .O
  cls := 10
  issuer := .own
  len := lenIs 16
  fields := fun ps _ =>
    let n := u16 ps 0
    let sel := u8 ps 2
    decide (n < 80) && decide (sel < 128) && zeroAt ps 13 3 &&
      (if sel.testBit 0 then decide (1 ≤ u8 ps 3) && decide (u8 ps 3 ≤ 15) else zeroAt ps 3 1) &&
      (if sel.testBit 1 then decide (kMin n ≤ u8 ps 4) && decide (u8 ps 4 ≤ 15) else zeroAt ps 4 1) &&
      (if sel.testBit 3 then decide (u8 ps 5 < 4) else zeroAt ps 5 1) &&
      (sel.testBit 2 || zeroAt ps 6 2) &&
      (if sel.testBit 5 then decide (20 ≤ u16 ps 8) && decide (u16 ps 8 ≤ 250) else zeroAt ps 8 2) &&
      (if sel.testBit 4 then decide (u16 ps 10 ≤ 1000) else zeroAt ps 10 2) &&
      (if sel.testBit 6 then decide (u8 ps 12 ≤ 1) else zeroAt ps 12 1)
  owners := dioOwners
  key := fun ps => u16 ps 0 + 1
  check := fun pk s =>
    let n := u16 pk.params 0
    let sel := u8 pk.params 2
    let x := s.din n
    if !x.enabled then 0x0D00
    else if (sel.testBit 0 && (decide (64 ≤ n) || x.mode == 2)) || (sel.testBit 4 && decide (64 ≤ n)) ||
        (sel.testBit 5 && (decide (64 ≤ n) || x.mode != 2)) || (sel.testBit 6 && decide (n < 64)) then 0x0D01
    else stOk
  act := fun pk s =>
    let ps := pk.params
    let n := u16 ps 0
    let sel := u8 ps 2
    let x := s.din n
    let pinned := s.gw.triggers.any fun e => e.2.used && e.2.kind == 0 && e.2.source == n
    if sel.testBit 1 && pinned && decide (x.imageK < u8 ps 4) then fail stContract s
    else
      let x := if sel.testBit 0 then { x with wetting := u8 ps 3 } else x
      let x := if sel.testBit 1 then { x with k := u8 ps 4, cnt := 0 } else x
      let x := if sel.testBit 2 then { x with debounce := u16 ps 6 } else x
      let x := if sel.testBit 3 then { x with rise := (u8 ps 5).testBit 0, fall := (u8 ps 5).testBit 1 } else x
      let x := if sel.testBit 4 then
        { x with
          breakFilter := u16 ps 10, wbEn := u16 ps 10 != 0, brkRun := 0, shortRun := 0, okRun := 0
          wb := if u16 ps 10 == 0 then 0 else x.wb } else x
      let x := if sel.testBit 5 then { x with sensorThr := u16 ps 8 } else x
      let x := if sel.testBit 6 then { x with xiType := u8 ps 12 } else x
      ok (s.setDin n x)

def dioSetXoSpec : OpSpec where
  code := 0x0B02
  comp := .O
  cls := 10
  issuer := .own
  len := lenIs 4
  fields := fun ps _ => decide (u8 ps 0 < 8) && decide (u8 ps 1 ≤ 1) && zeroAt ps 2 2
  owners := fun ps s => [s.owner clsXo (u8 ps 0)]
  key := fun ps => 0x100 + u8 ps 0
  check := fun pk s => if (s.xo (u8 pk.params 0)).enabled then stOk else 0x0D00
  act := fun pk s =>
    if s.xoInert then fail 0x0D02 s
    else if !s.dio.barrierOk then fail 0x0D03 (s.xoSet (u8 pk.params 0) false)
    else ok (s.xoSet (u8 pk.params 0) (u8 pk.params 1 == 1))

/-- The inputs that a DIO_WIREBREAK_TEST names. -/
def testInputs (ps : List Byte) : List Nat := (upFrom 0 64).filter fun n => (u64 ps 0).testBit n

def dioWirebreakTestSpec : OpSpec where
  code := 0x0B03
  comp := .A
  issuer := .own
  len := lenIs 16
  fields := fun ps _ => decide (1 ≤ u16 ps 8) && decide (u16 ps 8 ≤ 1000) && zeroAt ps 10 6
  owners := fun ps s => (testInputs ps).map fun n => s.owner clsDi n
  check := fun pk s =>
    if (testInputs pk.params).any fun n => !(s.din n).enabled then 0x0D00
    else if (testInputs pk.params).any fun n => s.underTest n then 0x0D04 else stOk
  act := fun _ s => later s

end Sys2Proof.Machine
end

