-- ==== Sys2Proof/Machine/Protect.lean ====
section
/-!
DEFINITION. Sys2Proof/Machine/Protect.lean: when the protection machines of channels 0–55 and legs 56–67 take their
transitions (R207, R210, R212 to R219, R242, R243, R247).
-/

namespace Sys2Proof.Machine

/-- Channel or leg `i` exists and its outlet is enabled. -/
def State.protLive (s : State) (i : Nat) : Bool := s.active && decide (i < 68) && (s.cfgOf (outletOf i)).enabled

/-- OC_TRIP: the machine permits the output, the output conducts and the current, 0.1 A, exceeds the trip level (R213). -/
def State.ocTripRow (s : State) (i current : Nat) : State :=
  if s.protLive i && (s.prot i).permits && s.conducts i && decide (s.tripLevel i < current) then s.ocTrip i else s

/-- OC_PAUSE_ELAPSED: with a thermal state other than COOL the pause is extended (R215). -/
def State.ocPauseRow (s : State) (i : Nat) : State :=
  let p := s.prot i
  if s.protLive i && p.oc == 1 && decide (p.pauseEnd ≤ s.et) && p.th == 0 then s.ocPauseEnd i else s

/-- OC_RETRY: a deferred retry, or a thermal restart that waits for the ledger, is admitted or meets its bound; one commanded
off is given up (R214, R215). -/
def State.ocRetryRow (s : State) (i : Nat) : State :=
  let p := s.prot i
  let k := outletOf i
  if !s.protLive i then s
  else if p.oc == 2 then
    if !s.wanted k then (s.setProt i { p with oc := 3 }).restoreOut k
    else match s.retryVerdict k p.deferAt true with | some pour => s.ocRetry i pour | none => s
  else
    match p.thWait with
    | none => s
    | some t =>
      if !s.wanted k then s.setProt i { p with thWait := none }
      else
        match s.retryVerdict k t false with
        | some pour => (s.setProt i { p with thWait := none }).outBack k pour
        | none => s

/-- OC_RECOVERED: on without a trip for 1 s after the pour (R215). -/
def State.ocRecovered (s : State) (i : Nat) : State :=
  let p := s.prot i
  match p.okSince with
  | none => s
  | some t =>
    if s.protLive i && p.oc == 3 && decide (t + nsS ≤ s.et) then
      (s.setProt i { p with oc := 0, att := 0 }).raise (s.outTo (outletOf i)) (0x10 + i) 4 (pack [(0, 4, p.att)])
    else s

/-- POUR_STEP_END of the outlet of channel or leg `i` (R212). -/
def State.pourRow (s : State) (i : Nat) : State :=
  let o := s.outlet (outletOf i)
  if s.protLive i && o.on && o.step != 0 && decide (o.stepEnd ≤ s.et) then s.pourStepEnd (outletOf i) else s

/-- THERMAL_SHUTDOWN: junction at 170 °C or ΔT at 60 K, in 0.1 units (R216). -/
def State.thShutRow (s : State) (i : Nat) (tj dt : Int) : State :=
  if s.protLive i && (s.prot i).th == 0 && (decide (1700 ≤ tj) || decide (600 ≤ dt)) then s.thShutdown i tj dt else s

/-- THERMAL_RESTART: 150 °C and 40 K (R216). -/
def State.thRestartRow (s : State) (i : Nat) (tj dt : Int) : State :=
  if s.protLive i && (s.prot i).th == 1 && decide (tj ≤ 1500) && decide (dt ≤ 400) then s.thRestart i tj dt else s

/-- COOLDOWN_OVERRUN: still HOT 500 ms after the shutdown, once; a contract divergence (R216, R530). -/
def State.cooldownOverrun (s : State) (i : Nat) : State :=
  let p := s.prot i
  if s.protLive i && p.th == 1 && !p.thOver && decide (p.thAt + 500 * nsMs ≤ s.et) then
    let d := (s.et - p.thAt) / nsMs
    ((s.setProt i { p with thOver := true }).raise (s.outTo (outletOf i)) (0x10 + i) 0xC d).fault (0x10 + i) 1 0
      (s.outOwner (outletOf i)) 0xC d 0 0
  else s

/-- PWM_PERIOD_START of channel or leg `i`; both legs of a bridge share its timer (R207, R240). -/
def State.periodRow (s : State) (i : Nat) : State :=
  if !s.protLive i then s else if i < 56 then s.loadPeriod i else s.bridgePeriod (outletOf i - 56)

/-- SENSE_MILLISECOND: the sense words of a channel or leg with its open-load or stall filter, or the measure of a digital
input (R210, R219, R247, R402). -/
def State.senseMs (s : State) (i : Nat) (m : SenseMs) : State :=
  if !s.active then s
  else if m.di then s.dinMs i m.measure
  else if 68 ≤ i then s
  else
    let used := i < 56 && s.monitored i && 20 ≤ m.onCodes
    let s := s.setProt i { s.prot i with sense := m.code, avg := m.avg, senseOn := if used then m.onMean else 0 }
    if i < 56 then s.olMs i m.onMean m.onCodes else s.stallMs i m.avg m.drove

/-- OPEN_LOAD: below the threshold for the filter time (R219). -/
def State.openLoad (s : State) (i : Nat) : State :=
  let c := s.chan i
  if i < 56 && c.ol == 2 && decide (c.olFilter ≤ c.olRun) then
    (s.setChan i { c with ol := 3, olRun := 0, olOk := 0 }).raise (s.outTo i) (0x10 + i) 8 (pack [(0, 16, c.olMean)])
  else s

/-- OPEN_LOAD_CLEARED: above 1.125 times the threshold for the filter time (R219). -/
def State.openLoadCleared (s : State) (i : Nat) : State :=
  let c := s.chan i
  if i < 56 && c.ol == 3 && decide (c.olFilter ≤ c.olOk) then
    (s.setChan i { c with ol := 1, olRun := 0, olOk := 0 }).raise (s.outTo i) (0x10 + i) 9 (pack [(0, 16, c.olMean)])
  else s

/-- STALL: the filter length is reached (R247). -/
def State.stallRow (s : State) (b : Nat) : State :=
  let x := s.bridge b
  if s.active && decide (b < 6) && x.stallEn && decide (x.stallFilter ≤ x.stallRun) && (x.out == 1 || x.out == 2) then s.stall b
  else s

/-- XCOND_FAULT of an enabled bridge (R242). -/
def State.xcondRow (s : State) (b leg side : Nat) : State :=
  if s.active && decide (b < 6) && (s.bridge b).cfg.enabled && !(s.bridge b).xlock && decide (leg ≤ 1) && decide (side ≤ 1) then
    s.xcondFault b leg side
  else s

/-- SHED_RESUME of a feed (R268). -/
def State.shedRow (s : State) (f : Nat) : State := if s.active && decide (f ≤ 1) then s.shedResume f else s

end Sys2Proof.Machine
end

