-- ==== Sys2Proof/Machine/Ports.lean ====
section
/-!
DEFINITION. Sys2Proof/Machine/Ports.lean: the backbone, edge and multidrop ports (R321 to R332): link states, PLCA, TC10
sleep and wake, cable diagnostics, and the PRT_ opcodes.
-/

namespace Sys2Proof.Machine

/-- A port leaves UP for another state: copies dropped, reception cut (R285, R327). -/
def State.portLeave (s : State) (p st : Nat) : State :=
  let s := s.setPrt p { s.prtOf p with st := st, sleptAt := s.et, plcaOk := false, alone := false, beacons := 0, sleepDue := none }
  s.portFlush p

/-- A port goes to OFF after the zeroization of R307. -/
def State.portOff (s : State) (p cause : Nat) : State :=
  if (s.prtOf p).st == 0 then s else (s.zeroize p cause).portLeave p 0

/-- A port goes to ASLEEP after the zeroization of R307 (R327). -/
def State.portSleep (s : State) (p cause : Nat) : State :=
  let s := (s.zeroize p cause).portLeave p 3
  s.setPrt p { s.prtOf p with sleeps := sat16 (s.prtOf p).sleeps }

/-- Every BP, EP and SG port through OFF and back to TRAINING, out of PHY_FAULT too (R61, R323). -/
def State.portsRetrain (s : State) : State :=
  (upFrom 0 16).foldl (fun s p =>
    let s := s.portOff p 3
    if (s.prtOf p).cfg.enabled then s.portTrain p else s) s

/-! ### Link (R323) -/

def State.linkUp (s : State) (p : Nat) : State :=
  let x := s.prtOf p
  if x.st != 1 then s
  else
    let r := if p < 12 then s.fresh else (0, s)
    let s := r.2
    let s := s.setPrt p { x with
      st := 2, fails := 0, plcaOk := decide (12 ≤ p), sqi := r.1 % 8, linkUps := sat16 x.linkUps, lastUp := s.et, heardAt := s.et }
    let s := s.raise (s.portTo p) (portSrc p) 1 x.cfg.speed
    s.finishWhere (fun o => o.on 0x0701 p) stOk []

def State.linkDown (s : State) (p : Nat) (localFault : Bool) : State :=
  if (s.prtOf p).st != 2 then s
  else
    let s := (s.portLeave p 1).portTrain p
    s.raise (s.portTo p) (portSrc p) 2 (b2n localFault)

def State.trainFail (s : State) (p : Nat) : State :=
  let x := s.prtOf p
  if x.st != 1 || 12 ≤ p || s.et < x.trainAt + x.cfg.training * nsMs then s
  else
    (s.setPrt p { x with fails := x.fails + 1, trainFails := sat16 x.trainFails, trainAt := s.et }).raise
      (s.portTo p) (portSrc p) 3 (x.fails + 1)

/-- A PHY die error: PHY_FAULT, reported to the fault collector at once (R323, R531). -/
def State.phyFault (s : State) (p : Nat) : State :=
  if 16 ≤ p || (s.prtOf p).st == 0 then s
  else
    let s := s.portLeave p 4
    s.fault (portSrc p) 9 0 (s.owner clsPort p) 0 p 0 0

/-! ### TC10 (R327) -/

/-- Partner's acknowledgement: ASLEEP. -/
def State.tc10Asleep (s : State) (p : Nat) : State :=
  if (s.prtOf p).sleepDue.isNone then s
  else
    let s := s.portSleep p 1
    let s := { s with wake := { s.wake with tc10Wait := s.wake.tc10Wait.filter (· != p) } }
    (s.raise (s.portTo p) (portSrc p) 4 0).tc10End p stOk

/-- No acknowledgement within 16 ms of a PRT_TC10_SLEEP. -/
def State.tc10Timeout (s : State) (p : Nat) : State :=
  match (s.prtOf p).sleepDue with
  | none => s
  | some due =>
    if s.et < due || s.wake.tc10Wait.contains p then s
    else (s.setPrt p { s.prtOf p with sleepDue := none }).tc10End p 0x0904

/-- The partner requests sleep. -/
def State.tc10Remote (s : State) (p : Nat) : State :=
  let x := s.prtOf p
  if x.st == 2 && x.cfg.tc10 && x.cfg.acceptSleep then
    let s := s.portSleep p 1
    (s.raise (s.portTo p) (portSrc p) 4 1).tc10End p stOk
  else s

/-- A wake of a port, local or remote; a remote one is a transceiver wake (R327). -/
def State.tc10Wake (s : State) (p : Nat) (remote : Bool) : State :=
  let x := s.prtOf p
  if 12 ≤ p || !(x.st == 3 || x.sleepDue.isSome) then s
  else
    let s := s.portWake p remote
    if remote then s.wakeTransceiver (0x40 + p) (s.portTo p) else s

/-! ### PLCA (R325, R326) -/

def State.beaconLost (s : State) (p : Nat) : State :=
  let x := s.prtOf p
  if x.st != 2 || p < 12 || x.cfg.leader || !x.plcaOk then s
  else
    (s.setPrt p { x with plcaOk := false, beacons := 0, lostAt := s.et, beaconLosses := sat16 x.beaconLosses }).raise
      (s.portTo p) (portSrc p) 6 0

def State.beaconReceived (s : State) (p : Nat) : State :=
  let x := s.prtOf p
  if x.st != 2 || p < 12 then s
  else if x.cfg.leader then
    (s.setPrt p { x with collisions := sat16 x.collisions }).raiseOnce (s.portTo p) (portSrc p) 9 0
  else if x.plcaOk then s.setPrt p { x with beacons := 0 }
  else if x.beacons == 0 then s.setPrt p { x with beacons := 1 }
  else
    (s.setPrt p { x with plcaOk := true, beacons := 0 }).raise (s.portTo p) (portSrc p) 7
      (clip 32 ((s.et - x.lostAt) / 1000))

def State.segmentAlone (s : State) (p : Nat) : State :=
  let x := s.prtOf p
  if x.st != 2 || p < 12 || 16 ≤ p || x.cfg.alone == 0 || s.et < x.heardAt + x.cfg.alone * nsMs then s
  else
    (s.setPrt p { x with alone := true, heardAt := s.et }).raise (s.portTo p) (portSrc p) 8 x.cfg.alone

/-! ### Cable diagnostics (R328) -/

def State.diagDone (s : State) (p result dist : Nat) : State :=
  if !(s.outstanding fun o => o.on 0x0703 p) then s
  else
    let d := pack [(0, 2, result), (16, 16, dist)]
    let s := s.setPrt p { s.prtOf p with diagResult := result % 4, diagDist := dist % 65536 }
    let s := s.raise (s.portTo p) (portSrc p) 0xA d
    s.finishWhere (fun o => o.on 0x0703 p) stOk (leBytes 4 d)

/-! ### Status pages (R330) -/

def State.prtWords (s : State) (p : Nat) : List Nat :=
  let x := s.prtOf p
  [ pack [(0, 3, x.st), (4, 2, x.cfg.speed), (8, 1, b2n x.cfg.leader), (9, 1, b2n x.plcaOk), (10, 1, b2n x.alone),
      (12, 3, x.sqi)],
    pack [(0, 16, x.linkUps), (16, 16, x.trainFails)], x.symbols,
    pack [(0, 16, x.collisions), (16, 16, x.beaconLosses)], pack [(0, 16, x.sleeps), (16, 16, x.wakes)],
    pack [(0, 2, x.diagResult), (16, 16, x.diagDist)], lo32 x.lastUp, hi32 x.lastUp ]

/-- MP statistics (R69). -/
def State.mpWords (s : State) : List Nat :=
  [ s.cmd.mpCmdRx, s.cmd.mpAuthFail, s.cmd.mpReplay, mapBits (fun p => (s.cmd.sessions.val {} p).isOpen) 16,
    s.cmd.mpSuppressed ]

/-! ### Opcodes (R331) -/

def portOwners (ps : List Byte) (s : State) : List Nat := [s.owner clsPort (u8 ps 0)]
def portBlock (ps : List Byte) : Bool := decide (u8 ps 0 < 16) && zeroAt ps 1 3
def portEnabled (pk : Packet) (s : State) : Nat := if (s.prtOf (u8 pk.params 0)).cfg.enabled then stOk else 0x0900

def prtGetStatusSpec : OpSpec where
  code := 0x0700
  comp := .S
  issuer := .ownP0
  len := lenIs 4
  fields := fun ps _ => (decide (u8 ps 0 < 16) || u8 ps 0 == 20) && zeroAt ps 1 3
  owners := portOwners
  key := fun ps => u8 ps 0 + 1
  act := fun pk s => okWith (wordBytes (if u8 pk.params 0 == 20 then s.mpWords else s.prtWords (u8 pk.params 0))) s

/-- PRT_ENABLE: OFF to TRAINING; a local wake of a port that sleeps or goes to sleep (R327, R331). -/
def prtEnableSpec : OpSpec where
  code := 0x0701
  comp := .A
  issuer := .own
  len := lenIs 4
  fields := fun ps _ => decide (u8 ps 0 < 16) && zeroAt ps 1 1 && decide (u16 ps 2 ≤ 60000)
  owners := portOwners
  key := fun ps => u8 ps 0 + 1
  check := portEnabled
  act := fun pk s =>
    let p := u8 pk.params 0
    let x := s.prtOf p
    if x.st == 0 then
      let s := s.portTrain p
      if u16 pk.params 2 == 0 then ok s else later s
    else ok (s.portWake p false)

def prtDisableSpec : OpSpec where
  code := 0x0702
  comp := .O
  cls := 6
  issuer := .own
  len := lenIs 4
  fields := fun ps _ => portBlock ps
  owners := portOwners
  key := fun ps => u8 ps 0 + 1
  check := portEnabled
  act := fun pk s => ok (s.portOff (u8 pk.params 0) 0)

def prtCableDiagSpec : OpSpec where
  code := 0x0703
  comp := .A
  issuer := .own
  len := lenIs 4
  fields := fun ps _ => portBlock ps
  owners := portOwners
  key := fun ps => u8 ps 0 + 1
  okState := fun pk s => (s.prtOf (u8 pk.params 0)).st ≤ 2
  check := fun pk s =>
    let p := u8 pk.params 0
    if portEnabled pk s != stOk then 0x0900
    else if 12 ≤ p then 0x0903
    else if (s.prtOf p).st == 2 then 0x0901 else stOk
  act := fun _ s => later s

def prtTc10SleepSpec : OpSpec where
  code := 0x0704
  comp := .A
  issuer := .own
  len := lenIs 4
  fields := fun ps _ => portBlock ps
  owners := portOwners
  key := fun ps => u8 ps 0 + 1
  check := fun pk s =>
    let p := u8 pk.params 0
    if portEnabled pk s != stOk then 0x0900
    else if 12 ≤ p || !(s.prtOf p).cfg.tc10 then 0x0903
    else if (s.prtOf p).st != 2 then 0x0906 else stOk
  act := fun pk s =>
    let p := u8 pk.params 0
    later (s.setPrt p { s.prtOf p with sleepDue := some (s.et + 16 * nsMs) })

/-- The timeout of PRT_ENABLE runs out before UP (R331). -/
def State.prtTrainTimeout (s : State) (p : Nat) : State :=
  s.finishWhere (fun o => o.on 0x0701 p && decide (o.startEt + u16 o.pk.params 2 * nsMs ≤ s.et) && (s.prtOf p).st != 2)
    0x0902 []

end Sys2Proof.Machine
end

