-- ==== Sys2Proof/Machine/Rings.lean ====
section
/-!
DEFINITION. Sys2Proof/Machine/Rings.lean: doorbells, virtual interrupts, the ring engine and event delivery (R425 to R435),
with the RING_ page.
-/

namespace Sys2Proof.Machine

/-! ### Refused and failed accesses (R523 to R525) -/

/-- A posted write of partition `p` fails: its record. -/
def State.postFail (s : State) (p addr size cause path pair seq : Nat) : State :=
  s.postedError ⟨s.et, addr, p, path, cause, size, pair, seq⟩

/-- Doorbell page of a ring (R64). -/
def doorbell (ring off : Nat) : Nat := 0x60000000 + ring * 0x1000 + off

/-! ### Host indices (R431) -/

/-- The host produces on rings of types 0 and 5, the device on the others (R430). -/
def Ring.hostMade (r : Ring) : Bool := r.type == 0 || r.type == 5

/-- A ring event, once per canvas and kind, to the owner and P0 (R441). -/
def State.ringEvent (s : State) (n kind data : Nat) : State := s.raiseOnce [(s.ring n).owner, 0] (0x180 + n) kind data

/-- An index write that moves backwards or beyond the other index. -/
def State.indexError (s : State) (n v : Nat) (producer : Bool) : State :=
  (s.setRing n { s.ring n with indexErrors := sat16 (s.ring n).indexErrors }).ringEvent n 2
    (pack [(0, 16, v), (16, 1, b2n producer)])

/-- Partition `p` writes a doorbell register of ring `n`: `f` where the page is mapped to it. A page of another owner faults
in the translation of the partition (R409), and a partition in reset has its writes discarded (R422). -/
def State.doorbellWrite (s : State) (p n : Nat) (f : State → State) : State :=
  if 128 ≤ n || !s.active || !(s.ring n).enabled || (s.ring n).owner != p || s.inReset p then s else f s

/-- DB_PRODUCER. -/
def State.dbProducer (s : State) (p n v : Nat) : State :=
  s.doorbellWrite p n fun s =>
    let r := s.ring n
    let fill := (v % 65536 + 65536 - r.cons) % 65536
    if !r.hostMade then s
    else if fill < r.fill || r.depth < fill then s.indexError n (v % 65536) true
    else s.setRing n { r with prod := v % 65536, peak := max r.peak fill }

/-- DB_CONSUMER: slots free; where records were dropped, LOST goes first (R85, R432). -/
def State.dbConsumer (s : State) (p n v : Nat) : State :=
  s.doorbellWrite p n fun s =>
    let r := s.ring n
    let taken := (v % 65536 + 65536 - r.cons) % 65536
    if r.hostMade then s
    else if r.fill < taken then s.indexError n (v % 65536) false
    else
      let s := s.setRing n { r with cons := v % 65536 }
      if taken == 0 then s else s.ringFreed n

/-- IRQ_ACK: PENDING_LOST clears, the ring is armed; a device-produced ring that is not empty raises again (R425, R426). -/
def State.irqAck (s : State) (p n v : Nat) : State :=
  if v % 2 == 0 then s
  else
    s.doorbellWrite p n fun s =>
      let r := s.ring n
      let s := s.setRing n { r with pendingLost := false, armed := r.irqEn }
      if !r.hostMade && r.fill != 0 then s.ringIrq n else s

/-! ### Acknowledge page (R427) -/

def State.viConsume (s : State) (p v : Nat) : State :=
  if 16 ≤ p || !s.active || s.inReset p || (s.part p).st == 0 then s
  else s.setPart p { s.part p with vi := (s.part p).vi.drop (v % 64) }

def State.viOvfAck (s : State) (p v : Nat) : State :=
  if 16 ≤ p || !s.active || s.inReset p || (s.part p).st == 0 || v % 2 == 0 then s
  else s.setPart p { s.part p with viOvf := false }

/-! ### Event delivery (R434) -/

/-- The first raised event whose partition runs. -/
def State.nextEvent (s : State) : Option Raised := s.evq.find? fun e => (s.part e.dest).st == 1

/-- One raised event is written to the event ring of its partition; a partition in reset keeps none. -/
def State.eventDeliver (s : State) : State :=
  match s.nextEvent with
  | none => s
  | some e => ({ s with evq := s.evq.erase e }).ringRecord (s.part e.dest).eventRing e.ev.et e.ev.bytes

/-! ### Ring engine (R429, R432, R433) -/

/-- The frame format byte of a CAN frame (R337). -/
def canFormat (f : CanFrame) : Nat := pack [(0, 3, f.fmt), (3, 1, b2n f.brs), (4, 1, b2n f.rtr), (5, 1, b2n f.secBit)]

/-- The bytes of a received CAN, FlexRay or LIN frame in a ring (R433). -/
def canSlot (ch et : Nat) (f : CanFrame) : List Byte :=
  frameHeader f.payload.length 1 (canFormat f) ch et f.id f.sdt f.vcid f.af ++ f.payload

def frySlot (chn et : Nat) (f : FryFrame) : List Byte :=
  frameHeader f.payload.length 2 (pack [(0, 1, chn), (1, 1, b2n f.startup), (2, 1, b2n f.syncF)]) chn et
    (pack [(0, 11, f.slot), (16, 6, f.cycle)]) 0 0 0 ++ f.payload

def State.linSlot (s : State) (ch et id : Nat) (data : List Byte) : List Byte :=
  let enh := s.lin.entries.any fun e => e.ch == ch && e.id == id && e.enhanced
  frameHeader data.length 3 (b2n enh) ch et id 0 0 0 ++ data

/-- The next frame that waits for FRAME_RX ring `n`, and the state without it: frames of an HP port, then of CAN, FlexRay and
LIN receive FIFOs. -/
def State.nextFrame (s : State) (n : Nat) : Option (List Byte × State) :=
  match s.par.hpQueue.find? fun e => e.1 == n with
  | some e => some (e.2, { s with par := { s.par with hpQueue := s.par.hpQueue.erase e } })
  | none =>
    match s.can.chans.find? fun e => e.2.cfg.ring == n && !e.2.fifo.isEmpty with
    | some (ch, x) =>
      x.fifo.head?.map fun h => (canSlot ch h.1 h.2, s.setCan ch { x with fifo := x.fifo.tail })
    | none =>
      match s.fry.clusters.find? fun e => e.2.cfg.ring == n && !e.2.fifo.isEmpty with
      | some (c, x) =>
        x.fifo.head?.map fun h => (frySlot h.1 h.2.1 h.2.2, s.setCluster c { x with fifo := x.fifo.tail })
      | none =>
        match s.lin.chans.find? fun e => e.2.cfg.ring == n && !e.2.fifo.isEmpty with
        | some (ch, x) =>
          x.fifo.head?.map fun h => (s.linSlot ch h.1 h.2.1 h.2.2, s.setLin ch { x with fifo := x.fifo.tail })
        | none => none

/-- One received frame goes into its ring; one too long for the slot is dropped. -/
def State.moveRx (s : State) (n : Nat) : State :=
  let r := s.ring n
  if r.full then s
  else
    match s.nextFrame n with
    | none => s
    | some (bs, s') =>
      if r.slotSize < bs.length then
        (s'.setRing n { s'.ring n with tooSmall := sat16 (s'.ring n).tooSmall }).ringEvent n 3 (bs.length - 32)
      else s'.ringPush n bs

/-- One slot of a FRAME_TX ring is sent through its HP port; a bad length is skipped, and so is a poisoned slot (R433, R529). -/
def State.moveTx (s : State) (n : Nat) : State :=
  let r := s.ring n
  let a := r.base + r.cons % r.depth * r.slotSize
  let len := leNat (memRead s.mem a 2)
  if r.fill == 0 then s
  else if s.poisoned a r.slotSize then (s.ringPop n).ringDiscard n
  else if len == 0 || r.slotSize < len + 32 then (s.ringPop n).indexError n r.cons true
  else (s.ringPop n).frameIn (parseFrame r.binding (memRead s.mem (a + 32) len))

/-- The ring engine moves a slot of ring `n`. -/
def State.ringMove (s : State) (n : Nat) : State :=
  let r := s.ring n
  if 128 ≤ n || !s.active || !r.enabled || s.ringStopped n then s
  else if r.type == 4 then s.moveRx n
  else if r.type == 5 then s.moveTx n
  else s

/-! ### Stopping a ring (R422 step 4, R435) -/

/-- The slots of a ring that wait are discarded and counted, its indices become 0 and its interrupt is disarmed. -/
def State.ringStop (s : State) (n : Nat) : State :=
  let r := s.ring n
  s.setRing n { r with drops := satAdd 32 r.drops r.fill, prod := 0, cons := 0, armed := false, lost := 0, lostEt := 0 }

/-- The rings of a partition start: indices 0, armed (R423). -/
def State.ringStart (s : State) (n : Nat) : State :=
  let r := s.ring n
  s.setRing n { r with prod := 0, cons := 0, armed := r.irqEn, pendingLost := false, lost := 0, lostEt := 0 }

def State.ringsOf (s : State) (p : Nat) : List Nat :=
  (upFrom 0 128).filter fun n => (s.ring n).enabled && (s.ring n).owner == p

/-! ### RING_ page (R68, R443) -/

/-- Words 0x000 to 0x01C. -/
def State.ringWords (s : State) (n : Nat) : List Nat :=
  let r := s.ring n
  [ pack [(0, 3, r.type), (3, 1, b2n r.enabled), (4, 1, b2n r.armed), (5, 1, b2n r.pendingLost),
      (6, 2, (s.part r.owner).ringClass), (8, 4, r.depthLog), (12, 4, r.slotLog),
      (16, 5, if r.owner == bamOwner then 0x10 else r.owner)],
    pack [(0, 16, r.prod), (16, 16, r.cons)], r.slots, r.drops, pack [(0, 16, r.indexErrors), (16, 16, r.tooSmall)], r.peak,
    lo32 r.base, hi32 r.base ]

/-- Words 0x100 to 0x110 of RING(2p). -/
def State.cmdWords (s : State) (p : Nat) : List Nat :=
  let x := s.stat p
  [ x.taken, x.error, pack [(0, 16, x.discard), (16, 16, x.discardDone)],
    (s.cmd.async.filter fun o => o.pk.src == .ring p).length, pack [(0, 16, x.lastStatus), (16, 16, x.lastOpcode)] ]

end Sys2Proof.Machine
end

