-- ==== Sys2Proof/Machine/Part.lean ====
section
/-!
DEFINITION. Sys2Proof/Machine/Part.lean: lockstep pairs, windows, partition reset and restart, supervision (R411 to R424),
with the PART_ pages and opcodes (R442 to R445).
-/

namespace Sys2Proof.Machine

def pairSrc (k : Nat) : Nat := 0x158 + k
def partSrc (p : Nat) : Nat := 0x130 + p

/-- A lane's own counter (R126) goes up. -/
def State.laneSpecific (s : State) (l : Nat) : State :=
  let x := s.easel.lanes.val {} l
  { s with easel := { s.easel with lanes := s.easel.lanes.put {} l { x with specific := sat32 x.specific } } }

/-! ### Windows (R416 to R418) -/

/-- A pair idles. -/
def Pair.idle (x : Pair) : Pair := { x with st := 1, part := 0x1F, last := if x.part == 0x1F then x.last else x.part }

/-- Predictor entries of a pair are cleared (R418). -/
def State.predClear (s : State) (k : Nat) : State := s.setPair k { s.pair k with predClears := sat16 (s.pair k).predClears }

/-- The largest measured switch. -/
def Pair.switched (x : Pair) (ns : Nat) : Pair := { x with switches := wrap32 x.switches, maxSwitch := max x.maxSwitch (clip 16 ns) }

/-- A WINDOW stroke on pair `k`; `ns` is how long the switch takes. -/
def State.window (s : State) (k p ns : Nat) : State :=
  let x := s.pair k
  if 6 ≤ k then s
  else if x.halted then s.setPair k { x with debugSkips := sat16 x.debugSkips }
  else if p == 0xFF then s.setPair k (x.idle.switched ns)
  else if (s.part p).st != 1 then (s.setPair k x.idle).laneSpecific 3
  else
    let prev := if x.part == 0x1F then x.last else x.part
    let s := s.setPair k ({ x with st := 0, part := p, last := p }.switched ns)
    let s := if prev != 0x1F && (s.part prev).domain != (s.part p).domain then s.predClear k else s
    let y := s.part p
    let s := s.setPart p { y with windows := wrap32 y.windows }
    if y.recover.contains k then
      (s.setPart p { s.part p with recover := y.recover.filter (· != k), recoveries := sat32 y.recoveries }).raise
        (s.p0and p) (partSrc p) 6 k
    else s

/-! ### Drain of a partition's commands (R53) -/

/-- Commands of the ring of `p` that have not started are discarded and counted; those that have started keep running and
lose their replies. -/
def State.drainCommands (s : State) (p : Nat) : State :=
  let mine := fun (pk : Packet) => pk.src == .ring p
  let c := s.cmd
  let held := c.held.filter fun h => mine h.pk
  let queued := (c.queues.map fun q => (q.2.filter fun x => mine x.pk).length).sum
  let waiting := (c.async.filter fun o => mine o.pk && !o.started && !(held.any fun h => h.pk == o.pk)).length
  let fill := (s.ring (2 * p)).fill
  let keep := fun (_ : Nat) (q : List Queued) => q.filter fun x => !mine x.pk
  let live := fun (o : Outst) => !mine o.pk || o.started
  let mark := fun (o : Outst) => if mine o.pk then { o with discard := true } else o
  let s := { s with cmd := { c with
    held := c.held.filter fun h => !mine h.pk
    queues := (c.queues.mapV keep).filter fun q => !q.2.isEmpty
    async := (c.async.filter live).map mark } }
  let s := s.setStat p { s.stat p with discard := satAdd 16 (s.stat p).discard (held.length + queued + waiting + fill) }
  let s := s.setRing (2 * p) { s.ring (2 * p) with cons := (s.ring (2 * p)).prod }
  s.setRing (2 * p + 1) { s.ring (2 * p + 1) with cons := (s.ring (2 * p + 1)).prod }

/-! ### Reset (R421, R422) -/

/-- Safe states of the resources of a partition, and its pulse generators stop (R422 step 5). -/
def State.partSafe (s : State) (p : Nat) : State :=
  let own := fun (cls n : Nat) => (upFrom 0 n).filter fun i => s.owner cls i == p
  let s := (own clsLoad 56).foldl State.loadSafe s
  let s := (own clsBridge 6).foldl State.bridgeSafe s
  let s := (own clsXo 8).foldl State.xoSafe s
  (own clsPg 16).foldl State.pgStop s

/-- The actuator records of a partition's resources are emptied (R422 step 6). -/
def State.recsEmpty (s : State) (p : Nat) : State :=
  { s with gw := { s.gw with recs := s.gw.recs.filter fun e =>
    (if e.1 < 56 then s.owner clsLoad e.1 else s.owner clsBridge (e.1 - 56)) != p } }

/-- The level at which a reset with these cause bits is reported (R531). -/
def resetLevel (cause : Nat) : Nat := if cause.testBit 3 then 5 else 3

/-- A reset of partition `p`: cause bits 0 command, 1 mismatch, 2 fault collector, 3 cluster reset; `restart` asks for a
restart after it. While the partition is RESETTING the cause is merged. -/
def State.partReset (s : State) (p cause : Nat) (restart : Bool) : State :=
  let x := s.part p
  let again := restart || p == 0
  if 16 ≤ p || x.st == 0 then s
  else if x.st == 2 then s.setPart p { x with lastCause := x.lastCause ||| cause, restartNext := x.restartNext || again }
  else
    let n := x.vi.length
    let gone := s.evq.filter fun e => e.dest == p
    let s := s.setPart p { x with
      st := 2, inReset := true, vi := [], viOvf := false, viGone := n, viDiscarded := satAdd 32 x.viDiscarded n
      eventsDiscarded := satAdd 32 x.eventsDiscarded gone.length, resets := sat16 x.resets, lastCause := cause
      lastReset := s.et, restartNext := again, restartDue := 0, recover := [] }
    let s := { s with evq := s.evq.filter fun e => e.dest != p }
    let s := s.raise [0] (partSrc p) 1 cause
    let s := (upFrom 0 6).foldl (fun s k =>
      let s := if (s.pair k).part == p && (s.pair k).st == 0 then s.setPair k (s.pair k).idle else s
      s.predClear k) s
    let s := s.drainCommands p
    let s := ((s.ringsOf p).filter fun n => n != 2 * p && n != 2 * p + 1).foldl State.ringStop s
    let s := (s.partSafe p).recsEmpty p
    s.escalate p (resetLevel cause)

/-- A cluster reset: every enabled partition (R61). -/
def State.clusterReset (s : State) : State := (upFrom 0 16).foldl (fun s p => s.partReset p 8 true) s

/-- The PART_RESET and PART_RESTART commands outstanding on a partition that wait for a restart, or those that do not. -/
def waitsOn (p : Nat) (restart : Bool) (o : Outst) : Bool :=
  o.started && u8 o.pk.params 0 == p && ((o.code == 0x0C02 && restart) || (o.code == 0x0C01 && (u8 o.pk.params 1 == 1) == restart))

/-- A restart of a partition begins (R423): it ends within 2 ms and 1 ms for each MB of its image. -/
def State.restartBegin (s : State) (p : Nat) : State :=
  let x := s.part p
  s.setPart p { x with st := 4, restartNext := false, restartDue := s.et + (2 + x.imageMb) * nsMs }

/-- All steps of a reset are complete. -/
def State.resetDone (s : State) (p : Nat) : State :=
  let x := s.part p
  if 16 ≤ p || x.st != 2 then s
  else
    let s := s.setPart p { x with st := 3 }
    let s := s.raise [0] (partSrc p) 2 (pack [(0, 8, x.lastCause), (16, 16, clip 16 x.viGone)])
    let s := s.finishWhere (waitsOn p false) stOk []
    if x.restartNext then s.restartBegin p else s.finishWhere (waitsOn p true) stWrongState []

/-- A restart ends: `image` is what the hypervisor has copied into the partition's grant, `digestOk` whether its digest
holds. -/
def State.restarted (s : State) (p : Nat) (digestOk : Bool) (image : List Byte) : State :=
  let x := s.part p
  if 16 ≤ p || x.st != 4 || !s.active then s
  else
    let s := s.store x.dramBase (image.take (min (x.imageMb * 2 ^ 20) x.dramSize))
    if digestOk then
      let s := s.setPart p { x with st := 1, inReset := false, restarts := sat16 x.restarts }
      let s := (s.ringsOf p).foldl State.ringStart s
      (s.raise [0, p] (partSrc p) 3 0).finishWhere (waitsOn p true) stOk []
    else
      ((s.setPart p { x with st := 3 }).raise [0] (partSrc p) 4 0).finishWhere (waitsOn p true) 0x0E04 []

/-- Entry to RUN: partitions with start at RUN set restart (R420). -/
def State.partsRun (s : State) : State :=
  (upFrom 0 16).foldl (fun s p => if (s.part p).st == 3 && (s.part p).startAtRun then s.restartBegin p else s) s

/-! ### Lockstep (R413, R414), debug (R416), secure interrupts (R419) -/

/-- A mismatch on pair `k`. -/
def State.mismatch (s : State) (k : Nat) (rail : Bool) : State :=
  let x := s.pair k
  if 6 ≤ k || !s.active || x.halted then s
  else
    let p := if x.st == 0 then x.part else 0x1F
    let pol := if p < 16 then (s.part p).policy else 0
    let s := s.setPair k { x.idle with
      mismatches := sat16 x.mismatches, railFaults := if rail then sat16 x.railFaults else x.railFaults, lastMismatch := s.et }
    let s := if p < 16 then s.setPart p { s.part p with mismatches := sat16 (s.part p).mismatches } else s
    let d := pack [(0, 1, b2n rail), (8, 5, p), (16, 1, pol)]
    let s := s.raise (0 :: (if p < 16 then [p] else [])) (pairSrc k) 1 d
    let level := if 16 ≤ p then 0 else if pol == 0 then 3 else 4
    let s := s.fault (pairSrc k) 3 level p 1 d 0 0
    if 16 ≤ p then s
    else if pol == 0 then s.partReset p 2 true
    else (s.setPart p { s.part p with recover := k :: (s.part p).recover }).escalate p 4

/-- Recipients of a debug event of a pair: P0 and the partition in its window. -/
def State.pairTo (s : State) (k : Nat) : List Nat := 0 :: (if (s.pair k).part < 16 then [(s.pair k).part] else [])

/-- The debug port is open in this life-cycle state (R462). -/
def State.debugOpen (s : State) : Bool := s.bam.lc == 0 || s.bam.lc == 3 || s.bam.lc == 4

/-- The debugger halts a pair 0–5, or the M-core pair, 6. -/
def State.pairHalt (s : State) (k : Nat) : State :=
  if !s.powered || !s.debugOpen then s
  else if k == 6 then
    if s.par.mPair.halted then s else { s with par := { s.par with mPair := { s.par.mPair with halted := true, st := 3 } } }
  else if 6 ≤ k || (s.pair k).halted then s
  else (s.setPair k { s.pair k with halted := true, st := 3 }).raise (s.pairTo k) (pairSrc k) 2 0

/-- It resumes. -/
def State.pairResume (s : State) (k : Nat) : State :=
  if k == 6 then
    if s.par.mPair.halted then { s with par := { s.par with mPair := { s.par.mPair with halted := false, st := 0 } } } else s
  else if 6 ≤ k || !(s.pair k).halted then s
  else
    let x := s.pair k
    (s.setPair k { x with halted := false, st := if x.part == 0x1F then 1 else 0 }).raise (s.pairTo k) (pairSrc k) 3 0

/-- A secure interrupt on a pair: at most one per millisecond. -/
def State.secureIrq (s : State) (k : Nat) : State :=
  let x := s.pair k
  let ms := s.et / nsMs + 1
  if 6 ≤ k || !s.active || x.halted || x.lastSecureMs == ms then s
  else s.setPair k { x with secureIrqs := sat16 x.secureIrqs, lastSecureMs := ms }

/-! ### Supervision (R424) -/

/-- The supervision timeout of a command, 0 where no record names it. -/
def State.supDue (s : State) (code : Nat) (pk : Packet) : Nat :=
  match s.par.supervise.find? fun r =>
    r.part == actsAs pk && r.code == code && (r.res == 0xFFFF || r.res == u8 pk.params 0) with
  | some r => pk.stamp + r.timeoutUs * 1000
  | none => 0

/-- Lower attempts made by an operation that the controllers count. -/
def State.attemptsOf (s : State) (o : Outst) : Nat :=
  let i := u8 o.pk.params 0
  if o.code == 0x0701 then (s.prtOf i).fails else if o.code == 0x0901 then (s.cluster i).attempts
  else if o.code == 0x0801 then
    let x := s.canOf i
    (((x.attempt.toList ++ x.waiting ++ x.placed ++ x.next).find? fun r => r.isCmd o.pk.src o.pk.tag).map CanReq.attempts).getD 0
  else 0

/-- The header of a LIN_TX has started. -/
def State.linStarted (s : State) (o : Outst) : Bool :=
  match (s.linOf (u8 o.pk.params 0)).cur with | some c => c.cmd == some o.pk | none => false

/-- The timeout of the outstanding command `serial` of the list has expired. -/
def State.supTimeout (s : State) (serial : Nat) : State :=
  match s.cmd.async[serial]? with
  | none => s
  | some o =>
    if o.due == 0 || s.et < o.due then s
    else
      let o' := { o with due := 0 }
      let s := { s with cmd := { s.cmd with async := setAt s.cmd.async serial o' } }
      let n := s.attemptsOf o
      let gone := fun (s : State) => { s with cmd := { s.cmd with held := s.cmd.held.filter fun h => h.pk != o.pk } }
      if !o.started then ((gone s).finishAsync o' 0x0E05 []).supReport o.code o.pk n true
      else if o.code == 0x0801 then
        let r := s.canCancel (u8 o.pk.params 0) o.pk.src o.pk.tag none
        if r.2 then r.1.supReport o.code o.pk n true else r.1
      else if o.code == 0x0A01 && !s.linStarted o then (s.finishAsync o' 0x0E05 []).supReport o.code o.pk n true
      else s.supReport o.code o.pk n false

/-! ### PART_ pages (R67, R442) -/

/-- DEV_STATE (R67). -/
def devCode : DevState → Nat
  | .off => 0 | .standby => 1 | .starting => 2 | .run => 3 | .degraded => 4 | .sleepPrep => 5 | .sleep => 6

def State.devWord (s : State) : Nat :=
  pack [(0, 4, devCode s.dev.state), (4, 1, b2n s.dev.armed), (8, 3, s.easel.run)]

def State.causeWord (s : State) : Nat :=
  pack [(0, 1, b2n s.dev.causeTemp), (1, 1, b2n s.dev.causeSag), (2, 1, b2n s.dev.causeCrank), (3, 1, b2n s.dev.causeTime)]

def State.partPage0 (s : State) : List Nat :=
  [ s.devWord, s.causeWord, lo32 s.et, hi32 s.et, mapBits (fun p => (s.part p).st == 1) 16, mapBits s.inReset 16 ]

/-- Words 0x000 to 0x03C, then 0x080 to 0x0FC, of the page of a partition. -/
def State.partWords (s : State) (p : Nat) : List Nat :=
  let x := s.part p
  let pairs := mapBits (fun k => (s.pair k).st == 0 && (s.pair k).part == p) 6
  [ pack [(0, 3, x.st), (4, 4, x.domain), (8, 2, x.ringClass), (10, 1, x.policy), (16, 6, x.share)],
    pack [(0, 6, x.vi.length), (8, 1, b2n x.viOvf), (16, 6, pairs)],
    pack [(0, 16, x.resets), (16, 16, x.restarts)], pack [(0, 4, x.lastCause), (16, 16, x.mismatches)],
    x.viDiscarded, x.eventsDiscarded, x.postedErrors, lo32 x.dramBytes, hi32 x.dramBytes, x.supTimeouts,
    lo32 x.lastReset, hi32 x.lastReset, x.windows, x.recoveries, 0, 0 ] ++
  ((upFrom 0 32).map fun i => x.vi.getD i 0)

def pairWords (x : Pair) : List Nat :=
  [ pack [(0, 2, x.st), (8, 5, if x.st == 0 || x.st == 3 then x.part else 0x1F)],
    pack [(0, 16, x.mismatches), (16, 16, x.railFaults)], x.switches, pack [(0, 16, x.predClears), (16, 16, x.debugSkips)],
    pack [(0, 16, x.secureIrqs), (16, 16, x.maxSwitch)], lo32 x.lastMismatch, hi32 x.lastMismatch ]

/-! ### Opcodes (R444) -/

def partBlock (ps : List Byte) : Bool := decide (u8 ps 0 < 16) && zeroAt ps 1 3
def partUsed (pk : Packet) (s : State) : Nat := if (s.part (u8 pk.params 0)).st == 0 then 0x0E00 else stOk
def partSelf (ps : List Byte) (_ : State) : List Nat := [u8 ps 0]

def partGetStatusSpec : OpSpec where
  code := 0x0C00
  comp := .S
  issuer := .ownP0
  len := lenIs 4
  fields := fun ps _ => partBlock ps
  owners := partSelf
  key := fun ps => u8 ps 0 + 1
  check := partUsed
  act := fun pk s => okWith (wordBytes (s.partWords (u8 pk.params 0))) s

def partResetSpec : OpSpec where
  code := 0x0C01
  comp := .A
  issuer := .p0
  len := lenIs 8
  fields := fun ps _ => decide (u8 ps 0 < 16) && decide (u8 ps 1 ≤ 1) && u16 ps 2 == 0xA55A && zeroAt ps 4 4
  key := fun ps => u8 ps 0 + 1
  check := fun pk s =>
    let p := u8 pk.params 0
    let st := (s.part p).st
    if st == 0 then 0x0E00 else if p == 0 then 0x0E01 else if st == 1 || st == 3 then stOk else 0x0E02
  act := fun pk s => later (s.partReset (u8 pk.params 0) 1 (u8 pk.params 1 == 1))

def partRestartSpec : OpSpec where
  code := 0x0C02
  comp := .A
  issuer := .p0
  len := lenIs 4
  fields := fun ps _ => partBlock ps
  key := fun ps => u8 ps 0 + 1
  check := fun pk s =>
    let st := (s.part (u8 pk.params 0)).st
    if st == 0 then 0x0E00 else if st == 3 then stOk else 0x0E03
  act := fun pk s => later (s.restartBegin (u8 pk.params 0))

def ringGetStatusSpec : OpSpec where
  code := 0x0C03
  comp := .S
  issuer := .ownP0
  len := lenIs 4
  fields := fun ps _ => decide (u8 ps 0 < 128) && zeroAt ps 1 3
  owners := fun ps s => [(s.ring (u8 ps 0)).owner]
  key := fun ps => 0x100 + u8 ps 0
  act := fun pk s =>
    let n := u8 pk.params 0
    okWith (wordBytes (s.ringWords n ++ (if n < 32 && n % 2 == 0 then s.cmdWords (n / 2) else []))) s

def ringResetSpec : OpSpec where
  code := 0x0C04
  comp := .O
  cls := 11
  issuer := .own
  len := lenIs 4
  fields := fun ps _ => decide (u8 ps 0 < 128) && zeroAt ps 1 3
  owners := fun ps s => [(s.ring (u8 ps 0)).owner]
  key := fun ps => 0x100 + u8 ps 0
  check := fun pk s =>
    let n := u8 pk.params 0
    if n < 32 then 0x0E06 else if (s.ring n).enabled then stOk else 0x0E07
  act := fun pk s =>
    let n := u8 pk.params 0
    let s := s.ringStop n
    ok (s.setRing n { s.ring n with armed := (s.ring n).irqEn })

def partReadPostedErrorsSpec : OpSpec where
  code := 0x0C05
  comp := .S
  issuer := .ownP0
  len := lenIs 4
  fields := fun ps _ => partBlock ps
  owners := partSelf
  key := fun ps => u8 ps 0 + 1
  check := partUsed
  act := fun pk s =>
    let p := u8 pk.params 0
    let x := s.part p
    okWith (leBytes 4 x.postedErrors ++ leBytes 4 (if p == 0 then x.postedOthers else 0) ++ leBytes 4 x.postedDropped ++
      leBytes 4 0 ++ fit 128 (x.lastPosted.flatMap PostedRec.bytes)) s

end Sys2Proof.Machine
end

