-- ==== Sys2Proof/Machine/Bam.lean ====
section
/-!
DEFINITION. Sys2Proof/Machine/Bam.lean: the Bamlys security island (R446 to R478): key slots and registers, requests, the life
cycle, sessions, starts and restarts, the tamper policy, the BAM_ pages and opcodes. What cryptography comes to is the operand
of the row that executes a request.
-/

namespace Sys2Proof.Machine

/-! ### Key slots (R453 to R456) -/

/-- The epoch (R452). -/
def State.epoch (s : State) : Nat := pack [(0, 8, s.bam.lc), (8, 8, s.bam.count)]

/-- Bytes of a key of a type: AES, elliptic-curve and FIPS 203, 204 sizes; 0 for no type. -/
def keySize (type : Nat) : Nat :=
  match type with
  | 0x01 => 16
  | 0x02 => 32
  | 0x10 => 32
  | 0x11 => 48
  | 0x18 => 64
  | 0x19 => 96
  | 0x20 => 1952
  | 0x28 => 2400
  | _ => 0

/-- Usages that a type permits (R456). -/
def keyUsages (type : Nat) : Nat :=
  match type with
  | 0x01 | 0x02 => 0x34
  | 0x10 | 0x11 => 0x04
  | 0x18 => 0x08
  | 0x19 | 0x20 => 0x0B
  | 0x28 => 0x40
  | _ => 0

def isPublicType (type : Nat) : Bool := type == 0x18 || type == 0x19 || type == 0x20

/-- The label of a slot that no command installs. -/
def fixedLabel (n : Nat) : List Byte := leBytes 16 (Config.fixedHeader n 2)

/-- A slot in use, those of ROM and the derived ones among them (R454). -/
def State.keySlot (s : State) (n : Nat) : KeySlot :=
  let fixed := fun (type flags usage : Nat) =>
    { type := type, flags := flags, usage := usage, mask := Config.fixedHeader n 1 % 32, keyLen := keySize type
      label := fixedLabel n : KeySlot }
  match n with
  | 0 => fixed 0x19 1 (Config.fixedHeader 0 0)
  | 1 => fixed 0x20 1 (Config.fixedHeader 1 0)
  | 16 => if s.bam.rootOk then fixed 0x28 2 0x40 else {}
  | 17 => if s.bam.rootOk then fixed 0x11 2 0x04 else {}
  | _ => s.bam.slots.val {} n

/-- The public key that a slot query returns (R471); an ML-KEM decapsulation key holds its encapsulation key. -/
def State.publicKeyOf (s : State) (n : Nat) : List Byte :=
  let k := s.keySlot n
  if n == 0 || n == 17 then fit 96 (Config.publicKey n s.epoch)
  else if n == 1 then fit 1952 (Config.publicKey n s.epoch)
  else if n == 16 then fit 1184 (Config.publicKey n s.epoch)
  else if k.type == 0x28 then (k.key.drop 1152).take 1184
  else if isPublicType k.type then k.key else []

/-- The 32 bytes of a slot header (R455). -/
def headerBytes (n : Nat) (k : KeySlot) : List Byte :=
  leBytes 2 n ++ leBytes 1 k.type ++ leBytes 1 k.flags ++ leBytes 2 k.usage ++ leBytes 1 k.mask ++ leBytes 1 k.bindKind ++
    leBytes 2 k.bindIdx ++ leBytes 2 k.keyLen ++ leBytes 4 k.seq ++ fit 16 k.label

/-- The slot header that stands at byte 8 of a BAM_KEY_INSTALL block. -/
def headerOf (ps : List Byte) : KeySlot :=
  { type := u8 ps 10, flags := u8 ps 11, usage := u16 ps 12, mask := u8 ps 14, bindKind := u8 ps 15, bindIdx := u16 ps 16
    keyLen := u16 ps 18, seq := u32 ps 20, label := (ps.drop 24).take 16 }

/-- Type, usage and binding of a header agree with each other and with slot `n` (R454, R456). -/
def headerOk (n : Nat) (k : KeySlot) : Bool :=
  keySize k.type != 0 && (k.usage &&& keyUsages k.type) == k.usage &&
    (!k.usage.testBit 1 || n == 2 || n == 3) && (n != 2 || k.type == 0x19) && (n != 3 || k.type == 0x20) &&
    (15 < n || isPublicType k.type) &&
    (k.bindKind == 0 && k.bindIdx == 0 || k.bindKind == 1 && decide (k.bindIdx < 16) || k.bindKind == 2 && decide (k.bindIdx < 12)) &&
    (!k.usage.testBit 4 || k.bindKind == 1) && (!k.usage.testBit 5 || k.bindKind == 2)

/-- A key may act with a usage in the present life-cycle state. -/
def State.mayUse (s : State) (k : KeySlot) (use : Nat) : Bool := k.usage.testBit use && k.mask.testBit s.bam.lc

/-- A request uses a secret key: it enters a key register under least-recently-used replacement (R457). -/
def State.krUse (s : State) (n : Nat) : State :=
  { s with bam := { s.bam with kr := (n :: s.bam.kr.filter (· != n)).take 16 } }

/-- A record of slot `n` is committed: its sequence number is one above the higher one found; the other copy is left (R460). -/
def State.writeRecord (s : State) (n op : Nat) (k : KeySlot) : State :=
  let old := s.bam.slots.val {} n
  let seq := max old.seq (s.bam.other.val {} n).seq + 1
  let s := { s with bam := { s.bam with
    slots := s.bam.slots.put {} n { k with seq := seq }, other := s.bam.other.put {} n old
    kr := s.bam.kr.filter (· != n) } }
  s.raise [0] 0x160 4 (pack [(0, 8, n), (8, 8, op), (16, 16, seq)])

def State.slotsUsed (s : State) : Nat := ((upFrom 0 256).filter fun n => (s.keySlot n).type != 0).length

/-! ### Life cycle (R462, R463) -/

/-- The next states of a life-cycle state. -/
def nextStates (lc : Nat) : List Nat :=
  match lc with
  | 0 => [1, 4]
  | 1 => [2, 4]
  | 2 => [3, 4]
  | 3 => [2, 4]
  | _ => []

/-- The keys of port `p` are zeroized by Bamlys. -/
def State.secErase (s : State) (p : Nat) : State :=
  if !(s.swPort p).cfg.macsec then s
  else s.onPort p fun x => { x with secTx := false, rxSa := [], txPn := 0, txAn := 0, exhausted := false }

/-- Session keys are zeroized: every open session closes (R463). -/
def State.closeSessions (s : State) : State :=
  let was := (upFrom 0 16).filter fun p => (s.cmd.sessions.val {} p).isOpen
  was.foldl (fun s p => s.raise [0] 0x160 5 (pack [(0, 4, p), (4, 2, 3)])) { s with cmd := { s.cmd with sessions := [] } }

/-- Working records of an old epoch are erased; into RETIRED the anchors and the helper data go too, and nothing is derived. -/
def State.eraseOld (s : State) : State :=
  let keep := fun (e : Nat × KeySlot) => decide (e.1 < 16) && s.bam.lc != 4
  { s with bam := { s.bam with
    slots := s.bam.slots.filter fun e => keep e || (s.bam.lc != 4 && e.2.epoch == s.epoch)
    other := s.bam.other.filter fun e => keep e || (s.bam.lc != 4 && e.2.epoch == s.epoch)
    helper := s.bam.helper && s.bam.lc != 4, rootOk := s.bam.rootOk && s.bam.lc != 4 } }

/-- A transition to life-cycle state `lc`. -/
def State.lifecycle (s : State) (lc : Nat) : State :=
  let old := s.bam.lc
  let s := { s with bam := { s.bam with lc := lc, count := s.bam.count + 1, kr := [] } }
  let s := (s.raise [0] 0x160 3 (pack [(0, 8, lc), (8, 8, old), (16, 8, s.bam.count)])).closeSessions
  ((upFrom 0 12).foldl State.secErase s).eraseOld

/-! ### Tamper (R467 to R469) -/

/-- The policy is applied. -/
def State.tamperPolicy (s : State) : State :=
  if s.bam.policy == 1 then { s with bam := { s.bam with locked := true } }
  else if s.bam.policy == 2 && s.bam.lc != 4 then s.lifecycle 4
  else s

/-- A record of the tamper log: the oldest of eight is overwritten. -/
def State.tamperLog (s : State) (src phase : Nat) : State :=
  let b := s.bam
  { s with bam := { b with
    alarms := sat16 b.alarms, log := (⟨src, phase, s.rtcNs⟩ :: b.log).take 8
    logOverflow := if b.log.length < 8 then b.logOverflow else sat8 b.logOverflow } }

/-- TAMPER_ALARM. -/
def State.tamperEvent (s : State) (et src phase applied : Nat) : State :=
  s.raiseAt et [0] 0x161 1 (pack [(0, 3, src), (3, 2, phase), (5, 2, applied)])

/-! ### Requests (R448, R464, R471 to R475) -/

/-- FEED12 is known to be below 6.0 V: no record is begun (R460, R482). -/
def State.feedBelow6 (s : State) : Bool := decide (0 < (s.feed 0).v) && decide ((s.feed 0).v < 600)

/-- Bytes of an authorization trailer. -/
def trailerLen : Nat := 3416

/-- The requests in Bamlys's queue, in the order taken. -/
def State.bamQueue (s : State) : List Outst := s.cmd.async.filter fun o => o.code / 256 == 0x0D && o.started

/-- The request that is executed next: the oldest stamp, ties by source ID (R52). -/
def bamFirst : List Outst → Option Outst
  | [] => none
  | o :: os =>
    match bamFirst os with
    | none => some o
    | some x =>
      if x.pk.stamp < o.pk.stamp || (x.pk.stamp == o.pk.stamp && srcId x.pk.src < srcId o.pk.src) then some x else some o

/-- The authorization trailer at byte `at_` of a block: both ADMIN keys are there, the signatures verify and its counter is
above the stored one. -/
def State.authOk (s : State) (ps : List Byte) (at_ : Nat) (svc : BamService) : Bool :=
  (s.keySlot 2).type == 0x19 && (s.keySlot 3).type == 0x20 && svc.authOk && decide (s.bam.authCounter < u32 ps at_)

/-- The stored counter takes the trailer's value. -/
def State.authTake (s : State) (ps : List Byte) (at_ : Nat) : State :=
  { s with bam := { s.bam with authCounter := u32 ps at_ } }

/-- The checks of a trailer where `need` says that one is due. -/
def State.authCheck (s : State) (ps : List Byte) (at_ : Nat) (need : Bool) (svc : BamService) : Nat :=
  if need != decide (at_ < ps.length) then stBadLength
  else if need && !s.authOk ps at_ svc then 0x0F03 else stOk

/-- BAM_GET_STATUS (R471). -/
def bamStatusCheck (ps : List Byte) (s : State) : Nat :=
  if u8 ps 0 == 0 then stOk
  else if !s.bam.rootOk then 0x0F0B
  else if (s.keySlot (u16 ps 2)).type == 0 then 0x0F00 else stOk

def State.bamFlags (s : State) : Nat := pack [(0, 1, b2n s.bam.locked), (1, 1, b2n s.bam.rootOk), (2, 1, b2n s.debugOpen)]

def State.bamStatus (s : State) (ps : List Byte) : List Byte :=
  let b := s.bam
  if u8 ps 0 == 0 then
    leBytes 1 b.lc ++ leBytes 1 b.count ++ leBytes 1 b.policy ++ leBytes 1 s.bamFlags ++ leBytes 4 s.epoch ++
      leBytes 4 b.authCounter ++ leBytes 2 b.restarts ++ leBytes 2 s.slotsUsed ++ fit 48 b.measurement
  else
    let p := s.publicKeyOf (u16 ps 2)
    headerBytes (u16 ps 2) (s.keySlot (u16 ps 2)) ++ p ++ leBytes ((4 - p.length % 4) % 4) 0

/-- BAM_SESSION_OPEN (R473). -/
def bamSessionCheck (ps : List Byte) (s : State) : Nat :=
  let op := u8 ps 0
  let p := u8 ps 1
  let k := s.keySlot (u16 ps 2)
  if op != 0 && !(s.cmd.sessions.val {} p).isOpen then 0x0F09
  else if op == 2 then stOk
  else if !s.bam.rootOk then 0x0F0B
  else if k.type == 0 then 0x0F00
  else if s.mayUse k 4 && k.bindKind == 1 && k.bindIdx == p then stOk else 0x0F04

def State.bamSession (s : State) (ps : List Byte) (svc : BamService) : State × List Byte :=
  let p := u8 ps 1
  let was := (s.cmd.sessions.val {} p).isOpen
  if u8 ps 0 == 2 then
    (({ s with cmd := { s.cmd with sessions := s.cmd.sessions.put {} p {} } }).raise [0] 0x160 5 (pack [(0, 4, p), (4, 2, 2)]), [])
  else
    let nonce := fit 16 svc.out
    let key := Config.sessionKey (s.keySlot (u16 ps 2)).key p ((ps.drop 8).take 16) nonce
    let s := s.krUse (u16 ps 2)
    let s := { s with cmd := { s.cmd with sessions := s.cmd.sessions.put {} p { isOpen := true, key := key } } }
    (s.raise [0] 0x160 5 (pack [(0, 4, p), (4, 2, b2n was)]), nonce)

/-- Staged bytes that stand without a gap from offset 0, and whether nothing is staged beyond them. -/
def State.staged (s : State) (n : Nat) : Option (List Byte) :=
  let bs := (upFrom 0 n).map fun i => s.bam.stage.val 0 i
  if bs.all (· != 0) && s.bam.stage.all (fun e => decide (e.1 < n)) then some (bs.map fun b => BitVec.ofNat 8 (b - 1)) else none

/-- The staged bytes that an operation needs for a type. -/
def stageNeed (op type : Nat) : Nat := if op == 2 then keySize type else 1088 + 12 + keySize type + 16

/-- An installation into, or a deletion of, an anchor that needs the ADMIN pair's authorization (R462). -/
def State.anchorAuth (s : State) (n : Nat) : Bool :=
  decide (n < 16) && s.bam.lc != 0 && !((n == 2 || n == 3) && s.bam.lc == 1 && (s.keySlot n).type == 0)

/-- BAM_KEY_INSTALL (R472). -/
def bamInstallCheck (ps : List Byte) (s : State) (svc : BamService) : Nat :=
  let op := u8 ps 0
  let n := u16 ps 2
  let k := headerOf ps
  if op == 0 then stOk
  else if n < 2 || n == 16 || n == 17 then 0x0F01
  else if !s.bam.rootOk then 0x0F0B
  else
    let a := s.authCheck ps 40 (s.anchorAuth n) svc
    if op != 4 && (!headerOk n k || (op == 1 && isPublicType k.type) || (op == 2 && !isPublicType k.type)) then 0x0F02
    else if op == 4 && (s.keySlot n).type == 0 then 0x0F00
    else if a != stOk then a
    else if op == 2 || op == 3 then
      if (s.staged (stageNeed op k.type)).isNone then 0x0F0C else if op == 3 && !svc.valid then 0x0F06 else stOk
    else stOk

def State.bamInstall (s : State) (ps : List Byte) (svc : BamService) : State × List Byte :=
  let op := u8 ps 0
  let n := u16 ps 2
  let k := headerOf ps
  if op == 0 then
    let bs := (ps.drop 40).take (u16 ps 6)
    let put := fun (t : Tab Nat × Nat) (b : Byte) => (t.1.put 0 t.2 (b.toNat + 1), t.2 + 1)
    ({ s with bam := { s.bam with stage := (bs.foldl put (s.bam.stage, u16 ps 4)).1 } }, leBytes 4 0)
  else
    let s := if s.anchorAuth n then s.authTake ps 40 else s
    let key := if op == 2 then (s.staged (stageNeed op k.type)).getD [] else fit (keySize k.type) svc.out
    let new : KeySlot := if op == 4 then {} else
      { k with flags := pack [(0, 1, b2n (n < 16)), (1, 1, b2n (op == 1))], keyLen := keySize k.type, key := key
               epoch := if n < 16 then 0 else s.epoch }
    let s := s.writeRecord n op new
    let s := { s with bam := { s.bam with stage := [] } }
    let s := if new.usage.testBit 5 && !s.bam.mkaWait.contains new.bindIdx then
      { s with bam := { s.bam with mkaWait := s.bam.mkaWait ++ [new.bindIdx] } } else s
    (s, leBytes 4 (s.bam.slots.val {} n).seq)

/-- A slot that a request uses under usage bit `use` with one of the types `types`. -/
def State.slotCheck (s : State) (n use : Nat) (types : List Nat) : Nat :=
  let k := s.keySlot n
  if !s.bam.rootOk then 0x0F0B
  else if k.type == 0 then 0x0F00
  else if s.mayUse k use && types.contains k.type then stOk else 0x0F04

/-- BAM_SIGN and BAM_VERIFY (R474). -/
def bamSignCheck (ps : List Byte) (s : State) : Nat :=
  s.slotCheck (u16 ps 0) 2 (if u8 ps 2 == 0 then [0x10, 0x11] else [0x01, 0x02])

/-- Bytes of a signature or a tag by a key of a type. -/
def signLen (type : Nat) : Nat := if type == 0x10 then 64 else if type == 0x11 then 96 else 16

def bamVerifyCheck (ps : List Byte) (s : State) : Nat :=
  s.slotCheck (u16 ps 0) 3 (if u8 ps 2 == 0 then [0x18, 0x19] else [0x20])

/-- BAM_LIFECYCLE_SET (R462, R463, R475). -/
def bamLifecycleCheck (ps : List Byte) (s : State) (svc : BamService) : Nat :=
  let t := u8 ps 0
  let need := s.bam.lc != 0
  if !(nextStates s.bam.lc).contains t then 0x0F07
  else if 63 ≤ s.bam.count && t != 4 then 0x0F0D
  else if s.bam.lc == 1 && ((s.keySlot 2).type == 0 || (s.keySlot 3).type == 0) then 0x0F08
  else if !s.bam.rootOk && (need || t != 4) then 0x0F0B
  else s.authCheck ps 8 need svc

/-- BAM_TAMPER_POLICY (R475). -/
def bamPolicyCheck (ps : List Byte) (s : State) (svc : BamService) : Nat :=
  if !s.bam.rootOk then 0x0F0B else s.authCheck ps 8 (s.bam.lc != 0) svc

def State.bamPolicy (s : State) (ps : List Byte) : State :=
  let s := if s.bam.lc != 0 then s.authTake ps 8 else s
  if u8 ps 0 == 0 then { s with bam := { s.bam with policy := u8 ps 1, armed := u8 ps 2 } }
  else if s.bam.locked then ({ s with bam := { s.bam with locked := false } }).raise [0] 0x161 3 0
  else s

/-- Check 10 of a request. -/
def bamCheck (code : Nat) (ps : List Byte) (s : State) (svc : BamService) : Nat :=
  match code with
  | 0x0D00 => bamStatusCheck ps s
  | 0x0D01 => bamSessionCheck ps s
  | 0x0D02 => bamInstallCheck ps s svc
  | 0x0D03 => bamSignCheck ps s
  | 0x0D04 => bamVerifyCheck ps s
  | 0x0D06 => bamLifecycleCheck ps s svc
  | 0x0D07 => bamPolicyCheck ps s svc
  | _ => stOk

/-- A request whose record is not begun while FEED12 is below 6.0 V (R460). -/
def writesRecord (code : Nat) (ps : List Byte) : Bool :=
  (code == 0x0D02 && u8 ps 0 != 0) || code == 0x0D06 || code == 0x0D07

/-- The action of a request that has passed its checks: the state, the status and the result. -/
def bamAct (code : Nat) (ps : List Byte) (s : State) (svc : BamService) : State × Nat × List Byte :=
  match code with
  | 0x0D00 => (s, stOk, s.bamStatus ps)
  | 0x0D01 => let r := s.bamSession ps svc; (r.1, stOk, r.2)
  | 0x0D02 => let r := s.bamInstall ps svc; (r.1, stOk, r.2)
  | 0x0D03 =>
    let n := signLen (s.keySlot (u16 ps 0)).type
    (s.krUse (u16 ps 0), stOk, fit n svc.out)
  | 0x0D04 => (s, if svc.valid then stOk else 0x0F05, [])
  | 0x0D05 => (s, stOk, fit (u32 ps 0) svc.out)
  | 0x0D06 => ((if s.bam.lc == 0 then s else s.authTake ps 8).lifecycle (u8 ps 0), stOk, [])
  | _ => (s.bamPolicy ps, stOk, [])

/-- Bamlys executes its next request (R448). -/
def State.bamExecute (s : State) (svc : BamService) : State :=
  match bamFirst s.bamQueue with
  | none => s
  | some o =>
    if !s.bam.serving || s.bam.halted then s
    else
      let ps := o.pk.params
      let s := { s with bam := { s.bam with drbg := (s.bam.drbg + 1) % 1024 } }
      let c := if s.feedBelow6 && writesRecord o.code ps then stBusy else bamCheck o.code ps s svc
      let s :=
        if c != stOk || isCheckOnly o.pk then s.finishAsync o c []
        else
          let r := bamAct o.code ps s svc
          r.1.finishAsync o r.2.1 r.2.2
      if s.bam.policyAfter then ({ s with bam := { s.bam with policyAfter := false } }).tamperPolicy else s

/-! ### Starts and restarts (R451, R461, R465, R466) -/

/-- The root is regenerated and the key store read: `fails` corrections failed, `recovered` are the slots whose newer copy was
not valid. -/
def State.bamRoot (s : State) (fails : Nat) (recovered : List Nat) : State :=
  let b := s.bam
  if b.lc == 4 then { s with bam := { b with rootOk := false } }
  else
    let enrol := b.lc == 0 && !b.helper
    let ok := enrol || (b.helper && decide (fails < 3))
    let s := { s with bam := { b with rootOk := ok, helper := b.helper || enrol } }
    let s := if ok then s else (s.raise [0] 0x160 6 3).fault 0x160 8 0 0x1F 6 3 0 0
    let back := fun (s : State) (n : Nat) =>
      ({ s with bam := { s.bam with
        slots := s.bam.slots.put {} n (s.bam.other.val {} n), other := s.bam.other.put {} n {} } }).raise [0] 0x160 7 n
    ((dedup recovered).filter fun n => decide (n < 256)).foldl back s

/-- Bamlys halts: every queued request ends BAM_HALTED. -/
def State.bamHalt (s : State) (why : Nat) : State :=
  let s := { s with bam := { s.bam with halted := true, serving := false } }
  let s := (s.raise [0] 0x160 2 why).fault 0x160 8 0 0x1F 2 why 0 0
  s.finishWhere (fun o => o.code / 256 == 0x0D && o.started) 0x0F0A []

/-- The store of the reset state that nothing is known of is that of the row (DESIGN CHOICE, see the log). -/
def State.bamContent (s : State) (store : BamStore) : State :=
  let b := s.bam
  if b.known then s else { s with bam := { b with
    known := true, lc := min store.lc 4, count := store.count, policy := min store.policy 2, locked := store.locked
    armed := store.armed % 32 ||| 16, authCounter := store.authCounter, helper := store.helper, slots := store.slots
    other := store.other } }

/-- Bamlys serves; alarms of the start are reported, then the policy they called for acts (R468). -/
def State.bamServe (s : State) : State :=
  let due := s.bam.alarmsDue.reverse
  let policy := if s.bam.policyDue then s.bam.policy else 0
  let s := due.foldl (fun s a => s.tamperEvent (rtcEt a.rtcNs) a.src a.phase (if a.phase == 1 then 0 else policy))
    { s with bam := { s.bam with serving := true, alarmsDue := [] } }
  if s.bam.policyDue then ({ s with bam := { s.bam with policyDue := false } }).tamperPolicy else s

/-- A start: `store` is what the fuses and the key store hold where this model has not read them yet. -/
def State.bamStart (s : State) (fails : Nat) (recovered : List Nat) (store : BamStore) (meas : List Byte) (fwOk : Bool) : State :=
  if s.dev.state != .starting || !s.pwr.refOk || s.bam.serving || s.bam.halted || s.bam.bootRetry.isSome then s
  else
    let s := s.bamContent store
    let s := { s with bam := { s.bam with measurement := fit 48 meas, kr := [], stage := [], drbg := 0 } }
    if !fwOk then s.bamHalt 1 else (s.bamRoot fails recovered).eraseOld.bamServe

/-- A lone restart by `cause`: 0 watchdog, 1 exception, 2 self-check (R465). Queued requests end SECURE_RESTARTED; a fault
report that waited for it is made. -/
def State.bamRestart (s : State) (cause : Nat) (fwOk : Bool) (fails : Nat) (recovered : List Nat) (meas : List Byte) : State :=
  if !s.powered || !s.bam.serving || 2 < cause then s
  else
    let b := s.bam
    let last := s.et :: b.restartAt.filter fun t => decide (s.et < t + 60 * nsS)
    let s := { s with bam := { b with
      restarts := sat16 b.restarts, restartAt := last, lastRestart := s.et, kr := [], stage := [], drbg := 0
      measurement := fit 48 meas } }
    let s := s.raise [0] 0x160 1 (pack [(0, 8, cause), (8, 8, clip 8 last.length)])
    let s := s.finishWhere (fun o => o.code / 256 == 0x0D && o.started) stSecureRestarted []
    let due := s.flt.held
    let s := due.foldl (fun s h => s.makeReport { h.rep with attempts := clip 8 last.length })
      { s with flt := { s.flt with held := [] } }
    if 4 ≤ last.length then s.bamHalt 0 else if !fwOk then s.bamHalt 1 else s.bamRoot fails recovered

/-- All key registers and the registers of the MP and MACsec blocks are re-masked (R457). -/
def State.remask (s : State) : State :=
  if s.bam.serving then { s with bam := { s.bam with remasks := wrap32 s.bam.remasks } } else s

/-- MKA on a port whose CAK is installed agrees on a SAK (R456, R469). -/
def State.mkaInstall (s : State) (p an scs : Nat) (xpn : Bool) : State :=
  let cak := (upFrom 18 238).any fun n =>
    let k := s.keySlot n
    k.type != 0 && s.mayUse k 5 && k.bindKind == 2 && k.bindIdx == p
  if s.bam.serving && !s.bam.halted && !s.bam.locked && cak && s.portUp p then s.sakInstall p an scs xpn else s

/-! ### Status pages (R478) -/

def State.bamPage0 (s : State) : List Nat :=
  let b := s.bam
  [ pack [(0, 3, b.lc), (8, 7, b.count), (16, 2, b.policy), (18, 1, b2n b.locked), (19, 1, b2n s.debugOpen),
      (20, 1, b2n b.rootOk), (21, 1, b2n b.halted)],
    s.epoch, pack [(0, 16, b.restarts), (16, 9, s.slotsUsed)], pack [(0, 5, s.bamQueue.length), (16, 5, b.kr.length)],
    b.authCounter, b.remasks, lo32 b.lastRestart, hi32 b.lastRestart ] ++
    (upFrom 0 12).map fun i => u32 (fit 48 b.measurement) (4 * i)

def State.tmpPage (s : State) : List Nat :=
  let b := s.bam
  let recs := (upFrom 0 8).map fun i => b.log.getD i ⟨0, 0, 0⟩
  [b.armed, pack [(0, 16, b.alarms), (16, 16, b.keyAborts)], pack [(0, 4, b.log.length), (8, 8, b.logOverflow)], 0] ++
    (recs.map fun r => [pack [(0, 3, r.src), (3, 2, r.phase), (17, 15, r.rtcNs % nsS * 32768 / nsS)], lo32 (r.rtcNs / nsS)]).flatten

/-! ### Opcodes -/

/-- The issuers of R449. -/
def State.bamIssuer (s : State) (code : Nat) (pk : Packet) : Bool :=
  let ps := pk.params
  let p := actsAs pk
  match code with
  | 0x0D01 =>
    match pk.src with
    | .ring q => q == u8 ps 1 || q == 0
    | .mp => u8 ps 0 != 0 && p == u8 ps 1
  | 0x0D02 | 0x0D06 | 0x0D07 => p == 0
  | 0x0D03 =>
    let k := s.keySlot (u16 ps 0)
    if k.bindKind == 1 then p == k.bindIdx else p == 0
  | _ => true

/-- Commands that a tamper lock turns away (R469). -/
def bamLocked (code : Nat) (pk : Packet) (s : State) : Bool :=
  s.bam.locked && (code == 0x0D03 || code == 0x0D02 || (code == 0x0D01 && u8 pk.params 0 != 2))

def pad4 (n : Nat) : Nat := 4 * ceilDiv n 4

/-- A Bamlys opcode: the M-core's checks 4 and 5; the rest is Bamlys's. -/
def bamSpec (code : Nat) (len : List Byte → Bool) (fields : List Byte → State → Bool) : OpSpec where
  code := code
  comp := .A
  issuer := .bam
  len := len
  fields := fields
  locked := bamLocked code
  act := fun _ s => later s

def bamGetStatusSpec : OpSpec :=
  bamSpec 0x0D00 (lenIs 4) fun ps _ =>
    decide (u8 ps 0 ≤ 1) && zeroAt ps 1 1 && (if u8 ps 0 == 0 then zeroAt ps 2 2 else decide (u16 ps 2 < 256))

def bamSessionOpenSpec : OpSpec :=
  bamSpec 0x0D01 (lenIs 24) fun ps _ =>
    decide (u8 ps 0 ≤ 2) && decide (u8 ps 1 < 16) && zeroAt ps 4 4 &&
      (if u8 ps 0 == 2 then zeroAt ps 2 2 && zeroAt ps 8 16 else decide (18 ≤ u16 ps 2) && decide (u16 ps 2 < 256))

def bamKeyInstallSpec : OpSpec :=
  bamSpec 0x0D02
    (fun ps => if u8 ps 0 == 0 then ps.length == 40 + pad4 (u16 ps 6) else ps.length == 40 || ps.length == 40 + trailerLen)
    fun ps _ =>
      let h := headerOf ps
      decide (u8 ps 0 ≤ 4) && zeroAt ps 1 1 && decide (u16 ps 2 < 256) &&
        (if u8 ps 0 == 0 then
          decide (1 ≤ u16 ps 6) && decide (u16 ps 6 ≤ 4040) && decide (u16 ps 4 + u16 ps 6 ≤ 4096) && zeroAt ps 8 32 &&
            zeroAt ps (40 + u16 ps 6) (pad4 (u16 ps 6) - u16 ps 6)
        else zeroAt ps 4 4 && (if u8 ps 0 == 4 then zeroAt ps 8 32
          else u16 ps 8 == u16 ps 2 && h.flags == 0 && h.keyLen == 0 && h.seq == 0 && decide (h.mask < 32))) &&
        (ps.length ≤ 44 || u8 ps 0 == 0 || (zeroAt ps 44 4 && zeroAt ps (40 + 3413) 3))

def bamSignSpec : OpSpec :=
  bamSpec 0x0D03 (fun ps => ps.length == 8 + pad4 (u32 ps 4)) fun ps _ =>
    decide (u16 ps 0 < 256) && decide (u8 ps 2 ≤ 1) && zeroAt ps 3 1 && decide (1 ≤ u32 ps 4) && decide (u32 ps 4 ≤ 4072) &&
      zeroAt ps (8 + u32 ps 4) (pad4 (u32 ps 4) - u32 ps 4)

def bamVerifySpec : OpSpec :=
  bamSpec 0x0D04 (fun ps => ps.length == 8 + pad4 (u16 ps 4) + pad4 (u16 ps 6)) fun ps _ =>
    decide (u16 ps 0 < 256) && (u8 ps 2 == 0 || u8 ps 2 == 2) && zeroAt ps 3 1 && decide (1 ≤ u16 ps 6) &&
      zeroAt ps (8 + u16 ps 4) (pad4 (u16 ps 4) - u16 ps 4) &&
      zeroAt ps (8 + pad4 (u16 ps 4) + u16 ps 6) (pad4 (u16 ps 6) - u16 ps 6)

def bamRandomSpec : OpSpec :=
  bamSpec 0x0D05 (lenIs 4) fun ps _ => decide (4 ≤ u32 ps 0) && decide (u32 ps 0 ≤ 4072) && u32 ps 0 % 4 == 0

/-- An 8-byte head with or without a trailer. -/
def headOrTrailer (ps : List Byte) : Bool := ps.length == 8 || ps.length == 8 + trailerLen

def trailerZeros (ps : List Byte) : Bool := ps.length == 8 || (zeroAt ps 12 4 && zeroAt ps (8 + 3413) 3)

def bamLifecycleSetSpec : OpSpec := bamSpec 0x0D06 headOrTrailer fun ps _ => zeroAt ps 1 7 && trailerZeros ps

def bamTamperPolicySpec : OpSpec :=
  bamSpec 0x0D07 headOrTrailer fun ps s =>
    decide (u8 ps 0 ≤ 1) && decide (u8 ps 1 ≤ 2) && zeroAt ps 3 5 && trailerZeros ps &&
      (u8 ps 0 == 1 || (decide (u8 ps 2 < 32) && (u8 ps 2).testBit 4 && (s.bam.lc == 0 || u8 ps 2 == 31)))

end Sys2Proof.Machine
end

