-- ==== Sys2Proof/Machine/Easel.lean ====
section
/-!
DEFINITION. Sys2Proof/Machine/Easel.lean: the schedule engine (R99 to R134): dispatch and overruns of strokes, the stroke buffer,
palette slots and loads, the decision point, the palette part of a canvas boundary, the EASEL_ pages and opcodes. The strokes
themselves are not state: each comes as a row, in palette order.
-/

namespace Sys2Proof.Machine

def State.slot (s : State) (n : Nat) : PalSlot := s.easel.slots.val {} n

def State.setSlot (s : State) (n : Nat) (x : PalSlot) : State :=
  { s with easel := { s.easel with slots := s.easel.slots.put {} n x } }

def State.lane (s : State) (l : Nat) : Lane := s.easel.lanes.val {} l

def State.setLane (s : State) (l : Nat) (x : Lane) : State :=
  { s with easel := { s.easel with lanes := s.easel.lanes.put {} l x } }

def State.partOvr (s : State) (p : Nat) : PartOvr := s.easel.parts.val {} p

def State.setPartOvr (s : State) (p : Nat) (x : PartOvr) : State :=
  { s with easel := { s.easel with parts := s.easel.parts.put {} p x } }

/-! ### Strokes (R101, R102) -/

/-- RESOURCE lies within its kind's range. -/
def strokeResOk (st : Stroke) : Bool :=
  match st.kind with
  | 0x01 => decide (st.res < 4)
  | 0x02 => decide (st.res < 5)
  | 0x10 | 0x11 => decide (st.res < 56)
  | 0x12 | 0x13 => decide (st.res < 6)
  | 0x14 => decide (st.res < 8)
  | 0x15 => decide (st.res < 16)
  | 0x20 => decide (st.res < 21)
  | 0x21 => decide (st.res < 16)
  | 0x22 => decide (st.res < 2)
  | 0x23 => decide (st.res < 12)
  | 0x30 => decide (st.res < 6)
  | 0x40 | 0x41 => st.res == 0
  | 0x7F => decide (st.res < 13)
  | _ => false

/-- The lane whose capacity the open strokes of a class reserve (R116). -/
def openLane (cls : Nat) : Nat :=
  if cls == 1 then 0 else if cls == 11 then 3
  else if cls == 5 || cls == 6 || cls == 7 || cls == 8 || cls == 9 || cls == 12 then 2 else 1

/-- An actuation stroke (R102, R107). -/
def actuates (st : Stroke) : Bool := decide (0x10 ≤ st.kind) && decide (st.kind ≤ 0x15)

/-- Two strokes act on one resource in one lane (R119). -/
def sameTarget (a b : Stroke) : Bool :=
  let k := fun (n : Nat) => if n == 0x11 then 0x10 else if n == 0x13 then 0x12 else n
  a.lane == b.lane && a.res == b.res && k a.kind == k b.kind

/-- The partition whose resource a stroke acts on; a window is the named partition's, what has no owner is P0's. -/
def State.strokeOwner (s : State) (st : Stroke) : Nat :=
  match st.kind with
  | 0x10 | 0x11 => s.owner clsLoad st.res
  | 0x12 | 0x13 => s.owner clsBridge st.res
  | 0x14 => s.owner clsXo st.res
  | 0x15 => s.owner clsPg st.res
  | 0x20 => s.owner clsPort st.res
  | 0x21 => s.owner clsCan st.res
  | 0x22 => s.owner clsFry st.res
  | 0x23 => s.owner clsLin st.res
  | 0x30 => if u8 st.arg 0 < 16 then u8 st.arg 0 else 0
  | _ => 0

/-- The 16 bytes of a stroke (R101). -/
def strokeBytes (h : StrokeHd) (st : Stroke) : List Byte :=
  leBytes 4 (pack [(0, 27, h.phase), (27, 3, st.lane), (30, 2, h.ovr)]) ++ leBytes 1 st.kind ++ leBytes 1 (b2n h.trace) ++
    leBytes 2 st.res ++ fit 8 st.arg

/-- The stroke, with its header, that 16 bytes spell (R101). -/
def strokeOf (bs : List Byte) : StrokeHd × Stroke :=
  let w := u32 bs 0
  (⟨w % 2 ^ 27, bits w 30 2, (u8 bs 5).testBit 0⟩, ⟨u8 bs 4, bits w 27 3, u16 bs 6, (bs.drop 8).take 8⟩)

/-! ### Canvas clock (R71, R99) -/

/-- floor(ZT / L). -/
def State.canvasNo (s : State) : Int := s.zt / (s.canvasNs : Int)

/-- ZT mod L, ns. -/
def State.phaseNs (s : State) : Nat := (s.zt % (s.canvasNs : Int)).toNat

/-- Easel dispatches: a palette runs, no realignment holds it, and the present instant lies in the canvas whose boundary has
been reached. -/
def State.dispatching (s : State) : Bool :=
  s.easel.running && !s.easel.realignHold && s.canvasNs != 0 && s.canvasNo == s.easel.canvasIdx

/-- A phase is due. -/
def State.isDue (s : State) (phase : Nat) : Bool := decide (phase < s.easel.canvasLen) && decide (8 * phase ≤ s.phaseNs)

/-- Time since a phase was due. -/
def State.lagOf (s : State) (phase : Nat) : Nat := s.phaseNs - 8 * phase

/-- The dispatch window of a lane, ns (R105). -/
def State.dispatchWindow (s : State) (l : Nat) : Nat :=
  (s.slot s.easel.run).windows.getD l ([256, 64, 64, 128, 1024].getD l 0)

/-! ### Stroke buffer (R111) -/

/-- Strokes held in the buffer. -/
def Easel.held (e : Easel) : Nat := (e.blocks.map fun b => b.2 - max b.1 e.idx).sum + e.head.getD 0

/-- A stroke of the canvas has been taken: its block is freed when it was its last. -/
def State.takeStroke (s : State) (phase : Nat) : State :=
  let e := { s.easel with idx := s.easel.idx + 1, phaseAt := phase }
  let e := { e with blocks := e.blocks.filter fun b => decide (e.idx < b.2) }
  { s with easel := { e with bufMin := min e.bufMin e.held } }

def State.inBuffer (s : State) : Bool :=
  s.easel.blocks.any fun b => decide (b.1 ≤ s.easel.idx) && decide (s.easel.idx < b.2)

/-- The stroke that falls due is not in the buffer: dispatch stops until its block arrives. -/
def State.bufferMiss (s : State) : State :=
  let i := s.easel.idx
  let s := { s with easel := { s.easel with miss := true } }
  ((s.laneSpecific 4).raiseOnce [0] 0x12C 4 i).fault 0x12C 1 0 0x1F 4 i 0 0

/-- A block of up to 1024 strokes from `first` on is filled, if one of the sixteen is free. -/
def State.fillBlock (s : State) (first count : Nat) : State :=
  if 16 ≤ s.easel.blocks.length then s
  else { s with easel := { s.easel with
    blocks := s.easel.blocks ++ [(first, min (first + count) (s.slot s.easel.run).strokes)] } }

/-- The block of a miss arrives. -/
def State.blockArrived (s : State) : State :=
  if s.easel.miss then
    let s := { s with easel := { s.easel with miss := false } }
    { s with easel := { s.easel with
      blocks := s.easel.blocks ++ [(s.easel.idx, min (s.easel.idx + 1024) (s.slot s.easel.run).strokes)] } }
  else s

/-! ### Overruns (R118, R119, R122, R123) -/

/-- One more overrun of class `ovr` in a lane, on the resources of partition `p`. -/
def State.countOverrun (s : State) (l ovr p : Nat) : State :=
  let x := s.lane l
  let s := s.setLane l (match ovr with
    | 0 => { x with skip := sat32 x.skip }
    | 1 => { x with late := sat32 x.late }
    | _ => { x with fault := sat32 x.fault })
  let y := s.partOvr p
  s.setPartOvr p { y with ctr := y.ctr.put 0 (3 * l + ovr) (sat32 (y.ctr.val 0 (3 * l + ovr))) }

/-- A stroke fault on the resources of partition `p`: the fourth within 1 s resets a partition other than P0, which is then
left HELD (R530). -/
def State.strokeFault (s : State) (src p data : Nat) : State :=
  let x := s.fltPart p
  let last := (s.et :: x.strokes.filter fun t => decide (s.et < t + nsS)).take 4
  if p != 0 && last.length == 4 then
    let s := (s.setFltPart p { x with strokes := [] }).fault src 2 3 p 1 data 0 0
    s.partReset p 4 false
  else (s.setFltPart p { x with strokes := last }).fault src 2 0 p 1 data 0 0

/-- The overrun of a stroke that was due at phase `h.phase`: counters, STROKE_OVERRUN and the fault collector. -/
def State.overrun (s : State) (h : StrokeHd) (st : Stroke) : State :=
  let p := s.strokeOwner st
  let due := s.et - s.lagOf h.phase
  let d := pack [(0, 8, st.kind), (8, 2, h.ovr), (16, 16, st.res)]
  let s := s.countOverrun st.lane h.ovr p
  let s := s.setLane st.lane { s.lane st.lane with lastPhase := h.phase, lastKind := st.kind, lastRes := st.res }
  let s := { s with easel := { s.easel with overrunTotal := sat32 s.easel.overrunTotal } }
  let s := s.setPartOvr p { s.partOvr p with last := ⟨due, 0x128 + st.lane, 1, d⟩ }
  let s := s.raiseOncePer due [0, p] (0x128 + st.lane) 1 d
  if h.ovr == 2 then s.strokeFault (0x128 + st.lane) p d else s.fault (0x128 + st.lane) 1 0 p 1 d 0 0

/-- LATE strokes that `f` picks are discarded unstarted: counted once more, in LANE_SKIP (R119). -/
def State.dropLate (s : State) (f : LateStroke → Bool) : State :=
  let gone := s.easel.late.filter f
  let s := { s with easel := { s.easel with late := s.easel.late.filter fun e => !f e } }
  gone.foldl (fun s e => s.countOverrun e.st.lane 0 (s.strokeOwner e.st)) s

/-! ### Dispatch (R104 to R107, R120) -/

/-- A dispatch is counted. -/
def State.countDispatch (s : State) (l lag : Nat) : State :=
  let x := s.lane l
  let s := s.setLane l { x with dispatched := wrap32 x.dispatched, maxLag := max x.maxLag (clip 16 lag) }
  let recent := s.et :: s.easel.recent.filter fun t => decide (s.et < t + 1000)
  { s with easel := { s.easel with
    recent := recent, lastDispatch := s.et, peakRate := max s.easel.peakRate (clip 10 recent.length) } }

/-- The trace of a stroke, where it asks for one. -/
def State.traceOf (s : State) (h : StrokeHd) (st : Stroke) (late : Bool) : Option TraceOf :=
  if h.trace then some ⟨s.et - s.lagOf h.phase, strokeBytes h st, late, s.easel.run⟩ else none

/-- The ristretto path has commanded the power-die resource of a stroke in the present slot (R106). -/
def State.overridden (s : State) (st : Stroke) : Bool :=
  if st.kind == 0x10 || st.kind == 0x11 then s.easel.risLink.val 0 st.res == s.et / 32 + 1
  else if st.kind == 0x12 || st.kind == 0x13 then s.easel.risLink.val 0 (56 + st.res) == s.et / 32 + 1
  else false

/-- The executor takes a stroke. A ROUTE stroke completes later, with its commit; any other here. -/
def State.startStroke (s : State) (h : StrokeHd) (st : Stroke) (late : Bool) (act : State → State) : State :=
  if actuates st && (!s.dev.armed || s.inReset (s.strokeOwner st)) then s
  else if s.overridden st then s.laneSpecific 1
  else if st.kind == 0x01 then act s
  else if st.kind == 0x30 && u8 st.arg 0 != 0xFF && (s.part (u8 st.arg 0)).st != 1 then act s
  else (act s).traceLog st.lane (s.traceOf h st late)

/-- What a stroke's row does: a LATE stroke that has overrun starts now; a stroke that is next in the palette and due is
dispatched, and meets its overrun here where it is beyond its window; one that the stroke store has lost only counts in
LANE_SKIP (R528). Otherwise the row has no effect. -/
def State.strokeDo (s : State) (h : StrokeHd) (st : Stroke) (act : Bool → State → State) : State :=
  if !strokeResOk st || !s.dispatching || !s.isDue h.phase then s
  else
    match s.easel.late.find? fun e => e.phase == h.phase && e.st == st with
    | some e =>
      if s.easel.miss && !e.counted then s
      else
        let s := { s with easel := { s.easel with late := s.easel.late.erase e } }
        let s := if e.counted then s else s.countDispatch st.lane (s.lagOf h.phase)
        s.startStroke h st true (act true)
    | none =>
      if s.easel.miss || s.et < s.easel.lastDispatch + 2 || (s.slot s.easel.run).strokes ≤ s.easel.idx ||
          h.phase < s.easel.phaseAt then s
      else if !s.inBuffer then s.bufferMiss
      else if s.easel.bad.contains (s.easel.run, s.easel.idx) then
        let x := s.lane st.lane
        (s.setLane st.lane { x with skip := sat32 x.skip }).takeStroke h.phase
      else
        let lag := s.lagOf h.phase
        let s := (s.dropLate fun e => sameTarget e.st st).takeStroke h.phase
        let s := s.countDispatch st.lane lag
        if lag ≤ s.dispatchWindow st.lane then s.startStroke h st false (act false)
        else
          let s := s.overrun h st
          if h.ovr == 1 then s.startStroke h st true (act true) else s

/-- STROKE_OVERRUN: a stroke has not started by its due phase plus its window. Its executor has not taken it, or dispatch
stands still for a block. -/
def State.strokeOverrun (s : State) (h : StrokeHd) (st : Stroke) : State :=
  if !strokeResOk st || !s.dispatching || !s.isDue h.phase || s.lagOf h.phase ≤ s.dispatchWindow st.lane ||
      (s.slot s.easel.run).strokes ≤ s.easel.idx || h.phase < s.easel.phaseAt then s
  else
    let counted := !s.easel.miss
    let s := (s.dropLate fun e => sameTarget e.st st).takeStroke h.phase
    let s := if counted then s.countDispatch st.lane 0 else s
    let s := s.overrun h st
    if h.ovr == 1 then { s with easel := { s.easel with late := s.easel.late ++ [⟨h.phase, st, counted⟩] } } else s

/-- PG_TRIGGER: the generator starts as PG_START would, at the ET of the due phase plus the delay. -/
def State.pgTrigger (s : State) (n phase delay : Nat) : State :=
  let t := s.et - s.lagOf phase + delay
  let x := s.pg n
  if !x.configured || x.st == 2 || t ≤ s.et then s else s.pgBegin n t

/-! ### Palette slots and loads (R113, R152) -/

/-- A palette section of the running image. -/
def State.palSection (s : State) (k : Nat) : PaletteRec := s.easel.sections.val {} k

def palPages (strokes : Nat) : Nat := ceilDiv strokes 256

def State.storeUsed (s : State) : Nat := (s.easel.slots.map fun x => x.2.pages).sum

/-- The first of the waiting loads starts; its slot takes its pages and reads LOADING. -/
def State.startLoad (s : State) : State :=
  match s.easel.loads with
  | [] => s
  | (n, k) :: _ =>
    let s := s.setSlot n { st := 1, sect := k, pages := palPages (s.palSection k).strokes }
    { s with easel := { s.easel with loadAt := s.et, bad := s.easel.bad.filter fun b => b.1 != n } }

/-- A load is asked for: it starts at once unless one is in progress. -/
def State.askLoad (s : State) (n k : Nat) : State :=
  let idle := s.easel.loads.isEmpty
  let s := { s with easel := { s.easel with loads := s.easel.loads ++ [(n, k)] } }
  if idle then s.startLoad
  else s.setSlot n { st := 1, sect := k, pages := palPages (s.palSection k).strokes }

/-- An acceptance record (R147). -/
def acceptRecord (code type pos image detail : Nat) : List Byte :=
  leBytes 1 code ++ leBytes 1 type ++ leBytes 1 pos ++ leBytes 1 0 ++ leBytes 4 image ++ leBytes 4 detail ++ leBytes 4 0

/-- The log record of a rejection (R534 type 1). -/
def State.acceptLog (s : State) (src : Nat) (rec_ : List Byte) : State := s.logRec ⟨s.et, src, 0, 1, rec_ ++ leBytes 4 0⟩

/-- A palette section of the running image failed: where its slot is on TRIAL it becomes FAILED (R152, R486). -/
def State.markFailed (s : State) : State :=
  let f := fun (x : SlotRec) => if x.st == 4 then { x with st := 7 } else x
  let r := s.upd.record
  match s.upd.started with
  | some 0 => { s with upd := { s.upd with record := { r with a := f r.a } } }
  | some _ => { s with upd := { s.upd with record := { r with b := f r.b } } }
  | none => s

/-- The load in progress ends with acceptance code `code`, 0 for a pass; a digest failure has been read again three times. -/
def State.paletteLoaded (s : State) (code detail : Nat) : State :=
  match s.easel.loads with
  | [] => s
  | (n, k) :: rest =>
    if !s.easel.running || (s.slot n).st != 1 then s
    else
      let r := s.palSection k
      let s := { s with easel := { s.easel with loads := rest } }
      let cmd := fun (o : Outst) => o.on 0x0201 n
      let s :=
        if code == 0 then
          let s := s.setSlot n { st := 2, sect := k, strokes := r.strokes, id := r.id, headLen := r.headLen
                                 pages := palPages r.strokes, windows := r.windows }
          if n < 4 then s
          else s.finishWhere cmd stOk (leBytes 4 r.strokes ++ leBytes 2 (palPages r.strokes) ++ leBytes 2 0)
        else
          let s := s.setSlot n { failed := decide (n < 4) }
          let s := s.acceptLog 0x12C (acceptRecord code 3 r.pos s.dev.imageId detail)
          if n < 4 then
            let d := pack [(0, 8, code), (8, 8, 3), (16, 8, r.pos)]
            ((s.raise [0] 0x12C 6 d).fault 0x12C 1 0 0x1F 6 d 0 0).markFailed
          else s.finishWhere cmd 0x0405 []
      -- slots 1, 2 and 3 in that order, before waiting commands
      let s := if n == 1 || n == 2 then { s with easel := { s.easel with loads := (n + 1, n + 1) :: s.easel.loads } } else s
      s.startLoad

/-! ### Decision point (R112, R114) -/

/-- The slot that the causes and PALETTE_SWITCH ask for, with the reason of a switch to it. -/
def State.wantedPalette (s : State) : Nat × Nat :=
  if s.dev.state == .sleepPrep then (3, 3)
  else if s.dev.causeCrank then (2, 2)
  else if s.dev.causeTemp || s.dev.causeSag || s.dev.causeTime then (1, 1)
  else (s.easel.normal, if 1 ≤ s.easel.run && s.easel.run ≤ 3 then 4 else 0)

/-- 20 µs before the closing boundary: the next palette is chosen and its head block fetched. `headOk` is false where that
fetch meets an uncorrectable error: the running palette runs one more canvas (R115). -/
def State.decisionPoint (s : State) (headOk : Bool) : State :=
  if !s.dispatching || s.easel.decided || s.phaseNs + 20000 < s.canvasNs then s
  else
    let w := s.wantedPalette
    let n := if (s.slot w.1).st == 2 || w.1 == s.easel.run then w.1 else s.easel.run
    let sw := (s.cmd.async.find? fun o => o.code == 0x0202 && o.started).map fun o => o.pk
    if headOk && !(s.easel.bad.any fun b => b.1 == n && decide (b.2 < (s.slot n).headLen)) then
      { s with easel := { s.easel with
        next := n, reason := w.2, decided := true, switchPending := n != s.easel.run, switchDue := sw
        head := some (s.slot n).headLen } }
    else
      let s := { s with easel := { s.easel with
        next := s.easel.run, decided := true, switchPending := false, switchDue := none
        head := some (s.slot s.easel.run).headLen } }
      s.fault 0x12C 4 0 0x1F 2 6 0 0

/-! ### Canvas boundary, the palette's part (R71, R76, R115, R119, R130) -/

/-- The boundary has been reached. -/
def State.atBoundary (s : State) : Bool :=
  s.canvasNs != 0 && decide (s.easel.canvasIdx < s.canvasNo)

/-- A palette starts in a slot. -/
def State.paletteStart (s : State) (n reason : Nat) : State :=
  let old := s.easel.run
  let s := if reason == 5 then s else s.setSlot old { s.slot old with st := if (s.slot old).st == 3 then 2 else (s.slot old).st }
  let s := s.setSlot n { s.slot n with st := 3 }
  let s := { s with easel := { s.easel with
    run := n, next := n, switchPending := false, lastSwitch := s.et
    switchCount := if reason == 5 then s.easel.switchCount else sat16 s.easel.switchCount } }
  s.raise [0] 0x12C 3 (pack [(0, 3, n), (4, 3, if reason == 5 then n else old), (8, 8, reason)])

/-- The PALETTE_SWITCH that waited for this boundary is answered. -/
def State.switchReply (s : State) : State :=
  match s.easel.switchDue with
  | none => s
  | some pk =>
    let s := { s with easel := { s.easel with switchDue := none } }
    s.finishWhere (fun o => o.code == 0x0202 && o.pk == pk) (if s.easel.run == u8 pk.params 0 then stOk else 0x0406) []

/-- A canvas begins at the present instant: no stroke of the old one is left, once-per-canvas events count anew. -/
def State.canvasBegin (s : State) : State :=
  let s := s.dropLate fun _ => true
  { s with
    easel := { s.easel with
      canvasIdx := s.canvasNo, canvasEt := s.et, decided := false, idx := 0, phaseAt := 0, miss := false
      blocks := match s.easel.head with | some n => [(0, n)] | none => [], head := none }
    dev := { s.dev with onceCanvas := [] } }

/-- A boundary while palettes run: a realignment that is due holds dispatch for a canvas; otherwise the palette chosen
starts. -/
def State.canvasTurn (s : State) : State :=
  let s := { s with easel := { s.easel with canvasCount := wrapAdd 64 s.easel.canvasCount 1 } }
  let refused := s.dev.armed && !s.time.cfg.realignArmed
  let was := s.time.realignPending
  let s := if was then s.realign else s
  if was && !refused then
    let head := s.easel.head
    let s := s.canvasBegin
    -- the head block fetched stays for the first canvas after the realignment
    { s with easel := { s.easel with
      realignHold := true, realignSkips := sat16 s.easel.realignSkips, blocks := [], head := head } }
  else
    let s := { s with easel := { s.easel with realignHold := false } }
    let s := if s.easel.next != s.easel.run && (s.slot s.easel.next).st == 2 then s.paletteStart s.easel.next s.easel.reason
      else { s with easel := { s.easel with next := s.easel.run, switchPending := false } }
    s.switchReply.canvasBegin

/-! ### Status pages (R125 to R127) -/

def State.easelPage0 (s : State) : List Nat :=
  let e := s.easel
  [ pack [(0, 3, e.run), (3, 1, b2n e.running), (4, 3, e.normal), (8, 3, e.next), (11, 1, b2n e.switchPending),
      (12, 1, b2n e.realignHold)],
    e.canvasLen, lo32 e.canvasCount, hi32 e.canvasCount, pack [(0, 16, e.switchCount), (16, 16, e.realignSkips)],
    pack [(0, 10, e.peakRate), (16, 15, e.bufMin)], s.storeUsed, e.overrunTotal, lo32 e.lastSwitch, hi32 e.lastSwitch ]

def State.laneWords (s : State) (l : Nat) : List Nat :=
  let x := s.lane l
  [ x.dispatched, x.skip, x.late, x.fault, x.maxLag, x.specific, if l == 5 then s.easel.risMax else 0, x.lastPhase,
    pack [(0, 8, x.lastKind), (16, 16, x.lastRes)] ]

def State.slotWords (s : State) (n : Nat) : List Nat :=
  let x := s.slot n
  [pack [(0, 2, x.st), (8, 8, x.sect)], x.strokes, x.id, x.headLen, x.pages]

/-! ### Opcodes (R128 to R134) -/

def easelGetStatusSpec : OpSpec where
  code := 0x0200
  comp := .S
  issuer := .any
  len := lenIs 0
  act := fun _ s =>
    let e := s.easel
    okWith (leBytes 1 e.run ++ leBytes 1 e.normal ++ leBytes 1 e.next ++
      leBytes 1 (pack [(0, 1, b2n e.switchPending), (1, 1, b2n e.realignHold), (2, 1, b2n e.running)]) ++
      leBytes 4 e.canvasLen ++ leBytes 8 e.canvasCount ++ leBytes 4 e.overrunTotal ++ leBytes 2 s.storeUsed ++
      leBytes 2 e.switchCount ++ leBytes 8 e.lastSwitch) s

/-- The slot is running, is the normal slot, or is LOADING. -/
def State.slotInUse (s : State) (n : Nat) : Bool := (s.slot n).st == 3 || (s.slot n).st == 1 || s.easel.normal == n

def paletteLoadSpec : OpSpec where
  code := 0x0201
  comp := .A
  issuer := .p0
  len := lenIs 8
  fields := fun ps _ => decide (u8 ps 0 < 8) && decide (u8 ps 1 < 16) && zeroAt ps 2 2
  key := fun ps => u8 ps 0 + 1
  check := fun pk s =>
    let n := u8 pk.params 0
    let r := s.palSection (u8 pk.params 1)
    if n < 4 then 0x0400
    else if s.slotInUse n then 0x0402
    else if r.strokes == 0 then 0x0403
    else if r.id != u32 pk.params 4 then 0x0404 else stOk
  act := fun pk s =>
    let n := u8 pk.params 0
    let k := u8 pk.params 1
    let s := s.setSlot n {}
    if 24576 < s.storeUsed + palPages (s.palSection k).strokes then fail stNoResource s
    else later (s.askLoad n k)

def paletteSwitchSpec : OpSpec where
  code := 0x0202
  comp := .A
  issuer := .p0
  len := lenIs 8
  fields := fun ps _ => decide (u8 ps 0 < 8) && zeroAt ps 1 3
  check := fun pk s =>
    let n := u8 pk.params 0
    if 1 ≤ n && n ≤ 3 then 0x0400
    else if (s.slot n).st < 2 then 0x0401
    else if (s.slot n).id != u32 pk.params 4 then 0x0404 else stOk
  act := fun pk s =>
    -- an earlier PALETTE_SWITCH that no decision point has taken is replaced
    let s := s.finishWhere (fun o => o.code == 0x0202 && o.started && o.pk != pk && s.easel.switchDue != some o.pk) 0x0407 []
    later { s with easel := { s.easel with normal := u8 pk.params 0 } }

def paletteUnloadSpec : OpSpec where
  code := 0x0203
  comp := .A
  issuer := .p0
  len := lenIs 4
  fields := fun ps _ => decide (u8 ps 0 < 8) && zeroAt ps 1 3
  key := fun ps => u8 ps 0 + 1
  check := fun pk s =>
    let n := u8 pk.params 0
    if n < 4 then 0x0400 else if s.slotInUse n then 0x0402 else stOk
  act := fun pk s => ok (s.setSlot (u8 pk.params 0) {})

def easelGetOverrunsSpec : OpSpec where
  code := 0x0204
  comp := .S
  issuer := .ownP0
  len := lenIs 4
  fields := fun ps _ => decide (u8 ps 0 < 16) && zeroAt ps 1 3
  owners := fun ps _ => [u8 ps 0]
  key := fun ps => 0x100 + u8 ps 0
  act := fun pk s =>
    let x := s.partOvr (u8 pk.params 0)
    okWith (((upFrom 0 15).map fun i => leBytes 4 (x.ctr.val 0 i)).flatten ++ leBytes 4 x.risLate ++ x.last.bytes) s

def easelClearCountersSpec : OpSpec where
  code := 0x0205
  comp := .S
  issuer := .p0
  len := lenIs 4
  fields := fun ps _ => decide (u32 ps 0 < 256)
  act := fun pk s =>
    let m := u32 pk.params 0
    let clear := fun (l : Nat) (x : Lane) => if m.testBit l then { dispatched := x.dispatched : Lane } else x
    let e := { s.easel with lanes := s.easel.lanes.mapV clear, risMax := if m.testBit 5 then 0 else s.easel.risMax }
    let e := if m.testBit 6 then { e with peakRate := 0, bufMin := e.held, overrunTotal := 0 } else e
    ok { s with easel := if m.testBit 7 then { e with parts := [] } else e }

end Sys2Proof.Machine
end

