-- ==== Sys2Proof/Machine/Upd.lean ====
section
/-!
DEFINITION. Sys2Proof/Machine/Upd.lean: the update manager (R479 to R498): slot states, selection at a start, chunks, relay,
varnish and fall-back, the UPD_ page and opcodes.
-/

namespace Sys2Proof.Machine

/-! ### Slots (R482, R485) -/

def State.slotRec (s : State) (i : Nat) : SlotRec := if i == 0 then s.upd.record.a else s.upd.record.b

def State.setSlotRec (s : State) (i : Nat) (x : SlotRec) : State :=
  let r := s.upd.record
  { s with upd := { s.upd with record := if i == 0 then { r with a := x } else { r with b := x } } }

/-- The slot that is not running: sketches are written there (R483). -/
def State.spareSlot (s : State) : Nat := 1 - s.dev.activeSlot

/-- The slot in a state, if any. -/
def State.slotIn (s : State) (st : Nat) : Option Nat :=
  if (s.slotRec 0).st == st then some 0 else if (s.slotRec 1).st == st then some 1 else none

/-- A slot is started. -/
def State.slotStart (s : State) (i : Nat) : State :=
  let x := s.slotRec i
  { s with
    dev := { s.dev with activeSlot := i }
    upd := { s.upd with started := some i, startState := x.st, startLeft := if x.st == 4 then x.trialLeft else 0 } }

/-- No slot is left to start: none has been selected. -/
def State.slotNone (s : State) : State := { s with upd := { s.upd with started := none } }

/-- A fall-back to slot `i`. -/
def State.fallBack (s : State) (i cause : Nat) : State :=
  let s := { s with upd := { s.upd with
    fallback := some (i, cause), record := { s.upd.record with fallbacks := sat16 s.upd.record.fallbacks } } }
  s.slotStart i

/-- The primer selects the slot to start. -/
def State.selectSlot (s : State) : State :=
  let s := match s.slotIn 3 with
    | some i => s.setSlotRec i { s.slotRec i with st := 4, trialLeft := (s.slotRec i).trialStarts }
    | none => s
  match s.slotIn 4 with
  | some i =>
    let x := s.slotRec i
    if 0 < x.trialLeft then (s.setSlotRec i { x with trialLeft := x.trialLeft - 1 }).slotStart i
    else
      let s := s.setSlotRec i { x with st := 7 }
      match s.slotIn 5 with
      | some j => s.fallBack j 0
      | none => s.slotNone
  | none =>
    match s.slotIn 5 with
    | some j => s.slotStart j
    | none => s.slotNone

/-- The started slot fails its checks: it becomes FAILED, and the ACTIVE slot, or from ACTIVE the PREVIOUS one, is started. -/
def State.slotFails (s : State) : State :=
  match s.upd.started with
  | none => s
  | some i =>
    let x := s.slotRec i
    let s := s.setSlotRec i { x with st := 7 }
    if x.st == 4 then
      match s.slotIn 5 with
      | some j => s.fallBack j 1
      | none => s.slotNone
    else
      match s.slotIn 6 with
      | some j => (s.setSlotRec j { s.slotRec j with st := 5 }).fallBack j 1
      | none => s.slotNone

/-- Entry to RUN: SLOT_STARTED, FALLBACK, and the health window of a TRIAL slot (R485, R486). -/
def State.updRun (s : State) : State :=
  match s.upd.started with
  | none => s
  | some i =>
    let x := s.slotRec i
    let s := s.raise [0] 0x168 5 (pack [(0, 1, i), (1, 3, s.upd.startState), (4, 4, s.upd.startLeft)])
    let s := match s.upd.fallback with
      | some (j, c) => s.raise [0] 0x168 8 (pack [(0, 1, j), (4, 2, c)])
      | none => s
    { s with upd := { s.upd with
      fallback := none, healthEnd := if x.st == 4 then some (s.et + x.health * nsS) else none } }

/-- The health window has expired (R486). -/
def State.healthExpired (s : State) : State :=
  match s.upd.healthEnd with
  | none => s
  | some t =>
    let i := s.dev.activeSlot
    let x := s.slotRec i
    if s.et < t || x.st != 4 || !s.active then s
    else
      let s := s.setSlotRec i { x with st := 7 }
      ({ s with upd := { s.upd with healthEnd := none } }).raise [0] 0x168 7 x.version

/-! ### Chunks (R479, R484, R490) -/

def fragLen : Nat := 2048
def chunkLen : Nat := 1048576

/-- A fragment by number, from a table of fragments. -/
def fragAt (t : Tab (List Byte)) (k : Nat) : List Byte := t.val [] k

/-- `n` bytes of a chunk from offset `o` on. -/
def chunkBytes (t : Tab (List Byte)) (o n : Nat) : List Byte :=
  let first := o / fragLen
  let last := (o + n + fragLen - 1) / fragLen
  ((((upFrom first (last - first)).map fun k => fit fragLen (fragAt t k)).flatten).drop (o - first * fragLen)).take n

/-- Chunk 0 of the sketch: as programmed, or as staged while it is being written. -/
def State.firstChunk (s : State) : Tab (List Byte) :=
  if (s.slotRec s.spareSlot).committed == 0 then s.upd.staged else s.upd.flash.val [] (s.spareSlot * 192)

/-- The end of the image: that of its last component (R479, R480). -/
def imageEnd (t : Tab (List Byte)) : Nat :=
  let dir := chunkBytes t 0 2112
  let ends := (upFrom 0 (min 32 (u8 dir 22))).map fun i => u32 dir (64 + 64 * i + 4) + u32 dir (64 + 64 * i + 8)
  ends.foldl max 16384

/-- Fragments that chunk `c` of the sketch needs. -/
def State.fragsOf (s : State) (c : Nat) : Nat :=
  if c + 1 < (s.slotRec s.spareSlot).chunks then 512
  else min 512 (max 1 (ceilDiv (imageEnd s.firstChunk - c * chunkLen) fragLen))

/-- All fragments of the chunk at the committed count are staged. -/
def State.chunkFull (s : State) : Bool :=
  let c := (s.slotRec s.spareSlot).committed
  (c != 0 || (!(fragAt s.upd.staged 0).isEmpty && !(fragAt s.upd.staged 1).isEmpty)) &&
    (upFrom 0 (s.fragsOf c)).all fun k => !(fragAt s.upd.staged k).isEmpty

/-! ### Relay (R491, R492) -/

/-- One chunk is copied into its half, where one is due and the half is free. -/
def State.relayStep (s : State) : State :=
  let u := s.upd
  let i := if u.method == 1 then s.dev.activeSlot else s.spareSlot
  let x := s.slotRec i
  let ready := if u.method == 1 then x.st == 5 && decide (u.relayNext < x.chunks) else decide (u.relayNext < x.committed)
  let h := u.relayNext % 2
  if !u.relayOn || !ready || u.relayFull.testBit h then s
  else
    let frags := u.flash.val [] (i * 192 + u.relayNext)
    let put := fun (s : State) (f : Nat × List Byte) => s.store (u.relayBuf + h * chunkLen + f.1 * fragLen) f.2
    let s := frags.foldl put s
    { s with upd := { s.upd with relayFull := setBit s.upd.relayFull h true, relayNext := s.upd.relayNext + 1 } }

/-- Chunks are copied while there are some and a half is free. -/
def State.relayPump (s : State) : State := s.relayStep.relayStep

/-- The half for the chunk to be staged next is full: its fragments are not accepted. -/
def State.relayBusy (s : State) : Bool :=
  s.upd.relayOn && s.upd.method == 0 && s.upd.relayFull.testBit ((s.slotRec s.spareSlot).committed % 2)

/-! ### Commit of a chunk (R484) -/

/-- The UPD_CHUNK that completed the chunk is answered. -/
def State.chunkReply (s : State) (status : Nat) (result : List Byte) : State :=
  s.finishWhere (fun o => o.code == 0x0E02 && o.started) status result

/-- The chunk is discarded with its fragments. -/
def State.chunkDrop (s : State) (status : Nat) : State :=
  ({ s with upd := { s.upd with staged := [], committing := false } }).chunkReply status
    (leBytes 4 (s.slotRec s.spareSlot).committed)

/-- Without a root or with Bamlys halted, check 6 fails for every image (R451, R466). -/
def State.acceptCode (s : State) (code : Nat) : Nat :=
  if (!s.bam.rootOk || s.bam.halted || !s.bam.serving) && (code == 0 || 6 < code) then 6 else code

/-- The last chunk is committed: the completion checks (R150, R484). -/
def State.sketchEnd (s : State) (c : ChunkResult) : State :=
  let i := s.spareSlot
  let x := s.slotRec i
  let code := s.acceptCode c.accept
  if code == 0 then
    ((s.setSlotRec i { x with st := 2 }).raise [0] 0x168 3 x.sketch).chunkReply stOk (leBytes 4 x.committed)
  else
    let rec_ := if code == c.accept then fit 16 c.record else acceptRecord code 0 0 0 0
    let s := (s.setSlotRec i { x with st := 7 }).acceptLog 0x168 rec_
    (s.raise [0] 0x168 4 (code % 256)).chunkReply 0x1006 rec_

/-- The chunk at the committed count has been checked, and programmed where its digest holds. -/
def State.chunkCommit (s : State) (c : ChunkResult) : State :=
  let i := s.spareSlot
  let x := s.slotRec i
  if !s.upd.committing || s.feedBelow6 || x.st != 1 then s
  else if !c.digestOk then
    let r := s.upd.record
    ({ s with upd := { s.upd with record := { r with digestFails := sat16 r.digestFails } } }).chunkDrop 0x1003
  else
    let dir := chunkBytes s.upd.staged 0 64
    let first := x.committed == 0
    if first && !c.sigOk then s.chunkDrop 0x1004
    else if first && (u32 dir 8 != x.sketch || u32 dir 12 != s.upd.beginVersion || u16 dir 20 != s.upd.beginChunks) then
      s.chunkDrop 0x1001
    else
      let x := if first then { x with version := u32 dir 12, minPeer := u32 dir 16, chunks := u16 dir 20
                                      trialStarts := u8 dir 23, health := u16 dir 24 } else x
      let n := x.committed
      let s := { s with upd := { s.upd with
        flash := s.upd.flash.put [] (i * 192 + n) s.upd.staged, staged := [], committing := false } }
      let s := s.setSlotRec i { x with committed := n + 1 }
      let was := s.upd.relayNext
      let s := s.relayPump
      let filled := was ≤ n && n < s.upd.relayNext
      let s := s.raise [0] 0x168 2 (pack [(0, 8, n), (8, 1, if filled then n % 2 else 0), (9, 1, b2n !filled)])
      if n + 1 == x.chunks then s.sketchEnd c else s.chunkReply stOk (leBytes 4 (n + 1))

/-! ### Commands (R489, R495 to R497) -/

def beginResult (x : SlotRec) : List Byte :=
  leBytes 2 x.committed ++ leBytes 1 x.st ++ leBytes 1 0 ++ leBytes 2 x.chunks ++ leBytes 2 0

def State.updBegin (s : State) (ps : List Byte) : State × Nat × List Byte :=
  let i := s.spareSlot
  let x := s.slotRec i
  let id := u32 ps 0
  let s := { s with upd := { s.upd with
    beginVersion := u32 ps 4, beginChunks := u16 ps 8, method := u8 ps 10, downstream := bits (u8 ps 11) 2 2
    relayOn := u16 ps 12 != 0xFFFF, relayBuf := u64 ps 16, relayNext := if u16 ps 12 == 0xFFFF then 0 else u16 ps 12
    relayFull := 0 } }
  let s :=
    if x.sketch == id && x.st == 1 then s.raise [0] 0x168 9 x.committed
    else if x.sketch == id && (x.st == 2 || x.st == 3) then s
    else
      let s := s.setSlotRec i { st := 1, sketch := id, version := u32 ps 4, chunks := u16 ps 8 }
      ({ s with upd := { s.upd with staged := [], committing := false } }).raise [0] 0x168 1 0
  let s := s.relayPump
  (s, stOk, beginResult (s.slotRec i))

def State.updActivate (s : State) (ps : List Byte) : State × Nat × List Byte :=
  let i := s.spareSlot
  let s := s.setSlotRec i { s.slotRec i with st := 3 }
  ({ s with upd := { s.upd with activateAt := if u8 ps 4 == 1 then some (s.et + nsMs) else none } }, stOk, [])

def State.updVarnish (s : State) (_ : List Byte) : State × Nat × List Byte :=
  let i := s.dev.activeSlot
  let x := s.slotRec i
  let y := s.slotRec (1 - i)
  let s := (s.setSlotRec i { x with st := 5 }).setSlotRec (1 - i) { y with st := if y.st == 5 then 6 else y.st }
  let s := { s with upd := { s.upd with
    record := { s.upd.record with varnished := x.version }, healthEnd := none
    relayNext := if s.upd.method == 1 then 0 else s.upd.relayNext } }
  ((s.raise [0] 0x168 6 x.version).relayPump, stOk, [])

/-- The slot that holds a sketch in a state that UPD_ABORT acts on. -/
def State.abortSlot (s : State) (id : Nat) : Option Nat :=
  [s.spareSlot, s.dev.activeSlot].find? fun i =>
    (s.slotRec i).sketch == id && (s.slotRec i).st != 0 && (s.slotRec i).st != 6 && (s.slotRec i).st != 7

def State.updAbort (s : State) (ps : List Byte) : State × Nat × List Byte :=
  match s.abortSlot (u32 ps 0) with
  | none => (s, 0x1000, [])
  | some i =>
    let x := s.slotRec i
    if x.st == 4 then
      let s := s.setSlotRec i { x with st := 7 }
      ({ s with upd := { s.upd with healthEnd := none } }, stOk, [])
    else
      let s := if s.upd.committing then s.chunkDrop 0x1000 else { s with upd := { s.upd with staged := [] } }
      (s.setSlotRec i {}, stOk, [])

/-- The action of an update command that writes the slot state record. -/
def updAct (code : Nat) (ps : List Byte) (s : State) : State × Nat × List Byte :=
  match code with
  | 0x0E01 => s.updBegin ps
  | 0x0E03 => s.updActivate ps
  | 0x0E04 => s.updVarnish ps
  | _ => s.updAbort ps

/-- The action now, or once FEED12 is back above 6.0 V (R482). -/
def updRunOr (code : Nat) (pk : Packet) (s : State) : ActRes :=
  if s.feedBelow6 then later s
  else let r := updAct code pk.params s; ⟨r.1, some r.2⟩

/-- FEED12 is above 6.0 V again: record writes that wait are begun. -/
def State.flashResume (s : State) (v : Nat) : State :=
  if v < 600 then s
  else
    let s := s.feedV 0 v
    let waits := s.cmd.async.filter fun o =>
      o.started && (o.code == 0x0E01 || o.code == 0x0E03 || o.code == 0x0E04 || o.code == 0x0E05)
    waits.foldl (fun s o => let r := updAct o.code o.pk.params s; r.1.finishAsync o r.2.1 r.2.2) s

def State.healthLeft (s : State) : Nat :=
  match s.upd.healthEnd with
  | some t => clip 16 ((t - s.et) / nsS)
  | none => 0

/-- Page 0 (R494). -/
def State.updPage0 (s : State) : List Nat :=
  let u := s.upd
  let x := s.slotRec s.spareSlot
  [ pack [(0, 3, u.record.a.st), (4, 3, u.record.b.st), (8, 1, s.dev.activeSlot), (12, 1, u.method),
      (16, 4, (s.slotRec s.dev.activeSlot).trialLeft)],
    x.sketch, pack [(0, 8, x.committed), (16, 8, x.chunks)], s.dev.imageVersion, u.record.varnished,
    pack [(0, 16, s.healthLeft), (16, 10, u.staged.length)], pack [(0, 2, u.relayFull), (8, 8, u.relayNext)],
    pack [(0, 16, u.record.fallbacks), (16, 16, u.record.digestFails)] ]

def updGetStatusSpec : OpSpec where
  code := 0x0E00
  comp := .S
  issuer := .p0
  len := lenIs 0
  act := fun _ s => okWith (wordBytes s.updPage0) s

/-- A relay buffer of 2 MB lies in P0's DRAM grant, aligned to 1 MB (R491). -/
def State.relayOk (s : State) (ps : List Byte) : Bool :=
  if u16 ps 12 == 0xFFFF then u64 ps 16 == 0
  else
    let x := s.part 0
    decide (u16 ps 12 < 192) && u64 ps 16 % chunkLen == 0 && decide (x.dramBase ≤ u64 ps 16) &&
      decide (u64 ps 16 + 2 * chunkLen ≤ x.dramBase + x.dramSize)

def updBeginSpec : OpSpec where
  code := 0x0E01
  comp := .A
  issuer := .p0
  len := lenIs 24
  fields := fun ps s =>
    u32 ps 0 != 0 && decide (1 ≤ u16 ps 8) && decide (u16 ps 8 ≤ 192) && decide (u8 ps 10 ≤ 1) &&
      u8 ps 11 % 4 != 3 && bits (u8 ps 11) 2 2 != 3 && decide (u8 ps 11 < 16) && zeroAt ps 14 2 && s.relayOk ps
  check := fun pk s =>
    let ps := pk.params
    if (s.slotRec s.dev.activeSlot).st == 4 then 0x100B
    else if u8 ps 10 == 0 && (u8 ps 11 % 4 == 2 || bits (u8 ps 11) 2 2 == 2) then 0x100A
    else if u32 ps 4 ≤ s.upd.record.varnished && s.bam.lc != 0 && s.bam.lc != 3 then 0x1005 else stOk
  act := updRunOr 0x0E01

/-- The sketch that UPD_CHUNK names is in the slot that is not running, and not started. -/
def State.chunkSketch (s : State) (ps : List Byte) : Bool :=
  let x := s.slotRec s.spareSlot
  let y := s.slotRec s.dev.activeSlot
  (x.sketch == u32 ps 0 && decide (1 ≤ x.st) && decide (x.st ≤ 3)) ||
    (u8 ps 4 == 1 && s.upd.method == 1 && y.sketch == u32 ps 0 && y.st == 5)

def updChunkSpec : OpSpec where
  code := 0x0E02
  comp := .A
  issuer := .p0
  len := fun ps => ps.length == 16 + (if u8 ps 4 == 0 then u16 ps 10 else 0)
  fields := fun ps s =>
    decide (u8 ps 4 ≤ 1) && decide (u8 ps 5 ≤ u8 ps 4) && decide (u16 ps 6 < 192) && decide (u16 ps 8 < 512) &&
      zeroAt ps 12 4 &&
      (if u8 ps 4 == 1 then u16 ps 10 == 0
       else u16 ps 10 == 2048 || (decide (4 ≤ u16 ps 10) && decide (u16 ps 10 < 2048) && u16 ps 10 % 4 == 0 &&
         u16 ps 6 + 1 == (s.slotRec s.spareSlot).chunks))
  busy := fun pk s =>
    u8 pk.params 4 == 0 && u16 pk.params 6 == (s.slotRec s.spareSlot).committed && s.relayBusy
  check := fun pk s =>
    let ps := pk.params
    let x := s.slotRec s.spareSlot
    if !s.chunkSketch ps then 0x1000
    else if u8 ps 4 == 1 then stOk
    else if x.committed < u16 ps 6 || (u16 ps 6 == x.committed && x.st != 1) then 0x1002 else stOk
  act := fun pk s =>
    let ps := pk.params
    let x := s.slotRec s.spareSlot
    let done := fun (s : State) => okWith (leBytes 4 (s.slotRec s.spareSlot).committed) s
    if u8 ps 4 == 1 then
      done ({ s with upd := { s.upd with relayFull := setBit s.upd.relayFull (u8 ps 5) false } }).relayPump
    else if u16 ps 6 < x.committed || s.upd.committing then done s
    else
      let s := { s with upd := { s.upd with staged := s.upd.staged.put [] (u16 ps 8) (ps.drop 16) } }
      if s.chunkFull then later { s with upd := { s.upd with committing := true } } else done s

def updActivateSpec : OpSpec where
  code := 0x0E03
  comp := .A
  issuer := .p0
  len := lenIs 12
  fields := fun ps s => decide (u8 ps 4 ≤ 1) && zeroAt ps 5 3 && (s.upd.method == 1 || u32 ps 8 == 0)
  check := fun pk s =>
    let x := s.slotRec s.spareSlot
    if x.st != 2 || x.sketch != u32 pk.params 0 then 0x1000
    else if s.upd.method == 1 && u32 pk.params 8 < x.minPeer then 0x1009 else stOk
  act := updRunOr 0x0E03

def updVarnishSpec : OpSpec where
  code := 0x0E04
  comp := .A
  issuer := .p0
  len := lenIs 4
  check := fun pk s =>
    let x := s.slotRec s.dev.activeSlot
    let ended := match s.upd.healthEnd with | some t => decide (t ≤ s.et) | none => false
    if x.st == 7 || (x.st == 4 && ended) then 0x1008
    else if x.st != 4 then 0x1007
    else if x.sketch != u32 pk.params 0 then 0x1000 else stOk
  act := updRunOr 0x0E04

def updAbortSpec : OpSpec where
  code := 0x0E05
  comp := .A
  issuer := .p0
  len := lenIs 4
  check := fun pk s =>
    match s.abortSlot (u32 pk.params 0) with
    | none => 0x1000
    | some i => if (s.slotRec i).st == 5 then stWrongState else stOk
  act := updRunOr 0x0E05

end Sys2Proof.Machine
end

