-- ==== Sys2Proof/Machine/Wake.lean ====
section
/-!
DEFINITION. Sys2Proof/Machine/Wake.lean: sleep entry and its phases, wake lines, the WAKE_ page and opcodes (R499 to R517).
-/

namespace Sys2Proof.Machine

def State.wki (s : State) (n : Nat) : Wki := s.wake.wki.val {} n
def State.wko (s : State) (n : Nat) : Wko := s.wake.wko.val {} n
def State.wakeSet (s : State) (n : Nat) : WakeSet := s.wake.sets.val {} n

/-- The wake set of the request in progress. -/
def State.curSet (s : State) : WakeSet := s.wakeSet s.wake.set

/-- A line in its active level (R507). -/
def State.wkiOn (s : State) (n : Nat) : Bool := (s.wki n).enabled && s.wake.wkiLevel.testBit n == (s.wki n).high

/-- The ignition line is active. -/
def State.ignitionOn (s : State) : Bool := (s.wki 0).ignition && s.wkiOn 0

/-- A detector is armed for the sleep request: map bit of R506. -/
def State.armDetector (s : State) (bit : Nat) : State :=
  { s with wake := { s.wake with armed := setBit s.wake.armed bit true } }

/-! ### Arming (R500, R501) -/

/-- 1 s after acceptance the prep time starts to count, where palette 3 was still to load. -/
def State.prepFallback (s : State) : State :=
  let w := s.wake
  if w.phase == 1 && w.slot3 == 1 && w.prepFrom.isNone && decide (w.acceptEt + nsS ≤ s.et) then
    { s with wake := { w with prepFrom := some (w.acceptEt + nsS) } }
  else s

/-- Palette 3 runs from a boundary of SLEEP-PREP on: the prep time counts from its start. -/
def State.prepStart (s : State) : State :=
  let w := s.wake
  if w.phase == 1 && s.easel.run == 3 && w.prepFrom.isNone then { s with wake := { w with prepFrom := some s.et } } else s

/-- Every detector of the set is armed: ARMED. -/
def State.armedCheck (s : State) : State :=
  let w := s.wake
  if w.phase == 2 && w.tc10Wait.isEmpty then
    ({ s with wake := { w with phase := 3 } }).raise [0] 0x174 2 (clip 16 ((s.et - w.armEt) / 1000))
  else s

/-- The WKI lines of the set are latched; a line in level mode that is already active is a wake before commit. -/
def State.armLines (s : State) : State :=
  (upFrom 0 4).foldl (fun s n =>
    if !s.beforeCommit || !s.curSet.wki.testBit n || !(s.wki n).enabled then s
    else
      let s := s.armDetector n
      if (s.wki n).level && s.wkiOn n then (s.noteSource (0x10 + n)).sleepAbort (0x10 + n) false else s) s

def State.armCan (s : State) : State :=
  (upFrom 0 16).foldl (fun s n =>
    if s.curSet.can.testBit n && (s.canOf n).cfg.enabled then (s.canSleep n).armDetector (4 + n) else s) s

def State.armLin (s : State) : State :=
  (upFrom 0 12).foldl (fun s n =>
    if s.curSet.lin.testBit n && (s.linOf n).cfg.enabled then
      (if (s.linOf n).st == 2 then s else s.linSleep n 0).armDetector (20 + n)
    else s) s

/-- A port asleep already is armed; any other goes through TC10 sleep. -/
def State.armPorts (s : State) : State :=
  (upFrom 0 12).foldl (fun s p =>
    let x := s.prtOf p
    if !s.curSet.ports.testBit p || !x.cfg.enabled then s
    else if x.st == 3 then s.armDetector (32 + p)
    else
      let s := s.setPrt p { x with sleepDue := some (x.sleepDue.getD (s.et + 16 * nsMs)) }
      { s with wake := { s.wake with tc10Wait := s.wake.tc10Wait ++ [p] } }) s

/-- The prep time has elapsed: ARMING. -/
def State.sleepArming (s : State) : State :=
  let w := s.wake
  match w.prepFrom with
  | none => s
  | some t =>
    if w.phase != 1 || s.et < t + w.prepMs * nsMs then s
    else
      let s := ({ s with wake := { w with phase := 2, armEt := s.et } }).armLines
      if s.wake.phase != 2 then s else s.armCan.armLin.armPorts.armedCheck

/-- A partner acknowledges: during ARMING its port is one of the set's. -/
def State.tc10Acked (s : State) (p : Nat) : State :=
  let waits := s.wake.tc10Wait.contains p
  let s := s.tc10Asleep p
  if waits && !s.wake.tc10Wait.contains p then (s.armDetector (32 + p)).armedCheck else s

/-- No acknowledgement within 16 ms of ARMING: the port is powered down with its detector armed. -/
def State.tc10Force (s : State) (p : Nat) : State :=
  let w := s.wake
  if w.phase != 2 || !w.tc10Wait.contains p || s.et < (s.prtOf p).sleepDue.getD (w.armEt + 16 * nsMs) then s
  else
    let s := (s.portSleep p 1).tc10End p 0x0904
    let s := { s with wake := { s.wake with
      tc10Wait := s.wake.tc10Wait.filter (· != p), tc10Forced := sat16 s.wake.tc10Forced } }
    (s.armDetector (32 + p)).armedCheck

/-! ### Commit point (R54, R502) -/

/-- Every command that has not started, and every outstanding one but the sleep request, completes with WRONG_STATE. -/
def State.endCommands (s : State) : State :=
  let queued := (s.cmd.queues.map fun q => q.2).flatten
  let held := s.cmd.held.filter fun h => !(s.cmd.async.any fun o => o.pk == h.pk)
  let s := { s with cmd := { s.cmd with queues := [], held := [] } }
  let s := queued.foldl (fun s q => s.finalReply q.code q.pk stWrongState []) s
  let s := held.foldl (fun s h => s.finalReply h.code h.pk stWrongState []) s
  s.finishWhere (fun _ => true) stWrongState []

/-- Channels, ports and segments outside the wake set power down, FlexRay always. -/
def State.sleepDown (s : State) : State :=
  let w := s.curSet
  let s := (upFrom 0 16).foldl (fun s n => if w.can.testBit n then s else s.setCan n { s.canOf n with st := 0, armed := false }) s
  let s := (upFrom 0 12).foldl (fun s n => if w.lin.testBit n then s else s.setLin n { s.linOf n with st := 0, cur := none }) s
  let s := (upFrom 0 16).foldl (fun s p => if (p < 12 && w.ports.testBit p) || (s.prtOf p).st == 0 then s else s.portLeave p 0) s
  s.fryDown

/-- Lines in awake level mode become active or inactive (R508). -/
def State.wkoAwake (s : State) (on : Bool) : State :=
  let f := fun (_ : Nat) (k : Wko) => if k.enabled && k.awake then { k with active := on } else k
  { s with wake := { s.wake with wko := s.wake.wko.mapV f } }

/-- The log region: 2^21 records, erased by blocks of 4096 of the oldest. -/
def logKeep (l : List LogRec) : List LogRec := if 2097152 < l.length then l.take (2097152 - 4096) else l

/-- Buffered records go to flash (R534). -/
def State.logFlush (s : State) : State :=
  { s with flt := { s.flt with log := logKeep (s.flt.buffer ++ s.flt.log), buffer := [], lastFlush := s.et } }

/-- The first canvas boundary in ARMED. -/
def State.sleepCommit (s : State) : State :=
  if s.wake.phase != 3 then s
  else
    let w := s.wake
    let rtc := s.zt.toNat
    let s := { s with
      rtcNs := rtc
      wake := { w with phase := 4, commitEt := s.et, map := 0, first := 0, firstRtc := 0, late := false, count := 0
                       sleeps := sat16 w.sleeps } }
    let s := (s.sleepEnd stOk []).endCommands
    let s := ({ s.allInert with dev := { s.allInert.dev with armed := false } }).wkoAwake false
    let s := (upFrom 0 12).foldl (fun s p => if (s.prtOf p).st == 3 || (s.prtOf p).st == 0 then s else s.zeroize p 2) s
    let s := ({ s with bam := { s.bam with kr := [] } }).sleepDown
    let body := leBytes 1 w.set ++ leBytes 1 0 ++ leBytes 2 w.prepMs ++ leBytes 6 w.armed ++ leBytes 2 0 ++
      leBytes 4 (rtc / nsS) ++ leBytes 4 0
    let s := (s.logRec ⟨s.et, 0x174, 0, 4, body⟩).logFlush
    { s with easel := { s.easel with running := false } }

/-- The rails have fallen: SLEEP. -/
def State.sleepEntered (s : State) : State :=
  if s.wake.phase != 4 || s.dev.state != .sleepPrep then s
  else { s with dev := { s.dev with state := .sleep }, wake := { s.wake with phase := 0 } }

/-! ### Wake lines (R507, R508) -/

/-- A filtered change of a line. -/
def State.wakeLine (s : State) (n : Nat) (level : Bool) : State :=
  if 4 ≤ n || !(s.wki n).enabled || s.wake.wkiLevel.testBit n == level || s.dev.state == .off then s
  else
    let s := { s with wake := { s.wake with wkiLevel := setBit s.wake.wkiLevel n level } }
    let s := if s.active then s.raise [0] (0x170 + n) 1 (b2n level) else s
    if level != (s.wki n).high then s
    else if s.beforeCommit && !s.curSet.wki.testBit n then s.noteSource (0x10 + n)
    else s.wakeFrom (0x10 + n)

/-- A pulse's width has elapsed. -/
def State.wkoPulseEnd (s : State) (n : Nat) : State :=
  let x := s.wko n
  if x.pulseEnd == 0 || s.rtcNs < x.pulseEnd then s
  else { s with wake := { s.wake with wko := s.wake.wko.put {} n { x with active := false, pulseEnd := 0 } } }

/-- Electrical level of a WKO line. -/
def State.wkoLevel (s : State) (n : Nat) : Bool := (s.wko n).enabled && (s.wko n).active == (s.wko n).high

/-! ### WAKE_ page (R513) -/

/-- RTC seconds, and fraction in 1/32 768 s. -/
def rtcSec (ns : Nat) : Nat := ns / nsS
def rtcFrac (ns : Nat) : Nat := ns % nsS * 32768 / nsS

/-- Detectors armed now, by map bit: latched lines, channels and ports asleep. -/
def State.armedMap (s : State) : Nat :=
  mapBits (fun i =>
    if i < 4 then s.wake.armed.testBit i
    else if i < 20 then (s.canOf (i - 4)).armed
    else if i < 32 then (s.linOf (i - 20)).st == 2
    else (s.prtOf (i - 32)).st == 3) 44

def State.wakePage0 (s : State) : List Nat :=
  let w := s.wake
  [ pack [(0, 3, w.phase), (4, 2, w.set), (8, 4, mapBits (fun n => (s.wki n).enabled && w.wkiLevel.testBit n) 4),
      (12, 4, mapBits s.wkoLevel 4), (16, 1, b2n s.ignitionOn)],
    lo32 w.map, hi32 w.map % 65536, pack [(0, 8, w.first), (8, 1, b2n w.late)], lo32 (rtcSec w.firstRtc),
    rtcFrac w.firstRtc, pack [(0, 16, w.sleeps), (16, 16, w.aborts)], pack [(0, 16, w.lateCount), (16, 16, w.tc10Forced)],
    lo32 s.armedMap, hi32 s.armedMap % 65536 ]

/-! ### Opcodes (R514 to R517) -/

def wakeGetSourceSpec : OpSpec where
  code := 0x0F00
  comp := .S
  issuer := .any
  len := lenIs 0
  act := fun _ s =>
    let w := s.wake
    okWith (leBytes 8 w.map ++ leBytes 1 w.first ++ leBytes 1 (pack [(0, 1, b2n w.late), (1, 1, b2n (w.map != 0))]) ++
      leBytes 2 0 ++ leBytes 4 (rtcSec w.firstRtc) ++ leBytes 2 (rtcFrac w.firstRtc) ++ leBytes 6 0 ++
      leBytes 8 (rtcEt w.firstRtc)) s

/-- State of slot 3 at acceptance (R500). -/
def State.slot3Code (s : State) : Nat := if 2 ≤ (s.slot 3).st then 0 else if (s.slot 3).failed then 2 else 1

def State.sleepRequest (s : State) (set prep : Nat) : State :=
  let c := s.slot3Code
  let s := { s with
    dev := { s.dev with state := .sleepPrep }
    wake := { s.wake with
      phase := 1, set := set, prepMs := prep, acceptEt := s.et, slot3 := c, armed := 0, tc10Wait := []
      prepFrom := if c == 2 then some s.et else none } }
  s.raise [0] 0x174 1 (pack [(0, 2, set), (2, 2, c), (16, 16, prep)])

def sleepRequestSpec : OpSpec where
  code := 0x0F01
  comp := .A
  issuer := .p0
  len := lenIs 8
  fields := fun ps _ => decide (u8 ps 0 ≤ 1) && decide (u8 ps 1 < 4) && decide (u16 ps 2 ≤ 60000) && zeroAt ps 4 4
  check := fun pk s =>
    let busy := s.beforeCommit
    if u8 pk.params 0 == 1 then (if busy then stOk else 0x1103)
    else if busy then 0x1102
    else if !(s.wakeSet (u8 pk.params 1)).enabled then 0x1105
    else if s.ignitionOn then 0x1104 else stOk
  act := fun pk s =>
    if u8 pk.params 0 == 1 then ok (s.sleepAbort 0 true) else later (s.sleepRequest (u8 pk.params 1) (u16 pk.params 2))

/-- Standby current of a wake set, µA (R510). -/
def State.setCurrent (s : State) (w : WakeSet) : Nat :=
  let lines := ((upFrom 0 4).filter fun n => w.wki.testBit n && (s.wki n).enabled).length
  let can := ((upFrom 0 16).filter fun n => w.can.testBit n).map fun n => if (s.canOf n).wakeCfg.mode == 2 then 40 else 12
  let lin := ((upFrom 0 12).filter fun n => w.lin.testBit n).length
  let ports := ((upFrom 0 12).filter fun n => w.ports.testBit n).length
  70 + 5 * lines + can.sum + 8 * lin + 25 * ports

/-- A wake set keeps R510 and R511. -/
def State.setOk (s : State) (n : Nat) (w : WakeSet) : Bool :=
  (n != 0 || (w.enabled && w.wki != 0)) &&
    (upFrom 0 12).all (fun p => !w.ports.testBit p || (s.prtOf p).cfg.tc10) &&
    (!w.enabled || decide (s.setCurrent w ≤ s.wake.budget))

def State.setsOk (s : State) : Bool := (upFrom 0 4).all fun n => s.setOk n (s.wakeSet n)

/-- The records of R511 from their bytes. -/
def wkiOf (r : List Byte) : Wki :=
  let f := u8 r 1
  { enabled := f.testBit 0, level := f.testBit 1, high := f.testBit 2, ignition := f.testBit 3, filter := u8 r 2 }

def wkoOf (r : List Byte) : Wko :=
  let f := u8 r 1
  { enabled := f.testBit 0, awake := f.testBit 1, pulse := f.testBit 2, onAbort := f.testBit 3, high := f.testBit 4
    width := u8 r 2, mask := u8 r 3, active := f.testBit 0 && f.testBit 1 }

def setOf (r : List Byte) : WakeSet :=
  { enabled := (u8 r 1).testBit 0, wki := u8 r 2, can := u16 r 4, lin := u16 r 6, ports := u16 r 8 }

/-- The state with the record of a WAKE_CONFIG block replaced, where its fields keep R511. -/
def State.wakeConfig (s : State) (ps : List Byte) : Option State :=
  let i := u8 ps 1
  let r := ps.drop 4
  if u8 r 0 != i then none
  else if u8 ps 0 == 0 then
    if decide (16 ≤ u8 r 1) || ((u8 r 1).testBit 3 && i != 0) || u8 r 2 == 0 || !zeroAt r 3 29 then none
    else some { s with wake := { s.wake with wki := s.wake.wki.put {} i (wkiOf r) } }
  else if u8 ps 0 == 1 then
    let aw := (u8 r 1).testBit 1
    if decide (32 ≤ u8 r 1) || (aw && ((u8 r 1).testBit 2 || (u8 r 1).testBit 3)) || (u8 r 2 == 0) != aw ||
        decide (32 ≤ u8 r 3) || !zeroAt r 4 28 then none
    else some { s with wake := { s.wake with wko := s.wake.wko.put {} i (wkoOf r) } }
  else
    if decide (2 ≤ u8 r 1) || decide (16 ≤ u8 r 2) || u8 r 3 != 0 || decide (4096 ≤ u16 r 6) || decide (4096 ≤ u16 r 8) ||
        !zeroAt r 10 22 then none
    else some { s with wake := { s.wake with sets := s.wake.sets.put {} i (setOf r) } }

def wakeConfigSpec : OpSpec where
  code := 0x0F02
  comp := .O
  cls := 12
  issuer := .p0
  len := lenIs 36
  fields := fun ps _ => decide (u8 ps 0 < 3) && decide (u8 ps 1 < 4) && zeroAt ps 2 2
  key := fun ps => 1 + u8 ps 0 * 4 + u8 ps 1
  okState := fun _ s => decide (s.wake.phase < 2)
  check := fun pk s =>
    match s.wakeConfig pk.params with
    | some t => if t.setsOk then stOk else 0x1106
    | none => 0x1106
  act := fun pk s => ok ((s.wakeConfig pk.params).getD s)

def wakeClearSourceSpec : OpSpec where
  code := 0x0F03
  comp := .S
  issuer := .p0
  len := lenIs 8
  act := fun pk s =>
    let m := u64 pk.params 0
    let w := s.wake
    let map := mapBits (fun i => w.map.testBit i && !m.testBit i) 48
    ok { s with wake := if map == 0 then { w with map := 0, first := 0, firstRtc := 0, late := false } else { w with map := map } }

end Sys2Proof.Machine
end

