-- ==== Sys2Proof/Machine/Fault.lean ====
section
/-!
DEFINITION. Sys2Proof/Machine/Fault.lean: the fabric bridges, clock-domain crossings, memory errors and the fault collector
(R518 to R541), with the FLT_ pages and opcodes.
-/

namespace Sys2Proof.Machine

/-! ### Attribution -/

/-- The partition whose grant holds an address, 0x1F where none does (R529). -/
def State.grantOf (s : State) (a : Nat) : Nat :=
  ((upFrom 0 16).find? fun p =>
    let x := s.part p
    x.st != 0 && ((decide (x.dramBase ≤ a) && decide (a < x.dramBase + x.dramSize)) ||
      (decide (x.sramBase ≤ a) && decide (a < x.sramBase + x.sramSize)))).getD 0x1F

/-- The first pair in whose window a partition runs, 0xFF none (R524). -/
def State.pairOf (s : State) (p : Nat) : Nat :=
  ((upFrom 0 6).find? fun k => (s.pair k).st == 0 && (s.pair k).part == p).getD 0xFF

/-- The owner of a source (R86, R535). -/
def State.srcOwner (s : State) (n : Nat) : Nat :=
  if n < 0x10 then 0
  else if n < 0x54 then s.outOwner (outletOf (n - 0x10))
  else if n < 0x5A then s.owner clsBridge (n - 0x54)
  else if n < 0x60 then 0
  else if n < 0xA0 then s.owner clsDi (n - 0x60)
  else if n < 0xB0 then s.owner clsXi (n - 0xA0)
  else if n < 0xB8 then s.owner clsXo (n - 0xB0)
  else if n < 0xC0 then 0
  else if n < 0xD0 then s.owner clsPg (n - 0xC0)
  else if n < 0xE0 then s.owner clsCan (n - 0xD0)
  else if n < 0xE4 then s.owner clsFry ((n - 0xE0) / 2)
  else if n < 0xE6 then s.owner clsFry (n - 0xE4)
  else if n < 0xF0 then 0
  else if n < 0xFC then s.owner clsLin (n - 0xF0)
  else if n < 0x100 then 0
  else if n < 0x115 then s.owner clsPort (n - 0x100)
  else if n < 0x130 then 0
  else if n < 0x140 then n - 0x130
  else if n < 0x150 then n - 0x140
  else if n < 0x180 then 0
  else if n < 0x200 then (s.ring (n - 0x180)).owner
  else 0

/-! ### Injection (R540) -/

/-- The FLT_INJECT outstanding. -/
def State.injection (s : State) : Option Outst := s.cmd.async.find? fun o => o.code == 0x1003 && o.started

/-- An injection of kind `kind` is outstanding and names this place: for kinds 0–2 an address of the same 8 bytes, for kind 4
a pair. -/
def State.injected (s : State) (kind addr pair : Nat) : Bool :=
  match s.injection with
  | none => false
  | some o =>
    let ps := o.pk.params
    u8 ps 0 == kind && (decide (2 < kind) || u64 ps 8 / 8 == addr / 8) && (kind != 4 || u8 ps 2 == pair)

/-- A fault arises. Where it is the injected one, its report carries the injected flag and FLT_INJECT is answered with it. -/
def State.arise (s : State) (hit : Bool) (f : State → State) : State :=
  if !hit then f s
  else
    let seq := s.flt.nextSeq
    let s := f { s with flt := { s.flt with inject := some seq } }
    let s := { s with flt := { s.flt with inject := none } }
    if s.flt.nextSeq == seq then s
    else s.finishWhere (fun o => o.code == 0x1003 && o.started) stOk (leBytes 4 seq)

/-! ### Bridges and crossings (R518 to R527) -/

/-- A retried request is reissued: the token passes to its side (R521). -/
def State.bridgeRetry (s : State) : State :=
  if !s.powered then s
  else { s with flt := { s.flt with bridgeRetries := sat16 s.flt.bridgeRetries, tokenHost := !s.flt.tokenHost } }

/-- Crossings in HOLD mode: 0 the Bamlys mailbox, 1 + k pair k, 7 the always-on registers. The others are in HANG mode: 8 a port
MAC, 9 a CAN, FlexRay or LIN controller, 10 the die register fabric behind bridge 1. -/
def holdMode (crossing : Nat) : Bool := decide (crossing < 8)

/-- The clock on the far side of a HOLD crossing runs. -/
def State.clockRuns (s : State) (crossing : Nat) : Bool :=
  if crossing == 0 then s.bam.serving
  else if crossing < 7 then (s.pair (crossing - 1)).st < 2
  else s.powered

/-- A posted write reaches its target. Memory takes it; what the mailbox, a pair or an always-on register makes of a plain
write has no register of its own in State. -/
def State.busWrite (s : State) (w : BusWrite) : State :=
  if w.isWrite && (inSram w.addr || inDram w.addr) then s.store w.addr (leBytes w.size w.data) else s

/-- An access has stalled 10 µs (row 0x88): a load ends with a bus error, a posted write fails. A posted write to a HOLD
crossing stalls only while its buffer is full; otherwise it is held. -/
def State.busTimeout (s : State) (w : BusWrite) (crossing : Nat) (isLoad : Bool) : State :=
  let held := s.flt.hold.val [] crossing
  if !s.powered || 10 < crossing || (holdMode crossing && s.clockRuns crossing) then s
  else if holdMode crossing && !isLoad && decide (held.length < 8) then
    { s with flt := { s.flt with hold := s.flt.hold.put [] crossing (held ++ [w]) } }
  else
    s.arise (s.injected 2 w.addr 0) fun s =>
      let p := if w.init < 16 then w.init else 0x1F
      let src := if crossing == 10 then 0x203 else 0x202
      let path := if crossing == 10 then 2 else if w.init < 16 then 1 else 0
      let d := pack [(0, 2, b2n !isLoad), (8, 8, if w.init < 16 then w.init else 0xFF)]
      let s := { s with flt := { s.flt with bridgeTimeouts := sat16 s.flt.bridgeTimeouts } }
      let s := s.raiseOnce (s.p0and p) src 1 d
      let seq := s.flt.nextSeq
      let s := s.fault src 5 0 p 1 d 0 0
      if w.init < 16 then
        if isLoad then s.setFltPart p { s.fltPart p with loadErrors := sat16 (s.fltPart p).loadErrors }
        else s.postFail p w.addr (Nat.log2 w.size) (if holdMode crossing then 3 else 2) path (s.pairOf p) seq
      else s

/-- The clock has returned: held writes are delivered in order. -/
def State.holdDrain (s : State) (crossing : Nat) : State :=
  if !holdMode crossing || !s.clockRuns crossing then s
  else
    let held := s.flt.hold.val [] crossing
    held.foldl State.busWrite { s with flt := { s.flt with hold := s.flt.hold.put [] crossing [] } }

/-- A pulse of the block with source ID `src` is merged (R526). -/
def State.cdcOverrun (s : State) (src : Nat) : State :=
  if !s.powered then s
  else
    s.arise (s.injected 3 0 0) fun s =>
      let s := { s with flt := { s.flt with
        cdcOverruns := sat16 s.flt.cdcOverruns
        cdcSticky := if s.flt.cdcSticky.contains src then s.flt.cdcSticky else s.flt.cdcSticky ++ [src] } }
      let p := s.srcOwner src
      (s.raiseOnce (s.p0and p) 0x200 2 (src % 1024)).fault 0x200 6 0 (if p < 16 then p else 0x1F) 2 (src % 1024) 0 0

/-! ### Memory errors (R528, R529) -/

/-- A pass of the patrol scrubber; what it finds comes as ECC rows. -/
def State.patrol (s : State) (dram : Bool) : State :=
  if !s.powered then s
  else if dram then { s with flt := { s.flt with dramScrubs := s.flt.dramScrubs + 1 } }
  else { s with flt := { s.flt with scrubs := s.flt.scrubs + 1 } }

/-- Memory code and address bits of an ECC event (R535). -/
def eccData (mem addr : Nat) : Nat := pack [(0, 4, mem), (4, 28, addr / 16)]

/-- The partition to which an error of a memory is attributed. -/
def State.eccPart (s : State) (mem addr : Nat) : Nat := if mem == 2 || mem == 8 then s.grantOf addr else 0x1F

/-- ECC_CORRECTED at most once per canvas and memory. The injected error is reported, recovered. -/
def State.eccCorrected (s : State) (mem addr : Nat) : State :=
  if !s.powered || 10 < mem then s
  else
    s.arise (s.injected 0 addr 0) fun s =>
      let d := eccData mem addr
      let p := s.eccPart mem addr
      let s := { s with flt := { s.flt with eccCorr := s.flt.eccCorr.put 0 mem (sat16 (s.flt.eccCorr.val 0 mem)) } }
      let s := if mem == 1 then { s with gw := { s.gw with eccCorrected := sat32 s.gw.eccCorrected } } else s
      let key := (0x201, 1 + 16 * mem, 0xFF)
      let s := if s.dev.onceCanvas.contains key then s
        else ({ s with dev := { s.dev with onceCanvas := key :: s.dev.onceCanvas } }).raise (s.p0and p) 0x201 1 d
      if s.flt.inject.isSome then s.fault 0x201 4 0 p 1 d 0 0 else s

/-- The signal in the route SRAM slot at an address. -/
def State.sramSignal (s : State) (addr : Nat) : Option Nat :=
  let v := s.gw.slots.val 0 (addr / 32)
  if v == 0 then none else some (v - 1)

/-- Where the stroke store stands in this model (DESIGN CHOICE, see the log). -/
def storeBase : Nat := 0x802000000

/-- The palette slot and the first stroke of the unit at an offset of the stroke store. The palettes stand in it in the order
of their slots (DESIGN CHOICE, see the log). -/
def State.storeAt (s : State) (off : Nat) : List Nat → Nat → Option (Nat × Nat)
  | [], _ => none
  | n :: ns, at_ =>
    let size := (s.slot n).pages * 4096
    if off < at_ + size then some (n, (off - at_) / 64 * 4) else s.storeAt off ns (at_ + size)

/-- What is done for an uncorrectable error, memory by memory. The address of memory 0 is the frame's number in the buffer, that
of memory 3 counts from the oldest block. -/
def State.eccAction (s : State) (mem addr : Nat) : State :=
  match mem with
  | 0 =>
    match s.swc.frames.val none addr with
    | some b =>
      let s := s.onPort b.f.port fun x => { x with rxBad := sat32 x.rxBad }
      s.spoilFrame b.f.port addr
    | none => s
  | 1 =>
    match s.sramSignal addr with
    | some sig =>
      let s := { s with gw := { s.gw with eccRefetch := sat32 s.gw.eccRefetch } }
      s.raiseOnce (dedup [s.sigOwner sig, 0]) 0x125 1 sig
    | none => s
  | 2 | 8 =>
    let u := eccUnit addr
    if s.flt.poison.contains u then s else { s with flt := { s.flt with poison := s.flt.poison ++ [u] } }
  | 3 => { s with easel := { s.easel with blocks := s.easel.blocks.eraseIdx (addr / 16384) } }
  | 5 =>
    let sig := (addr - routeBase) / 32
    if s.gw.dramBad.contains sig then s else { s with gw := { s.gw with dramBad := s.gw.dramBad ++ [sig] } }
  | 6 =>
    match s.storeAt (addr - storeBase) (upFrom 0 8) 0 with
    | some (n, i) =>
      { s with easel := { s.easel with bad := s.easel.bad ++ ((upFrom i 4).filter fun j => !s.easel.bad.contains (n, j)).map fun j => (n, j) } }
    | none => s
  | _ => s

/-- An uncorrectable error is found and handled; that of memory 4 is reported after the worst case of a Bamlys restart. The
device reset of memory 7 follows in the row. -/
def State.eccUncorrectable (s : State) (mem addr : Nat) : State :=
  if !s.powered || 10 < mem then s
  else
    s.arise (s.injected 1 addr 0) fun s =>
      let d := eccData mem addr
      let p := s.eccPart mem addr
      let s := { s with flt := { s.flt with eccUncorr := s.flt.eccUncorr.put 0 mem (sat16 (s.flt.eccUncorr.val 0 mem)) } }
      let s := s.raiseOnce (s.p0and p) 0x201 2 d
      (s.fault 0x201 4 (if mem == 7 then 7 else 0) p 2 d 0 (if mem == 4 then 40 * nsMs else 0)).eccAction mem addr

/-- A load of initiator `p` meets a poisoned unit. -/
def State.poisonRead (s : State) (p addr : Nat) : State :=
  if !s.poisoned addr 1 || !s.powered then s
  else
    let q := s.grantOf addr
    let mem := if inDram addr then 8 else 2
    let d := eccData mem addr
    let s := if q < 16 then s.setFltPart q { s.fltPart q with poisonReads := sat16 (s.fltPart q).poisonReads } else s
    let s := if p < 16 then s.setFltPart p { s.fltPart p with loadErrors := sat16 (s.fltPart p).loadErrors } else s
    (s.raiseOnce (s.p0and q) 0x201 3 d).fault 0x201 5 0 q 3 d 0 0

/-! ### The collector (R530 to R534) -/

/-- The first held report whose time has ended is made, at the level of the lower mechanism. -/
def State.faultReport (s : State) : State :=
  match s.flt.held.find? fun h => decide (h.due ≤ s.et) with
  | none => s
  | some h => ({ s with flt := { s.flt with held := s.flt.held.erase h } }).makeReport h.rep

/-- Every held report is written at level 7, before a device reset (R532). -/
def State.reportHeld (s : State) : State :=
  let due := s.flt.held
  due.foldl (fun s h => s.makeReport { h.rep with level := 7 }) { s with flt := { s.flt with held := [] } }

/-- Records go to flash every 100 ms. -/
def State.logTick (s : State) : State :=
  if !s.powered || s.et < s.flt.lastFlush + 100 * nsMs then s
  else s.logFlush

/-! ### FLT_ pages (R536) -/

def State.fltPage0 (s : State) : List Nat :=
  let f := s.flt
  let cls := (upFrom 1 12).map fun c => pack [(0, 16, f.count.val 0 c), (16, 16, f.esc.val 0 c)]
  let ecc := (upFrom 0 11).map fun m => pack [(0, 16, f.eccCorr.val 0 m), (16, 16, f.eccUncorr.val 0 m)]
  [f.nextSeq, 0] ++ cls ++ [0, 0, pack [(0, 16, f.bridgeRetries), (16, 16, f.bridgeTimeouts)],
    pack [(0, 16, f.cdcOverruns), (16, 1, b2n !f.cdcSticky.isEmpty)]] ++ ecc ++ [0, 0, 0, lo32 f.poison.length]

def State.fltWords (s : State) (p : Nat) : List Nat :=
  let x := s.fltPart p
  let strokes := (x.strokes.filter fun t => decide (s.et < t + nsS)).length
  [ pack [(0, 16, x.reports), (16, 3, strokes)], x.lastSeq, pack [(0, 16, x.poisonReads), (16, 16, x.loadErrors)],
    lo32 x.lastEt, hi32 x.lastEt ]

/-! ### Opcodes (R537 to R541) -/

def fltGetStatusSpec : OpSpec where
  code := 0x1000
  comp := .S
  issuer := .ownP0
  len := lenIs 4
  fields := fun ps _ => decide (u8 ps 0 ≤ 16) && zeroAt ps 1 3
  owners := fun ps _ => [u8 ps 0 - 1]
  act := fun pk s =>
    let n := u8 pk.params 0
    okWith (wordBytes (if n == 0 then s.fltPage0 else s.fltWords (n - 1))) s

/-- The full record of a fault report (R533). -/
def FltReport.bytes (r : FltReport) : List Byte :=
  leBytes 8 r.et ++ leBytes 2 r.src ++ leBytes 1 r.cls ++ leBytes 1 r.levelByte ++ r.body

def fltReadLogSpec : OpSpec where
  code := 0x1001
  comp := .S
  issuer := .ownP0
  len := lenIs 8
  fields := fun ps _ =>
    decide (1 ≤ u16 ps 4) && decide (u16 ps 4 ≤ 126) && (decide (u8 ps 6 < 16) || u8 ps 6 == 0xFF) && zeroAt ps 7 1
  owners := fun ps _ => [if u8 ps 6 == 0xFF then 0 else u8 ps 6]
  act := fun pk s =>
    let ps := pk.params
    let pick := s.flt.recent.reverse.filter fun r => decide (u32 ps 0 ≤ r.seq) && (u8 ps 6 == 0xFF || r.part == u8 ps 6)
    let out := pick.take (u16 ps 4)
    let oldest := (s.flt.recent.getLast?.map FltReport.seq).getD 0
    okWith (leBytes 2 out.length ++ leBytes 2 0 ++ leBytes 4 oldest ++ out.flatMap FltReport.bytes) s

def fltClearSpec : OpSpec where
  code := 0x1002
  comp := .S
  issuer := .own
  len := lenIs 4
  fields := fun ps _ => decide (u8 ps 0 < 16) && decide (u8 ps 1 < 2) && zeroAt ps 2 2
  owners := fun ps _ => if u8 ps 1 == 1 then [u8 ps 0, 0] else [u8 ps 0]
  act := fun pk s =>
    let p := u8 pk.params 0
    let s := s.setFltPart p { strokes := (s.fltPart p).strokes }
    if u8 pk.params 1 == 1 then
      ok { s with flt := { s.flt with
        count := [], esc := [], bridgeRetries := 0, bridgeTimeouts := 0, cdcOverruns := 0, cdcSticky := [], eccCorr := []
        eccUncorr := [] } }
    else ok s

/-- An address and its 8 bytes lie within a partition's grants. -/
def State.inGrant (s : State) (p a : Nat) : Bool :=
  let x := s.part p
  (decide (x.dramBase ≤ a) && decide (a + 8 ≤ x.dramBase + x.dramSize)) ||
    (decide (x.sramBase ≤ a) && decide (a + 8 ≤ x.sramBase + x.sramSize))

def fltInjectSpec : OpSpec where
  code := 0x1003
  comp := .A
  issuer := .p0
  len := lenIs 16
  fields := fun ps _ =>
    decide (u8 ps 0 ≤ 4) && decide (u8 ps 1 < 16) && decide (u8 ps 2 < 6) && (u8 ps 0 == 4 || u8 ps 2 == 0) && zeroAt ps 3 5 &&
      u64 ps 8 % 8 == 0 && (decide (u8 ps 0 < 3) || u64 ps 8 == 0)
  check := fun pk s =>
    let ps := pk.params
    if s.injection.isSome then 0x1201
    else if u8 ps 0 < 3 then (if s.inGrant (u8 ps 1) (u64 ps 8) then stOk else 0x1200)
    else if u8 ps 0 == 4 then
      (if (s.pair (u8 ps 2)).st == 0 && (s.pair (u8 ps 2)).part == u8 ps 1 then stOk else 0x1200)
    else stOk
  -- the fault arises as its own row
  act := fun _ s => later s

end Sys2Proof.Machine
end

