-- ==== Sys2Proof/Machine/Device.lean ====
section
/-!
DEFINITION. Sys2Proof/Machine/Device.lean: the device states and what moves between them (R26 to R31): starts and what an image
sets up (R479 to R488), resets, STANDBY and OFF, tamper alarms by phase (R468), the canvas boundary, and the device-group
opcodes (R58 to R63).
-/

namespace Sys2Proof.Machine

/-! ### What survives a start -/

/-- Bamlys without what a start loses: fuses, key store, policy and tamper log stay (R452, R458, R467, R478). -/
def Bam.kept (b : Bam) : Bam :=
  { known := b.known, lc := b.lc, count := b.count, policy := b.policy, locked := b.locked, helper := b.helper, slots := b.slots
    other := b.other, authCounter := b.authCounter, armed := b.armed, log := b.log, logOverflow := b.logOverflow
    policyDue := b.policyDue, alarmsDue := b.alarmsDue }

/-- The update manager: the slot state record and flash stay; the settings of UPD_BEGIN stay for the one-by-one method, whose
relay goes on after the restart (R489, R492). -/
def Upd.kept (u : Upd) : Upd :=
  if u.method == 1 then
    { known := u.known, record := u.record, flash := u.flash, method := u.method, downstream := u.downstream
      relayBuf := u.relayBuf, relayOn := u.relayOn, relayNext := u.relayNext, beginVersion := u.beginVersion
      beginChunks := u.beginChunks }
  else { known := u.known, record := u.record, flash := u.flash }

/-- The always-on wake registers and settings; no request is in progress (R505, R513). -/
def Wake.kept (w : Wake) : Wake :=
  { w with phase := 0, armed := 0, tc10Wait := [], prepFrom := none, slot3 := 0 }

/-- The state in which the compute side is without power or freshly reset: everything at its reset value but the always-on
island and what is not volatile. -/
def State.volatileLost (s : State) (d : DevState) : State :=
  { pending := s.pending, et := s.et, rtcNs := s.rtcNs, free := s.free
    dev := { state := d, activeSlot := s.dev.activeSlot, lockout := s.dev.lockout, fell := s.dev.fell, straps := s.dev.straps
             startCause := s.dev.startCause, startEt := s.dev.startEt, wokenDue := s.dev.wokenDue }
    cmd := { replies := s.cmd.replies }
    wake := s.wake.kept
    flt := { log := s.flt.log, lastFlush := s.flt.lastFlush }
    bam := s.bam.kept
    upd := s.upd.kept }

/-- Entry to STARTING by `cause` (R27, R31, R54, R72): 0 power-on, 1 wake, 2 RESET, 3 escalation, 4 return from STANDBY. -/
def State.enterStarting (s : State) (cause : Nat) : State :=
  let s := s.volatileLost .starting
  let et := rtcEt s.rtcNs
  ({ s with
    et := et
    dev := { s.dev with
      startCause := cause, startEt := et, fell := false, wokenDue := s.dev.wokenDue || cause == 1 || cause == 4 }
    flt := { s.flt with lastFlush := et }
    pwr := { s.pwr with railsUp := true } }).wkoAwake true

/-- The start mark: written once the slot has started or the start has failed (R534 type 3). -/
def State.startMark (s : State) (slot : Nat) : State :=
  let d := s.dev
  let id := if slot == 0xFF then 0 else d.imageId
  let version := if slot == 0xFF then 0 else d.imageVersion
  s.logRec ⟨d.startEt, 0x200, 0, 3, leBytes 4 id ++ leBytes 4 version ++ leBytes 1 slot ++ leBytes 1 d.startCause ++ leBytes 2 0 ++
    leBytes 4 d.fwVersion ++ leBytes 4 0⟩

/-- STANDBY: every command is abandoned, keys are zeroized, outputs are inert; buffered records complete on hold-up (R457,
R564). -/
def State.enterStandby (s : State) (lockout : Bool) : State :=
  let s := if s.dev.state == .starting && s.dev.imageId == 0 then s.startMark 0xFF else s
  let s := (s.logFlush.volatileLost .standby).wkoAwake false
  { s with dev := { s.dev with lockout := s.dev.lockout || lockout } }

/-- A device reset (R27, R54, R532, R534): held reports first, then the log, then STARTING. -/
def State.deviceReset (s : State) (cause : Nat) : State := s.reportHeld.logFlush.enterStarting cause

/-! ### Power (R27, R274, R564) -/

/-- FEED12 below 3.0 V, in millivolts. -/
def State.standbyEntry (s : State) (mv : Nat) : State :=
  if 3000 ≤ mv then s
  else
    match s.dev.state with
    | .starting | .run | .degraded | .sleepPrep =>
      let s := s.enterStandby false
      { s with dev := { s.dev with fell := true } }
    | .standby => { s with dev := { s.dev with fell := true } }
    | _ => s

/-- FEED12 below 2.5 V: everything but flash and fuses is lost. -/
def State.powerOff (s : State) (mv : Nat) : State :=
  if 2500 ≤ mv || s.dev.state == .off then s
  else
    let s := (if s.powered then s.logFlush else s).volatileLost .off
    { s with
      rtcNs := 0, dev := { state := .off, activeSlot := s.dev.activeSlot }, wake := {}, flt := { log := s.flt.log }
      bam := { s.bam with log := [], logOverflow := 0, alarmsDue := [], policyDue := false } }

/-- FEED12 above 6.0 V, with the strap pins: from OFF, or from STANDBY after a fall below 3.0 V. -/
def State.powerOn (s : State) (mv straps : Nat) : State :=
  if mv ≤ 6000 then s
  else
    match s.dev.state with
    | .off => (({ s with dev := { s.dev with straps := straps % 4 } }).enterStarting 0).noteSource 0x51
    | .standby =>
      if s.dev.lockout || !s.dev.fell then s
      else (({ s with dev := { s.dev with straps := straps % 4 } }).noteSource 0x52).enterStarting 4
    | _ => s

/-- A rail has been outside its window for 10 µs (R275). -/
def State.railFault (s : State) (rail : Nat) : State :=
  if !s.powered || 6 < rail then s
  else
    let s := { s with pwr := { s.pwr with railFaults := sat16 s.pwr.railFaults } }
    let s := s.raise [0] 0x002 2 rail
    let level := if rail == 5 then 1 else if rail == 6 then 0 else 7
    let s := s.fault 0x002 7 level 0x1F 2 rail 0 0
    if rail == 5 then s.uvSet 0 else if rail == 6 then s.barrierLost false true else s.deviceReset 3

/-! ### Wakes (R504, R507) -/

/-- A wake after the commit point or in SLEEP leads to STARTING. -/
def State.wakeFromSleep (s : State) : State :=
  if s.dev.state == .sleep && s.wake.map != 0 then s.enterStarting 1 else s

/-- A line changes; an asserted line leaves STANDBY (R27). -/
def State.wakeLineRow (s : State) (n : Nat) (level : Bool) : State :=
  let t := s.wakeLine n level
  let asserted := t.wake.wkiLevel != s.wake.wkiLevel && level == (s.wki n).high
  if s.dev.state == .standby && asserted && !s.dev.lockout then t.enterStarting 4 else t

/-! ### Tamper alarms by phase (R468) -/

/-- An alarm at start: the first retries it after 100 ms, the second locks the device out. -/
def State.tamperStart (s : State) (src : Nat) : State :=
  let s := s.tamperLog src 1
  let n := s.bam.bootAlarms + 1
  let s := { s with bam := { s.bam with
    bootAlarms := n, alarmsDue := ⟨src, 1, s.rtcNs⟩ :: s.bam.alarmsDue, bootRetry := some (s.et + 100 * nsMs) } }
  let s := s.raiseAt (rtcEt s.rtcNs) [0] 0x161 2 n
  if 2 ≤ n then s.enterStandby true else s

/-- A key operation of R468: it uses or writes keys. -/
def keyOperation (code : Nat) : Bool :=
  code == 0x0D01 || code == 0x0D02 || code == 0x0D03 || code == 0x0D04 || code == 0x0D06 || code == 0x0D07

/-- The request of a key operation in execution. -/
def State.keyRequest (s : State) : Option Outst :=
  match bamFirst s.bamQueue with
  | some o => if keyOperation o.code && s.bam.serving then some o else none
  | none => none

/-- The phase in which an alarm fires now; 3 only where it meets a key operation. -/
def State.tamperPhaseOk (s : State) (phase : Nat) : Bool :=
  let starting := s.dev.state == .starting && !s.bam.serving && !s.bam.halted
  match phase with
  | 0 => s.dev.state != .off && s.dev.state != .sleep && !starting
  | 1 => starting
  | 2 => s.dev.state == .sleep
  | 3 => s.powered && s.keyRequest.isSome
  | _ => false

/-- Source `src` alarms. `programming` says that the record programming of the key operation has begun. -/
def State.tamperAlarm (s : State) (src phase : Nat) (programming : Bool) : State :=
  if 4 < src || !s.bam.armed.testBit src || !s.tamperPhaseOk phase then s
  else if phase == 1 then s.tamperStart src
  else
    let s := s.tamperLog src phase
    if phase == 2 || s.dev.state == .standby then
      let s := { s with bam := { s.bam with
        policyDue := true, alarmsDue := ⟨src, phase, s.rtcNs⟩ :: s.bam.alarmsDue } }
      if phase == 2 then s.wakeFrom 0x50 else s.noteSource 0x50
    else
      let s := s.tamperEvent s.et src phase s.bam.policy
      if phase == 3 then
        match s.keyRequest with
        | none => s
        | some o =>
          if programming && writesRecord o.code o.pk.params then { s with bam := { s.bam with policyAfter := true } }
          else
            let s := { s with bam := { s.bam with kr := [], keyAborts := sat16 s.bam.keyAborts } }
            (s.finishAsync o stTamperAbort []).tamperPolicy
      else s.tamperPolicy

/-- The start is retried 100 ms after an alarm. -/
def State.tamperRetry (s : State) : State :=
  match s.bam.bootRetry with
  | none => s
  | some t => if s.et < t then s else { s with bam := { s.bam with bootRetry := none } }

/-! ### Start (R485, R487, R549) -/

/-- REFCLK has qualified: the slot is selected; with none left the device goes to STANDBY. `record` is the slot state record in
flash where this model has not read it yet. -/
def State.referenceQualified (s : State) (record : SlotRecord) : State :=
  if s.dev.state != .starting || s.pwr.refOk || s.bam.bootRetry.isSome then s
  else
    let s := if s.upd.known then s else { s with upd := { s.upd with known := true, record := record } }
    let s := ({ s with pwr := { s.pwr with refOk := true } }).selectSlot
    if s.upd.started.isNone then s.enterStandby false else s

/-- The reference has not qualified in time: a clock-glitch alarm at start. -/
def State.referenceTimeout (s : State) : State :=
  if s.dev.state != .starting || s.pwr.refOk || s.bam.bootRetry.isSome || s.et < s.dev.startEt + 5 * nsMs || s.bam.serving then s
  else if s.bam.armed.testBit 2 then s.tamperStart 2
  else s

/-! ### The image's sections -/

/-- Entry `i` onward of a table from a list. -/
def tabFrom {α β : Type} [DecidableEq β] (d : β) (f : α → β) : Nat → List α → Tab β
  | _, [] => []
  | i, x :: xs => Tab.put d (tabFrom d f (i + 1) xs) i (f x)

/-- A table with every entry translated. -/
def tabMap {α β : Type} [DecidableEq β] (d : β) (f : α → β) : Tab α → Tab β
  | [] => []
  | (i, x) :: t => Tab.put d (tabMap d f t) i (f x)

def loadCfgOf (r : LoadRec) : LoadCfg :=
  { enabled := r.enabled, slew := r.slew, safe := r.safe, loadClass := r.loadClass, retryN := r.retryN, steady := r.steady
    limit := r.limit, s1c := r.s1c, s1d := r.s1d, s2c := r.s2c, s2d := r.s2d, imgLimit := r.limit, imgRetry := r.retryN
    e1c := r.s1c, e1d := r.s1d, e2c := r.s2c, e2d := r.s2d, minPeriod := r.minPeriod, phase := r.phase }

def chanOf (r : LoadRec) : Chan :=
  { cfg := loadCfgOf r, lamp := r.lamp, olEn := r.olEn, olThr := r.olThr, olFilter := r.olFilter, period := r.period }

def bridgeOf (r : LoadRec) : Bridge :=
  { cfg := loadCfgOf r, slow := r.slow, stallEn := r.stallEn, zeroBrake := r.zeroBrake, stallBrake := r.stallBrake
    dead := r.dead, stallThr := r.stallThr, stallFilter := r.stallFilter, period := r.period }

def partOf (r : PartRec) : Part :=
  if r.enabled then
    { st := 3, startAtRun := r.startAtRun, policy := r.policy, domain := r.domain, ringClass := r.ringClass, share := r.share
      eventRing := r.eventRing, postedRing := r.postedRing, dramBase := r.dramBase, dramSize := r.dramSize
      sramBase := r.sramBase, sramSize := r.sramSize, image := r.image, imageMb := r.imageMb }
  else {}

def ringOf (r : RingRec) : Ring :=
  { type := r.type, enabled := r.enabled, irqEn := r.irqEn, owner := r.owner, depthLog := r.depthLog, slotLog := r.slotLog
    binding := r.binding, base := r.base }

def dinOf (r : DinRec) : Din :=
  { enabled := r.enabled, rise := r.rise, fall := r.fall, wbEn := r.wbEn, mode := r.mode, wetting := r.wetting, k := r.k
    breakVal := r.breakVal, debounce := r.debounce, sensorThr := r.sensorThr, breakFilter := r.breakFilter, xiType := r.xiType
    imageK := r.k }

/-- PARTITION_PLAN (R437 to R440). -/
def State.setPlan (s : State) (g : Image) : State :=
  { s with
    par := { s.par with
      parts := tabMap {} partOf g.parts, rings := tabMap {} ringOf g.rings, owner := g.owners, supervise := g.supervise
      prefetchShare := g.prefetchShare }
    gw := { s.gw with mbx := tabMap {} (fun (r : MbxRec) => { addr := r.addr, part := r.part, dest := r.dest, placed := true : Mbx })
                        g.mailboxes } }

/-- A frame buffer that receives, or one that is sent, is declared. -/
def State.rxDecl (s : State) (buf len cls idx : Nat) : State :=
  if buf == 0xFFFF then s
  else { s with gw := { s.gw with rx := s.gw.rx.put {} buf { len := len, cls := cls, idx := idx } } }

def State.txDecl (s : State) (buf len cls idx : Nat) : State :=
  if buf == 0xFFFF then s
  else { s with gw := { s.gw with tx := s.gw.tx.put {} buf { len := len, cls := cls, idx := idx } } }

/-- ROUTE_TABLE into DRAM, pinned entries into route SRAM, triggers and wake routes (R159, R161, R185, R511). -/
def State.setRoutes (s : State) (g : Image) : State :=
  let put := fun (s : State) (r : Nat × List Byte) => s.store (routeBase + 32 * r.1) (fit 32 r.2)
  let s := g.routes.foldl put s
  let pin := fun (s : State) (r : Nat × List Byte) => if r.1 != 0 && rUsed r.2 && rPinned r.2 then s.routeLoad r.1 else s
  let s := g.routes.foldl pin s
  { s with gw := { s.gw with
    triggers := tabFrom {} (fun (t : Trigger) => { t with used := true }) 0 g.triggers, wakeRoutes := g.wakeRoutes } }

/-- Static entries of the forwarding database, each into a free way of its bucket (R299). -/
def State.fdbStatic (s : State) (e : FdbEnt) : State :=
  match (upFrom (State.bucketOf e.mac e.fid * 8) 8).find? fun i => (s.swc.fdb.val {} i).type == 0 with
  | some i => s.setFdb i e
  | none => s

/-- SWITCH_CONFIG, TSN_GATES and PORT_CONFIG (R308 to R311, R322). -/
def State.setSwitch (s : State) (g : Image) : State :=
  let s := { s with
    swc := { s.swc with
      ports := tabMap {} (fun (c : SwPortCfg) => { cfg := c : SwPort }) g.swPorts, vlans := tabFrom {} id 0 g.vlans
      streams := g.streams.map fun r => { r := r }
      meters := tabFrom {} (fun (r : MeterRec) => { r := r, c := r.cbs * 8000000, e := r.ebs * 8000000 : Meter }) 0 g.meters
      cbs := tabFrom {} id 0 g.cbs, records := g.frames, hp := g.hp, gateLists := g.gates, ageing := g.ageing, baseMac := g.baseMac }
    prt := tabMap {} (fun (r : PortRec) => { cfg := r : Prt }) g.ports }
  let s := g.fdb.foldl State.fdbStatic s
  let frame := fun (s : State) (r : FrameRec) =>
    if r.transmit then s.txDecl r.buf r.len clsPort (16 + r.gw) else s.rxDecl r.buf r.len clsPort (16 + r.gw)
  g.frames.foldl frame s

/-- CAN_MATRIX, FLEXRAY_CONFIG and LIN_SCHEDULE (R336 to R338, R371 to R376). -/
def State.setBuses (s : State) (g : Image) : State :=
  let s := { s with
    can := { chans := tabMap {} (fun (c : CanCfg) => { cfg := c : Can }) g.can, entries := g.canEntries, filters := g.canFilters }
    fry := { s.fry with
      clusters := tabMap {} (fun (c : FryCfg) => { cfg := c : FryCluster }) g.fry, bufs := g.fryBufs, branchRecs := g.fryBranches }
    lin := { chans := tabMap {} (fun (c : LinCfg) => { cfg := c : Lin }) g.lin, entries := g.linEntries } }
  let s := g.canEntries.foldl (fun s e => if e.cmdEntry then s else s.txDecl e.buf e.len clsCan e.ch) s
  let s := g.canFilters.foldl (fun s f => if f.toBuf then s.rxDecl f.buf f.len clsCan f.ch else s) s
  let s := g.fryBufs.foldl (fun s b =>
    if b.transmit then s.txDecl b.buf (2 * b.words) clsFry b.cl else s.rxDecl b.buf (2 * b.words) clsFry b.cl) s
  g.linEntries.foldl (fun s e =>
    if e.dir == 0 then s.txDecl e.buf e.len clsLin e.ch else if e.dir == 1 then s.rxDecl e.buf e.len clsLin e.ch else s) s

/-- LOAD_TABLE, LEDGER, THERMAL_MODEL and IO_CONFIG (R142, R224, R249, R276, R399, R400). -/
def State.setOutputs (s : State) (g : Image) : State :=
  let p := g.power
  let isChan := fun (e : Nat × LoadRec) => decide (e.1 < 56)
  let notChan := fun (e : Nat × LoadRec) => decide (56 ≤ e.1)
  let down := fun (e : Nat × LoadRec) => (e.1 - 56, e.2)
  let s := { s with
    lsw := { s.lsw with
      chans := tabMap {} chanOf (g.loads.filter isChan), bridges := tabMap {} bridgeOf ((g.loads.filter notChan).map down) }
    dio := { s.dio with
      ins := tabMap {} dinOf g.dins
      xos := tabMap {} (fun (r : XoRec) => { enabled := r.enabled, safePart := r.safePart, safeField := r.safeField : Xo }) g.xos }
    pwr := { s.pwr with vref := p.vref, frac2 := p.frac2, frac3 := p.frac3 } }
  let s := s.setFeed 0 { s.feed 0 with sagTh := p.sag12, crankTh := p.crank, budget := p.budget12, reserve := p.reserve12 }
  s.setFeed 1 { s.feed 1 with sagTh := p.sag48, budget := p.budget48, reserve := p.reserve48 }

/-- TIME_CONFIG and WAKE_CONFIG (R96, R511). -/
def State.setWake (s : State) (g : Image) : State :=
  let wko := fun (r : WkoRec) =>
    { enabled := r.enabled, awake := r.awake, pulse := r.pulse, onAbort := r.onAbort, high := r.high, width := r.width
      mask := r.mask, active := r.enabled && r.awake : Wko }
  { s with
    time := { s.time with imgSlew := g.maxSlew, imgCfg := g.time, imgPgs := g.pgs }
    wake := { s.wake with wki := g.wki, wko := tabMap {} wko g.wko, sets := g.sets, budget := g.standbyBudget } }

/-- An accepted image is taken up: every section that is needed before palette 0 starts (R487); the load of palette 0 begins. -/
def State.applyImage (s : State) (g : Image) : State :=
  let s := { s with
    dev := { s.dev with
      imageId := g.imageId, imageVersion := g.version, contractVersion := g.contract, fwVersion := g.firmware, mcoreUp := true }
    easel := { s.easel with canvasLen := g.canvasUs * 125, sections := g.palettes }
    flt := { s.flt with wdog := s.et } }
  let pal0 := s.palSection 0
  let s := (((s.setPlan g).setRoutes g).setSwitch g).setBuses g
  ((s.setOutputs g).setWake g).setSlot 0 { st := 1, sect := 0, pages := palPages pal0.strokes }

/-- The acceptance code of an image at start: what its checks come to, and those that the model makes of its records. -/
def State.imageCode (s : State) (g : Image) : Nat :=
  let code := s.acceptCode g.accept
  let pal := fun (k : Nat) => g.palettes.val {} k
  if code != 0 then code
  else if (upFrom 0 4).any fun k => (pal k).strokes == 0 then 0x03
  else if g.canvasUs < 1000 || 1048576 < g.canvasUs || !(g.parts.val {} 0).enabled || !(g.sets.val {} 0).enabled ||
      (g.sets.val {} 0).wki == 0 || 64696 < (g.swPorts.map fun e => e.2.portLimit).sum then 0x0A
  else if [16, 17, 20].any fun p => g.owners.val 0 (clsPort * 1024 + p) != 0 then 0x0B
  else if 24576 < ((upFrom 0 4).map fun k => palPages (pal k).strokes).sum then 0x0F
  else 0

/-- The verified M-core firmware runs: components and image are checked and loaded. A slot that fails becomes FAILED, and the
next one is started with its own image (R150, R485). -/
def State.mcoreStart (s : State) (g : Image) (componentsOk : Bool) : State :=
  if s.dev.state != .starting || !s.pwr.refOk || s.dev.mcoreUp || s.upd.started.isNone || s.bam.bootRetry.isSome ||
      !(s.bam.serving || s.bam.halted) then s
  else
    let code := s.imageCode g
    if componentsOk && code == 0 then (s.applyImage g).startMark s.dev.activeSlot
    else
      let s := if !componentsOk then s
        else
          let rec_ := if code == g.accept then acceptRecord code g.failType g.failSection g.imageId g.failDetail
            else acceptRecord code 0 0 g.imageId 0
          s.acceptLog 0x168 rec_
      let s := s.slotFails
      if s.upd.started.isNone then s.enterStandby false else s

/-- The start-up loads have ended: palette 0 is LOADED and waits for the first canvas boundary. -/
def State.startLoadDone (s : State) : State :=
  if s.dev.state != .starting || !s.dev.mcoreUp || s.dev.loadsDone then s
  else
    let r := s.palSection 0
    let s := s.setSlot 0 { st := 2, sect := 0, strokes := r.strokes, id := r.id, headLen := r.headLen, pages := palPages r.strokes
                           windows := r.windows }
    { s with
      dev := { s.dev with loadsDone := true, loadsEnd := s.et }
      easel := { s.easel with head := some r.headLen, canvasIdx := s.canvasNo } }

/-! ### Canvas boundary (R27, R71, R273, R502) -/

/-- CAN channels go to INTEGRATING and ports with start at RUN to TRAINING (R323, R341). -/
def State.busesRun (s : State) : State :=
  let can := fun (_ : Nat) (x : Can) => if x.cfg.enabled then { x with st := 1 } else x
  let s := { s with can := { s.can with chans := s.can.chans.mapV can } }
  (upFrom 0 16).foldl (fun s p =>
    if (s.prtOf p).cfg.enabled && (s.prtOf p).cfg.startAtRun then s.portTrain p else s) s

/-- WOKEN, with the ET of the RTC time of the first source (R24, R512). -/
def State.woken (s : State) : State :=
  if !s.dev.wokenDue then s
  else
    let w := s.wake
    ({ s with dev := { s.dev with wokenDue := false } }).raiseAt (rtcEt w.firstRtc) [0] 0x174 4
      (pack [(0, 8, w.first), (8, 1, b2n w.late)])

/-- The first boundary after the start-up loads: palette 0 starts and the device enters RUN. -/
def State.enterRun (s : State) : State :=
  let s := { s with
    dev := { s.dev with state := .run, runEt := s.et }
    easel := { s.easel with running := true, normal := 0, canvasCount := 0 }
    bam := { s.bam with bootAlarms := 0 } }
  let s := (s.paletteStart 0 5).canvasBegin
  let s := (s.timeApply s.time.imgCfg s.time.imgSlew s.time.imgPgs).timeRun
  let s := s.busesRun.fryRun.linRun.dinStart.mailboxStart.updRun.woken
  (s.askLoad 1 1).partsRun.degrade

/-- The over-temperature effects begin with palette 1 and end with the normal palette (R35, R273). -/
def State.heatEffects (s : State) : State :=
  let on := if s.easel.run == 1 && s.dev.causeTemp then true
    else if s.easel.run == 0 || 4 ≤ s.easel.run then false else s.dev.clocksHalved
  { s with dev := { s.dev with clocksHalved := on }, lsw := { s.lsw with slow := on } }

/-- A canvas boundary. -/
def State.boundary (s : State) : State :=
  if !s.atBoundary then s
  else if s.dev.state == .starting then (if s.dev.loadsDone then s.enterRun else s)
  else if !s.active || !s.easel.running then s
  else
    let s := s.canvasTurn.gwBoundary.dinBoundary
    (s.prepStart.heatEffects).sleepCommit

/-! ### RESET and update resets (R61, R497) -/

/-- RESET of scope SWITCH CORE: microcode again, the forwarding database empty, ports retrain, frames lost. -/
def State.switchReset (s : State) : State :=
  let lost := s.swc.frames.length
  let s := s.portsRetrain
  let clear := fun (_ : Nat) (x : SwPort) => { x with cls := [], tx := none, rx := none }
  { s with swc := { s.swc with
    fdb := [], frames := [], ports := s.swc.ports.mapV clear, resetLost := satAdd 32 s.swc.resetLost lost } }

/-- The delay of a RESET command has passed. -/
def State.resetExpiry (s : State) : State :=
  match s.dev.resetPend with
  | none => s
  | some r =>
    if s.et < r.due || !s.active then s
    else
      let s := { s with dev := { s.dev with resetPend := none } }
      if r.scope == 1 then s.deviceReset 2 else if r.scope == 2 then s.clusterReset else s.switchReset

/-- The device reset of UPD_ACTIVATE with restart mode 1. -/
def State.activateReset (s : State) : State :=
  match s.upd.activateAt with
  | none => s
  | some t => if s.et < t || !s.active then s else s.deviceReset 2

/-- A mismatch of the M-core pair: its record is written before the reset (R415). -/
def State.mcoreMismatch (s : State) (rail : Bool) : State :=
  if !s.powered then s
  else
    let x := s.par.mPair
    let s := { s with par := { s.par with mPair := { x with
      mismatches := sat16 x.mismatches, railFaults := if rail then sat16 x.railFaults else x.railFaults, lastMismatch := s.et } } }
    let d := pack [(0, 1, b2n rail), (8, 5, 0x1F)]
    ((s.raise [0] 0x15E 1 d).fault 0x15E 3 7 0x1F 1 d 0 0).deviceReset 3

/-- 100 ms without service of the M-core firmware watchdog (R530). -/
def State.watchdog (s : State) : State :=
  if !s.powered || !s.dev.mcoreUp || s.et < s.flt.wdog + 100 * nsMs then s
  else (s.fault 0x200 0xA 7 0x1F 0 0 0 0).deviceReset 3

/-- An uncorrectable error; one in the management area resets the device (R528). -/
def State.eccRow (s : State) (mem addr : Nat) : State :=
  let t := s.eccUncorrectable mem addr
  if mem == 7 && s.powered then t.deviceReset 3 else t

/-! ### Opcodes (R58 to R63) -/

def nopSpec : OpSpec where
  code := 0x0000
  comp := .S
  issuer := .any
  len := fun ps => decide (ps.length ≤ 4072)
  act := fun pk s => okWith pk.params s

def identifySpec : OpSpec where
  code := 0x0001
  comp := .S
  issuer := .any
  len := lenIs 0
  act := fun _ s =>
    let d := s.dev
    okWith (leBytes 2 0x9800 ++ leBytes 2 Config.siliconRevision ++ leBytes 4 d.contractVersion ++ leBytes 8 Config.deviceIdentity ++
      leBytes 32 Config.resourceModelHash ++ leBytes 1 s.bam.lc ++ leBytes 1 (devCode d.state) ++ leBytes 1 d.activeSlot ++
      leBytes 1 (b2n Config.variantES) ++ leBytes 4 d.fwVersion ++ leBytes 4 d.imageId ++ leBytes 4 0) s

def getStateSpec : OpSpec where
  code := 0x0002
  comp := .S
  issuer := .any
  len := lenIs 0
  act := fun _ s => okWith (leBytes 4 s.devWord ++ leBytes 4 s.causeWord) s

def resetSpec : OpSpec where
  code := 0x0003
  comp := .S
  issuer := .p0
  len := lenIs 8
  fields := fun ps _ =>
    decide (1 ≤ u8 ps 0) && decide (u8 ps 0 ≤ 3) && zeroAt ps 1 1 && u16 ps 2 == 0xA55A && decide (u32 ps 4 ≤ 1000000)
  okState := fun _ s => s.dev.resetPend.isNone
  act := fun pk s =>
    ok { s with dev := { s.dev with resetPend := some ⟨u8 pk.params 0, s.et + u32 pk.params 4 * 1000⟩ } }

def armSpec : OpSpec where
  code := 0x0004
  comp := .S
  issuer := .p0
  len := lenIs 8
  fields := fun ps _ => zeroAt ps 4 4
  okState := fun _ s => s.easel.running
  check := fun pk s => if u32 pk.params 0 == s.dev.imageId then stOk else 0x0200
  act := fun _ s => ok { s with dev := { s.dev with armed := true } }

def disarmSpec : OpSpec where
  code := 0x0005
  comp := .S
  issuer := .p0
  len := lenIs 0
  act := fun _ s => let t := s.allInert; ok { t with dev := { t.dev with armed := false } }

end Sys2Proof.Machine
end

