-- ==== Sys2Proof/Machine/Windows.lean ====
section
/-!
DEFINITION. Sys2Proof/Machine/Windows.lean: the status windows: which page shows what to whom, reads with their latch, and
stores (R23, R65, R66).
-/

namespace Sys2Proof.Machine

/-- Base of the status windows, size of a block and of a page (R65). -/
def winBase : Nat := 0x40000000
def winBlock (a : Nat) : Nat := (a - winBase) / 0x800000
def winPage (a : Nat) : Nat := (a - winBase) % 0x800000 / 0x1000
def winOff (a : Nat) : Nat := a % 0x1000

/-- An address of one of the eighteen blocks. -/
def inWindows (a : Nat) : Bool := decide (winBase ≤ a) && decide (a < 0x49000000)

/-- The words of a page, as runs of words from an offset; what no run holds reads 0. Blocks in the order of R65. -/
def State.winRuns (s : State) (blk page : Nat) : List (Nat × List Nat) :=
  let i := page - 1
  match blk with
  | 0 => if page == 0 then [(0, s.easelPage0)] else if page ≤ 6 then [(0, s.laneWords i)]
         else if page ≤ 14 then [(0, s.slotWords (page - 7))] else []
  | 1 => if page == 0 then [(0, s.gwPage0)] else if page ≤ 4 then [(0, s.pipeWords i)] else if page == 5 then [(0, s.risWords)] else []
  | 2 => if page == 0 then [(0, s.lswPage0)] else if page ≤ 56 then [(0, s.chanWords i)] else []
  | 3 => if page == 0 then [(0, s.mbrPage0)] else if page ≤ 6 then [(0, s.bridgeWords i)]
         else if page ≤ 18 then [(0, s.chanWords (56 + (page - 7)))] else []
  | 4 => if page == 0 then [(0, s.pwrPage0)] else if page ≤ 2 then [(0, s.feedWords i)] else []
  | 5 => if page == 0 then [(0, s.swcPage0)] else if page ≤ 21 then [(0, s.swWords i)] else []
  | 6 => if page == 0 then [] else if page ≤ 16 then [(0, s.prtWords i)] else if page == 21 then [(0x100, s.mpWords)] else []
  | 7 => if page == 0 then [(0, s.ztPage0)] else if page ≤ 16 then [(0, s.pgWords i)] else []
  | 8 => if page == 0 then [(0, s.wakePage0)] else []
  | 9 => if page == 0 then [(0, s.canPage0)] else if page ≤ 16 then [(0, s.canWords i)] else []
  | 10 => if page == 0 then [] else if page ≤ 2 then [(0, s.fryWords i)] else if page ≤ 6 then [(0, s.fryChWords (page - 3))] else []
  | 11 => if page == 0 then [(0, s.linPage0)] else if page ≤ 12 then [(0, s.linWords i)] else []
  | 12 => if page == 0 then [(0, s.dioPage0)] else if page ≤ 80 then [(0, s.dinWords i)]
          else if page ≤ 88 then [(0, s.xoWords (page - 81))] else []
  | 13 => if page == 0 then [(0, s.partPage0)]
          else if page ≤ 16 then [(0, (s.partWords i).take 16), (0x80, (s.partWords i).drop 16)]
          else if page ≤ 22 then [(0, pairWords (s.pair (page - 17)))] else if page == 23 then [(0, pairWords s.par.mPair)] else []
  | 14 => if page == 0 then [] else if page ≤ 128 then
            [(0, s.ringWords i)] ++ (if i < 32 && i % 2 == 0 then [(0x100, s.cmdWords (i / 2))] else []) else []
  | 15 => if page == 0 then [(0, s.bamPage0)] else if page == 1 then [(0, s.tmpPage)] else []
  | 16 => if page == 0 then [(0, s.updPage0)] else []
  | _ => if page == 0 then [(0, s.fltPage0)] else if page ≤ 16 then [(0, s.fltWords i)] else []

/-- The word at an offset of a page. -/
def runWord (off : Nat) : List (Nat × List Nat) → Nat
  | [] => 0
  | (o, ws) :: rs => if o ≤ off && off < o + 4 * ws.length then lo32 (ws.getD ((off - o) / 4) 0) else runWord off rs

def State.winWord (s : State) (a : Nat) : Nat := runWord (winOff a / 4 * 4) (s.winRuns (winBlock a) (winPage a))

/-- The owner of what a page describes: a partition or Bamlys; 0xFE for a page that every partition reads, 0 for one of P0
alone. -/
def State.winOwner (s : State) (blk page : Nat) : Nat :=
  let i := page - 1
  match blk with
  | 2 => if 1 ≤ page && page ≤ 56 then s.owner clsLoad i else 0
  | 3 => if 1 ≤ page && page ≤ 6 then s.owner clsBridge i else if 7 ≤ page && page ≤ 18 then s.owner clsBridge ((page - 7) / 2) else 0
  | 4 => 0xFE
  | 5 => if 1 ≤ page && page ≤ 21 then s.owner clsPort i else 0
  | 6 => if 1 ≤ page && page ≤ 16 then s.owner clsPort i else 0
  | 7 => if 1 ≤ page && page ≤ 16 then s.owner clsPg i else 0
  | 8 => 0xFE
  | 9 => if 1 ≤ page && page ≤ 16 then s.owner clsCan i else 0
  | 10 => if 1 ≤ page && page ≤ 2 then s.owner clsFry i else if 3 ≤ page && page ≤ 6 then s.owner clsFry ((page - 3) / 2) else 0
  | 11 => if 1 ≤ page && page ≤ 12 then s.owner clsLin i else 0
  | 12 => if 1 ≤ page && page ≤ 64 then s.owner clsDi i else if 65 ≤ page && page ≤ 80 then s.owner clsXi (page - 65)
          else if 81 ≤ page && page ≤ 88 then s.owner clsXo (page - 81) else 0
  | 13 => if page == 0 then 0xFE else if page ≤ 16 then i else 0
  | 14 => if 1 ≤ page && page ≤ 128 then (s.ring i).owner else 0
  | 17 => if 1 ≤ page && page ≤ 16 then i else 0
  | _ => 0

/-- A partition sees a page: its own resources', and P0 all but those of Bamlys (R23). -/
def State.winVisible (s : State) (p a : Nat) : Bool :=
  let o := s.winOwner (winBlock a) (winPage a)
  inWindows a && (o == 0xFE || o == p || (p == 0 && o != bamOwner))

/-- Partition `p` reads the low word of a 64-bit field: the high word is latched for it. A read that is not aligned, or of a
page that it does not see, ends with a bus error (R65, R66, R409). -/
def State.lowRead (s : State) (p a : Nat) : State :=
  if 16 ≤ p || !s.powered then s
  else if a % 4 == 0 && s.winVisible p a then
    { s with dev := { s.dev with
      latch := s.dev.latch.put (0, 0) p (a + 4, s.winWord (a + 4)), lastLoad := some (s.winWord a) } }
  else
    let s := { s with dev := { s.dev with lastLoad := none } }
    let s := s.setFltPart p { s.fltPart p with loadErrors := sat16 (s.fltPart p).loadErrors }
    s.fault 0x202 5 0 p 0 a 0 0

/-- A register without a behaviour of its own on a page mapped to its writer: a status window, or the rest of a doorbell or
acknowledge page (R64, R427). -/
def State.deadRegister (s : State) (p a : Nat) : Bool :=
  s.winVisible p a ||
    (decide (0x60000000 ≤ a) && decide (a < 0x60080000) && (s.ring ((a - 0x60000000) / 0x1000)).owner == p && decide (12 ≤ winOff a)) ||
    (a / 0x1000 == 0x60080 + p && decide (8 ≤ winOff a))

/-- A store to such a register is discarded and reported as a posted error with cause 0; one by the M-core or an engine as
class BUS (R523, R525). One to a page that a partition does not see faults in its translation (R409). -/
def State.windowStore (s : State) (w : BusWrite) : State :=
  if !s.powered || !w.isWrite then s
  else if w.init < 16 then
    if s.deadRegister w.init w.addr then s.postFail w.init w.addr (Nat.log2 w.size) 0 1 (s.pairOf w.init) 0 else s
  else if inWindows w.addr then s.fault 0x202 5 0 0x1F 0 w.addr 0 0
  else s

end Sys2Proof.Machine
end

