-- ==== Sys2Proof/Machine/Intake.lean ====
section
/-!
DEFINITION. Sys2Proof/Machine/Intake.lean: command intake: the checks of R48, the MP credential and window (R44 to R47), the
three ways of completing, held commands, and the execution of open strokes (R37, R42, R43, R49 to R53, R116).
-/

namespace Sys2Proof.Machine

/-! ### The opcodes of R57 -/

/-- The opcodes of one group. -/
def specsOf (group : Nat) : List OpSpec :=
  match group with
  | 0x00 => [nopSpec, identifySpec, getStateSpec, resetSpec, armSpec, disarmSpec]
  | 0x01 => [timeGetStatusSpec, timeSetSourcesSpec, timeSetHoldoverSpec, pgConfigSpec, pgStartSpec, pgStopSpec]
  | 0x02 => [easelGetStatusSpec, paletteLoadSpec, paletteSwitchSpec, paletteUnloadSpec, easelGetOverrunsSpec,
      easelClearCountersSpec]
  | 0x03 => [gwGetStatusSpec, gwRouteReadSpec, gwSignalReadSpec, gwSignalForceSpec, gwWakeRouteSetSpec]
  | 0x04 => [lswSetSpec, lswSetPwmSpec, lswConfigSpec, lswGetStatusSpec, lswClearOcLatchSpec, lswClearThermalLatchSpec,
      lswIsmSelectSpec, mbrConfigSpec, mbrDriveSpec, mbrBrakeSpec, mbrGetStatusSpec]
  | 0x05 => [pwrGetStatusSpec, pwrSetSagThresholdSpec, pwrUnlatchUvSpec, pwrGetLedgerSpec, pwrGetThermalSpec]
  | 0x06 => [swcGetCountersSpec, swcFdbReadSpec, swcFdbWriteSpec, swcFdbFlushSpec, swcClearCountersSpec]
  | 0x07 => [prtGetStatusSpec, prtEnableSpec, prtDisableSpec, prtCableDiagSpec, prtTc10SleepSpec]
  | 0x08 => [canGetStatusSpec, canTxSpec, canTxCancelSpec, canSetFilterSpec, canSetWakeSpec, canRecoverSpec]
  | 0x09 => [fryGetStatusSpec, fryStartSpec, fryHaltSpec, fryBranchEnableSpec]
  | 0x0A => [linGetStatusSpec, linTxSpec, linWakePulseSpec, linGotoSleepSpec]
  | 0x0B => [dioGetInputsSpec, dioConfigSpec, dioSetXoSpec, dioWirebreakTestSpec]
  | 0x0C => [partGetStatusSpec, partResetSpec, partRestartSpec, ringGetStatusSpec, ringResetSpec, partReadPostedErrorsSpec]
  | 0x0D => [bamGetStatusSpec, bamSessionOpenSpec, bamKeyInstallSpec, bamSignSpec, bamVerifySpec, bamRandomSpec,
      bamLifecycleSetSpec, bamTamperPolicySpec]
  | 0x0E => [updGetStatusSpec, updBeginSpec, updChunkSpec, updActivateSpec, updVarnishSpec, updAbortSpec]
  | 0x0F => [wakeGetSourceSpec, sleepRequestSpec, wakeConfigSpec, wakeClearSourceSpec]
  | 0x10 => [fltGetStatusSpec, fltReadLogSpec, fltClearSpec, fltInjectSpec]
  | _ => []

/-- The opcode of a code. -/
def specOf (code : Nat) : Option OpSpec := (specsOf (code / 256)).find? fun o => o.code == code

/-! ### Order (R25, R49, R52) -/

/-- Whether command `a` goes before `b`: by stamp, ties by source ID. -/
def pkBefore (a b : Packet) : Bool := decide (a.stamp < b.stamp) || (a.stamp == b.stamp && decide (srcId a.src < srcId b.src))

/-- A command enters the open-stroke queue of its class: behind all, but ahead of each queued command on its resource that goes
after it. -/
def queuePut (q : Queued) : List Queued → List Queued
  | [] => [q]
  | x :: xs => if x.res != 0 && x.res == q.res && pkBefore q.pk x.pk then q :: x :: xs else x :: queuePut q xs

def State.queueOf (s : State) (cls : Nat) : List Queued := s.cmd.queues.val [] cls

def State.setQueue (s : State) (cls : Nat) (q : List Queued) : State :=
  { s with cmd := { s.cmd with queues := s.cmd.queues.put [] cls q } }

/-- Every command that waits for an open stroke. -/
def State.queued (s : State) : List Queued := s.cmd.queues.flatMap fun q => q.2

/-- A command of source `src` waits behind what is not complete: with BARRIER behind everything of its source (R37), otherwise
behind a held one on its resource, and, unless it is itself of type O, behind those queued on its resource that go before it
(R52). DEDUCED: an outstanding asynchronous operation holds no later command. `held` are the held commands taken before it. -/
def State.mustWait (s : State) (o : OpSpec) (pk : Packet) (held : List HeldCmd) : Bool :=
  let r := o.res pk
  let mine := held.filter fun h => h.pk.src == pk.src
  (isBarrier pk && (!mine.isEmpty || (s.queued.any fun q => q.pk.src == pk.src) ||
    s.cmd.async.any fun a => a.pk.src == pk.src && a.pk != pk)) ||
  (r != 0 && ((mine.any fun h => h.res == r) ||
    (o.comp != .O && s.queued.any fun q => q.res == r && (q.pk.src == pk.src || pkBefore q.pk pk))))

/-! ### Execution -/

/-- Command intake runs: the device is in RUN, DEGRADED or SLEEP-PREP, before the commit point (R43, R54). -/
def State.intakeOpen (s : State) : Bool := s.active && s.wake.phase != 4

/-- Checks that a command that has waited meets again when it starts (DEDUCED): the device state and those of its chapter. -/
def State.recheck (s : State) (o : OpSpec) (pk : Packet) : Nat :=
  if !s.intakeOpen || !o.okState pk s then stWrongState else o.check pk s

/-- A command of type S, or one of type O in its open stroke, runs to its final reply. -/
def State.runNow (s : State) (o : OpSpec) (pk : Packet) : State :=
  let r := o.act pk s
  let (c, res) := r.done.getD (stOk, [])
  r.st.finalReply o.code pk c res

/-- The entry of an asynchronous command joins the outstanding ones (R51). -/
def State.outstand (s : State) (o : OpSpec) (pk : Packet) (started : Bool) : State :=
  let others := s.cmd.async.filter fun a => a.pk != pk
  { s with cmd := { s.cmd with async := others ++
    [⟨o.code, o.res pk, pk, started, if started then s.et else 0, s.supDue o.code pk, false⟩] } }

/-- The operation of an outstanding asynchronous command starts. -/
def State.startAsync (s : State) (o : OpSpec) (pk : Packet) : State :=
  let r := o.act pk (s.outstand o pk true)
  match r.done with
  | none => r.st
  | some (c, res) => r.st.finishWhere (fun a => a.code == o.code && a.pk == pk) c res

/-- A validated command goes its way: it is held, or it executes as its completion type says (R49 to R52). -/
def State.dispatch (s : State) (o : OpSpec) (pk : Packet) : State :=
  let wait := s.mustWait o pk s.cmd.held
  let s := if o.comp == .A && !isCheckOnly pk then s.acceptReply pk else s
  if wait then
    let s := if o.comp == .A then s.outstand o pk false else s
    { s with cmd := { s.cmd with held := s.cmd.held ++ [⟨o.code, o.res pk, pk, isBarrier pk⟩] } }
  else
    match o.comp with
    | .S => s.runNow o pk
    | .O => s.setQueue o.cls (queuePut ⟨o.code, o.res pk, pk⟩ (s.queueOf o.cls))
    | .A => s.startAsync o pk

/-- A held command starts, where nothing keeps it any more. -/
def State.unhold (s : State) (h : HeldCmd) (o : OpSpec) : State :=
  let s := { s with cmd := { s.cmd with held := s.cmd.held.erase h } }
  match o.comp with
  | .O => s.setQueue o.cls (queuePut ⟨o.code, o.res h.pk, h.pk⟩ (s.queueOf o.cls))
  | .S => if s.recheck o h.pk == stOk then s.runNow o h.pk else s.finalReply o.code h.pk (s.recheck o h.pk) []
  | .A =>
    if s.recheck o h.pk == stOk then s.startAsync o h.pk
    else s.finishWhere (fun a => a.code == o.code && a.pk == h.pk) (s.recheck o h.pk) []

/-- The first held command that no longer waits. `before` are those passed over. -/
def State.nextHeld (s : State) (before : List HeldCmd) : List HeldCmd → Option (HeldCmd × OpSpec)
  | [] => none
  | h :: hs =>
    match specOf h.code with
    | some o => if s.mustWait o h.pk before then s.nextHeld (before ++ [h]) hs else some (h, o)
    | none => s.nextHeld (before ++ [h]) hs

/-- One held command that no longer waits starts (R37, R52). -/
def State.release (s : State) : State :=
  match s.nextHeld [] s.cmd.held with
  | none => s
  | some (h, o) => s.unhold h o

/-- The command at the head of the queue of class `cls` executes. -/
def State.openOne (s : State) (cls : Nat) : State :=
  match s.queueOf cls with
  | [] => s
  | q :: rest =>
    let s := s.setQueue cls rest
    match specOf q.code with
    | none => s
    | some o => if s.recheck o q.pk == stOk then s.runNow o q.pk else s.finalReply o.code q.pk (s.recheck o q.pk) []

/-- Up to `n` commands of a class execute in queue order (R49, R116). -/
def State.openRun (cls : Nat) : Nat → State → State
  | 0, s => s
  | n + 1, s => State.openRun cls n (s.openOne cls)

/-- OPEN: the open stroke of a class with its count. -/
def State.openDo (s : State) (h : StrokeHd) (cls count : Nat) : State :=
  if count == 0 || 8 < count then s
  else s.strokeDo h ⟨0x7F, openLane cls, cls, leBytes 4 count⟩ fun _ s => State.openRun cls count s

/-! ### Validation (R48) -/

/-- Check 1: the stated length and the delivered bytes. -/
def lenOk (pk : Packet) : Bool := pk.len % 4 == 0 && decide (pk.len ≤ 4080) && decide (pk.len ≤ pk.params.length)

/-- Check 5: flags, and what R38 asks of a local ring. -/
def packetOk (pk : Packet) : Bool :=
  decide (pk.flags < 8) && !(isBarrier pk && isCheckOnly pk) && decide (pk.part < 16) &&
    (match pk.src with | .ring p => pk.part == p && pk.cred == 0 | .mp => true)

/-- Check 7: the issuer, then the owners of the resources named (R22, R57). -/
def State.issuerCheck (s : State) (o : OpSpec) (pk : Packet) : Nat :=
  let p := actsAs pk
  let own := o.owners pk.params s
  match o.issuer with
  | .bam => if s.bamIssuer o.code pk then stOk else stNotOwner
  | .p0 => if p != 0 then stNotOwner else if own.contains bamOwner then stOwnedSecure else stOk
  | .any => if own.contains bamOwner then stOwnedSecure else stOk
  | .own => if own.contains bamOwner then stOwnedSecure else if own.all (· == p) then stOk else stNotOwner
  | .ownP0 => if own.contains bamOwner then stOwnedSecure else if p == 0 || own.all (· == p) then stOk else stNotOwner

/-- Check 8: an MP command that names a partition in reset (R53), and the opcode's own states. -/
def State.stateOk (s : State) (o : OpSpec) (pk : Packet) : Bool :=
  (match pk.src with | .mp => !s.inReset pk.part | .ring _ => true) && o.okState pk s

/-- Check 9: queue space, the limits of R51, and Bamlys's queue of 16 (R448). -/
def State.isBusy (s : State) (o : OpSpec) (pk : Packet) : Bool :=
  let mine := s.cmd.async.filter fun a => a.pk.src == pk.src
  (o.comp == .O && decide (64 ≤ (s.queueOf o.cls).length)) ||
    (o.comp == .A && (decide (16 ≤ mine.length) || mine.any fun a => a.pk.tag == pk.tag)) ||
    (o.issuer == .bam && decide (16 ≤ s.bamQueue.length)) || o.busy pk s

/-- Check 10: Bamlys halted refuses at intake and makes its own checks later (R448); otherwise those of the chapter. -/
def State.lastCheck (s : State) (o : OpSpec) (pk : Packet) : Nat :=
  if o.issuer == .bam then (if s.bam.halted then 0x0F0A else stOk) else o.check pk s

/-- Checks 3 to 10: the status of the first that fails, or OK. -/
def State.validate (s : State) (o : OpSpec) (pk : Packet) : Nat :=
  if o.code == 0x1003 && s.bam.lc != 0 && s.bam.lc != 3 then stBadOpcode
  else if !o.len pk.params then stBadLength
  else if !packetOk pk || !o.fields pk.params s then stBadParam
  else if o.locked pk s then stLocked
  else if s.issuerCheck o pk != stOk then s.issuerCheck o pk
  else if !s.stateOk o pk then stWrongState
  else if s.isBusy o pk then stBusy
  else s.lastCheck o pk

/-- What a command with a good frame and credential leads to. -/
def State.process (s : State) (o : OpSpec) (pk : Packet) : State :=
  let c := s.validate o pk
  if c != stOk then s.finalReply o.code pk c []
  else if isCheckOnly pk && o.issuer != .bam then s.finalReply o.code pk stOk []
  else s.dispatch o pk

/-! ### The path through MP (R44 to R47) -/

/-- The message whose AES-CMAC is the credential (R45). -/
def macMessage (code : Nat) (pk : Packet) : List Byte :=
  leBytes 2 code ++ leBytes 1 pk.flags ++ leBytes 1 pk.part ++ leBytes 2 pk.tag ++ leBytes 2 pk.len ++ leBytes 4 pk.seq ++
    pk.params ++ leBytes 8 Config.deviceIdentity

/-- The window accepts a sequence number (R46). -/
def Session.accepts (x : Session) (n : Nat) : Bool :=
  n != 0 && x.high != 0xFFFFFFFF &&
    (decide (x.high < n) || (decide (x.high ≤ n + 63) && !x.window.testBit (x.high - n)))

/-- The session with a sequence number marked. -/
def Session.mark (x : Session) (n : Nat) : Session :=
  if x.high < n then
    { x with high := n, window := (if n - x.high < 64 then x.window * 2 ^ (n - x.high) % 2 ^ 64 else 0) + 1 }
  else { x with window := setBit x.window (x.high - n) true }

/-- An AUTH_FAIL outcome: one reply per source MAC address and ET millisecond of the stamp (R47). -/
def State.authFail (s : State) (code : Nat) (pk : Packet) (replay : Bool) : State :=
  let ms := pk.stamp / nsMs + 1
  let c := s.cmd
  let again := c.authMs.val 0 pk.mac == ms
  let s := { s with cmd := { c with
    mpAuthFail := wrap32 c.mpAuthFail, mpReplay := if replay then wrap32 c.mpReplay else c.mpReplay
    mpSuppressed := if again then wrap32 c.mpSuppressed else c.mpSuppressed, authMs := c.authMs.put 0 pk.mac ms } }
  if again then s else s.finalReply code pk stAuthFail []

/-- Check 2, then the rest. -/
def State.fromMp (s : State) (o : OpSpec) (pk : Packet) : State :=
  let x := s.cmd.sessions.val {} pk.part
  if !x.isOpen || Config.cmac32 x.key (macMessage o.code pk) != pk.cred then s.authFail o.code pk false
  else if !x.accepts pk.seq then s.authFail o.code pk true
  else ({ s with cmd := { s.cmd with sessions := s.cmd.sessions.put {} pk.part (x.mark pk.seq) } }).process o pk

/-! ### Intake (R41 to R43, R50) -/

/-- The M-core takes a command of type `comp` from the ring of partition `p`: a packet waits and the reply ring has the slots
that its replies need (R42). -/
def State.ringTakes (s : State) (p : Nat) (comp : Comp) : Bool :=
  let c := s.ring (2 * p)
  let r := s.ring (2 * p + 1)
  decide (p < 16) && (s.part p).st == 1 && c.enabled && c.fill != 0 &&
    decide (r.fill + s.unanswered (.ring p) + (if comp == .A then 2 else 1) ≤ r.depth)

/-- The packet with its parameter block cut to the stated length (R44). -/
def cutBlock (pk : Packet) : Packet := { pk with params := pk.params.take pk.len }

/-- A packet is taken: a ring slot is given back and the packet is counted. -/
def State.taken (s : State) (pk : Packet) : State :=
  match pk.src with
  | .ring p =>
    let s := s.ringPop (2 * p)
    s.setStat p { s.stat p with taken := wrap32 (s.stat p).taken }
  | .mp => { s with cmd := { s.cmd with mpCmdRx := wrap32 s.cmd.mpCmdRx } }

/-- A packet can be taken from its source. -/
def State.takes (s : State) (o : OpSpec) (pk : Packet) : Bool :=
  s.intakeOpen && (match pk.src with | .ring p => s.ringTakes p o.comp | .mp => true)

/-- The slot that holds a packet of a ring reaches into a poisoned unit (R529). -/
def State.slotBad (s : State) (pk : Packet) : Bool :=
  match pk.src with
  | .ring p => let r := s.ring (2 * p); s.poisoned (r.base + r.cons % r.depth * r.slotSize) (16 + pk.len)
  | .mp => false

/-- The slot of a packet is given back unread, and counted as lost. -/
def State.skipSlot (s : State) (pk : Packet) : State :=
  match pk.src with
  | .ring p => (s.ringPop (2 * p)).ringDiscard (2 * p)
  | .mp => s

/-- A command packet is taken: rings first give their slot back, then the checks in the order of R48. A slot that a poisoned
unit reaches into is skipped and counted (R529). -/
def State.command (s : State) (o : OpSpec) (pk : Packet) : State :=
  if !s.takes o pk then s
  else if s.slotBad pk then s.skipSlot pk
  else if !lenOk pk then (s.taken pk).finalReply o.code pk stBadLength []
  else
    match pk.src with
    | .ring _ => (s.taken pk).process o (cutBlock pk)
    | .mp => (s.taken pk).fromMp o (cutBlock pk)

end Sys2Proof.Machine
end

