-- ==== Sys2Proof/Machine/CmdBam.lean ====
section
/-!
DEFINITION. Sys2Proof/Machine/CmdBam.lean: the meanings of the commands of Bamlys and tamper: opcodes 0x0Dxx and their events (R446 to R478).
-/

namespace Sys2Proof.Machine

/-- BAM_GET_STATUS (R471). Bamlys command that returns island or slot status. -/
def execBamGetStatus (pk : Packet) (s : State) : Host.Outcome State Fault Refusal :=
  .next (s.command bamGetStatusSpec pk)

/-- BAM_SESSION_OPEN (R473). Bamlys command that opens, rekeys or closes an MP session. -/
def execBamSessionOpen (pk : Packet) (s : State) : Host.Outcome State Fault Refusal :=
  .next (s.command bamSessionOpenSpec pk)

/-- BAM_KEY_INSTALL (R472). Bamlys command that stages, generates, installs or deletes a key. -/
def execBamKeyInstall (pk : Packet) (s : State) : Host.Outcome State Fault Refusal :=
  .next (s.command bamKeyInstallSpec pk)

/-- BAM_SIGN (R474). Bamlys command that signs or MACs a message. -/
def execBamSign (pk : Packet) (s : State) : Host.Outcome State Fault Refusal :=
  .next (s.command bamSignSpec pk)

/-- BAM_VERIFY (R474). Bamlys command that verifies a signature. -/
def execBamVerify (pk : Packet) (s : State) : Host.Outcome State Fault Refusal :=
  .next (s.command bamVerifySpec pk)

/-- BAM_RANDOM (R474). Bamlys command that returns DRBG bytes. -/
def execBamRandom (pk : Packet) (s : State) : Host.Outcome State Fault Refusal :=
  .next (s.command bamRandomSpec pk)

/-- BAM_LIFECYCLE_SET (R463). Bamlys command that performs a life-cycle transition. -/
def execBamLifecycleSet (pk : Packet) (s : State) : Host.Outcome State Fault Refusal :=
  .next (s.command bamLifecycleSetSpec pk)

/-- BAM_TAMPER_POLICY (R475). Bamlys command that sets the tamper policy and arm mask or clears the lock. -/
def execBamTamperPolicy (pk : Packet) (s : State) : Host.Outcome State Fault Refusal :=
  .next (s.command bamTamperPolicySpec pk)

/-- BAM_REQUEST_EXECUTE (R448). Bamlys starts the next queued request and replies at its end. -/
def execBamRequestExecute (svc : BamService) (s : State) : Host.Outcome State Fault Refusal :=
  .next (s.bamExecute svc)

/-- BAMLYS_START (R451). Bamlys ROM regenerates the root from the PUF and reads the key store. -/
def execBamlysStart (pufFails : Nat) (recovered : List Nat) (store : BamStore) (measurement : List Byte) (fwOk : Bool) (s : State) : Host.Outcome State Fault Refusal :=
  .next (s.bamStart pufFails recovered store measurement fwOk)

/-- BAMLYS_RESTART (R465). Watchdog expiry, exception or self-check failure restarts Bamlys alone. -/
def execBamlysRestart (cause : Nat) (fwOk : Bool) (pufFails : Nat) (recovered : List Nat) (measurement : List Byte) (s : State) : Host.Outcome State Fault Refusal :=
  .next (s.bamRestart cause fwOk pufFails recovered measurement)

/-- KEY_REGISTER_REMASK (R457). Key registers re-masked at least every 8 ms. -/
def execKeyRegisterRemask (s : State) : Host.Outcome State Fault Refusal :=
  .next (s.remask)

/-- MKA_SAK_INSTALL (R456). Bamlys installs a SAK distributed by MKA on a port. -/
def execMkaSakInstall (port : Nat) (an : Nat) (scs : Nat) (xpn : Bool) (s : State) : Host.Outcome State Fault Refusal :=
  .next (s.mkaInstall port an scs xpn)

/-- TAMPER_ALARM (R468). Tamper source alarms and the policy applies by phase. -/
def execTamperAlarm (src : Nat) (phase : Nat) (programming : Bool) (s : State) : Host.Outcome State Fault Refusal :=
  .next (s.tamperAlarm src phase programming)

/-- TAMPER_BOOT_RETRY (R468). Start retried 100 ms after a tamper alarm at boot. -/
def execTamperBootRetry (s : State) : Host.Outcome State Fault Refusal :=
  .next (s.tamperRetry)

end Sys2Proof.Machine
end

