-- ==== Sys2Proof/Machine/CmdCan.lean ====
section
/-!
DEFINITION. Sys2Proof/Machine/CmdCan.lean: the meanings of the commands of the CAN channels: opcodes 0x08xx and their events (R335 to R358).
-/

namespace Sys2Proof.Machine

/-- CAN_GET_STATUS (R353). Command that returns a CAN channel page. -/
def execCanGetStatus (pk : Packet) (s : State) : Host.Outcome State Fault Refusal :=
  .next (s.command canGetStatusSpec pk)

/-- CAN_TX (R354). Asynchronous command that queues a frame for the channel's command entry. -/
def execCanTx (pk : Packet) (s : State) : Host.Outcome State Fault Refusal :=
  .next (s.command canTxSpec pk)

/-- CAN_TX_CANCEL (R349). Asynchronous command that cancels an outstanding CAN_TX by tag. -/
def execCanTxCancel (pk : Packet) (s : State) : Host.Outcome State Fault Refusal :=
  .next (s.command canTxCancelSpec pk)

/-- CAN_SET_FILTER (R356). Open-stroke command that sets or clears a host receive filter. -/
def execCanSetFilter (pk : Packet) (s : State) : Host.Outcome State Fault Refusal :=
  .next (s.command canSetFilterSpec pk)

/-- CAN_SET_WAKE (R350). Open-stroke command that configures wake detection and may put a channel to sleep or wake it. -/
def execCanSetWake (pk : Packet) (s : State) : Host.Outcome State Fault Refusal :=
  .next (s.command canSetWakeSpec pk)

/-- CAN_RECOVER (R358). Open-stroke command that starts bus-off recovery. -/
def execCanRecover (pk : Packet) (s : State) : Host.Outcome State Fault Refusal :=
  .next (s.command canRecoverSpec pk)

/-- CAN_FRAME_RECEIVED (R343). End of CRC of a received CAN frame: filtered, stored, ristretto trigger. -/
def execCanFrameReceived (ch : Nat) (f : CanFrame) (s : State) : Host.Outcome State Fault Refusal :=
  .next (s.canReceive ch f)

/-- CAN_FRAME_VALID (R343). Frame valid at end of frame and delivered to the receive ring. -/
def execCanFrameValid (ch : Nat) (s : State) : Host.Outcome State Fault Refusal :=
  .next (s.canValid ch)

/-- CAN_ATTEMPT_START (R346). Transmission attempt starts at SOF. -/
def execCanAttemptStart (ch : Nat) (s : State) : Host.Outcome State Fault Refusal :=
  .next (s.canAttempt ch)

/-- CAN_ARBITRATION_LOST (R346). Attempt loses arbitration, ending or retrying the request. -/
def execCanArbitrationLost (ch : Nat) (s : State) : Host.Outcome State Fault Refusal :=
  .next (s.canLost ch)

/-- CAN_BUS_ERROR (R346). Error detected on the bus, updating counters and ending attempts or receptions. -/
def execCanBusError (ch : Nat) (kind : Nat) (past : Bool) (more : Bool) (s : State) : Host.Outcome State Fault Refusal :=
  .next (s.canError ch kind past more)

/-- CAN_TX_SUCCESS (R346). Frame completes without error and its request ends OK. -/
def execCanTxSuccess (ch : Nat) (s : State) : Host.Outcome State Fault Refusal :=
  .next (s.canSuccess ch)

/-- CAN_INTEGRATED (R341). Eleven recessive bits in INTEGRATING: RUNNING. -/
def execCanIntegrated (ch : Nat) (s : State) : Host.Outcome State Fault Refusal :=
  .next (s.canIntegrated ch)

/-- BUS_OFF_RECOVERED (R348). 128 × 11 recessive bits complete recovery: INTEGRATING. -/
def execBusOffRecovered (ch : Nat) (s : State) : Host.Outcome State Fault Refusal :=
  .next (s.canRecovered ch)

/-- CAN_WAKE (R350). WUP, WUF or error counter overflow wakes an ASLEEP channel. -/
def execCanWake (ch : Nat) (reason : Nat) (s : State) : Host.Outcome State Fault Refusal :=
  .next (s.canWake ch reason)

end Sys2Proof.Machine
end

