-- ==== Sys2Proof/Machine/CmdDevice.lean ====
section
/-!
DEFINITION. Sys2Proof/Machine/CmdDevice.lean: the meanings of the commands of the device group: NOP, IDENTIFY, GET_STATE, RESET, ARM, DISARM (R57 to R63).
-/

namespace Sys2Proof.Machine

/-- NOP (R58). Command that returns its parameter block unchanged as its result. -/
def execNop (pk : Packet) (s : State) : Host.Outcome State Fault Refusal :=
  .next (s.command nopSpec pk)

/-- IDENTIFY (R59). Command that returns member, revision, contract version, device identity, model hash and states. -/
def execIdentify (pk : Packet) (s : State) : Host.Outcome State Fault Refusal :=
  .next (s.command identifySpec pk)

/-- GET_STATE (R60). Command that returns the PART_DEVICE_STATE and PART_DEVICE_CAUSE words. -/
def execGetState (pk : Packet) (s : State) : Host.Outcome State Fault Refusal :=
  .next (s.command getStateSpec pk)

/-- RESET (R61). Command that replies and then, after its delay, resets the device, the A-core cluster or the switch core. -/
def execReset (pk : Packet) (s : State) : Host.Outcome State Fault Refusal :=
  .next (s.command resetSpec pk)

/-- ARM (R62). Command that sets the armed condition when the image ID matches the running image. -/
def execArm (pk : Packet) (s : State) : Host.Outcome State Fault Refusal :=
  .next (s.command armSpec pk)

/-- DISARM (R63). Command that clears the armed condition and replies once every output is inert. -/
def execDisarm (pk : Packet) (s : State) : Host.Outcome State Fault Refusal :=
  .next (s.command disarmSpec pk)

end Sys2Proof.Machine
end

