-- ==== Sys2Proof/Machine/CmdDio.lean ====
section
/-!
DEFINITION. Sys2Proof/Machine/CmdDio.lean: the meanings of the commands of inputs and isolated outputs: opcodes 0x0Bxx and their events (R386 to R408).
-/

namespace Sys2Proof.Machine

/-- DIO_GET_INPUTS (R403). Command that returns input levels, XO states and break maps. -/
def execDioGetInputs (pk : Packet) (s : State) : Host.Outcome State Fault Refusal :=
  .next (s.command dioGetInputsSpec pk)

/-- DIO_CONFIG (R404). Open-stroke command that changes filter, debounce, wetting or break settings of an input. -/
def execDioConfig (pk : Packet) (s : State) : Host.Outcome State Fault Refusal :=
  .next (s.command dioConfigSpec pk)

/-- DIO_SET_XO (R405). Open-stroke command that sets an isolated output level. -/
def execDioSetXo (pk : Packet) (s : State) : Host.Outcome State Fault Refusal :=
  .next (s.command dioSetXoSpec pk)

/-- DIO_WIREBREAK_TEST (R406). Asynchronous command that evaluates break and short bands over a window. -/
def execDioWirebreakTest (pk : Packet) (s : State) : Host.Outcome State Fault Refusal :=
  .next (s.command dioWirebreakTestSpec pk)

/-- FILTERED_EDGE (R389). Counter filter reaches its threshold: filtered level changes, ristretto trigger. -/
def execFilteredEdge (input : Nat) (level : Bool) (first : Nat) (s : State) : Host.Outcome State Fault Refusal :=
  .next (s.filteredEdge input level first)

/-- DI_EDGE (R391). Debounce time held: qualified level of a DI or XI changes. -/
def execDiEdge (input : Nat) (s : State) : Host.Outcome State Fault Refusal :=
  .next (s.diEdge input)

/-- DI_FEED_LOW (R392). F below 6.0 V: inputs hold their levels. -/
def execDiFeedLow (v : Nat) (s : State) : Host.Outcome State Fault Refusal :=
  .next (s.diFeedLow v)

/-- DI_SAMPLING_RESUME (R392). F above 6.5 V for 1 ms: sampling resumes. -/
def execDiSamplingResume (v : Nat) (s : State) : Host.Outcome State Fault Refusal :=
  .next (s.diResume v)

/-- WIRE_BREAK (R393). Break filter of means in the break or short band: BREAK or SHORT. -/
def execWireBreak (di : Nat) (s : State) : Host.Outcome State Fault Refusal :=
  .next (s.wireBreak di)

/-- WIRE_OK (R393). Break filter of means outside both bands: OK. -/
def execWireOk (di : Nat) (s : State) : Host.Outcome State Fault Refusal :=
  .next (s.wireOk di)

/-- WIREBREAK_TEST_DONE (R406). Wire-break test window ends and results are returned. -/
def execWirebreakTestDone (skipped : Nat) (brk : Nat) (shrt : Nat) (s : State) : Host.Outcome State Fault Refusal :=
  .next (s.testDone skipped brk shrt)

/-- BARRIER_LOST (R395). No valid barrier frame for 20 µs: XO field safe states. -/
def execBarrierLost (logicSide : Bool) (viso : Bool) (s : State) : Host.Outcome State Fault Refusal :=
  .next (s.barrierLost logicSide viso)

/-- BARRIER_RESTORED (R395). Sixteen consecutive valid frames in both directions. -/
def execBarrierRestored (s : State) : Host.Outcome State Fault Refusal :=
  .next (s.barrierRestored)

/-- XO_FAULT (R396). XO above 0.7 A for 50 µs or at thermal limit turns off. -/
def execXoFault (xo : Nat) (current : Nat) (thermal : Bool) (s : State) : Host.Outcome State Fault Refusal :=
  .next (s.xoFault xo current thermal)

/-- XO_RETRY (R396). Faulted XO retries every 100 ms. -/
def execXoRetry (xo : Nat) (holds : Bool) (s : State) : Host.Outcome State Fault Refusal :=
  .next (s.xoRetry xo holds)

/-- XVS_LOST (R396). Field supply below 18 V: outputs off. -/
def execXvsLost (v : Nat) (s : State) : Host.Outcome State Fault Refusal :=
  .next (s.xvsLost v)

/-- FIELD_HOLD_EXPIRY (R397). Field safe hold ends after 500 ms and the output turns off. -/
def execFieldHoldExpiry (xo : Nat) (s : State) : Host.Outcome State Fault Refusal :=
  .next (s.fieldHoldEnd xo)

/-- XVS_RETURN (R396). Field supply XVS rises back to 18 V or above, DIO_XVS_OK sets and the XO outputs may follow their commanded states again. -/
def execXvsReturn (v : Nat) (s : State) : Host.Outcome State Fault Refusal :=
  .next (s.xvsReturn v)

end Sys2Proof.Machine
end

