-- ==== Sys2Proof/Machine/CmdEasel.lean ====
section
/-!
DEFINITION. Sys2Proof/Machine/CmdEasel.lean: the meanings of the commands of the Easel schedule engine: opcodes 0x02xx, strokes, palettes and canvases (R99 to R134).
-/

namespace Sys2Proof.Machine

/-- EASEL_GET_STATUS (R128). Command that returns the Easel block status. -/
def execEaselGetStatus (pk : Packet) (s : State) : Host.Outcome State Fault Refusal :=
  .next (s.command easelGetStatusSpec pk)

/-- PALETTE_LOAD (R129). Asynchronous command that loads a palette section into a customer slot. -/
def execPaletteLoad (pk : Packet) (s : State) : Host.Outcome State Fault Refusal :=
  .next (s.command paletteLoadSpec pk)

/-- PALETTE_SWITCH (R130). Asynchronous command that selects the normal palette slot, replying at the boundary after the next decision point. -/
def execPaletteSwitch (pk : Packet) (s : State) : Host.Outcome State Fault Refusal :=
  .next (s.command paletteSwitchSpec pk)

/-- PALETTE_UNLOAD (R131). Asynchronous command that frees the store pages of a customer slot. -/
def execPaletteUnload (pk : Packet) (s : State) : Host.Outcome State Fault Refusal :=
  .next (s.command paletteUnloadSpec pk)

/-- EASEL_GET_OVERRUNS (R132). Command that returns the overrun counters of a partition. -/
def execEaselGetOverruns (pk : Packet) (s : State) : Host.Outcome State Fault Refusal :=
  .next (s.command easelGetOverrunsSpec pk)

/-- EASEL_CLEAR_COUNTERS (R133). Command that clears the selected Easel counters. -/
def execEaselClearCounters (pk : Packet) (s : State) : Host.Outcome State Fault Refusal :=
  .next (s.command easelClearCountersSpec pk)

/-- ROUTE (R182). Route stroke dispatched into a gateway pipeline queue. -/
def execRoute (h : StrokeHd) (pipe : Nat) (first : Nat) (count : Nat) (s : State) : Host.Outcome State Fault Refusal :=
  let st : Stroke := ⟨0x01, 0, pipe, leBytes 4 first ++ leBytes 1 count⟩
  .next (s.strokeDo h st fun late s => s.routeQueue pipe first count (s.traceOf h st late))

/-- INPUT_LATCH (R102). Stroke that latches a group's qualified levels as gateway source values. -/
def execInputLatch (h : StrokeHd) (group : Nat) (s : State) : Host.Outcome State Fault Refusal :=
  .next (s.strokeDo h ⟨0x02, 0, group, []⟩ fun _ s => s.inputLatch group)

/-- LOAD_SET (R205). Actuation stroke that applies a compiled mode, duty and period to a load channel. -/
def execLoadSet (h : StrokeHd) (ch : Nat) (mode : Nat) (duty : Nat) (period : Nat) (s : State) : Host.Outcome State Fault Refusal :=
  .next (s.strokeDo h ⟨0x10, 1, ch, leBytes 2 mode ++ leBytes 2 duty ++ leBytes 2 period⟩ fun _ s => s.loadSet ch mode duty period)

/-- LOAD_APPLY (R103). Actuation stroke that applies the gateway's actuator command or its fallback to a load channel. -/
def execLoadApply (h : StrokeHd) (ch : Nat) (ageLimit : Nat) (fallback : Nat) (s : State) : Host.Outcome State Fault Refusal :=
  .next (s.strokeDo h ⟨0x11, 1, ch, leBytes 1 ageLimit ++ leBytes 1 fallback⟩ fun _ s => s.loadApply ch ageLimit fallback)

/-- BRIDGE_SET (R238). Actuation stroke that applies a compiled mode and duty to a bridge. -/
def execBridgeSet (h : StrokeHd) (br : Nat) (mode : Nat) (duty : Nat) (period : Nat) (s : State) : Host.Outcome State Fault Refusal :=
  .next (s.strokeDo h ⟨0x12, 1, br, leBytes 2 mode ++ leBytes 2 duty ++ leBytes 4 period⟩ fun _ s => s.bridgeSet br mode duty period)

/-- BRIDGE_APPLY (R103). Actuation stroke that applies the gateway's bridge command or its fallback. -/
def execBridgeApply (h : StrokeHd) (br : Nat) (ageLimit : Nat) (fallback : Nat) (s : State) : Host.Outcome State Fault Refusal :=
  .next (s.strokeDo h ⟨0x13, 1, br, leBytes 1 ageLimit ++ leBytes 1 fallback⟩ fun _ s => s.bridgeApply br ageLimit fallback)

/-- XO_SET (R102). Actuation stroke that sets an isolated output level. -/
def execXoSet (h : StrokeHd) (xo : Nat) (level : Nat) (s : State) : Host.Outcome State Fault Refusal :=
  .next (s.strokeDo h ⟨0x14, 1, xo, leBytes 1 level⟩ fun _ s => s.xoSet xo (level == 1))

/-- PG_TRIGGER (R102). Actuation stroke that starts a pulse generator at the due ET plus a delay. -/
def execPgTrigger (h : StrokeHd) (pg : Nat) (delay : Nat) (s : State) : Host.Outcome State Fault Refusal :=
  .next (s.strokeDo h ⟨0x15, 1, pg, leBytes 4 delay⟩ fun _ s => s.pgTrigger pg h.phase delay)

/-- GATE_SET (R294). Network stroke that sets the 802.1Qbv gate states of a port, or releases gateway frames on GW ports. -/
def execGateSet (h : StrokeHd) (port : Nat) (gates : Nat) (s : State) : Host.Outcome State Fault Refusal :=
  .next (s.strokeDo h ⟨0x20, 2, port, leBytes 1 gates⟩ fun _ s => s.gateSet port gates)

/-- CAN_RELEASE (R344). Network stroke that places a transmit request of a schedule matrix entry. -/
def execCanRelease (h : StrokeHd) (ch : Nat) (entry : Nat) (s : State) : Host.Outcome State Fault Refusal :=
  .next (s.strokeDo h ⟨0x21, 2, ch, leBytes 2 entry⟩ fun _ s => s.canRelease ch entry)

/-- FRY_COMMIT (R368). Network stroke that commits a frame buffer into a FlexRay transmit buffer. -/
def execFryCommit (h : StrokeHd) (cl : Nat) (slot : Nat) (cycle : Nat) (chans : Nat) (s : State) : Host.Outcome State Fault Refusal :=
  .next (s.strokeDo h ⟨0x22, 2, cl, leBytes 2 slot ++ leBytes 1 cycle ++ leBytes 1 chans⟩ fun _ s => s.fryCommit cl slot cycle chans)

/-- LIN_RELEASE (R378). Network stroke that requests a LIN header on a commander channel. -/
def execLinRelease (h : StrokeHd) (ch : Nat) (entry : Nat) (s : State) : Host.Outcome State Fault Refusal :=
  .next (s.strokeDo h ⟨0x23, 2, ch, leBytes 2 entry⟩ fun _ s => s.linRelease ch entry)

/-- WINDOW (R417). Window stroke that switches an A-core pair to the named partition or idle. -/
def execWindow (h : StrokeHd) (pair : Nat) (part : Nat) (switchNs : Nat) (s : State) : Host.Outcome State Fault Refusal :=
  .next (s.strokeDo h ⟨0x30, 3, pair, leBytes 1 part⟩ fun _ s => s.window pair part switchNs)

/-- PF_ROUTE (R161). Prefetch stroke that copies route entries into route SRAM. -/
def execPfRoute (h : StrokeHd) (first : Nat) (count : Nat) (s : State) : Host.Outcome State Fault Refusal :=
  .next (s.strokeDo h ⟨0x40, 4, 0, leBytes 4 first ++ leBytes 2 count⟩ fun _ s => s.prefetchRoutes first count)

/-- PF_STROKE (R111). Prefetch stroke that fills a stroke buffer block. -/
def execPfStroke (h : StrokeHd) (first : Nat) (count : Nat) (s : State) : Host.Outcome State Fault Refusal :=
  .next (s.strokeDo h ⟨0x41, 4, 0, leBytes 4 first ++ leBytes 2 count⟩ fun _ s => s.fillBlock first count)

/-- OPEN (R116). Open stroke that executes queued commands of its class up to its count. -/
def execOpenStroke (h : StrokeHd) (cls : Nat) (count : Nat) (s : State) : Host.Outcome State Fault Refusal :=
  .next (s.openDo h cls count)

/-- STROKE_OVERRUN (R118). Stroke not started by the end of its dispatch window, resolved by its OVR class. -/
def execStrokeOverrun (h : StrokeHd) (st : Stroke) (s : State) : Host.Outcome State Fault Refusal :=
  .next (s.strokeOverrun h st)

/-- STROKE_BLOCK_ARRIVED (R111). On-demand stroke block arrives and dispatch resumes. -/
def execStrokeBlockArrived (s : State) : Host.Outcome State Fault Refusal :=
  .next (s.blockArrived)

/-- CANVAS_BOUNDARY (R71). Canvas boundary: palette start, ages and hold counts advance, realignment and sleep commit take place. -/
def execCanvasBoundary (s : State) : Host.Outcome State Fault Refusal :=
  .next (s.boundary)

/-- DECISION_POINT (R114). Point 20 µs before the boundary at which the next palette is chosen and its head block fetched. -/
def execDecisionPoint (headOk : Bool) (s : State) : Host.Outcome State Fault Refusal :=
  .next (s.decisionPoint headOk)

/-- PALETTE_LOADED (R113). Completion of a palette load with its digest checked, slot LOADED or EMPTY. -/
def execPaletteLoaded (code : Nat) (detail : Nat) (s : State) : Host.Outcome State Fault Refusal :=
  .next (s.paletteLoaded code detail)

end Sys2Proof.Machine
end

