-- ==== Sys2Proof/Machine/CmdFault.lean ====
section
/-!
DEFINITION. Sys2Proof/Machine/CmdFault.lean: the meanings of the commands of bridges, crossings, errors and the fault collector: opcodes 0x10xx and their events (R518 to R541).
-/

namespace Sys2Proof.Machine

/-- FLT_GET_STATUS (R537). Command that returns a fault collector page. -/
def execFltGetStatus (pk : Packet) (s : State) : Host.Outcome State Fault Refusal :=
  .next (s.command fltGetStatusSpec pk)

/-- FLT_READ_LOG (R538). Command that returns retained fault reports. -/
def execFltReadLog (pk : Packet) (s : State) : Host.Outcome State Fault Refusal :=
  .next (s.command fltReadLogSpec pk)

/-- FLT_CLEAR (R539). Command that clears fault counters. -/
def execFltClear (pk : Packet) (s : State) : Host.Outcome State Fault Refusal :=
  .next (s.command fltClearSpec pk)

/-- FLT_INJECT (R540). Asynchronous command that injects a fault in MANUFACTURE or SERVICE. -/
def execFltInject (pk : Packet) (s : State) : Host.Outcome State Fault Refusal :=
  .next (s.command fltInjectSpec pk)

/-- BRIDGE_RETRY (R521). Retried bridge request reissued at the next arbitration. -/
def execBridgeRetry (s : State) : Host.Outcome State Fault Refusal :=
  .next (s.bridgeRetry)

/-- BUS_TIMEOUT (R527). Access stalled 10 µs at a stopped crossing ends with bus error or posted failure. -/
def execBusTimeout (w : BusWrite) (crossing : Nat) (isLoad : Bool) (s : State) : Host.Outcome State Fault Refusal :=
  .next (s.busTimeout w crossing isLoad)

/-- HOLD_BUFFER_DRAIN (R527). Clock returns and held posted writes are delivered in order. -/
def execHoldBufferDrain (crossing : Nat) (s : State) : Host.Outcome State Fault Refusal :=
  .next (s.holdDrain crossing)

/-- CDC_OVERRUN (R526). Pulse arrives before the crossing's acknowledge and is merged. -/
def execCdcOverrun (src : Nat) (s : State) : Host.Outcome State Fault Refusal :=
  .next (s.cdcOverrun src)

/-- PATROL_SCRUB (R528). Patrol scrubber pass over SRAM or DRAM. -/
def execPatrolScrub (dram : Bool) (s : State) : Host.Outcome State Fault Refusal :=
  .next (s.patrol dram)

/-- ECC_CORRECTED (R528). Single-bit memory error corrected. -/
def execEccCorrected (mem : Nat) (addr : Nat) (s : State) : Host.Outcome State Fault Refusal :=
  .next (s.eccCorrected mem addr)

/-- ECC_UNCORRECTABLE (R528). Uncorrectable memory error handled per memory. -/
def execEccUncorrectable (mem : Nat) (addr : Nat) (s : State) : Host.Outcome State Fault Refusal :=
  .next (s.eccRow mem addr)

/-- POISON_READ (R529). Load from a poisoned unit returns a bus error. -/
def execPoisonRead (p : Nat) (addr : Nat) (s : State) : Host.Outcome State Fault Refusal :=
  .next (s.poisonRead p addr)

/-- FAULT_REPORT (R532). Hold time ends and one fault report is made at its level. -/
def execFaultReport (s : State) : Host.Outcome State Fault Refusal :=
  .next (s.faultReport)

/-- MCORE_WATCHDOG_EXPIRY (R530). M-core firmware watchdog 100 ms without service: device reset. -/
def execMcoreWatchdogExpiry (s : State) : Host.Outcome State Fault Refusal :=
  .next (s.watchdog)

/-- LOG_FLUSH (R534). Log records flushed to flash every 100 ms. -/
def execLogFlush (s : State) : Host.Outcome State Fault Refusal :=
  .next (s.logTick)

end Sys2Proof.Machine
end

