-- ==== Sys2Proof/Machine/CmdFryLin.lean ====
section
/-!
DEFINITION. Sys2Proof/Machine/CmdFryLin.lean: the meanings of the commands of FlexRay and LIN: opcodes 0x09xx and 0x0Axx and their events (R359 to R385).
-/

namespace Sys2Proof.Machine

/-- FRY_GET_STATUS (R384). Command that returns a FlexRay cluster or channel page. -/
def execFryGetStatus (pk : Packet) (s : State) : Host.Outcome State Fault Refusal :=
  .next (s.command fryGetStatusSpec pk)

/-- FRY_START (R384). Asynchronous command that starts up a FlexRay cluster. -/
def execFryStart (pk : Packet) (s : State) : Host.Outcome State Fault Refusal :=
  .next (s.command fryStartSpec pk)

/-- FRY_HALT (R384). Open-stroke command that halts or freezes a cluster. -/
def execFryHalt (pk : Packet) (s : State) : Host.Outcome State Fault Refusal :=
  .next (s.command fryHaltSpec pk)

/-- FRY_BRANCH_ENABLE (R384). Open-stroke command that enables or disables a star branch. -/
def execFryBranchEnable (pk : Packet) (s : State) : Host.Outcome State Fault Refusal :=
  .next (s.command fryBranchEnableSpec pk)

/-- LIN_GET_STATUS (R385). Command that returns a LIN channel page. -/
def execLinGetStatus (pk : Packet) (s : State) : Host.Outcome State Fault Refusal :=
  .next (s.command linGetStatusSpec pk)

/-- LIN_TX (R385). Asynchronous command that carries a frame at the channel's command entry. -/
def execLinTx (pk : Packet) (s : State) : Host.Outcome State Fault Refusal :=
  .next (s.command linTxSpec pk)

/-- LIN_WAKE_PULSE (R385). Open-stroke command that sends a wake pulse on an ASLEEP channel. -/
def execLinWakePulse (pk : Packet) (s : State) : Host.Outcome State Fault Refusal :=
  .next (s.command linWakePulseSpec pk)

/-- LIN_GOTO_SLEEP (R385). Asynchronous command that sends the go-to-sleep frame on a commander channel. -/
def execLinGotoSleep (pk : Packet) (s : State) : Host.Outcome State Fault Refusal :=
  .next (s.command linGotoSleepSpec pk)

/-- FRY_CYCLE_START (R370). FlexRay cycle start: reference instant, lock evaluation, branch restoration. -/
def execFryCycleStart (cl : Nat) (cycle : Nat) (phaseErr : Int) (rateCorr : Int) (offsCorr : Int) (s : State) : Host.Outcome State Fault Refusal :=
  .next (s.fryCycle cl cycle phaseErr rateCorr offsCorr)

/-- FRY_ACTION_POINT (R368). Transmit buffer sends committed, repeated or null frame at its slot. -/
def execFryActionPoint (chn : Nat) (slot : Nat) (cycle : Nat) (s : State) : Host.Outcome State Fault Refusal :=
  .next (s.fryAction chn slot cycle)

/-- FRY_FRAME_RECEIVED (R369). End of frame CRC: valid frame stored, triggers ristretto, copied to ring. -/
def execFryFrameReceived (chn : Nat) (f : FryFrame) (s : State) : Host.Outcome State Fault Refusal :=
  .next (s.fryReceive chn f)

/-- BRANCH_TX_START (R363). Star branch begins a transmission, forwarded or blocked. -/
def execBranchTxStart (chn : Nat) (branch : Nat) (seg : Nat) (slot : Nat) (offsetNs : Int) (s : State) : Host.Outcome State Fault Refusal :=
  .next (s.branchTx chn branch seg slot offsetNs)

/-- BRANCH_TRUNCATED (R363). Forwarded transmission still active at window end is truncated. -/
def execBranchTruncated (chn : Nat) (branch : Nat) (slot : Nat) (s : State) : Host.Outcome State Fault Refusal :=
  .next (s.branchTruncated chn branch slot)

/-- POC_STATE (R365). Controller changes its POC state. -/
def execPocState (cl : Nat) (code : Nat) (s : State) : Host.Outcome State Fault Refusal :=
  .next (s.pocChange cl code)

/-- FR_ALONE (R367). Coldstart attempts exhausted or 64 cycles without frame or CAS. -/
def execFrAlone (cl : Nat) (s : State) : Host.Outcome State Fault Refusal :=
  .next (s.frAlone cl)

/-- COLDSTART_RETRY (R367). Retry interval after FR_ALONE re-arms coldstart attempts. -/
def execColdstartRetry (cl : Nat) (s : State) : Host.Outcome State Fault Refusal :=
  .next (s.coldstartRetry cl)

/-- LIN_FRAME_END (R378). LIN frame ends at the checksum stop bit; response stored or sent. -/
def execLinFrameEnd (ch : Nat) (e : LinEnd) (s : State) : Host.Outcome State Fault Refusal :=
  .next (s.linFrameEnd ch e)

/-- LIN_RESPONSE_TIMEOUT (R378). Response time passes with no or incomplete response. -/
def execLinResponseTimeout (ch : Nat) (data : List Byte) (s : State) : Host.Outcome State Fault Refusal :=
  .next (s.linTimeout ch data)

/-- LIN_HEADER_RECEIVED (R379). Responder receives a header and answers, subscribes or sleeps. -/
def execLinHeaderReceived (ch : Nat) (id : Nat) (sleep : Bool) (s : State) : Host.Outcome State Fault Refusal :=
  .next (s.linHeader ch id sleep)

/-- LIN_IDLE_SLEEP (R381). Responder sees no header for the idle sleep time. -/
def execLinIdleSleep (ch : Nat) (s : State) : Host.Outcome State Fault Refusal :=
  .next (s.linIdle ch)

/-- LIN_WAKE (R381). Wake pulse sent or detected in ASLEEP: WAKING. -/
def execLinWake (ch : Nat) (sent : Bool) (s : State) : Host.Outcome State Fault Refusal :=
  .next (s.linWake ch sent)

/-- LIN_WAKING_END (R381). WAKING ends and the channel is RUNNING. -/
def execLinWakingEnd (ch : Nat) (s : State) : Host.Outcome State Fault Refusal :=
  .next (s.linWakingEnd ch)

/-- LIN_WAKE_NO_HEADER (R381). Responder wake round without header. -/
def execLinWakeNoHeader (ch : Nat) (s : State) : Host.Outcome State Fault Refusal :=
  .next (s.linNoHeader ch)

/-- FRY_START_TIMEOUT (R384). The timeout given to FRY_START runs out before NORMAL_ACTIVE, and the command completes with FRY_START_TIMEOUT while startup continues. -/
def execFryStartTimeout (cl : Nat) (s : State) : Host.Outcome State Fault Refusal :=
  .next (s.fryStartTimeout cl)

end Sys2Proof.Machine
end

