-- ==== Sys2Proof/Machine/CmdGateway.lean ====
section
/-!
DEFINITION. Sys2Proof/Machine/CmdGateway.lean: the meanings of the commands of the signal gateway and the ristretto path: opcodes 0x03xx and their steps (R162 to R202).
-/

namespace Sys2Proof.Machine

/-- GW_GET_STATUS (R196). Command that returns gateway page 0. -/
def execGwGetStatus (pk : Packet) (s : State) : Host.Outcome State Fault Refusal :=
  .next (s.command gwGetStatusSpec pk)

/-- GW_ROUTE_READ (R197). Command that returns a route entry with its residency and hold count. -/
def execGwRouteRead (pk : Packet) (s : State) : Host.Outcome State Fault Refusal :=
  .next (s.command gwRouteReadSpec pk)

/-- GW_SIGNAL_READ (R198). Command that returns the last value, age and flags of a signal. -/
def execGwSignalRead (pk : Packet) (s : State) : Host.Outcome State Fault Refusal :=
  .next (s.command gwSignalReadSpec pk)

/-- GW_SIGNAL_FORCE (R199). Open-stroke command that forces or releases a signal value for a number of canvas boundaries. -/
def execGwSignalForce (pk : Packet) (s : State) : Host.Outcome State Fault Refusal :=
  .next (s.command gwSignalForceSpec pk)

/-- GW_WAKE_ROUTE_SET (R200). Open-stroke command that adds or removes a wake-route table entry. -/
def execGwWakeRouteSet (pk : Packet) (s : State) : Host.Outcome State Fault Refusal :=
  .next (s.command gwWakeRouteSetSpec pk)

/-- ROUTE_EXECUTION (R182). Pipeline starts a queued ROUTE stroke and converts its entries. -/
def execRouteExecution (pipe : Nat) (s : State) : Host.Outcome State Fault Refusal :=
  .next (s.routeStart pipe)

/-- ROUTE_COMMIT (R178). Completion of a ROUTE stroke committing its frame, actuator and mailbox writes. -/
def execRouteCommit (pipe : Nat) (s : State) : Host.Outcome State Fault Refusal :=
  .next (s.routeCommit pipe)

/-- RISTRETTO_SLOT (R108). Slot start at which Easel takes up to two events from the ristretto queue. -/
def execRistrettoSlot (s : State) : Host.Outcome State Fault Refusal :=
  .next (s.risSlot)

/-- RISTRETTO_EXECUTE (R188). Ristretto path executes an event's entry and sends its command. -/
def execRistrettoExecute (s : State) : Host.Outcome State Fault Refusal :=
  .next (s.risExecute)

end Sys2Proof.Machine
end

