-- ==== Sys2Proof/Machine/CmdLoads.lean ====
section
/-!
DEFINITION. Sys2Proof/Machine/CmdLoads.lean: the meanings of the commands of load channels and bridges: opcodes 0x04xx and their protection (R203 to R255).
-/

namespace Sys2Proof.Machine

/-- LSW_SET (R228). Open-stroke command that sets a load channel's commanded state on or off. -/
def execLswSet (pk : Packet) (s : State) : Host.Outcome State Fault Refusal :=
  .next (s.command lswSetSpec pk)

/-- LSW_SET_PWM (R229). Open-stroke command that sets a load channel's duty and configured PWM period. -/
def execLswSetPwm (pk : Packet) (s : State) : Host.Outcome State Fault Refusal :=
  .next (s.command lswSetPwmSpec pk)

/-- LSW_CONFIG (R230). Open-stroke command that changes slew, over-current limit, pour, retry count or open-load fields of a channel. -/
def execLswConfig (pk : Packet) (s : State) : Host.Outcome State Fault Refusal :=
  .next (s.command lswConfigSpec pk)

/-- LSW_GET_STATUS (R231). Command that returns a load channel's status page words. -/
def execLswGetStatus (pk : Packet) (s : State) : Host.Outcome State Fault Refusal :=
  .next (s.command lswGetStatusSpec pk)

/-- LSW_CLEAR_OC_LATCH (R232). Open-stroke command that clears a channel's over-current latch and sets its commanded state off. -/
def execLswClearOcLatch (pk : Packet) (s : State) : Host.Outcome State Fault Refusal :=
  .next (s.command lswClearOcLatchSpec pk)

/-- LSW_CLEAR_THERMAL_LATCH (R232). Open-stroke command that clears a channel's thermal latch and sets its commanded state off. -/
def execLswClearThermalLatch (pk : Packet) (s : State) : Host.Outcome State Fault Refusal :=
  .next (s.command lswClearThermalLatchSpec pk)

/-- LSW_ISM_SELECT (R233). Open-stroke command that selects the channel shown on the ISM pin. -/
def execLswIsmSelect (pk : Packet) (s : State) : Host.Outcome State Fault Refusal :=
  .next (s.command lswIsmSelectSpec pk)

/-- MBR_CONFIG (R252). Open-stroke command that configures a bridge or clears its latches. -/
def execMbrConfig (pk : Packet) (s : State) : Host.Outcome State Fault Refusal :=
  .next (s.command mbrConfigSpec pk)

/-- MBR_DRIVE (R253). Open-stroke command that commands a bridge to coast, forward or reverse with a duty and period. -/
def execMbrDrive (pk : Packet) (s : State) : Host.Outcome State Fault Refusal :=
  .next (s.command mbrDriveSpec pk)

/-- MBR_BRAKE (R253). Open-stroke command that commands a bridge to BRAKE. -/
def execMbrBrake (pk : Packet) (s : State) : Host.Outcome State Fault Refusal :=
  .next (s.command mbrBrakeSpec pk)

/-- MBR_GET_STATUS (R254). Command that returns a bridge or leg status page. -/
def execMbrGetStatus (pk : Packet) (s : State) : Host.Outcome State Fault Refusal :=
  .next (s.command mbrGetStatusSpec pk)

/-- OC_TRIP (R213). Current above the trip level for 1 µs turns the channel off and starts a pause or latches. -/
def execOcTrip (ch : Nat) (current : Nat) (s : State) : Host.Outcome State Fault Refusal :=
  .next (s.ocTripRow ch current)

/-- OC_PAUSE_ELAPSED (R215). Retry pause ends, leading to DEFERRED, RECOVERING or an extended pause. -/
def execOcPauseElapsed (ch : Nat) (s : State) : Host.Outcome State Fault Refusal :=
  .next (s.ocPauseRow ch)

/-- OC_RETRY (R214). Deferred retry admitted or its bound reached, turning the channel on. -/
def execOcRetry (ch : Nat) (s : State) : Host.Outcome State Fault Refusal :=
  .next (s.ocRetryRow ch)

/-- OC_RECOVERED (R215). On without a trip for 1 s after its pour: attempts reset, READY. -/
def execOcRecovered (ch : Nat) (s : State) : Host.Outcome State Fault Refusal :=
  .next (s.ocRecovered ch)

/-- POUR_STEP_END (R212). A pour step ends, changing the trip level and releasing charge. -/
def execPourStepEnd (ch : Nat) (s : State) : Host.Outcome State Fault Refusal :=
  .next (s.pourRow ch)

/-- THERMAL_SHUTDOWN (R216). Junction or ΔT crosses its limit and the channel turns off. -/
def execThermalShutdown (ch : Nat) (tj : Int) (dt : Int) (s : State) : Host.Outcome State Fault Refusal :=
  .next (s.thShutRow ch tj dt)

/-- THERMAL_RESTART (R216). HOT channel cools below restart thresholds and restarts. -/
def execThermalRestart (ch : Nat) (tj : Int) (dt : Int) (s : State) : Host.Outcome State Fault Refusal :=
  .next (s.thRestartRow ch tj dt)

/-- COOLDOWN_OVERRUN (R216). Channel still HOT 500 ms after shutdown. -/
def execCooldownOverrun (ch : Nat) (s : State) : Host.Outcome State Fault Refusal :=
  .next (s.cooldownOverrun ch)

/-- PWM_PERIOD_START (R207). PWM period start applying new duty, period and voltage compensation. -/
def execPwmPeriodStart (ch : Nat) (s : State) : Host.Outcome State Fault Refusal :=
  .next (s.periodRow ch)

/-- SENSE_MILLISECOND (R210). End of an ET millisecond forming sense means, bridge current and DI_MEASURE. -/
def execSenseMillisecond (ch : Nat) (m : SenseMs) (s : State) : Host.Outcome State Fault Refusal :=
  .next (s.senseMs ch m)

/-- OPEN_LOAD (R219). Open-load filter time passes below threshold: OPEN. -/
def execOpenLoad (ch : Nat) (s : State) : Host.Outcome State Fault Refusal :=
  .next (s.openLoad ch)

/-- OPEN_LOAD_CLEARED (R219). Filter time passes above 1.125 × threshold: WATCH. -/
def execOpenLoadCleared (ch : Nat) (s : State) : Host.Outcome State Fault Refusal :=
  .next (s.openLoadCleared ch)

/-- STALL (R247). Stall filter length reached: stall action applied. -/
def execStall (br : Nat) (s : State) : Host.Outcome State Fault Refusal :=
  .next (s.stallRow br)

/-- XCOND_FAULT (R242). Sensed gate still high 2 µs after turn-off: bridge disabled and interlock latched. -/
def execXcondFault (br : Nat) (leg : Nat) (side : Nat) (s : State) : Host.Outcome State Fault Refusal :=
  .next (s.xcondRow br leg side)

/-- SHED_RESUME (R268). One shed channel resumes with pour every 1 ms. -/
def execShedResume (feed : Nat) (s : State) : Host.Outcome State Fault Refusal :=
  .next (s.shedRow feed)

end Sys2Proof.Machine
end

