-- ==== Sys2Proof/Machine/CmdPart.lean ====
section
/-!
DEFINITION. Sys2Proof/Machine/CmdPart.lean: the meanings of the commands of partitions, pairs, rings, doorbells and windows: opcodes 0x0Cxx and their events (R64 to R66, R409 to R445).
-/

namespace Sys2Proof.Machine

/-- PART_GET_STATUS (R444). Command that returns a partition page. -/
def execPartGetStatus (pk : Packet) (s : State) : Host.Outcome State Fault Refusal :=
  .next (s.command partGetStatusSpec pk)

/-- PART_RESET (R444). Asynchronous command that resets a partition, optionally with restart. -/
def execPartReset (pk : Packet) (s : State) : Host.Outcome State Fault Refusal :=
  .next (s.command partResetSpec pk)

/-- PART_RESTART (R444). Asynchronous command that restarts a HELD partition. -/
def execPartRestart (pk : Packet) (s : State) : Host.Outcome State Fault Refusal :=
  .next (s.command partRestartSpec pk)

/-- RING_GET_STATUS (R444). Command that returns a ring page. -/
def execRingGetStatus (pk : Packet) (s : State) : Host.Outcome State Fault Refusal :=
  .next (s.command ringGetStatusSpec pk)

/-- RING_RESET (R435). Open-stroke command that stops, empties and re-arms one ring. -/
def execRingReset (pk : Packet) (s : State) : Host.Outcome State Fault Refusal :=
  .next (s.command ringResetSpec pk)

/-- PART_READ_POSTED_ERRORS (R444). Command that returns posted-error counts and the last records. -/
def execPartReadPostedErrors (pk : Packet) (s : State) : Host.Outcome State Fault Refusal :=
  .next (s.command partReadPostedErrorsSpec pk)

/-- DB_PRODUCER (R431). Host write of a ring's producer index, making new commands or frames available. -/
def execDbProducer (p : Nat) (ring : Nat) (v : Nat) (s : State) : Host.Outcome State Fault Refusal :=
  .next (s.dbProducer p ring v)

/-- DB_CONSUMER (R431). Host write of a ring's consumer index, freeing slots. -/
def execDbConsumer (p : Nat) (ring : Nat) (v : Nat) (s : State) : Host.Outcome State Fault Refusal :=
  .next (s.dbConsumer p ring v)

/-- IRQ_ACK (R425). Write that acknowledges a ring interrupt and re-arms the ring. -/
def execIrqAck (p : Nat) (ring : Nat) (v : Nat) (s : State) : Host.Outcome State Fault Refusal :=
  .next (s.irqAck p ring v)

/-- VI_CONSUME (R427). Write that removes entries from the head of the pending virtual-interrupt table. -/
def execViConsume (p : Nat) (v : Nat) (s : State) : Host.Outcome State Fault Refusal :=
  .next (s.viConsume p v)

/-- VI_OVF_ACK (R427). Write that clears VI_OVERFLOW. -/
def execViOvfAck (p : Nat) (v : Nat) (s : State) : Host.Outcome State Fault Refusal :=
  .next (s.viOvfAck p v)

/-- LOW_WORD_READ (R66). Read of the low word of a 64-bit status field that latches its high word. -/
def execLowWordRead (p : Nat) (a : Nat) (s : State) : Host.Outcome State Fault Refusal :=
  .next (s.lowRead p a)

/-- STATUS_WINDOW_STORE (R66). Store to a register without a behaviour of its own, discarded and reported as a posted error. -/
def execStatusWindowStore (w : BusWrite) (s : State) : Host.Outcome State Fault Refusal :=
  .next (s.windowStore w)

/-- LOCKSTEP_MISMATCH (R413). Comparator mismatch or invalid rail pair: pair reset and policy applied. -/
def execLockstepMismatch (pair : Nat) (railFault : Bool) (s : State) : Host.Outcome State Fault Refusal :=
  .next (s.arise (s.injected 4 0 pair) fun s => s.mismatch pair railFault)

/-- M_CORE_MISMATCH (R415). M-core pair mismatch causes a device reset. -/
def execMCoreMismatch (railFault : Bool) (s : State) : Host.Outcome State Fault Refusal :=
  .next (s.mcoreMismatch railFault)

/-- PAIR_HALTED (R416). Debugger halts a main core and its pair. -/
def execPairHalted (pair : Nat) (s : State) : Host.Outcome State Fault Refusal :=
  .next (s.pairHalt pair)

/-- PAIR_RESUMED (R416). Debugger resumes a halted pair. -/
def execPairResumed (pair : Nat) (s : State) : Host.Outcome State Fault Refusal :=
  .next (s.pairResume pair)

/-- SECURE_INTERRUPT (R419). Bamlys secure interrupt taken by the pair monitor. -/
def execSecureInterrupt (pair : Nat) (s : State) : Host.Outcome State Fault Refusal :=
  .next (s.secureIrq pair)

/-- PART_RESET_DONE (R422). All reset steps complete: HELD or RESTARTING. -/
def execPartResetDone (p : Nat) (s : State) : Host.Outcome State Fault Refusal :=
  .next (s.resetDone p)

/-- PART_RESTARTED (R423). Restart completes and the partition is RUNNING. -/
def execPartRestarted (p : Nat) (digestOk : Bool) (image : List Byte) (s : State) : Host.Outcome State Fault Refusal :=
  .next (s.restarted p digestOk image)

/-- SUPERVISION_TIMEOUT (R424). Supervision timeout expires and the operation is withdrawn if permitted. -/
def execSupervisionTimeout (serial : Nat) (s : State) : Host.Outcome State Fault Refusal :=
  .next (s.supTimeout serial)

/-- EVENT_DELIVERY (R434). Raised event written to the owner's event ring. -/
def execEventDelivery (s : State) : Host.Outcome State Fault Refusal :=
  .next (s.eventDeliver)

/-- RING_SLOT_MOVE (R429). Ring engine moves a slot of a ring in its class round. -/
def execRingSlotMove (ring : Nat) (s : State) : Host.Outcome State Fault Refusal :=
  .next (s.ringMove ring)

end Sys2Proof.Machine
end

