-- ==== Sys2Proof/Machine/CmdPorts.lean ====
section
/-!
DEFINITION. Sys2Proof/Machine/CmdPorts.lean: the meanings of the commands of the ports: opcodes 0x07xx and their events (R322 to R334).
-/

namespace Sys2Proof.Machine

/-- PRT_GET_STATUS (R331). Command that returns a port page or the MP statistics. -/
def execPrtGetStatus (pk : Packet) (s : State) : Host.Outcome State Fault Refusal :=
  .next (s.command prtGetStatusSpec pk)

/-- PRT_ENABLE (R331). Asynchronous command that takes a port from OFF to TRAINING. -/
def execPrtEnable (pk : Packet) (s : State) : Host.Outcome State Fault Refusal :=
  .next (s.command prtEnableSpec pk)

/-- PRT_DISABLE (R331). Open-stroke command that takes a port to OFF after MACsec zeroization. -/
def execPrtDisable (pk : Packet) (s : State) : Host.Outcome State Fault Refusal :=
  .next (s.command prtDisableSpec pk)

/-- PRT_CABLE_DIAG (R328). Asynchronous command that runs a TDR cable test on a BP or EP port. -/
def execPrtCableDiag (pk : Packet) (s : State) : Host.Outcome State Fault Refusal :=
  .next (s.command prtCableDiagSpec pk)

/-- PRT_TC10_SLEEP (R327). Asynchronous command that sends a TC10 sleep request on a port. -/
def execPrtTc10Sleep (pk : Packet) (s : State) : Host.Outcome State Fault Refusal :=
  .next (s.command prtTc10SleepSpec pk)

/-- LINK_UP (R323). Link established: port UP. -/
def execLinkUp (port : Nat) (s : State) : Host.Outcome State Fault Refusal :=
  .next (s.linkUp port)

/-- LINK_DOWN (R323). Link lost or local fault: back to TRAINING. -/
def execLinkDown (port : Nat) (localFault : Bool) (s : State) : Host.Outcome State Fault Refusal :=
  .next (s.linkDown port localFault)

/-- TRAIN_FAIL (R323). Training timeout expires and training restarts. -/
def execTrainFail (port : Nat) (s : State) : Host.Outcome State Fault Refusal :=
  .next (s.trainFail port)

/-- TC10_ASLEEP (R327). Partner acknowledges TC10 sleep: port ASLEEP. -/
def execTc10Asleep (port : Nat) (s : State) : Host.Outcome State Fault Refusal :=
  .next (s.tc10Acked port)

/-- TC10_SLEEP_TIMEOUT (R327). No acknowledgement within 16 ms: PRT_SLEEP_REFUSED. -/
def execTc10SleepTimeout (port : Nat) (s : State) : Host.Outcome State Fault Refusal :=
  .next (s.tc10Timeout port)

/-- TC10_REMOTE_SLEEP (R327). Partner requests sleep; acknowledged if accept remote sleep is set. -/
def execTc10RemoteSleep (port : Nat) (s : State) : Host.Outcome State Fault Refusal :=
  .next (s.tc10Remote port)

/-- TC10_WAKE (R327). Local or remote TC10 wake takes an ASLEEP port to TRAINING. -/
def execTc10Wake (port : Nat) (remote : Bool) (s : State) : Host.Outcome State Fault Refusal :=
  .next (s.tc10Wake port remote)

/-- PHY_FAULT (R323). PHY die or firmware failure. -/
def execPhyFault (port : Nat) (s : State) : Host.Outcome State Fault Refusal :=
  .next (s.phyFault port)

/-- PLCA_BEACON_LOST (R325). Follower sees no BEACON for 400 µs and falls back to CSMA/CD. -/
def execPlcaBeaconLost (port : Nat) (s : State) : Host.Outcome State Fault Refusal :=
  .next (s.beaconLost port)

/-- PLCA_BEACON_RECEIVED (R325). BEACON received on a segment, resynchronising or restoring PLCA. -/
def execPlcaBeaconReceived (port : Nat) (s : State) : Host.Outcome State Fault Refusal :=
  .next (s.beaconReceived port)

/-- SEGMENT_ALONE (R326). No frame or other opportunity seen for the alone interval. -/
def execSegmentAlone (port : Nat) (s : State) : Host.Outcome State Fault Refusal :=
  .next (s.segmentAlone port)

/-- CABLE_DIAG_DONE (R328). TDR test completes with its result. -/
def execCableDiagDone (port : Nat) (result : Nat) (distance : Nat) (s : State) : Host.Outcome State Fault Refusal :=
  .next (s.diagDone port result distance)

/-- PRT_TRAIN_TIMEOUT (R331). The timeout given to PRT_ENABLE runs out before the port reaches UP, and the command completes with PRT_TRAIN_TIMEOUT while training continues. -/
def execPrtTrainTimeout (port : Nat) (s : State) : Host.Outcome State Fault Refusal :=
  .next (s.prtTrainTimeout port)

end Sys2Proof.Machine
end

