-- ==== Sys2Proof/Machine/CmdPower.lean ====
section
/-!
DEFINITION. Sys2Proof/Machine/CmdPower.lean: the meanings of the commands of feeds, thermal limits and rails: opcodes 0x05xx and their events (R256 to R285).
-/

namespace Sys2Proof.Machine

/-- PWR_GET_STATUS (R280). Command that returns the status pages of both feeds. -/
def execPwrGetStatus (pk : Packet) (s : State) : Host.Outcome State Fault Refusal :=
  .next (s.command pwrGetStatusSpec pk)

/-- PWR_GET_THERMAL (R280). Command that returns the thermal status page. -/
def execPwrGetThermal (pk : Packet) (s : State) : Host.Outcome State Fault Refusal :=
  .next (s.command pwrGetThermalSpec pk)

/-- PWR_SET_SAG_THRESHOLD (R281). Open-stroke command that changes the sag and crank thresholds. -/
def execPwrSetSagThreshold (pk : Packet) (s : State) : Host.Outcome State Fault Refusal :=
  .next (s.command pwrSetSagThresholdSpec pk)

/-- PWR_UNLATCH_UV (R282). Open-stroke command that clears the selected feed UV latches. -/
def execPwrUnlatchUv (pk : Packet) (s : State) : Host.Outcome State Fault Refusal :=
  .next (s.command pwrUnlatchUvSpec pk)

/-- PWR_GET_LEDGER (R283). Command that returns the ledger accounts and per-channel charges. -/
def execPwrGetLedger (pk : Packet) (s : State) : Host.Outcome State Fault Refusal :=
  .next (s.command pwrGetLedgerSpec pk)

/-- SAG_ENTER (R257). Filtered feed below its sag threshold: sag, class 3 shed, DEGRADED. -/
def execSagEnter (feed : Nat) (v : Nat) (s : State) : Host.Outcome State Fault Refusal :=
  .next (onlyIf s.powered s (s.sagEnter feed v))

/-- SAG_EXIT (R258). Filtered feed above threshold plus hysteresis for 50 ms ends sag. -/
def execSagExit (feed : Nat) (v : Nat) (s : State) : Host.Outcome State Fault Refusal :=
  .next (onlyIf s.powered s (s.sagExit feed v))

/-- CRANK_START (R257). Filtered FEED12 below the crank threshold. -/
def execCrankStart (v : Nat) (s : State) : Host.Outcome State Fault Refusal :=
  .next (onlyIf s.powered s (s.crankStart v))

/-- CRANK_END (R258). Filtered FEED12 above crank threshold + 1.0 V for 50 ms. -/
def execCrankEnd (v : Nat) (s : State) : Host.Outcome State Fault Refusal :=
  .next (onlyIf s.powered s (s.crankEnd v))

/-- UV_LATCH (R259). UV comparator trips after its deglitch and outputs of the feed go inert. -/
def execUvLatch (feed : Nat) (mv : Nat) (s : State) : Host.Outcome State Fault Refusal :=
  .next (onlyIf s.powered s (s.uvLatch feed mv))

/-- OVERVOLTAGE (R258). Filtered feed above its overvoltage level. -/
def execOvervoltage (feed : Nat) (v : Nat) (s : State) : Host.Outcome State Fault Refusal :=
  .next (onlyIf s.powered s (s.overvoltage feed v))

/-- OVERVOLTAGE_END (R258). Filtered feed back below its overvoltage level. -/
def execOvervoltageEnd (feed : Nat) (v : Nat) (s : State) : Host.Outcome State Fault Refusal :=
  .next (onlyIf s.powered s (s.overvoltageEnd feed v))

/-- OVERLOAD (R261). Filtered feed current above 110 % of rating: class 3 shed. -/
def execOverload (feed : Nat) (amps : Nat) (s : State) : Host.Outcome State Fault Refusal :=
  .next (onlyIf s.powered s (s.overload feed amps))

/-- OVERLOAD_CLASS2_SHED (R261). Overload lasts 10 ms: class 2 shed too. -/
def execOverloadClass2Shed (feed : Nat) (amps : Nat) (s : State) : Host.Outcome State Fault Refusal :=
  .next (onlyIf s.powered s (s.overload2 feed amps))

/-- OVERLOAD_END (R261). Filtered current below rating for 100 ms ends overload. -/
def execOverloadEnd (feed : Nat) (amps : Nat) (s : State) : Host.Outcome State Fault Refusal :=
  .next (onlyIf s.powered s (s.overloadEnd feed amps))

/-- STANDBY_ENTRY (R564). FEED12 below 3.0 V detected: STANDBY, commands abandoned, keys zeroized. -/
def execStandbyEntry (mv : Nat) (s : State) : Host.Outcome State Fault Refusal :=
  .next (s.standbyEntry mv)

/-- POWER_OFF (R27). FEED12 below 2.5 V: OFF. -/
def execPowerOff (mv : Nat) (s : State) : Host.Outcome State Fault Refusal :=
  .next (s.powerOff mv)

/-- POWER_ON (R27). FEED12 rises above 6.0 V: STARTING, rails rise. -/
def execPowerOn (mv : Nat) (straps : Nat) (s : State) : Host.Outcome State Fault Refusal :=
  .next (s.powerOn mv straps)

/-- THERMAL_MODEL_EVAL (R272). 1 ms evaluation of switch loss and module estimate that may raise the derating step. -/
def execThermalModelEval (psw : Nat) (railMw : Nat) (tcp : Int) (tjc : Int) (s : State) : Host.Outcome State Fault Refusal :=
  .next (onlyIf s.active s (s.thermalEval psw railMw tcp tjc))

/-- DERATING_STEP_FALL (R272). Leave condition held for 10 s: step falls by one. -/
def execDeratingStepFall (s : State) : Host.Outcome State Fault Refusal :=
  .next (onlyIf s.active s s.stepFall)

/-- DERATING_STEP3_ENTRY (R272). Step 2 held 1 s with an entry condition true: step 3. -/
def execDeratingStep3Entry (s : State) : Host.Outcome State Fault Refusal :=
  .next (onlyIf s.active s s.step3Entry)

/-- RAIL_FAULT (R275). Rail outside its window for 10 µs. -/
def execRailFault (rail : Nat) (s : State) : Host.Outcome State Fault Refusal :=
  .next (s.railFault rail)

end Sys2Proof.Machine
end

