-- ==== Sys2Proof/Machine/CmdSwitch.lean ====
section
/-!
DEFINITION. Sys2Proof/Machine/CmdSwitch.lean: the meanings of the commands of the switch core: opcodes 0x06xx and frames (R286 to R321).
-/

namespace Sys2Proof.Machine

/-- SWC_GET_COUNTERS (R315). Command that returns a switch port page. -/
def execSwcGetCounters (pk : Packet) (s : State) : Host.Outcome State Fault Refusal :=
  .next (s.command swcGetCountersSpec pk)

/-- SWC_FDB_READ (R316). Command that reads a forwarding database entry by key or index. -/
def execSwcFdbRead (pk : Packet) (s : State) : Host.Outcome State Fault Refusal :=
  .next (s.command swcFdbReadSpec pk)

/-- SWC_FDB_WRITE (R317). Open-stroke command that adds, replaces or removes a managed forwarding entry. -/
def execSwcFdbWrite (pk : Packet) (s : State) : Host.Outcome State Fault Refusal :=
  .next (s.command swcFdbWriteSpec pk)

/-- SWC_FDB_FLUSH (R318). Open-stroke command that removes learned or managed entries by port and FID. -/
def execSwcFdbFlush (pk : Packet) (s : State) : Host.Outcome State Fault Refusal :=
  .next (s.command swcFdbFlushSpec pk)

/-- SWC_CLEAR_COUNTERS (R319). Command that clears the selected switch counters. -/
def execSwcClearCounters (pk : Packet) (s : State) : Host.Outcome State Fault Refusal :=
  .next (s.command swcClearCountersSpec pk)

/-- FRAME_DECISION_POINT (R287). Frame classified, looked up and its copies admitted. -/
def execFrameDecisionPoint (f : EthFrame) (s : State) : Host.Outcome State Fault Refusal :=
  .next (onlyIf (s.active && f.port < 21 && s.portUp f.port) s (s.frameIn f))

/-- FRAME_END (R286). End of a received frame: FCS check, learning, charge correction or stomping. -/
def execFrameEnd (port : Nat) (good : Bool) (symbol : Bool) (s : State) : Host.Outcome State Fault Refusal :=
  .next (onlyIf (s.active && port < 21) s (s.frameEnd port good symbol))

/-- TRANSMISSION_SELECT (R293). Free port selects the next frame by class, gate, guard and shaper. -/
def execTransmissionSelect (port : Nat) (s : State) : Host.Outcome State Fault Refusal :=
  .next (onlyIf (s.active && port < 21) s (s.transmissionSelect port))

/-- FDB_AGEING (R300). Learned entry removed after the ageing time. -/
def execFdbAgeing (mac : Nat) (fid : Nat) (s : State) : Host.Outcome State Fault Refusal :=
  .next (onlyIf s.active s (s.fdbAgeing mac fid))

/-- CB_RESET_TIMEOUT (R303). 802.1CB sequence recovery reset timeout expires. -/
def execCbResetTimeout (cb : Nat) (s : State) : Host.Outcome State Fault Refusal :=
  .next (onlyIf s.active s (s.cbTimeout cb))

end Sys2Proof.Machine
end

