-- ==== Sys2Proof/Machine/CmdTime.lean ====
section
/-!
DEFINITION. Sys2Proof/Machine/CmdTime.lean: the meanings of the commands of zone time and pulse generators: opcodes 0x01xx and their events (R70 to R98).
-/

namespace Sys2Proof.Machine

/-- TIME_GET_STATUS (R91). Command that returns the zone time status. -/
def execTimeGetStatus (pk : Packet) (s : State) : Host.Outcome State Fault Refusal :=
  .next (s.command timeGetStatusSpec pk)

/-- TIME_SET_SOURCES (R92). Open-stroke command that changes time source priorities, thresholds, slew and hold-off. -/
def execTimeSetSources (pk : Packet) (s : State) : Host.Outcome State Fault Refusal :=
  .next (s.command timeSetSourcesSpec pk)

/-- TIME_SET_HOLDOVER (R93). Open-stroke command that sets the holdover limit. -/
def execTimeSetHoldover (pk : Packet) (s : State) : Host.Outcome State Fault Refusal :=
  .next (s.command timeSetHoldoverSpec pk)

/-- PG_CONFIG (R94). Open-stroke command that configures a pulse generator. -/
def execPgConfig (pk : Packet) (s : State) : Host.Outcome State Fault Refusal :=
  .next (s.command pgConfigSpec pk)

/-- PG_START (R94). Open-stroke command that arms a pulse generator to start at a 40-bit ET. -/
def execPgStart (pk : Packet) (s : State) : Host.Outcome State Fault Refusal :=
  .next (s.command pgStartSpec pk)

/-- PG_STOP (R90). Open-stroke command that stops a pulse generator after any active pulse completes. -/
def execPgStop (pk : Packet) (s : State) : Host.Outcome State Fault Refusal :=
  .next (s.command pgStopSpec pk)

/-- GPTP_SYNC_RECEIVED (R75). gPTP Sync reception: phase error measured, rate corrected or realignment scheduled, qualification and lock decided. -/
def execGptpSyncReceived (dom : Nat) (phaseErr : Int) (ratePpb : Int) (gm : Nat) (s : State) : Host.Outcome State Fault Refusal :=
  .next (onlyIf s.powered s (s.gptpSync dom phaseErr ratePpb gm))

/-- PPS_EDGE (R73). Active TIME_PPS edge used as a reference instant. -/
def execPpsEdge (phaseErr : Int) (spacing : Nat) (width : Nat) (s : State) : Host.Outcome State Fault Refusal :=
  .next (onlyIf s.powered s (s.ppsEdge phaseErr spacing width))

/-- SYNC_RECEIPT_TIMEOUT (R73). No gPTP Sync for syncReceiptTimeout intervals: the source is lost. -/
def execSyncReceiptTimeout (dom : Nat) (s : State) : Host.Outcome State Fault Refusal :=
  .next (onlyIf s.powered s (s.syncTimeout dom))

/-- PPS_TIMEOUT (R73). No TIME_PPS edge within 1.1 s: the source is lost. -/
def execPpsTimeout (s : State) : Host.Outcome State Fault Refusal :=
  .next (onlyIf s.powered s s.ppsTimeout)

/-- REVERT_HOLDOFF_EXPIRY (R74). Higher-priority source stayed qualified for the revert hold-off and is selected. -/
def execRevertHoldoffExpiry (src : Nat) (s : State) : Host.Outcome State Fault Refusal :=
  .next (onlyIf (s.powered && s.candidate src) s s.reselect)

/-- HOLDOVER_EXPIRED (R78). Holdover limit passes: FREE_RUN, CAUSE_TIME set, DEGRADED. -/
def execHoldoverExpired (s : State) : Host.Outcome State Fault Refusal :=
  .next (onlyIf s.powered s s.holdoverExpire)

/-- TIME_WAIT_TIMEOUT (R28). No external source qualified within 20 s of RUN: loss of external time. -/
def execTimeWaitTimeout (s : State) : Host.Outcome State Fault Refusal :=
  .next (onlyIf s.powered s s.waitTimeout)

/-- RTC_WRITE (R72). RTC written from ZT at a whole ZT second while LOCKED. -/
def execRtcWrite (s : State) : Host.Outcome State Fault Refusal :=
  .next (onlyIf s.powered s s.rtcWrite)

/-- PG_EDGE (R89). Pulse generator edge at its programmed ET. -/
def execPgEdge (pg : Nat) (s : State) : Host.Outcome State Fault Refusal :=
  .next (onlyIf (s.powered && pg < 16) s (s.pgEdge pg))

/-- SYNC_TRANSMIT (R96). At each logSyncInterval the device, acting as grandmaster or master, sends a two-step Sync on its gPTP master ports. -/
def execSyncTransmit (port : Nat) (s : State) : Host.Outcome State Fault Refusal :=
  .next (onlyIf s.active s (s.syncTransmit port))

end Sys2Proof.Machine
end

