-- ==== Sys2Proof/Machine/CmdUpd.lean ====
section
/-!
DEFINITION. Sys2Proof/Machine/CmdUpd.lean: the meanings of the commands of start-up, reload and update: opcodes 0x0Exx and their events (R479 to R498).
-/

namespace Sys2Proof.Machine

/-- UPD_GET_STATUS (R494). Command that returns the update page. -/
def execUpdGetStatus (pk : Packet) (s : State) : Host.Outcome State Fault Refusal :=
  .next (s.command updGetStatusSpec pk)

/-- UPD_BEGIN (R489). Asynchronous command that opens or resumes a sketch in the slot not running. -/
def execUpdBegin (pk : Packet) (s : State) : Host.Outcome State Fault Refusal :=
  .next (s.command updBeginSpec pk)

/-- UPD_CHUNK (R496). Asynchronous command that stages a fragment or releases a relay half. -/
def execUpdChunk (pk : Packet) (s : State) : Host.Outcome State Fault Refusal :=
  .next (s.command updChunkSpec pk)

/-- UPD_ACTIVATE (R497). Asynchronous command that makes a SKETCH slot PENDING. -/
def execUpdActivate (pk : Packet) (s : State) : Host.Outcome State Fault Refusal :=
  .next (s.command updActivateSpec pk)

/-- UPD_VARNISH (R486). Asynchronous command that makes the TRIAL slot ACTIVE. -/
def execUpdVarnish (pk : Packet) (s : State) : Host.Outcome State Fault Refusal :=
  .next (s.command updVarnishSpec pk)

/-- UPD_ABORT (R497). Asynchronous command that empties or fails a sketch slot. -/
def execUpdAbort (pk : Packet) (s : State) : Host.Outcome State Fault Refusal :=
  .next (s.command updAbortSpec pk)

/-- REFERENCE_QUALIFIED (R549). REFCLK runs 1024 good periods: primer and Bamlys ROM start, slot selected. -/
def execReferenceQualified (record : SlotRecord) (s : State) : Host.Outcome State Fault Refusal :=
  .next (s.referenceQualified record)

/-- REFERENCE_TIMEOUT (R549). Reference not qualified 5 ms after VTCXO: clock-glitch tamper at start. -/
def execReferenceTimeout (s : State) : Host.Outcome State Fault Refusal :=
  .next (s.referenceTimeout)

/-- MCORE_FIRMWARE_START (R487). Verified M-core firmware starts and loads components, image and palette 0. -/
def execMcoreFirmwareStart (img : Image) (componentsOk : Bool) (s : State) : Host.Outcome State Fault Refusal :=
  .next (s.mcoreStart img componentsOk)

/-- START_LOAD_COMPLETE (R487). Image checks done and palette 0 LOADED, awaiting the first canvas boundary. -/
def execStartLoadComplete (s : State) : Host.Outcome State Fault Refusal :=
  .next (s.startLoadDone)

/-- CHUNK_COMMIT (R484). Chunk programmed, read back and recorded; completion checks after the last. -/
def execChunkCommit (c : ChunkResult) (s : State) : Host.Outcome State Fault Refusal :=
  .next (s.chunkCommit c)

/-- HEALTH_EXPIRED (R486). Health window passes without varnish: slot FAILED. -/
def execHealthExpired (s : State) : Host.Outcome State Fault Refusal :=
  .next (s.healthExpired)

/-- ACTIVATE_RESET (R497). Device reset 1 ms after an UPD_ACTIVATE reply with restart mode 1. -/
def execActivateReset (s : State) : Host.Outcome State Fault Refusal :=
  .next (s.activateReset)

/-- RESET_DELAY_EXPIRY (R61). Delay of a RESET command passes and the reset begins. -/
def execResetDelayExpiry (s : State) : Host.Outcome State Fault Refusal :=
  .next (s.resetExpiry)

/-- FLASH_WRITE_RESUME (R482). Filtered FEED12 returns to 6.0 V or above, and a waiting chunk write or slot state record write begins. -/
def execFlashWriteResume (v : Nat) (s : State) : Host.Outcome State Fault Refusal :=
  .next (s.flashResume v)

end Sys2Proof.Machine
end

