-- ==== Sys2Proof/Machine/CmdWake.lean ====
section
/-!
DEFINITION. Sys2Proof/Machine/CmdWake.lean: the meanings of the commands of sleep and wake: opcodes 0x0Fxx and their events (R499 to R517).
-/

namespace Sys2Proof.Machine

/-- WAKE_GET_SOURCE (R515). Command that returns the wake source register. -/
def execWakeGetSource (pk : Packet) (s : State) : Host.Outcome State Fault Refusal :=
  .next (s.command wakeGetSourceSpec pk)

/-- SLEEP_REQUEST (R499). Asynchronous command that requests sleep with a wake set and prep time, or cancels it. -/
def execSleepRequest (pk : Packet) (s : State) : Host.Outcome State Fault Refusal :=
  .next (s.command sleepRequestSpec pk)

/-- WAKE_CONFIG (R516). Open-stroke command that replaces a WKI, WKO or wake set record. -/
def execWakeConfig (pk : Packet) (s : State) : Host.Outcome State Fault Refusal :=
  .next (s.command wakeConfigSpec pk)

/-- WAKE_CLEAR_SOURCE (R515). Command that clears map bits of the wake source register. -/
def execWakeClearSource (pk : Packet) (s : State) : Host.Outcome State Fault Refusal :=
  .next (s.command wakeClearSourceSpec pk)

/-- PREP_FALLBACK_TIMEOUT (R500). Palette 3 not started 1 s after acceptance: prep time counts from then. -/
def execPrepFallbackTimeout (s : State) : Host.Outcome State Fault Refusal :=
  .next (s.prepFallback)

/-- SLEEP_ARMING (R501). Prep time elapses: wake detectors of the set armed in order. -/
def execSleepArming (s : State) : Host.Outcome State Fault Refusal :=
  .next (s.sleepArming)

/-- TC10_SLEEP_FORCED (R501). Port not acknowledged within 16 ms during arming is powered down armed. -/
def execTc10SleepForced (port : Nat) (s : State) : Host.Outcome State Fault Refusal :=
  .next (s.tc10Force port)

/-- SLEEP_ENTERED (R502). Sleep entry completes and the device is in SLEEP. -/
def execSleepEntered (s : State) : Host.Outcome State Fault Refusal :=
  .next (s.sleepEntered)

/-- WAKE_LINE (R507). Filtered change of a WKI line, waking or aborting sleep. -/
def execWakeLine (line : Nat) (level : Bool) (s : State) : Host.Outcome State Fault Refusal :=
  .next (s.wakeLineRow line level)

/-- WAKE_FROM_SLEEP (R504). Wake after commit or in SLEEP leads to STARTING. -/
def execWakeFromSleep (s : State) : Host.Outcome State Fault Refusal :=
  .next (s.wakeFromSleep)

/-- WKO_PULSE_END (R508). WKO pulse width elapses. -/
def execWkoPulseEnd (line : Nat) (s : State) : Host.Outcome State Fault Refusal :=
  .next (s.wkoPulseEnd line)

end Sys2Proof.Machine
end

