-- ==== Sys2Proof/Machine/Dispatch.lean ====
section
/-!
DEFINITION. Sys2Proof/Machine/Dispatch.lean: one arm per command, each one call of its meaning.
-/

namespace Sys2Proof.Machine

/-- What a command does to everything but the queue. -/
def exec (i : Instr) (s : State) : Host.Outcome State Fault Refusal :=
  match i with
  | .nop pk => Sys2Proof.Machine.execNop pk s
  | .identify pk => Sys2Proof.Machine.execIdentify pk s
  | .getState pk => Sys2Proof.Machine.execGetState pk s
  | .reset pk => Sys2Proof.Machine.execReset pk s
  | .arm pk => Sys2Proof.Machine.execArm pk s
  | .disarm pk => Sys2Proof.Machine.execDisarm pk s
  | .timeGetStatus pk => Sys2Proof.Machine.execTimeGetStatus pk s
  | .timeSetSources pk => Sys2Proof.Machine.execTimeSetSources pk s
  | .timeSetHoldover pk => Sys2Proof.Machine.execTimeSetHoldover pk s
  | .pgConfig pk => Sys2Proof.Machine.execPgConfig pk s
  | .pgStart pk => Sys2Proof.Machine.execPgStart pk s
  | .pgStop pk => Sys2Proof.Machine.execPgStop pk s
  | .easelGetStatus pk => Sys2Proof.Machine.execEaselGetStatus pk s
  | .paletteLoad pk => Sys2Proof.Machine.execPaletteLoad pk s
  | .paletteSwitch pk => Sys2Proof.Machine.execPaletteSwitch pk s
  | .paletteUnload pk => Sys2Proof.Machine.execPaletteUnload pk s
  | .easelGetOverruns pk => Sys2Proof.Machine.execEaselGetOverruns pk s
  | .easelClearCounters pk => Sys2Proof.Machine.execEaselClearCounters pk s
  | .gwGetStatus pk => Sys2Proof.Machine.execGwGetStatus pk s
  | .gwRouteRead pk => Sys2Proof.Machine.execGwRouteRead pk s
  | .gwSignalRead pk => Sys2Proof.Machine.execGwSignalRead pk s
  | .gwSignalForce pk => Sys2Proof.Machine.execGwSignalForce pk s
  | .gwWakeRouteSet pk => Sys2Proof.Machine.execGwWakeRouteSet pk s
  | .lswSet pk => Sys2Proof.Machine.execLswSet pk s
  | .lswSetPwm pk => Sys2Proof.Machine.execLswSetPwm pk s
  | .lswConfig pk => Sys2Proof.Machine.execLswConfig pk s
  | .lswGetStatus pk => Sys2Proof.Machine.execLswGetStatus pk s
  | .lswClearOcLatch pk => Sys2Proof.Machine.execLswClearOcLatch pk s
  | .lswClearThermalLatch pk => Sys2Proof.Machine.execLswClearThermalLatch pk s
  | .lswIsmSelect pk => Sys2Proof.Machine.execLswIsmSelect pk s
  | .mbrConfig pk => Sys2Proof.Machine.execMbrConfig pk s
  | .mbrDrive pk => Sys2Proof.Machine.execMbrDrive pk s
  | .mbrBrake pk => Sys2Proof.Machine.execMbrBrake pk s
  | .mbrGetStatus pk => Sys2Proof.Machine.execMbrGetStatus pk s
  | .pwrGetStatus pk => Sys2Proof.Machine.execPwrGetStatus pk s
  | .pwrGetThermal pk => Sys2Proof.Machine.execPwrGetThermal pk s
  | .pwrSetSagThreshold pk => Sys2Proof.Machine.execPwrSetSagThreshold pk s
  | .pwrUnlatchUv pk => Sys2Proof.Machine.execPwrUnlatchUv pk s
  | .pwrGetLedger pk => Sys2Proof.Machine.execPwrGetLedger pk s
  | .swcGetCounters pk => Sys2Proof.Machine.execSwcGetCounters pk s
  | .swcFdbRead pk => Sys2Proof.Machine.execSwcFdbRead pk s
  | .swcFdbWrite pk => Sys2Proof.Machine.execSwcFdbWrite pk s
  | .swcFdbFlush pk => Sys2Proof.Machine.execSwcFdbFlush pk s
  | .swcClearCounters pk => Sys2Proof.Machine.execSwcClearCounters pk s
  | .prtGetStatus pk => Sys2Proof.Machine.execPrtGetStatus pk s
  | .prtEnable pk => Sys2Proof.Machine.execPrtEnable pk s
  | .prtDisable pk => Sys2Proof.Machine.execPrtDisable pk s
  | .prtCableDiag pk => Sys2Proof.Machine.execPrtCableDiag pk s
  | .prtTc10Sleep pk => Sys2Proof.Machine.execPrtTc10Sleep pk s
  | .canGetStatus pk => Sys2Proof.Machine.execCanGetStatus pk s
  | .canTx pk => Sys2Proof.Machine.execCanTx pk s
  | .canTxCancel pk => Sys2Proof.Machine.execCanTxCancel pk s
  | .canSetFilter pk => Sys2Proof.Machine.execCanSetFilter pk s
  | .canSetWake pk => Sys2Proof.Machine.execCanSetWake pk s
  | .canRecover pk => Sys2Proof.Machine.execCanRecover pk s
  | .fryGetStatus pk => Sys2Proof.Machine.execFryGetStatus pk s
  | .fryStart pk => Sys2Proof.Machine.execFryStart pk s
  | .fryHalt pk => Sys2Proof.Machine.execFryHalt pk s
  | .fryBranchEnable pk => Sys2Proof.Machine.execFryBranchEnable pk s
  | .linGetStatus pk => Sys2Proof.Machine.execLinGetStatus pk s
  | .linTx pk => Sys2Proof.Machine.execLinTx pk s
  | .linWakePulse pk => Sys2Proof.Machine.execLinWakePulse pk s
  | .linGotoSleep pk => Sys2Proof.Machine.execLinGotoSleep pk s
  | .dioGetInputs pk => Sys2Proof.Machine.execDioGetInputs pk s
  | .dioConfig pk => Sys2Proof.Machine.execDioConfig pk s
  | .dioSetXo pk => Sys2Proof.Machine.execDioSetXo pk s
  | .dioWirebreakTest pk => Sys2Proof.Machine.execDioWirebreakTest pk s
  | .partGetStatus pk => Sys2Proof.Machine.execPartGetStatus pk s
  | .partReset pk => Sys2Proof.Machine.execPartReset pk s
  | .partRestart pk => Sys2Proof.Machine.execPartRestart pk s
  | .ringGetStatus pk => Sys2Proof.Machine.execRingGetStatus pk s
  | .ringReset pk => Sys2Proof.Machine.execRingReset pk s
  | .partReadPostedErrors pk => Sys2Proof.Machine.execPartReadPostedErrors pk s
  | .bamGetStatus pk => Sys2Proof.Machine.execBamGetStatus pk s
  | .bamSessionOpen pk => Sys2Proof.Machine.execBamSessionOpen pk s
  | .bamKeyInstall pk => Sys2Proof.Machine.execBamKeyInstall pk s
  | .bamSign pk => Sys2Proof.Machine.execBamSign pk s
  | .bamVerify pk => Sys2Proof.Machine.execBamVerify pk s
  | .bamRandom pk => Sys2Proof.Machine.execBamRandom pk s
  | .bamLifecycleSet pk => Sys2Proof.Machine.execBamLifecycleSet pk s
  | .bamTamperPolicy pk => Sys2Proof.Machine.execBamTamperPolicy pk s
  | .updGetStatus pk => Sys2Proof.Machine.execUpdGetStatus pk s
  | .updBegin pk => Sys2Proof.Machine.execUpdBegin pk s
  | .updChunk pk => Sys2Proof.Machine.execUpdChunk pk s
  | .updActivate pk => Sys2Proof.Machine.execUpdActivate pk s
  | .updVarnish pk => Sys2Proof.Machine.execUpdVarnish pk s
  | .updAbort pk => Sys2Proof.Machine.execUpdAbort pk s
  | .wakeGetSource pk => Sys2Proof.Machine.execWakeGetSource pk s
  | .sleepRequest pk => Sys2Proof.Machine.execSleepRequest pk s
  | .wakeConfig pk => Sys2Proof.Machine.execWakeConfig pk s
  | .wakeClearSource pk => Sys2Proof.Machine.execWakeClearSource pk s
  | .fltGetStatus pk => Sys2Proof.Machine.execFltGetStatus pk s
  | .fltReadLog pk => Sys2Proof.Machine.execFltReadLog pk s
  | .fltClear pk => Sys2Proof.Machine.execFltClear pk s
  | .fltInject pk => Sys2Proof.Machine.execFltInject pk s
  | .dbProducer p ring v => Sys2Proof.Machine.execDbProducer p ring v s
  | .dbConsumer p ring v => Sys2Proof.Machine.execDbConsumer p ring v s
  | .irqAck p ring v => Sys2Proof.Machine.execIrqAck p ring v s
  | .viConsume p v => Sys2Proof.Machine.execViConsume p v s
  | .viOvfAck p v => Sys2Proof.Machine.execViOvfAck p v s
  | .lowWordRead p a => Sys2Proof.Machine.execLowWordRead p a s
  | .statusWindowStore w => Sys2Proof.Machine.execStatusWindowStore w s
  | .route h pipe first count => Sys2Proof.Machine.execRoute h pipe first count s
  | .routeExecution pipe => Sys2Proof.Machine.execRouteExecution pipe s
  | .routeCommit pipe => Sys2Proof.Machine.execRouteCommit pipe s
  | .inputLatch h group => Sys2Proof.Machine.execInputLatch h group s
  | .loadSet h ch mode duty period => Sys2Proof.Machine.execLoadSet h ch mode duty period s
  | .loadApply h ch ageLimit fallback => Sys2Proof.Machine.execLoadApply h ch ageLimit fallback s
  | .bridgeSet h br mode duty period => Sys2Proof.Machine.execBridgeSet h br mode duty period s
  | .bridgeApply h br ageLimit fallback => Sys2Proof.Machine.execBridgeApply h br ageLimit fallback s
  | .xoSet h xo level => Sys2Proof.Machine.execXoSet h xo level s
  | .pgTrigger h pg delay => Sys2Proof.Machine.execPgTrigger h pg delay s
  | .gateSet h port gates => Sys2Proof.Machine.execGateSet h port gates s
  | .canRelease h ch entry => Sys2Proof.Machine.execCanRelease h ch entry s
  | .fryCommit h cl slot cycle chans => Sys2Proof.Machine.execFryCommit h cl slot cycle chans s
  | .linRelease h ch entry => Sys2Proof.Machine.execLinRelease h ch entry s
  | .window h pair part switchNs => Sys2Proof.Machine.execWindow h pair part switchNs s
  | .pfRoute h first count => Sys2Proof.Machine.execPfRoute h first count s
  | .pfStroke h first count => Sys2Proof.Machine.execPfStroke h first count s
  | .openStroke h cls count => Sys2Proof.Machine.execOpenStroke h cls count s
  | .strokeOverrun h st => Sys2Proof.Machine.execStrokeOverrun h st s
  | .strokeBlockArrived => Sys2Proof.Machine.execStrokeBlockArrived s
  | .ristrettoSlot => Sys2Proof.Machine.execRistrettoSlot s
  | .ristrettoExecute => Sys2Proof.Machine.execRistrettoExecute s
  | .canvasBoundary => Sys2Proof.Machine.execCanvasBoundary s
  | .decisionPoint headOk => Sys2Proof.Machine.execDecisionPoint headOk s
  | .paletteLoaded code detail => Sys2Proof.Machine.execPaletteLoaded code detail s
  | .gptpSyncReceived dom phaseErr ratePpb gm => Sys2Proof.Machine.execGptpSyncReceived dom phaseErr ratePpb gm s
  | .ppsEdge phaseErr spacing width => Sys2Proof.Machine.execPpsEdge phaseErr spacing width s
  | .syncReceiptTimeout dom => Sys2Proof.Machine.execSyncReceiptTimeout dom s
  | .ppsTimeout => Sys2Proof.Machine.execPpsTimeout s
  | .revertHoldoffExpiry src => Sys2Proof.Machine.execRevertHoldoffExpiry src s
  | .holdoverExpired => Sys2Proof.Machine.execHoldoverExpired s
  | .timeWaitTimeout => Sys2Proof.Machine.execTimeWaitTimeout s
  | .rtcWrite => Sys2Proof.Machine.execRtcWrite s
  | .pgEdge pg => Sys2Proof.Machine.execPgEdge pg s
  | .ocTrip ch current => Sys2Proof.Machine.execOcTrip ch current s
  | .ocPauseElapsed ch => Sys2Proof.Machine.execOcPauseElapsed ch s
  | .ocRetry ch => Sys2Proof.Machine.execOcRetry ch s
  | .ocRecovered ch => Sys2Proof.Machine.execOcRecovered ch s
  | .pourStepEnd ch => Sys2Proof.Machine.execPourStepEnd ch s
  | .thermalShutdown ch tj dt => Sys2Proof.Machine.execThermalShutdown ch tj dt s
  | .thermalRestart ch tj dt => Sys2Proof.Machine.execThermalRestart ch tj dt s
  | .cooldownOverrun ch => Sys2Proof.Machine.execCooldownOverrun ch s
  | .pwmPeriodStart ch => Sys2Proof.Machine.execPwmPeriodStart ch s
  | .senseMillisecond ch m => Sys2Proof.Machine.execSenseMillisecond ch m s
  | .openLoad ch => Sys2Proof.Machine.execOpenLoad ch s
  | .openLoadCleared ch => Sys2Proof.Machine.execOpenLoadCleared ch s
  | .stall br => Sys2Proof.Machine.execStall br s
  | .xcondFault br leg side => Sys2Proof.Machine.execXcondFault br leg side s
  | .shedResume feed => Sys2Proof.Machine.execShedResume feed s
  | .sagEnter feed v => Sys2Proof.Machine.execSagEnter feed v s
  | .sagExit feed v => Sys2Proof.Machine.execSagExit feed v s
  | .crankStart v => Sys2Proof.Machine.execCrankStart v s
  | .crankEnd v => Sys2Proof.Machine.execCrankEnd v s
  | .uvLatch feed mv => Sys2Proof.Machine.execUvLatch feed mv s
  | .overvoltage feed v => Sys2Proof.Machine.execOvervoltage feed v s
  | .overvoltageEnd feed v => Sys2Proof.Machine.execOvervoltageEnd feed v s
  | .overload feed amps => Sys2Proof.Machine.execOverload feed amps s
  | .overloadClass2Shed feed amps => Sys2Proof.Machine.execOverloadClass2Shed feed amps s
  | .overloadEnd feed amps => Sys2Proof.Machine.execOverloadEnd feed amps s
  | .standbyEntry mv => Sys2Proof.Machine.execStandbyEntry mv s
  | .powerOff mv => Sys2Proof.Machine.execPowerOff mv s
  | .powerOn mv straps => Sys2Proof.Machine.execPowerOn mv straps s
  | .thermalModelEval psw railMw tcp tjc => Sys2Proof.Machine.execThermalModelEval psw railMw tcp tjc s
  | .deratingStepFall => Sys2Proof.Machine.execDeratingStepFall s
  | .deratingStep3Entry => Sys2Proof.Machine.execDeratingStep3Entry s
  | .railFault rail => Sys2Proof.Machine.execRailFault rail s
  | .frameDecisionPoint f => Sys2Proof.Machine.execFrameDecisionPoint f s
  | .frameEnd port good symbol => Sys2Proof.Machine.execFrameEnd port good symbol s
  | .transmissionSelect port => Sys2Proof.Machine.execTransmissionSelect port s
  | .fdbAgeing mac fid => Sys2Proof.Machine.execFdbAgeing mac fid s
  | .cbResetTimeout cb => Sys2Proof.Machine.execCbResetTimeout cb s
  | .linkUp port => Sys2Proof.Machine.execLinkUp port s
  | .linkDown port localFault => Sys2Proof.Machine.execLinkDown port localFault s
  | .trainFail port => Sys2Proof.Machine.execTrainFail port s
  | .tc10Asleep port => Sys2Proof.Machine.execTc10Asleep port s
  | .tc10SleepTimeout port => Sys2Proof.Machine.execTc10SleepTimeout port s
  | .tc10RemoteSleep port => Sys2Proof.Machine.execTc10RemoteSleep port s
  | .tc10Wake port remote => Sys2Proof.Machine.execTc10Wake port remote s
  | .phyFault port => Sys2Proof.Machine.execPhyFault port s
  | .plcaBeaconLost port => Sys2Proof.Machine.execPlcaBeaconLost port s
  | .plcaBeaconReceived port => Sys2Proof.Machine.execPlcaBeaconReceived port s
  | .segmentAlone port => Sys2Proof.Machine.execSegmentAlone port s
  | .cableDiagDone port result distance => Sys2Proof.Machine.execCableDiagDone port result distance s
  | .canFrameReceived ch f => Sys2Proof.Machine.execCanFrameReceived ch f s
  | .canFrameValid ch => Sys2Proof.Machine.execCanFrameValid ch s
  | .canAttemptStart ch => Sys2Proof.Machine.execCanAttemptStart ch s
  | .canArbitrationLost ch => Sys2Proof.Machine.execCanArbitrationLost ch s
  | .canBusError ch kind past more => Sys2Proof.Machine.execCanBusError ch kind past more s
  | .canTxSuccess ch => Sys2Proof.Machine.execCanTxSuccess ch s
  | .canIntegrated ch => Sys2Proof.Machine.execCanIntegrated ch s
  | .busOffRecovered ch => Sys2Proof.Machine.execBusOffRecovered ch s
  | .canWake ch reason => Sys2Proof.Machine.execCanWake ch reason s
  | .fryCycleStart cl cycle phaseErr rateCorr offsCorr => Sys2Proof.Machine.execFryCycleStart cl cycle phaseErr rateCorr offsCorr s
  | .fryActionPoint chn slot cycle => Sys2Proof.Machine.execFryActionPoint chn slot cycle s
  | .fryFrameReceived chn f => Sys2Proof.Machine.execFryFrameReceived chn f s
  | .branchTxStart chn branch seg slot offsetNs => Sys2Proof.Machine.execBranchTxStart chn branch seg slot offsetNs s
  | .branchTruncated chn branch slot => Sys2Proof.Machine.execBranchTruncated chn branch slot s
  | .pocState cl code => Sys2Proof.Machine.execPocState cl code s
  | .frAlone cl => Sys2Proof.Machine.execFrAlone cl s
  | .coldstartRetry cl => Sys2Proof.Machine.execColdstartRetry cl s
  | .linFrameEnd ch e => Sys2Proof.Machine.execLinFrameEnd ch e s
  | .linResponseTimeout ch data => Sys2Proof.Machine.execLinResponseTimeout ch data s
  | .linHeaderReceived ch id sleep => Sys2Proof.Machine.execLinHeaderReceived ch id sleep s
  | .linIdleSleep ch => Sys2Proof.Machine.execLinIdleSleep ch s
  | .linWake ch sent => Sys2Proof.Machine.execLinWake ch sent s
  | .linWakingEnd ch => Sys2Proof.Machine.execLinWakingEnd ch s
  | .linWakeNoHeader ch => Sys2Proof.Machine.execLinWakeNoHeader ch s
  | .filteredEdge input level first => Sys2Proof.Machine.execFilteredEdge input level first s
  | .diEdge input => Sys2Proof.Machine.execDiEdge input s
  | .diFeedLow v => Sys2Proof.Machine.execDiFeedLow v s
  | .diSamplingResume v => Sys2Proof.Machine.execDiSamplingResume v s
  | .wireBreak di => Sys2Proof.Machine.execWireBreak di s
  | .wireOk di => Sys2Proof.Machine.execWireOk di s
  | .wirebreakTestDone skipped brk shrt => Sys2Proof.Machine.execWirebreakTestDone skipped brk shrt s
  | .barrierLost logicSide viso => Sys2Proof.Machine.execBarrierLost logicSide viso s
  | .barrierRestored => Sys2Proof.Machine.execBarrierRestored s
  | .xoFault xo current thermal => Sys2Proof.Machine.execXoFault xo current thermal s
  | .xoRetry xo holds => Sys2Proof.Machine.execXoRetry xo holds s
  | .xvsLost v => Sys2Proof.Machine.execXvsLost v s
  | .fieldHoldExpiry xo => Sys2Proof.Machine.execFieldHoldExpiry xo s
  | .lockstepMismatch pair railFault => Sys2Proof.Machine.execLockstepMismatch pair railFault s
  | .mCoreMismatch railFault => Sys2Proof.Machine.execMCoreMismatch railFault s
  | .pairHalted pair => Sys2Proof.Machine.execPairHalted pair s
  | .pairResumed pair => Sys2Proof.Machine.execPairResumed pair s
  | .secureInterrupt pair => Sys2Proof.Machine.execSecureInterrupt pair s
  | .partResetDone p => Sys2Proof.Machine.execPartResetDone p s
  | .partRestarted p digestOk image => Sys2Proof.Machine.execPartRestarted p digestOk image s
  | .supervisionTimeout serial => Sys2Proof.Machine.execSupervisionTimeout serial s
  | .eventDelivery => Sys2Proof.Machine.execEventDelivery s
  | .ringSlotMove ring => Sys2Proof.Machine.execRingSlotMove ring s
  | .bamRequestExecute svc => Sys2Proof.Machine.execBamRequestExecute svc s
  | .bamlysStart pufFails recovered store measurement fwOk => Sys2Proof.Machine.execBamlysStart pufFails recovered store measurement fwOk s
  | .bamlysRestart cause fwOk pufFails recovered measurement => Sys2Proof.Machine.execBamlysRestart cause fwOk pufFails recovered measurement s
  | .keyRegisterRemask => Sys2Proof.Machine.execKeyRegisterRemask s
  | .mkaSakInstall port an scs xpn => Sys2Proof.Machine.execMkaSakInstall port an scs xpn s
  | .tamperAlarm src phase programming => Sys2Proof.Machine.execTamperAlarm src phase programming s
  | .tamperBootRetry => Sys2Proof.Machine.execTamperBootRetry s
  | .referenceQualified record => Sys2Proof.Machine.execReferenceQualified record s
  | .referenceTimeout => Sys2Proof.Machine.execReferenceTimeout s
  | .mcoreFirmwareStart img componentsOk => Sys2Proof.Machine.execMcoreFirmwareStart img componentsOk s
  | .startLoadComplete => Sys2Proof.Machine.execStartLoadComplete s
  | .chunkCommit c => Sys2Proof.Machine.execChunkCommit c s
  | .healthExpired => Sys2Proof.Machine.execHealthExpired s
  | .activateReset => Sys2Proof.Machine.execActivateReset s
  | .resetDelayExpiry => Sys2Proof.Machine.execResetDelayExpiry s
  | .prepFallbackTimeout => Sys2Proof.Machine.execPrepFallbackTimeout s
  | .sleepArming => Sys2Proof.Machine.execSleepArming s
  | .tc10SleepForced port => Sys2Proof.Machine.execTc10SleepForced port s
  | .sleepEntered => Sys2Proof.Machine.execSleepEntered s
  | .wakeLine line level => Sys2Proof.Machine.execWakeLine line level s
  | .wakeFromSleep => Sys2Proof.Machine.execWakeFromSleep s
  | .wkoPulseEnd line => Sys2Proof.Machine.execWkoPulseEnd line s
  | .bridgeRetry => Sys2Proof.Machine.execBridgeRetry s
  | .busTimeout w crossing isLoad => Sys2Proof.Machine.execBusTimeout w crossing isLoad s
  | .holdBufferDrain crossing => Sys2Proof.Machine.execHoldBufferDrain crossing s
  | .cdcOverrun src => Sys2Proof.Machine.execCdcOverrun src s
  | .patrolScrub dram => Sys2Proof.Machine.execPatrolScrub dram s
  | .eccCorrected mem addr => Sys2Proof.Machine.execEccCorrected mem addr s
  | .eccUncorrectable mem addr => Sys2Proof.Machine.execEccUncorrectable mem addr s
  | .poisonRead p addr => Sys2Proof.Machine.execPoisonRead p addr s
  | .faultReport => Sys2Proof.Machine.execFaultReport s
  | .mcoreWatchdogExpiry => Sys2Proof.Machine.execMcoreWatchdogExpiry s
  | .logFlush => Sys2Proof.Machine.execLogFlush s
  | .xvsReturn v => Sys2Proof.Machine.execXvsReturn v s
  | .prtTrainTimeout port => Sys2Proof.Machine.execPrtTrainTimeout port s
  | .fryStartTimeout cl => Sys2Proof.Machine.execFryStartTimeout cl s
  | .syncTransmit port => Sys2Proof.Machine.execSyncTransmit port s
  | .flashWriteResume v => Sys2Proof.Machine.execFlashWriteResume v s

end Sys2Proof.Machine
end

