-- ==== Sys2Proof/Machine/Tick.lean ====
section
/-!
DEFINITION. Sys2Proof/Machine/Tick.lean: one cycle of the 500 MHz time PLL, which the block runs when no command waits
(R70, R72, R75), and the release of a held command (R37, R52).
-/

namespace Sys2Proof.Machine

/-- Nanoseconds by which the cycle advances ET, 0, 2 or 4, and what is left of the rate correction, in 10^-9 ns (R70). -/
def cycleStep (acc rate : Int) : Nat × Int :=
  let a := acc + 2 * rate
  if 2000000000 ≤ a then (4, a - 2000000000) else if a ≤ -2000000000 then (0, a + 2000000000) else (2, a)

/-- ET advances while the compute die is powered; the always-on RTC advances except in OFF. -/
def State.clock (s : State) : State :=
  let c := cycleStep s.time.rateAcc s.time.rateAdj
  let s := if s.powered then { s with et := s.et + c.1, time := { s.time with rateAcc := c.2 } } else s
  if s.dev.state == .off then s else { s with rtcNs := s.rtcNs + 2 }

/-- A slew that has corrected its phase error gives way to the source's own frequency (R75). -/
def State.slewDone (s : State) : State :=
  if s.powered && s.time.slewEnd != 0 && decide (s.time.slewEnd ≤ s.et) then s.setRate s.time.freq else s

/-- One idle cycle. DESIGN CHOICE: no row of the table stands for a clock tick, so an empty queue is one. -/
def State.tick (s : State) : State :=
  (onlyIf s.intakeOpen s s.release).clock.slewDone

end Sys2Proof.Machine
end

