-- ==== Sys2Proof/Safety.lean ====
section
/-!
DEFINITION. Sys2Proof/Safety.lean: the terms in which statements about the block are written: the coarse device states and
their transitions, the invariant of arming, the packet and stroke that a row carries, when a packet is accepted and a stroke
is dispatched in time, and classes of rows that leave whole units alone.
-/

namespace Sys2Proof.Machine

/-! ### Device states (R26, R27, R31) -/

/-- RUN, DEGRADED and SLEEP-PREP as one state: the palettes run. -/
def DevState.coarse : DevState → DevState
  | .degraded => .run
  | .sleepPrep => .run
  | d => d

/-- The transitions of R27 between coarse states; every other state change of one step is excluded. -/
def DevState.mayMove : DevState → DevState → Bool
  | .off, d => d == .off || d == .starting
  | .standby, d => d == .standby || d == .starting || d == .off
  | .starting, d => d == .starting || d == .run || d == .standby || d == .off
  | .sleep, d => d == .sleep || d == .starting || d == .off
  | _, d => d == .run || d == .sleep || d == .starting || d == .standby || d == .off

/-- What every step keeps: the device is armed only while palettes run, and the commit point of sleep (R502) has disarmed it. -/
def State.Inv (s : State) : Prop :=
  (s.dev.armed = true → s.active = true) ∧ (s.wake.phase = 4 → s.dev.armed = false)

/-! ### Packets -/

end Sys2Proof.Machine

namespace Sys2Proof

open Sys2Proof.Machine

/-- The opcode and packet of a row that delivers a command packet (R57). -/
def Instr.packetRow : Instr → Option (OpSpec × Packet)
  | .nop pk => some (nopSpec, pk)
  | .identify pk => some (identifySpec, pk)
  | .getState pk => some (getStateSpec, pk)
  | .reset pk => some (resetSpec, pk)
  | .arm pk => some (armSpec, pk)
  | .disarm pk => some (disarmSpec, pk)
  | .timeGetStatus pk => some (timeGetStatusSpec, pk)
  | .timeSetSources pk => some (timeSetSourcesSpec, pk)
  | .timeSetHoldover pk => some (timeSetHoldoverSpec, pk)
  | .pgConfig pk => some (pgConfigSpec, pk)
  | .pgStart pk => some (pgStartSpec, pk)
  | .pgStop pk => some (pgStopSpec, pk)
  | .easelGetStatus pk => some (easelGetStatusSpec, pk)
  | .paletteLoad pk => some (paletteLoadSpec, pk)
  | .paletteSwitch pk => some (paletteSwitchSpec, pk)
  | .paletteUnload pk => some (paletteUnloadSpec, pk)
  | .easelGetOverruns pk => some (easelGetOverrunsSpec, pk)
  | .easelClearCounters pk => some (easelClearCountersSpec, pk)
  | .gwGetStatus pk => some (gwGetStatusSpec, pk)
  | .gwRouteRead pk => some (gwRouteReadSpec, pk)
  | .gwSignalRead pk => some (gwSignalReadSpec, pk)
  | .gwSignalForce pk => some (gwSignalForceSpec, pk)
  | .gwWakeRouteSet pk => some (gwWakeRouteSetSpec, pk)
  | .lswSet pk => some (lswSetSpec, pk)
  | .lswSetPwm pk => some (lswSetPwmSpec, pk)
  | .lswConfig pk => some (lswConfigSpec, pk)
  | .lswGetStatus pk => some (lswGetStatusSpec, pk)
  | .lswClearOcLatch pk => some (lswClearOcLatchSpec, pk)
  | .lswClearThermalLatch pk => some (lswClearThermalLatchSpec, pk)
  | .lswIsmSelect pk => some (lswIsmSelectSpec, pk)
  | .mbrConfig pk => some (mbrConfigSpec, pk)
  | .mbrDrive pk => some (mbrDriveSpec, pk)
  | .mbrBrake pk => some (mbrBrakeSpec, pk)
  | .mbrGetStatus pk => some (mbrGetStatusSpec, pk)
  | .pwrGetStatus pk => some (pwrGetStatusSpec, pk)
  | .pwrGetThermal pk => some (pwrGetThermalSpec, pk)
  | .pwrSetSagThreshold pk => some (pwrSetSagThresholdSpec, pk)
  | .pwrUnlatchUv pk => some (pwrUnlatchUvSpec, pk)
  | .pwrGetLedger pk => some (pwrGetLedgerSpec, pk)
  | .swcGetCounters pk => some (swcGetCountersSpec, pk)
  | .swcFdbRead pk => some (swcFdbReadSpec, pk)
  | .swcFdbWrite pk => some (swcFdbWriteSpec, pk)
  | .swcFdbFlush pk => some (swcFdbFlushSpec, pk)
  | .swcClearCounters pk => some (swcClearCountersSpec, pk)
  | .prtGetStatus pk => some (prtGetStatusSpec, pk)
  | .prtEnable pk => some (prtEnableSpec, pk)
  | .prtDisable pk => some (prtDisableSpec, pk)
  | .prtCableDiag pk => some (prtCableDiagSpec, pk)
  | .prtTc10Sleep pk => some (prtTc10SleepSpec, pk)
  | .canGetStatus pk => some (canGetStatusSpec, pk)
  | .canTx pk => some (canTxSpec, pk)
  | .canTxCancel pk => some (canTxCancelSpec, pk)
  | .canSetFilter pk => some (canSetFilterSpec, pk)
  | .canSetWake pk => some (canSetWakeSpec, pk)
  | .canRecover pk => some (canRecoverSpec, pk)
  | .fryGetStatus pk => some (fryGetStatusSpec, pk)
  | .fryStart pk => some (fryStartSpec, pk)
  | .fryHalt pk => some (fryHaltSpec, pk)
  | .fryBranchEnable pk => some (fryBranchEnableSpec, pk)
  | .linGetStatus pk => some (linGetStatusSpec, pk)
  | .linTx pk => some (linTxSpec, pk)
  | .linWakePulse pk => some (linWakePulseSpec, pk)
  | .linGotoSleep pk => some (linGotoSleepSpec, pk)
  | .dioGetInputs pk => some (dioGetInputsSpec, pk)
  | .dioConfig pk => some (dioConfigSpec, pk)
  | .dioSetXo pk => some (dioSetXoSpec, pk)
  | .dioWirebreakTest pk => some (dioWirebreakTestSpec, pk)
  | .partGetStatus pk => some (partGetStatusSpec, pk)
  | .partReset pk => some (partResetSpec, pk)
  | .partRestart pk => some (partRestartSpec, pk)
  | .ringGetStatus pk => some (ringGetStatusSpec, pk)
  | .ringReset pk => some (ringResetSpec, pk)
  | .partReadPostedErrors pk => some (partReadPostedErrorsSpec, pk)
  | .bamGetStatus pk => some (bamGetStatusSpec, pk)
  | .bamSessionOpen pk => some (bamSessionOpenSpec, pk)
  | .bamKeyInstall pk => some (bamKeyInstallSpec, pk)
  | .bamSign pk => some (bamSignSpec, pk)
  | .bamVerify pk => some (bamVerifySpec, pk)
  | .bamRandom pk => some (bamRandomSpec, pk)
  | .bamLifecycleSet pk => some (bamLifecycleSetSpec, pk)
  | .bamTamperPolicy pk => some (bamTamperPolicySpec, pk)
  | .updGetStatus pk => some (updGetStatusSpec, pk)
  | .updBegin pk => some (updBeginSpec, pk)
  | .updChunk pk => some (updChunkSpec, pk)
  | .updActivate pk => some (updActivateSpec, pk)
  | .updVarnish pk => some (updVarnishSpec, pk)
  | .updAbort pk => some (updAbortSpec, pk)
  | .wakeGetSource pk => some (wakeGetSourceSpec, pk)
  | .sleepRequest pk => some (sleepRequestSpec, pk)
  | .wakeConfig pk => some (wakeConfigSpec, pk)
  | .wakeClearSource pk => some (wakeClearSourceSpec, pk)
  | .fltGetStatus pk => some (fltGetStatusSpec, pk)
  | .fltReadLog pk => some (fltReadLogSpec, pk)
  | .fltClear pk => some (fltClearSpec, pk)
  | .fltInject pk => some (fltInjectSpec, pk)
  | _ => none

/-- The header and the 16-byte content of the stroke that a row dispatches (R101, R102). -/
def Instr.strokeRow : Instr → Option (StrokeHd × Stroke)
  | .route h pipe first count => some (h, ⟨0x01, 0, pipe, leBytes 4 first ++ leBytes 1 count⟩)
  | .inputLatch h group => some (h, ⟨0x02, 0, group, []⟩)
  | .loadSet h ch mode duty period => some (h, ⟨0x10, 1, ch, leBytes 2 mode ++ leBytes 2 duty ++ leBytes 2 period⟩)
  | .loadApply h ch ageLimit fallback => some (h, ⟨0x11, 1, ch, leBytes 1 ageLimit ++ leBytes 1 fallback⟩)
  | .bridgeSet h br mode duty period => some (h, ⟨0x12, 1, br, leBytes 2 mode ++ leBytes 2 duty ++ leBytes 4 period⟩)
  | .bridgeApply h br ageLimit fallback => some (h, ⟨0x13, 1, br, leBytes 1 ageLimit ++ leBytes 1 fallback⟩)
  | .xoSet h xo level => some (h, ⟨0x14, 1, xo, leBytes 1 level⟩)
  | .pgTrigger h pg delay => some (h, ⟨0x15, 1, pg, leBytes 4 delay⟩)
  | .gateSet h port gates => some (h, ⟨0x20, 2, port, leBytes 1 gates⟩)
  | .canRelease h ch entry => some (h, ⟨0x21, 2, ch, leBytes 2 entry⟩)
  | .fryCommit h cl slot cycle chans => some (h, ⟨0x22, 2, cl, leBytes 2 slot ++ leBytes 1 cycle ++ leBytes 1 chans⟩)
  | .linRelease h ch entry => some (h, ⟨0x23, 2, ch, leBytes 2 entry⟩)
  | .window h pair part _ => some (h, ⟨0x30, 3, pair, leBytes 1 part⟩)
  | .pfRoute h first count => some (h, ⟨0x40, 4, 0, leBytes 4 first ++ leBytes 2 count⟩)
  | .pfStroke h first count => some (h, ⟨0x41, 4, 0, leBytes 4 first ++ leBytes 2 count⟩)
  | .openStroke h cls count => some (h, ⟨0x7F, openLane cls, cls, leBytes 4 count⟩)
  | _ => none

/-- What a stroke other than ROUTE does when its executor takes it in time (R102). -/
def Instr.strokeAct : Instr → Option (State → State)
  | .inputLatch _ group => some fun s => s.inputLatch group
  | .loadSet _ ch mode duty period => some fun s => s.loadSet ch mode duty period
  | .loadApply _ ch ageLimit fallback => some fun s => s.loadApply ch ageLimit fallback
  | .bridgeSet _ br mode duty period => some fun s => s.bridgeSet br mode duty period
  | .bridgeApply _ br ageLimit fallback => some fun s => s.bridgeApply br ageLimit fallback
  | .xoSet _ xo level => some fun s => s.xoSet xo (level == 1)
  | .pgTrigger h pg delay => some fun s => s.pgTrigger pg h.phase delay
  | .gateSet _ port gates => some fun s => s.gateSet port gates
  | .canRelease _ ch entry => some fun s => s.canRelease ch entry
  | .fryCommit _ cl slot cycle chans => some fun s => s.fryCommit cl slot cycle chans
  | .linRelease _ ch entry => some fun s => s.linRelease ch entry
  | .window _ pair part switchNs => some fun s => s.window pair part switchNs
  | .pfRoute _ first count => some fun s => s.prefetchRoutes first count
  | .pfStroke _ first count => some fun s => s.fillBlock first count
  | .openStroke _ cls count => some (State.openRun cls count)
  | _ => none

end Sys2Proof

namespace Sys2Proof.Machine

/-- The packet after the frame and credential checks of R48: its slot is given back, and the window of an MP session has
marked its sequence number. -/
def State.ready (s : State) (pk : Packet) : State :=
  match pk.src with
  | .ring _ => s.taken pk
  | .mp =>
    let t := s.taken pk
    { t with cmd := { t.cmd with
      sessions := t.cmd.sessions.put {} pk.part ((t.cmd.sessions.val {} pk.part).mark pk.seq) } }

/-- The credential and window check of a packet from MP (R45, R46); a ring has none. -/
def State.credOk (s : State) (o : OpSpec) (pk : Packet) : Bool :=
  match pk.src with
  | .ring _ => true
  | .mp =>
    let x := s.cmd.sessions.val {} pk.part
    x.isOpen && Config.cmac32 x.key (macMessage o.code (cutBlock pk)) == pk.cred && x.accepts pk.seq

/-- A packet is taken and passes every check of R48. -/
def State.valid (s : State) (o : OpSpec) (pk : Packet) : Prop :=
  s.takes o pk = true ∧ s.slotBad pk = false ∧ lenOk pk = true ∧ s.credOk o pk = true ∧
    (s.ready pk).validate o (cutBlock pk) = stOk

/-- It asks for more than a check, and waits behind nothing (R37, R52): it executes as its completion type says. -/
def State.accepts (s : State) (o : OpSpec) (pk : Packet) : Prop :=
  s.valid o pk ∧ isCheckOnly pk = false ∧ (s.ready pk).mustWait o (cutBlock pk) s.cmd.held = false

/-- The newest reply that the block has written answers packet `pk` (R39). -/
def State.answered (t : State) (pk : Packet) (status : Nat) (result : List Byte) : Prop :=
  ∃ r rest, t.cmd.replies = r :: rest ∧ r.src = pk.src ∧ r.tag = pk.tag ∧ r.seq = pk.seq ∧ r.status = status ∧ r.result = result

/-! ### Strokes -/

/-- A stroke that its row dispatches and its executor takes within the window (R104, R105, R107): it is the next one in the
palette, due, in the buffer and intact, no instance of it is late, and an actuation stroke meets an armed device whose owner
is not in reset and no override of the ristretto path. -/
def State.onTime (s : State) (h : StrokeHd) (st : Stroke) : Bool :=
  strokeResOk st && s.dispatching && s.isDue h.phase &&
    (s.easel.late.find? fun e => e.phase == h.phase && e.st == st).isNone &&
    !s.easel.miss && decide (s.easel.lastDispatch + 2 ≤ s.et) && decide (s.easel.idx < (s.slot s.easel.run).strokes) &&
    decide (s.easel.phaseAt ≤ h.phase) && s.inBuffer && !s.easel.bad.contains (s.easel.run, s.easel.idx) &&
    decide (s.lagOf h.phase ≤ s.dispatchWindow st.lane) &&
    (!actuates st || (s.dev.armed && !s.inReset (s.strokeOwner st))) && !s.overridden st

/-- The state once Easel has dispatched such a stroke and before its executor acts: late instances of its target are
dropped, the stroke is taken and counted. -/
def State.dispatched (s : State) (h : StrokeHd) (st : Stroke) : State :=
  ((s.dropLate fun e => sameTarget e.st st).takeStroke h.phase).countDispatch st.lane (s.lagOf h.phase)

/-! ### Classes of rows -/

end Sys2Proof.Machine

namespace Sys2Proof

/-- Rows that leave memory, commands, the schedule engine, the gateway, the networks, Bamlys and the update manager alone. -/
def Instr.outRow : Instr → Bool
  | .dbProducer _ _ _ => true
  | .irqAck _ _ _ => true
  | .viConsume _ _ => true
  | .viOvfAck _ _ => true
  | .lowWordRead _ _ => true
  | .gptpSyncReceived _ _ _ _ => true
  | .ppsEdge _ _ _ => true
  | .syncReceiptTimeout _ => true
  | .ppsTimeout => true
  | .revertHoldoffExpiry _ => true
  | .holdoverExpired => true
  | .timeWaitTimeout => true
  | .pgEdge _ => true
  | .ocTrip _ _ => true
  | .ocPauseElapsed _ => true
  | .ocRetry _ => true
  | .ocRecovered _ => true
  | .pourStepEnd _ => true
  | .thermalShutdown _ _ _ => true
  | .thermalRestart _ _ _ => true
  | .cooldownOverrun _ => true
  | .pwmPeriodStart _ => true
  | .senseMillisecond _ _ => true
  | .openLoad _ => true
  | .openLoadCleared _ => true
  | .stall _ => true
  | .xcondFault _ _ _ => true
  | .shedResume _ => true
  | .sagEnter _ _ => true
  | .sagExit _ _ => true
  | .crankStart _ => true
  | .crankEnd _ => true
  | .uvLatch _ _ => true
  | .overvoltage _ _ => true
  | .overvoltageEnd _ _ => true
  | .overload _ _ => true
  | .overloadClass2Shed _ _ => true
  | .overloadEnd _ _ => true
  | .thermalModelEval _ _ _ _ => true
  | .deratingStepFall => true
  | .deratingStep3Entry => true
  | .diEdge _ => true
  | .diFeedLow _ => true
  | .diSamplingResume _ => true
  | .wireBreak _ => true
  | .wireOk _ => true
  | .barrierLost _ _ => true
  | .barrierRestored => true
  | .xoFault _ _ _ => true
  | .xoRetry _ _ => true
  | .xvsLost _ => true
  | .fieldHoldExpiry _ => true
  | .pairHalted _ => true
  | .pairResumed _ => true
  | .secureInterrupt _ => true
  | .bridgeRetry => true
  | .patrolScrub _ => true
  | .poisonRead _ _ => true
  | .faultReport => true
  | .logFlush => true
  | .xvsReturn _ => true
  | .syncTransmit _ => true
  | _ => false

/-- Rows that leave time, load channels, inputs and outputs, and the update manager alone. -/
def Instr.netRow : Instr → Bool
  | .dbProducer _ _ _ => true
  | .dbConsumer _ _ _ => true
  | .irqAck _ _ _ => true
  | .viConsume _ _ => true
  | .viOvfAck _ _ => true
  | .lowWordRead _ _ => true
  | .statusWindowStore _ => true
  | .routeExecution _ => true
  | .routeCommit _ => true
  | .strokeBlockArrived => true
  | .ristrettoSlot => true
  | .decisionPoint _ => true
  | .gptpSyncReceived _ _ _ _ => true
  | .ppsEdge _ _ _ => true
  | .syncReceiptTimeout _ => true
  | .ppsTimeout => true
  | .revertHoldoffExpiry _ => true
  | .holdoverExpired => true
  | .timeWaitTimeout => true
  | .pgEdge _ => true
  | .crankStart _ => true
  | .crankEnd _ => true
  | .overvoltage _ _ => true
  | .overvoltageEnd _ _ => true
  | .frameDecisionPoint _ => true
  | .frameEnd _ _ _ => true
  | .transmissionSelect _ => true
  | .fdbAgeing _ _ => true
  | .cbResetTimeout _ => true
  | .linkUp _ => true
  | .linkDown _ _ => true
  | .trainFail _ => true
  | .tc10Asleep _ => true
  | .tc10SleepTimeout _ => true
  | .tc10RemoteSleep _ => true
  | .tc10Wake _ _ => true
  | .phyFault _ => true
  | .plcaBeaconLost _ => true
  | .plcaBeaconReceived _ => true
  | .segmentAlone _ => true
  | .cableDiagDone _ _ _ => true
  | .canFrameReceived _ _ => true
  | .canFrameValid _ => true
  | .canAttemptStart _ => true
  | .canArbitrationLost _ => true
  | .canBusError _ _ _ _ => true
  | .canTxSuccess _ => true
  | .canIntegrated _ => true
  | .busOffRecovered _ => true
  | .canWake _ _ => true
  | .fryCycleStart _ _ _ _ _ => true
  | .fryActionPoint _ _ _ => true
  | .fryFrameReceived _ _ => true
  | .branchTxStart _ _ _ _ _ => true
  | .branchTruncated _ _ _ => true
  | .pocState _ _ => true
  | .frAlone _ => true
  | .coldstartRetry _ => true
  | .linFrameEnd _ _ => true
  | .linResponseTimeout _ _ => true
  | .linHeaderReceived _ _ _ => true
  | .linIdleSleep _ => true
  | .linWake _ _ => true
  | .linWakingEnd _ => true
  | .linWakeNoHeader _ => true
  | .wirebreakTestDone _ _ _ => true
  | .pairHalted _ => true
  | .pairResumed _ => true
  | .secureInterrupt _ => true
  | .partResetDone _ => true
  | .partRestarted _ _ _ => true
  | .supervisionTimeout _ => true
  | .eventDelivery => true
  | .ringSlotMove _ => true
  | .keyRegisterRemask => true
  | .mkaSakInstall _ _ _ _ => true
  | .tamperBootRetry => true
  | .startLoadComplete => true
  | .prepFallbackTimeout => true
  | .sleepArming => true
  | .tc10SleepForced _ => true
  | .wkoPulseEnd _ => true
  | .bridgeRetry => true
  | .busTimeout _ _ _ => true
  | .holdBufferDrain _ => true
  | .cdcOverrun _ => true
  | .patrolScrub _ => true
  | .eccCorrected _ _ => true
  | .poisonRead _ _ => true
  | .faultReport => true
  | .logFlush => true
  | .prtTrainTimeout _ => true
  | .fryStartTimeout _ => true
  | .syncTransmit _ => true
  | _ => false

/-- Status reads: packet rows whose action only returns a result. -/
def Instr.readRow : Instr → Bool
  | .nop _ | .identify _ | .getState _ | .timeGetStatus _ | .easelGetStatus _ | .easelGetOverruns _ | .gwGetStatus _
  | .gwRouteRead _ | .gwSignalRead _ | .lswGetStatus _ | .mbrGetStatus _ | .pwrGetStatus _ | .pwrGetThermal _
  | .pwrGetLedger _ | .swcGetCounters _ | .swcFdbRead _ | .prtGetStatus _ | .canGetStatus _ | .fryGetStatus _
  | .linGetStatus _ | .dioGetInputs _ | .partGetStatus _ | .ringGetStatus _ | .partReadPostedErrors _ | .updGetStatus _
  | .wakeGetSource _ | .fltGetStatus _ | .fltReadLog _ => true
  | _ => false

/-- Rows that act on partitions, rings, memory, events and fault records only. -/
def Instr.ringRow : Instr → Bool
  | .dbProducer _ _ _ => true
  | .dbConsumer _ _ _ => true
  | .irqAck _ _ _ => true
  | .viConsume _ _ => true
  | .viOvfAck _ _ => true
  | .lowWordRead _ _ => true
  | .statusWindowStore _ => true
  | .wirebreakTestDone _ _ _ => true
  | .pairHalted _ => true
  | .pairResumed _ => true
  | .secureInterrupt _ => true
  | .partResetDone _ => true
  | .partRestarted _ _ _ => true
  | .eventDelivery => true
  | .bridgeRetry => true
  | .busTimeout _ _ _ => true
  | .holdBufferDrain _ => true
  | .cdcOverrun _ => true
  | .patrolScrub _ => true
  | .poisonRead _ _ => true
  | .faultReport => true
  | .logFlush => true
  | .prtTrainTimeout _ => true
  | .fryStartTimeout _ => true
  | _ => false

end Sys2Proof
end

