-- ==== Sys2Proof/WellFormed.lean ====
section
/-!
DEFINITION. Sys2Proof/WellFormed.lean: which commands the outside can present: header fields of the width of their fields
(R36, R101), and resource indices in the ranges of R4. The meanings are total: on a command that is not well-formed they act as
they are written, and say nothing about the hardware.
-/

namespace Sys2Proof

/-- A command source: one of sixteen rings, or MP (R41, R44). -/
def Source.wf : Source → Bool
  | .ring p => decide (p < 16)
  | .mp => true

/-- The fields of a packet fit the header of R36, the addresses of R47 and a slot of R41. -/
def Packet.wf (pk : Packet) : Bool :=
  pk.src.wf && decide (pk.flags < 2 ^ 8) && decide (pk.part < 2 ^ 8) && decide (pk.tag < 2 ^ 16) && decide (pk.len < 2 ^ 16) &&
    decide (pk.seq < 2 ^ 32) && decide (pk.cred < 2 ^ 32) && decide (pk.stamp < 2 ^ 64) && decide (pk.mac < 2 ^ 48) &&
    decide (pk.pcp < 8) && decide (pk.params.length ≤ 4080)

/-- A stroke header fits word 0 (R101). -/
def StrokeHd.wf (h : StrokeHd) : Bool := decide (h.phase < 2 ^ 27) && decide (h.ovr < 4)

/-- A stroke's kind, lane and resource fit their fields, and its argument is eight bytes (R101). -/
def Stroke.wf (st : Stroke) : Bool :=
  decide (st.kind < 2 ^ 8) && decide (st.lane < 8) && decide (st.res < 2 ^ 16) && st.arg.length == 8

/-- A load or store is of 1, 2, 4 or 8 bytes of data. -/
def BusWrite.wf (w : BusWrite) : Bool :=
  (w.size == 1 || w.size == 2 || w.size == 4 || w.size == 8) && decide (w.data < 256 ^ w.size) && decide (w.addr < 2 ^ 64)

/-- A received Ethernet frame has wire-sized fields (R286). -/
def EthFrame.wf (f : EthFrame) : Bool :=
  decide (f.port < 21) && decide (f.dst < 2 ^ 48) && decide (f.mac < 2 ^ 48) && decide (f.vid < 2 ^ 12) && decide (f.pcp < 8) &&
    decide (f.etherType < 2 ^ 16)

/-- A CAN frame is of one of the five formats (R333), with an identifier of 29 bits at most. -/
def CanFrame.wf (f : CanFrame) : Bool := decide (f.fmt < 5) && decide (f.id < 2 ^ 29) && decide (f.payload.length ≤ 2048)

/-- The indices of a command lie in the ranges of R4, its fields fit their widths. -/
def Instr.wf : Instr → Bool
  | .nop pk | .identify pk | .getState pk | .reset pk | .arm pk | .disarm pk | .timeGetStatus pk | .timeSetSources pk
  | .timeSetHoldover pk | .pgConfig pk | .pgStart pk | .pgStop pk | .easelGetStatus pk | .paletteLoad pk | .paletteSwitch pk
  | .paletteUnload pk | .easelGetOverruns pk | .easelClearCounters pk | .gwGetStatus pk | .gwRouteRead pk | .gwSignalRead pk
  | .gwSignalForce pk | .gwWakeRouteSet pk | .lswSet pk | .lswSetPwm pk | .lswConfig pk | .lswGetStatus pk
  | .lswClearOcLatch pk | .lswClearThermalLatch pk | .lswIsmSelect pk | .mbrConfig pk | .mbrDrive pk | .mbrBrake pk
  | .mbrGetStatus pk | .pwrGetStatus pk | .pwrGetThermal pk | .pwrSetSagThreshold pk | .pwrUnlatchUv pk | .pwrGetLedger pk
  | .swcGetCounters pk | .swcFdbRead pk | .swcFdbWrite pk | .swcFdbFlush pk | .swcClearCounters pk | .prtGetStatus pk
  | .prtEnable pk | .prtDisable pk | .prtCableDiag pk | .prtTc10Sleep pk | .canGetStatus pk | .canTx pk | .canTxCancel pk
  | .canSetFilter pk | .canSetWake pk | .canRecover pk | .fryGetStatus pk | .fryStart pk | .fryHalt pk | .fryBranchEnable pk
  | .linGetStatus pk | .linTx pk | .linWakePulse pk | .linGotoSleep pk | .dioGetInputs pk | .dioConfig pk | .dioSetXo pk
  | .dioWirebreakTest pk | .partGetStatus pk | .partReset pk | .partRestart pk | .ringGetStatus pk | .ringReset pk
  | .partReadPostedErrors pk | .bamGetStatus pk | .bamSessionOpen pk | .bamKeyInstall pk | .bamSign pk | .bamVerify pk
  | .bamRandom pk | .bamLifecycleSet pk | .bamTamperPolicy pk | .updGetStatus pk | .updBegin pk | .updChunk pk
  | .updActivate pk | .updVarnish pk | .updAbort pk | .wakeGetSource pk | .sleepRequest pk | .wakeConfig pk
  | .wakeClearSource pk | .fltGetStatus pk | .fltReadLog pk | .fltClear pk | .fltInject pk => pk.wf
  | .dbProducer p _ v | .dbConsumer p _ v | .irqAck p _ v | .viConsume p v | .viOvfAck p v => decide (p < 16) && decide (v < 2 ^ 32)
  | .lowWordRead p _ => decide (p < 16)
  | .statusWindowStore w | .busTimeout w _ _ => w.wf
  | .route h pipe _ _ => h.wf && decide (pipe < 4)
  | .inputLatch h g => h.wf && decide (g < 5)
  | .loadSet h ch _ _ _ | .loadApply h ch _ _ => h.wf && decide (ch < 56)
  | .bridgeSet h br _ _ _ | .bridgeApply h br _ _ => h.wf && decide (br < 6)
  | .xoSet h xo _ => h.wf && decide (xo < 8)
  | .pgTrigger h pg _ => h.wf && decide (pg < 16)
  | .gateSet h port _ => h.wf && decide (port < 21)
  | .canRelease h ch _ => h.wf && decide (ch < 16)
  | .fryCommit h cl _ _ _ => h.wf && decide (cl < 2)
  | .linRelease h ch _ => h.wf && decide (ch < 12)
  | .window h pair _ _ => h.wf && decide (pair < 6)
  | .pfRoute h _ _ | .pfStroke h _ _ => h.wf
  | .openStroke h cls count => h.wf && decide (cls < 13) && decide (count ≤ 8)
  | .strokeOverrun h st => h.wf && st.wf
  | .routeExecution pipe | .routeCommit pipe => decide (pipe < 4)
  | .pgEdge pg => decide (pg < 16)
  | .ocTrip ch _ | .ocPauseElapsed ch | .ocRetry ch | .ocRecovered ch | .pourStepEnd ch | .thermalShutdown ch _ _
  | .thermalRestart ch _ _ | .cooldownOverrun ch | .pwmPeriodStart ch => decide (ch < 68)
  | .senseMillisecond ch m => decide (ch < 68) || m.di && decide (ch < 64)
  | .openLoad ch | .openLoadCleared ch => decide (ch < 56)
  | .stall br | .xcondFault br _ _ => decide (br < 6)
  | .shedResume f | .sagEnter f _ | .sagExit f _ | .uvLatch f _ | .overvoltage f _ | .overvoltageEnd f _ | .overload f _
  | .overloadClass2Shed f _ | .overloadEnd f _ => decide (f < 2)
  | .frameDecisionPoint f => f.wf
  | .frameEnd port _ _ | .transmissionSelect port => decide (port < 21)
  | .linkUp port | .linkDown port _ | .trainFail port | .tc10Asleep port | .tc10SleepTimeout port | .tc10RemoteSleep port
  | .tc10Wake port _ | .phyFault port | .plcaBeaconLost port | .plcaBeaconReceived port | .segmentAlone port
  | .cableDiagDone port _ _ | .tc10SleepForced port | .prtTrainTimeout port | .syncTransmit port
  | .mkaSakInstall port _ _ _ => decide (port < 16)
  | .canFrameReceived ch f => decide (ch < 16) && f.wf
  | .canFrameValid ch | .canAttemptStart ch | .canArbitrationLost ch | .canBusError ch _ _ _ | .canTxSuccess ch
  | .canIntegrated ch | .busOffRecovered ch | .canWake ch _ => decide (ch < 16)
  | .fryCycleStart cl cycle _ _ _ => decide (cl < 2) && decide (cycle < 64)
  | .fryActionPoint chn _ cycle => decide (chn < 4) && decide (cycle < 64)
  | .fryFrameReceived chn _ | .branchTxStart chn _ _ _ _ | .branchTruncated chn _ _ => decide (chn < 4)
  | .pocState cl _ | .frAlone cl | .coldstartRetry cl | .fryStartTimeout cl => decide (cl < 2)
  | .linFrameEnd ch _ | .linResponseTimeout ch _ | .linHeaderReceived ch _ _ | .linIdleSleep ch | .linWake ch _
  | .linWakingEnd ch | .linWakeNoHeader ch => decide (ch < 12)
  | .filteredEdge i _ _ | .diEdge i => decide (i < 80)
  | .wireBreak di | .wireOk di => decide (di < 64)
  | .xoFault xo _ _ | .xoRetry xo _ | .fieldHoldExpiry xo => decide (xo < 8)
  | .lockstepMismatch pair _ | .pairHalted pair | .pairResumed pair | .secureInterrupt pair => decide (pair < 6)
  | .partResetDone p | .partRestarted p _ _ | .poisonRead p _ => decide (p < 16)
  | .ringSlotMove ring => decide (ring < 128)
  | .wakeLine line _ | .wkoPulseEnd line => decide (line < 4)
  | .strokeBlockArrived | .ristrettoSlot | .ristrettoExecute | .canvasBoundary | .decisionPoint _ | .paletteLoaded _ _
  | .gptpSyncReceived _ _ _ _ | .ppsEdge _ _ _ | .syncReceiptTimeout _ | .ppsTimeout | .revertHoldoffExpiry _
  | .holdoverExpired | .timeWaitTimeout | .rtcWrite | .crankStart _ | .crankEnd _ | .standbyEntry _ | .powerOff _
  | .powerOn _ _ | .thermalModelEval _ _ _ _ | .deratingStepFall | .deratingStep3Entry | .railFault _ | .fdbAgeing _ _
  | .cbResetTimeout _ | .diFeedLow _ | .diSamplingResume _ | .wirebreakTestDone _ _ _ | .barrierLost _ _ | .barrierRestored
  | .xvsLost _ | .xvsReturn _ | .mCoreMismatch _ | .supervisionTimeout _ | .eventDelivery | .bamRequestExecute _
  | .bamlysStart _ _ _ _ _ | .bamlysRestart _ _ _ _ _ | .keyRegisterRemask | .tamperAlarm _ _ _ | .tamperBootRetry
  | .referenceQualified _ | .referenceTimeout | .mcoreFirmwareStart _ _ | .startLoadComplete | .chunkCommit _
  | .healthExpired | .activateReset | .resetDelayExpiry | .prepFallbackTimeout | .sleepArming | .sleepEntered
  | .wakeFromSleep | .bridgeRetry | .holdBufferDrain _ | .cdcOverrun _ | .patrolScrub _ | .eccCorrected _ _
  | .eccUncorrectable _ _ | .faultReport | .mcoreWatchdogExpiry | .logFlush | .flashWriteResume _ => true

end Sys2Proof
end

