-- ==== Sys2Proof/Certificates/Slice0/Obligations.lean ====
section
/-!
DEFINITION. Sys2Proof/Certificates/Slice0/Obligations.lean: the statements for the provers, one definition each.
-/

open Sys2Proof Sys2Proof.Machine

/-- A step with a command waiting is that command's meaning on the state with the queue's rest. The queue is the model's. -/
def Obligations.StepRunsFront : Prop :=
  ∀ (c : Instr) (rest : List Instr) (s : State), s.pending = c :: rest → step s = exec c { s with pending := rest }

/-- One cycle of the time PLL (R70). That an empty queue is one cycle is a DESIGN CHOICE, log entry 3. -/
def Obligations.IdleCycleAdvancesClocks : Prop :=
  ∀ s : State, s.pending = [] → s.cmd.held = [] →
    ∃ t, step s = .next t ∧ t.pending = [] ∧ t.dev = s.dev ∧ t.mem = s.mem ∧ t.cmd = s.cmd ∧ t.evq = s.evq ∧
      (s.powered = true → ∃ d : Nat, (d = 0 ∨ d = 2 ∨ d = 4) ∧ t.et = s.et + d ∧
        (d : Int) * 1000000000 + t.time.rateAcc = s.time.rateAcc + 2000000000 + 2 * s.time.rateAdj) ∧
      (s.powered = false → t.et = s.et) ∧ t.rtcNs = (if s.dev.state = .off then s.rtcNs else s.rtcNs + 2)

/-- R70: only an entry to STARTING gives ET another value; any other step advances it by 0, 2 or 4 ns. -/
def Obligations.EtNeverSetBack : Prop :=
  ∀ s : State, ∃ t, step s = .next t ∧
    (t.et = s.et ∨ t.et = s.et + 2 ∨ t.et = s.et + 4 ∨ t.dev.state = .starting)

/-- No command stops the machine, in any state. -/
def Obligations.NoCommandStops : Prop :=
  ∀ (i : Instr) (s : State), ∃ t, exec i s = .next t

/-- exec leaves the queue of waiting commands alone. -/
def Obligations.QueueOnlyFromOutside : Prop :=
  ∀ (i : Instr) (s t : State), exec i s = .next t → t.pending = s.pending

/-- The invariant of arming holds at reset. -/
def Obligations.ArmingInvariantAtReset : Prop :=
  State.reset.Inv ∧ State.reset.dev.state = .starting ∧ State.reset.dev.armed = false ∧ State.reset.pending = [] ∧
    memWf State.reset.mem = true ∧ State.reset.mem = []

/-- R31: any transition to OFF, STANDBY, STARTING or SLEEP clears the armed condition; R502: the commit point does. -/
def Obligations.ArmingInvariantKept : Prop :=
  ∀ s : State, s.Inv → ∃ t, step s = .next t ∧ t.Inv

/-- The coarse transitions of R27. -/
def Obligations.DeviceMovesAsListed : Prop :=
  ∀ s : State, ∃ t, step s = .next t ∧ DevState.mayMove s.dev.state.coarse t.dev.state.coarse = true

/-- R101: the layout of a stroke loses nothing, and each field is read where R101 puts it. -/
def Obligations.StrokeBytesRoundTrip : Prop :=
  ∀ (h : StrokeHd) (st : Stroke), h.wf = true → st.wf = true →
    (strokeBytes h st).length = 16 ∧ strokeOf (strokeBytes h st) = (h, st) ∧
      u32 (strokeBytes h st) 0 % 2 ^ 27 = h.phase ∧ bits (u32 (strokeBytes h st) 0) 27 3 = st.lane ∧
      bits (u32 (strokeBytes h st) 0) 30 2 = h.ovr ∧ u8 (strokeBytes h st) 4 = st.kind ∧
      u8 (strokeBytes h st) 5 = (if h.trace then 1 else 0) ∧ u16 (strokeBytes h st) 6 = st.res ∧
      (strokeBytes h st).drop 8 = st.arg

/-- R84: the layout of an event record. -/
def Obligations.EventRecordRoundTrip : Prop :=
  ∀ e : EventRec, e.et < 2 ^ 64 → e.src < 1024 → e.kind < 2 ^ 16 → e.data < 2 ^ 32 →
    e.bytes.length = 16 ∧ EventRec.ofBytes e.bytes = e ∧ u64 e.bytes 0 = e.et ∧ u16 e.bytes 8 = e.src ∧
      u16 e.bytes 10 = e.kind ∧ u32 e.bytes 12 = e.data

/-- R39: the layout of a reply. -/
def Obligations.ReplyHeaderLayout : Prop :=
  ∀ r : Reply, r.status < 2 ^ 16 → r.tag < 2 ^ 16 → r.et < 2 ^ 64 → r.seq < 2 ^ 32 → r.result.length < 2 ^ 16 →
    r.bytes.length = 24 + r.result.length ∧ u16 r.bytes 0 = r.status ∧ u16 r.bytes 2 = r.tag ∧
      u16 r.bytes 4 = r.result.length ∧ u16 r.bytes 6 = 0 ∧ u64 r.bytes 8 = r.et ∧ u32 r.bytes 16 = r.seq ∧
      u32 r.bytes 20 = 0 ∧ r.bytes.drop 24 = r.result

/-- R42, R43: what is not taken changes nothing. -/
def Obligations.CommandPacketStallsOrWaits : Prop :=
  ∀ (i : Instr) (o : OpSpec) (pk : Packet) (s : State), i.packetRow = some (o, pk) →
    (s.active = false → exec i s = .next s) ∧
    (s.wake.phase = 4 → exec i s = .next s) ∧
    (∀ p, pk.src = .ring p →
      ((s.ring (2 * p + 1)).depth < (s.ring (2 * p + 1)).fill + s.unanswered (.ring p) + (if o.comp = .A then 2 else 1) ∨
        (s.ring (2 * p)).fill = 0 ∨ (s.ring (2 * p)).enabled = false ∨ (s.part p).st ≠ 1) → exec i s = .next s)

/-- Completion type S (R48 and the list after it). -/
def Obligations.ImmediateCommandsReply : Prop :=
  ∀ (i : Instr) (o : OpSpec) (pk : Packet) (s : State), i.packetRow = some (o, pk) → o.comp = .S → s.accepts o pk →
    ∃ t c r, exec i s = .next t ∧
      ((o.act (cutBlock pk) (s.ready pk)).done = some (c, r) ∨
        ((o.act (cutBlock pk) (s.ready pk)).done = none ∧ c = stOk ∧ r = [])) ∧
      t = (o.act (cutBlock pk) (s.ready pk)).st.finalReply o.code (cutBlock pk) c r ∧
      ((isQuiet pk = false ∨ c ≠ stOk) → t.answered pk c r)

/-- Completion type O (R49). -/
def Obligations.OpenStrokeCommandsQueue : Prop :=
  ∀ (i : Instr) (o : OpSpec) (pk : Packet) (s : State), i.packetRow = some (o, pk) → o.comp = .O → s.accepts o pk →
    ∃ t, exec i s = .next t ∧
      t.queueOf o.cls = queuePut ⟨o.code, o.res (cutBlock pk), cutBlock pk⟩ (s.queueOf o.cls) ∧
      (∀ c, c ≠ o.cls → t.queueOf c = s.queueOf c) ∧ t.cmd.held = s.cmd.held ∧ t.cmd.async = s.cmd.async ∧
      t.cmd.replies = s.cmd.replies

/-- Completion type A (R51). -/
def Obligations.AsyncCommandsAreAccepted : Prop :=
  ∀ (i : Instr) (o : OpSpec) (pk : Packet) (s : State), i.packetRow = some (o, pk) → o.comp = .A → s.accepts o pk →
    ∃ t u v, exec i s = .next t ∧
      (isQuiet pk = false → u.answered pk stAccepted []) ∧ (isQuiet pk = true → u = s.ready pk) ∧
      u.cmd.async = s.cmd.async ∧ v = { u with cmd := { u.cmd with async := v.cmd.async } } ∧
      v.cmd.async = (s.cmd.async.filter fun a => a.pk != cutBlock pk) ++
        [⟨o.code, o.res (cutBlock pk), cutBlock pk, true, s.et, u.supDue o.code (cutBlock pk), false⟩] ∧
      ((o.act (cutBlock pk) v).done = none → t = (o.act (cutBlock pk) v).st) ∧
      (∀ c r, (o.act (cutBlock pk) v).done = some (c, r) →
        t = (o.act (cutBlock pk) v).st.finishWhere (fun a => a.code == o.code && a.pk == cutBlock pk) c r)

/-- R48: the first failing check decides the status; R37: CHECK_ONLY executes nothing. -/
def Obligations.RejectedCommandsReply : Prop :=
  ∀ (i : Instr) (o : OpSpec) (pk : Packet) (s : State), i.packetRow = some (o, pk) → s.takes o pk = true →
    s.slotBad pk = false →
    (lenOk pk = false → ∃ t, exec i s = .next t ∧ t.answered pk stBadLength []) ∧
    (∀ c, lenOk pk = true → s.credOk o pk = true → (s.ready pk).validate o (cutBlock pk) = c → c ≠ stOk →
      ∃ t, exec i s = .next t ∧ t.answered pk c [] ∧ t.cmd.queues = s.cmd.queues ∧ t.cmd.held = s.cmd.held ∧
        t.cmd.async = s.cmd.async) ∧
    (s.valid o pk → isCheckOnly pk = true → o.issuer ≠ .bam →
      ∃ t, exec i s = .next t ∧ (isQuiet pk = false → t.answered pk stOk []) ∧ t.cmd.queues = s.cmd.queues ∧
        t.cmd.held = s.cmd.held ∧ t.cmd.async = s.cmd.async)

/-- R48: each check is reached only when those before it pass. -/
def Obligations.ChecksInOrder : Prop :=
  ∀ (o : OpSpec) (pk : Packet) (s : State),
    (o.code = 0x1003 → s.bam.lc ≠ 0 → s.bam.lc ≠ 3 → s.validate o pk = stBadOpcode) ∧
    ((o.code ≠ 0x1003 ∨ s.bam.lc = 0 ∨ s.bam.lc = 3) →
      (o.len pk.params = false → s.validate o pk = stBadLength) ∧
      (o.len pk.params = true →
        ((8 ≤ pk.flags / 2 ^ 0 ∧ 8 ≤ pk.flags) ∨ (isBarrier pk = true ∧ isCheckOnly pk = true) ∨ 16 ≤ pk.part ∨
          (∃ p, pk.src = .ring p ∧ (pk.part ≠ p ∨ pk.cred ≠ 0)) ∨ o.fields pk.params s = false →
            s.validate o pk = stBadParam) ∧
        (packetOk pk = true → o.fields pk.params s = true →
          (o.locked pk s = true → s.validate o pk = stLocked) ∧
          (o.locked pk s = false →
            (s.issuerCheck o pk ≠ stOk → s.validate o pk = s.issuerCheck o pk ∧
              (s.issuerCheck o pk = stNotOwner ∨ s.issuerCheck o pk = stOwnedSecure)) ∧
            (s.issuerCheck o pk = stOk →
              (o.okState pk s = false ∨ (pk.src = .mp ∧ s.inReset pk.part = true) → s.validate o pk = stWrongState) ∧
              (o.okState pk s = true → (pk.src = .mp → s.inReset pk.part = false) →
                (o.comp = .O ∧ 64 ≤ (s.queueOf o.cls).length) ∨
                  (o.comp = .A ∧ 16 ≤ (s.cmd.async.filter fun a => a.pk.src == pk.src).length) ∨
                  (o.comp = .A ∧ ∃ a ∈ s.cmd.async, a.pk.src = pk.src ∧ a.pk.tag = pk.tag) →
                    s.validate o pk = stBusy))))))

/-- R49's order of entry, corrected only between commands on one resource. -/
def Obligations.OpenQueueOrder : Prop :=
  ∀ (q : Queued) (l : List Queued), ∃ a b, l = a ++ b ∧ queuePut q l = a ++ q :: b ∧
    (∀ x ∈ a, x.res ≠ 0 → x.res = q.res →
      ¬ (q.pk.stamp < x.pk.stamp ∨ (q.pk.stamp = x.pk.stamp ∧ srcId q.pk.src < srcId x.pk.src))) ∧
    (b = [] ∨ ∃ x c, b = x :: c ∧ x.res ≠ 0 ∧ x.res = q.res ∧
      (q.pk.stamp < x.pk.stamp ∨ (q.pk.stamp = x.pk.stamp ∧ srcId q.pk.src < srcId x.pk.src)))

/-- R46: the window, before and after a number is taken. -/
def Obligations.ReplayWindowAccepts : Prop :=
  ∀ (x : Session) (n : Nat), x.window < 2 ^ 64 → n < 2 ^ 32 → x.accepts n = true →
    (n ≠ 0 ∧ x.high ≠ 0xFFFFFFFF ∧ (x.high < n ∨ (n ≤ x.high ∧ x.high ≤ n + 63 ∧ x.window.testBit (x.high - n) = false))) ∧
    (x.mark n).high = max x.high n ∧ (x.mark n).window < 2 ^ 64 ∧ (x.mark n).accepts n = false ∧
    (∀ m, m ≠ n → ((x.mark n).accepts m = true ↔
      (x.accepts m = true ∧ max x.high n ≤ m + 63 ∧ max x.high n ≠ 0xFFFFFFFF)))

/-- R46, R47: a failing packet changes no session, and one reply goes to each MAC address in an ET millisecond. -/
def Obligations.BadCredentialsLeaveSessions : Prop :=
  ∀ (i : Instr) (o : OpSpec) (pk : Packet) (s : State), i.packetRow = some (o, pk) → pk.src = .mp → s.intakeOpen = true →
    lenOk pk = true → s.credOk o pk = false →
    ∃ t, exec i s = .next t ∧ t.cmd.sessions = s.cmd.sessions ∧ t.cmd.queues = s.cmd.queues ∧ t.cmd.held = s.cmd.held ∧
      t.cmd.async = s.cmd.async ∧
      (s.cmd.authMs.val 0 pk.mac ≠ pk.stamp / 1000000 + 1 → t.answered pk stAuthFail []) ∧
      (s.cmd.authMs.val 0 pk.mac = pk.stamp / 1000000 + 1 →
        t.cmd.replies = s.cmd.replies ∧ t.cmd.mpSuppressed = (s.cmd.mpSuppressed + 1) % 2 ^ 32)

/-- R37, R52: a held command. -/
def Obligations.HeldCommandsWait : Prop :=
  ∀ (i : Instr) (o : OpSpec) (pk : Packet) (s : State), i.packetRow = some (o, pk) → s.valid o pk → isCheckOnly pk = false →
    (s.ready pk).mustWait o (cutBlock pk) s.cmd.held = true →
    ∃ t, exec i s = .next t ∧
      t.cmd.held = s.cmd.held ++ [⟨o.code, o.res (cutBlock pk), cutBlock pk, isBarrier pk⟩] ∧ t.cmd.queues = s.cmd.queues ∧
      (o.comp ≠ .A → t.cmd.replies = s.cmd.replies ∧ t.cmd.async = s.cmd.async) ∧
      (o.comp = .A → (isQuiet pk = false → t.answered pk stAccepted []) ∧
        ∃ a ∈ t.cmd.async, a.pk = cutBlock pk ∧ a.code = o.code ∧ a.started = false)

/-- The frame of the rows that protect and watch outputs and inputs. -/
def Obligations.OutputEventsFrame : Prop :=
  ∀ (i : Instr) (s : State), i.outRow = true → ∃ t, exec i s = .next t ∧
    (∀ a, memGet t.mem a = memGet s.mem a) ∧ t.mem = s.mem ∧ t.pending = s.pending ∧ t.et = s.et ∧ t.rtcNs = s.rtcNs ∧
    t.free = s.free ∧ t.cmd = s.cmd ∧ t.easel = s.easel ∧ t.gw = s.gw ∧ t.wake = s.wake ∧ t.swc = s.swc ∧ t.prt = s.prt ∧
    t.can = s.can ∧ t.fry = s.fry ∧ t.lin = s.lin ∧ t.bam = s.bam ∧ t.upd = s.upd

/-- The frame of the rows of networks, partitions and rings. -/
def Obligations.NetworkEventsFrame : Prop :=
  ∀ (i : Instr) (s : State), i.netRow = true → ∃ t, exec i s = .next t ∧
    t.pending = s.pending ∧ t.et = s.et ∧ t.rtcNs = s.rtcNs ∧ t.lsw = s.lsw ∧ t.dio = s.dio ∧ t.upd = s.upd

/-- The frame of the rows that act on rings, partitions, memory and fault records. -/
def Obligations.RingEventsFrame : Prop :=
  ∀ (i : Instr) (s : State), i.ringRow = true → ∃ t, exec i s = .next t ∧
    t.pending = s.pending ∧ t.et = s.et ∧ t.rtcNs = s.rtcNs ∧ t.free = s.free ∧ t.time = s.time ∧ t.easel = s.easel ∧
    t.gw = s.gw ∧ t.lsw = s.lsw ∧ t.pwr = s.pwr ∧ t.dio = s.dio ∧ t.wake = s.wake ∧ t.swc = s.swc ∧ t.prt = s.prt ∧
    t.can = s.can ∧ t.fry = s.fry ∧ t.lin = s.lin ∧ t.bam = s.bam ∧ t.upd = s.upd

/-- The frame of the status reads. -/
def Obligations.StatusReadsFrame : Prop :=
  ∀ (i : Instr) (o : OpSpec) (pk : Packet) (p : Nat) (s : State), i.packetRow = some (o, pk) → i.readRow = true →
    pk.src = .ring p → s.accepts o pk →
    ∃ t c r, exec i s = .next t ∧ (o.act (cutBlock pk) (s.ready pk)).done = some (c, r) ∧
      (∀ a, (a < (s.ring (2 * p + 1)).nextSlot ∨ (s.ring (2 * p + 1)).nextSlot + 24 + r.length ≤ a) →
        memGet t.mem a = memGet s.mem a) ∧
      t.et = s.et ∧ t.rtcNs = s.rtcNs ∧ t.free = s.free ∧ t.time = s.time ∧ t.easel = s.easel ∧ t.gw = s.gw ∧ t.lsw = s.lsw ∧
      t.pwr = s.pwr ∧ t.dio = s.dio ∧ t.wake = s.wake ∧ t.swc = s.swc ∧ t.prt = s.prt ∧ t.can = s.can ∧ t.fry = s.fry ∧
      t.lin = s.lin ∧ t.bam = s.bam ∧ t.upd = s.upd ∧ t.dev.state = s.dev.state ∧ t.dev.armed = s.dev.armed ∧
      t.cmd.queues = s.cmd.queues ∧ t.cmd.held = s.cmd.held ∧ t.cmd.async = s.cmd.async

/-- R215, transition by transition. -/
def Obligations.OverCurrentMachine : Prop :=
  (∀ (s : State) (i current : Nat), s.protLive i = true → (s.prot i).permits = true → s.conducts i = true →
    s.tripLevel i < current → ∃ t, exec (.ocTrip i current) s = .next t ∧
      (t.prot i).oc = (if (s.cfgOf (outletOf i)).retryN ≤ (s.prot i).att then 4 else 1) ∧ (t.prot i).att = (s.prot i).att ∧
      (t.prot i).pauseEnd = s.et + 2 ^ (s.prot i).att * 1000000 ∧ (t.outlet (outletOf i)).on = false ∧
      (t.prot i).lastTrip = s.et ∧ (t.prot i).trips = sat32 (s.prot i).trips ∧ (t.prot i).th = (s.prot i).th) ∧
  (∀ (s : State) (i : Nat), s.protLive i = true → (s.prot i).oc = 1 → (s.prot i).pauseEnd ≤ s.et →
    ((s.prot i).th ≠ 0 → exec (.ocPauseElapsed i) s = .next s) ∧
    ((s.prot i).th = 0 → s.wanted (outletOf i) = false →
      ∃ t, exec (.ocPauseElapsed i) s = .next t ∧ (t.prot i).oc = 3 ∧ (t.prot i).att = (s.prot i).att) ∧
    ((s.prot i).th = 0 → s.wanted (outletOf i) = true →
      ∃ t, exec (.ocPauseElapsed i) s = .next t ∧
        (s.retryVerdict (outletOf i) s.et true = none → (t.prot i).oc = 2 ∧ (t.prot i).att = (s.prot i).att ∧ (t.prot i).deferAt = s.et) ∧
        (∀ b, s.retryVerdict (outletOf i) s.et true = some b → (t.prot i).oc = 3 ∧ (t.prot i).att = (s.prot i).att + 1))) ∧
  (∀ (s : State) (i : Nat), s.protLive i = true → (s.prot i).oc = 2 →
    (s.wanted (outletOf i) = false → ∃ t, exec (.ocRetry i) s = .next t ∧ (t.prot i).oc = 3 ∧ (t.prot i).att = (s.prot i).att) ∧
    (s.wanted (outletOf i) = true → ∀ b, s.retryVerdict (outletOf i) (s.prot i).deferAt true = some b →
      ∃ t, exec (.ocRetry i) s = .next t ∧ (t.prot i).oc = 3 ∧ (t.prot i).att = (s.prot i).att + 1)) ∧
  (∀ (s : State) (i m : Nat), s.protLive i = true → (s.prot i).oc = 3 → (s.prot i).okSince = some m → m + 1000000000 ≤ s.et →
    ∃ t, exec (.ocRecovered i) s = .next t ∧ (t.prot i).oc = 0 ∧ (t.prot i).att = 0) ∧
  (∀ (s : State) (pk : Packet), u16 pk.params 0 < 56 →
    ((lswClearOcLatchSpec.act pk s).st.prot (u16 pk.params 0)).oc = 0 ∧
      ((lswClearOcLatchSpec.act pk s).st.prot (u16 pk.params 0)).att = 0 ∧
      ((lswClearOcLatchSpec.act pk s).st.chan (u16 pk.params 0)).cmd = 0) ∧
  (∀ (s : State) (i : Nat) (tj dt : Int), s.protLive i = true → (s.prot i).th = 0 → (1700 ≤ tj ∨ 600 ≤ dt) →
    ∃ t, exec (.thermalShutdown i tj dt) s = .next t ∧ (t.prot i).att = (s.prot i).att ∧
      (t.prot i).oc = (if (s.prot i).oc = 2 then 1 else (s.prot i).oc) ∧
      ((s.prot i).oc = 2 → (t.prot i).pauseEnd = s.et) ∧ ((s.prot i).oc ≠ 2 → (t.prot i).pauseEnd = (s.prot i).pauseEnd)) ∧
  (∀ (s : State) (cause i : Nat), ((s.enterStarting cause).prot i).oc = 0 ∧ ((s.enterStarting cause).prot i).att = 0 ∧
    ((s.enterStarting cause).prot i).th = 0)

/-- R216, transition by transition. -/
def Obligations.ThermalMachine : Prop :=
  (∀ (s : State) (i : Nat) (tj dt : Int), s.protLive i = true → (s.prot i).th = 0 → (1700 ≤ tj ∨ 600 ≤ dt) →
    ∃ t, exec (.thermalShutdown i tj dt) s = .next t ∧ (t.outlet (outletOf i)).on = false ∧
      (t.prot i).th = (if 4 ≤ 1 + ((s.prot i).shutdowns.filter fun e => decide (s.et < e + 10000000000)).length then 2 else 1) ∧
      (t.prot i).shutdowns = s.et :: ((s.prot i).shutdowns.filter fun e => decide (s.et < e + 10000000000)) ∧
      (t.prot i).thAt = s.et ∧ (t.prot i).thShutdowns = sat16 (s.prot i).thShutdowns) ∧
  (∀ (s : State) (i : Nat) (tj dt : Int), tj < 1700 → dt < 600 → exec (.thermalShutdown i tj dt) s = .next s) ∧
  (∀ (s : State) (i : Nat) (tj dt : Int), s.protLive i = true → (s.prot i).th = 1 → tj ≤ 1500 → dt ≤ 400 →
    ∃ t, exec (.thermalRestart i tj dt) s = .next t ∧ (t.prot i).th = 0 ∧ (t.prot i).att = (s.prot i).att) ∧
  (∀ (s : State) (i : Nat) (tj dt : Int), (1500 < tj ∨ 400 < dt) → exec (.thermalRestart i tj dt) s = .next s) ∧
  (∀ (s : State) (i : Nat), s.protLive i = true → (s.prot i).th = 1 → (s.prot i).thOver = false →
    (s.prot i).thAt + 500000000 ≤ s.et →
    ∃ t, exec (.cooldownOverrun i) s = .next t ∧ (t.prot i).th = 1 ∧ (t.prot i).thOver = true) ∧
  (∀ (s : State) (pk : Packet), u16 pk.params 0 < 56 →
    ((lswClearThermalLatchSpec.act pk s).st.prot (u16 pk.params 0)).th =
      (if (s.prot (u16 pk.params 0)).tj ≤ 1500 ∧ (s.prot (u16 pk.params 0)).dt ≤ 400 then 0 else 1) ∧
    ((lswClearThermalLatchSpec.act pk s).st.prot (u16 pk.params 0)).shutdowns = [] ∧
    ((lswClearThermalLatchSpec.act pk s).st.chan (u16 pk.params 0)).cmd = 0) ∧
  (∀ (s : State) (cause i : Nat), ((s.enterStarting cause).prot i).th = 0 ∧ ((s.enterStarting cause).prot i).shutdowns = [])

/-- R206, R207, R210, R212, R219: what time does to a channel. -/
def Obligations.ChannelTimers : Prop :=
  (∀ (s : State) (i : Nat), s.protLive i = true → (s.outlet (outletOf i)).on = true → (s.outlet (outletOf i)).stepEnd ≤ s.et →
    ((s.outlet (outletOf i)).step = 1 → (s.outlet (outletOf i)).d2 ≠ 0 → ∃ t, exec (.pourStepEnd i) s = .next t ∧
      (t.outlet (outletOf i)).step = 2 ∧
      (t.outlet (outletOf i)).stepEnd = (s.outlet (outletOf i)).stepEnd + (s.outlet (outletOf i)).d2 * 100000) ∧
    ((s.outlet (outletOf i)).step = 2 ∨ ((s.outlet (outletOf i)).step = 1 ∧ (s.outlet (outletOf i)).d2 = 0) →
      ∃ t, exec (.pourStepEnd i) s = .next t ∧ (t.outlet (outletOf i)).step = 0 ∧
        (i < 56 → t.tripLevel i = ((s.chan i).nextLimit.getD (s.chan i).cfg.limit)))) ∧
  (∀ (s : State) (i : Nat), s.protLive i = true → i < 56 → (s.chan i).cmd = 2 → ((s.chan i).o.on || (s.chan i).o.pend) = true →
    ∃ t, exec (.pwmPeriodStart i) s = .next t ∧ (t.chan i).curDuty = s.lampDuty i ∧ (t.chan i).curPeriod = (s.chan i).period ∧
      ((s.chan i).o.pend = true → (t.chan i).o.on = true ∧ (t.chan i).o.pend = false) ∧
      ((s.chan i).o.pend = false → (t.chan i).o = (s.chan i).o)) ∧
  (∀ (s : State) (i : Nat) (m : SenseMs), s.active = true →
    (m.di = false → i < 68 → ∃ t, exec (.senseMillisecond i m) s = .next t ∧ (t.prot i).sense = m.code ∧ (t.prot i).avg = m.avg) ∧
    (m.di = true → i < 64 → (s.din i).enabled = true →
      ∃ t, exec (.senseMillisecond i m) s = .next t ∧ (t.din i).measure = m.measure)) ∧
  (∀ (s : State) (i : Nat), i < 56 → (s.chan i).ol = 2 → (s.chan i).olFilter ≤ (s.chan i).olRun →
    ∃ t, exec (.openLoad i) s = .next t ∧ (t.chan i).ol = 3) ∧
  (∀ (s : State) (i : Nat), i < 56 → (s.chan i).ol = 3 → (s.chan i).olFilter ≤ (s.chan i).olOk →
    ∃ t, exec (.openLoadCleared i) s = .next t ∧ (t.chan i).ol = 1)

/-- R104, R105: dispatch in time, for all seventeen kinds of stroke. -/
def Obligations.StrokesDispatchedInTime : Prop :=
  (∀ (i : Instr) (h : StrokeHd) (st : Stroke) (act : State → State) (s : State), i.strokeRow = some (h, st) →
    i.strokeAct = some act → s.onTime h st = true → (st.kind = 0x7F → 1 ≤ u32 st.arg 0 ∧ u32 st.arg 0 ≤ 8) →
    (∀ h' cls count, i = .openStroke h' cls count → count < 2 ^ 32) →
    exec i s = .next (
      if st.kind = 0x30 ∧ u8 st.arg 0 ≠ 0xFF ∧ (s.part (u8 st.arg 0)).st ≠ 1 then act (s.dispatched h st)
      else (act (s.dispatched h st)).traceLog st.lane ((s.dispatched h st).traceOf h st false))) ∧
  (∀ (h : StrokeHd) (pipe first count : Nat) (s : State),
    s.onTime h ⟨0x01, 0, pipe, leBytes 4 first ++ leBytes 1 count⟩ = true →
    exec (.route h pipe first count) s = .next (
      (s.dispatched h ⟨0x01, 0, pipe, leBytes 4 first ++ leBytes 1 count⟩).routeQueue pipe first count
        ((s.dispatched h ⟨0x01, 0, pipe, leBytes 4 first ++ leBytes 1 count⟩).traceOf h
          ⟨0x01, 0, pipe, leBytes 4 first ++ leBytes 1 count⟩ false))) ∧
  (∀ (s : State) (h : StrokeHd) (st : Stroke), ∃ e : Easel, s.dispatched h st = { s with easel := e } ∧
    e.idx = s.easel.idx + 1 ∧ e.phaseAt = h.phase ∧ e.lastDispatch = s.et)

/-- R116, in terms of the effect that an OPEN stroke in time has. -/
def Obligations.OpenStrokeRunsHead : Prop :=
  ∀ (u : State) (cls : Nat),
    State.openRun cls 0 u = u ∧ (∀ n, State.openRun cls (n + 1) u = State.openRun cls n (u.openOne cls)) ∧
    (u.queueOf cls = [] → ∀ n, State.openRun cls n u = u) ∧
    (∀ q rest o, u.queueOf cls = q :: rest → specOf q.code = some o →
      ((u.setQueue cls rest).recheck o q.pk = stOk →
        u.openOne cls = (o.act q.pk (u.setQueue cls rest)).st.finalReply o.code q.pk
          ((o.act q.pk (u.setQueue cls rest)).done.getD (stOk, [])).1 ((o.act q.pk (u.setQueue cls rest)).done.getD (stOk, [])).2) ∧
      ((u.setQueue cls rest).recheck o q.pk ≠ stOk → (u.openOne cls).answered q.pk ((u.setQueue cls rest).recheck o q.pk) [] ∧
        (u.openOne cls).queueOf cls = rest))

/-- R118, R119. -/
def Obligations.StrokeOverrunsResolved : Prop :=
  ∀ (s : State) (h : StrokeHd) (st : Stroke),
    (s.lagOf h.phase ≤ s.dispatchWindow st.lane → exec (.strokeOverrun h st) s = .next s) ∧
    (strokeResOk st = true → s.dispatching = true → s.isDue h.phase = true → s.dispatchWindow st.lane < s.lagOf h.phase →
      s.easel.idx < (s.slot s.easel.run).strokes → s.easel.phaseAt ≤ h.phase →
      ∃ t, exec (.strokeOverrun h st) s = .next t ∧
        (h.ovr ≠ 2 → t.easel.idx = s.easel.idx + 1 ∧ t.easel.phaseAt = h.phase ∧
          t.easel.overrunTotal = sat32 s.easel.overrunTotal ∧
          t.easel.late = (s.easel.late.filter fun e => !sameTarget e.st st) ++
            (if h.ovr = 1 then [⟨h.phase, st, !s.easel.miss⟩] else []) ∧
          (h.ovr = 0 → (t.lane st.lane).skip = sat32 ((s.dropLate fun e => sameTarget e.st st).lane st.lane).skip) ∧
          (h.ovr = 1 → (t.lane st.lane).late = sat32 ((s.dropLate fun e => sameTarget e.st st).lane st.lane).late) ∧
          t.lsw = s.lsw ∧ t.swc = s.swc ∧ t.can = s.can ∧ t.fry = s.fry ∧ t.lin = s.lin ∧ t.dio = s.dio))

/-- R111 to R115. -/
def Obligations.PalettesAndStrokeStream : Prop :=
  (∀ s : State, s.easel.miss = true → ∃ t, exec .strokeBlockArrived s = .next t ∧ t.easel.miss = false ∧
    t.easel.blocks = s.easel.blocks ++ [(s.easel.idx, min (s.easel.idx + 1024) (s.slot s.easel.run).strokes)]) ∧
  (∀ (s : State) (w : Nat), s.dispatching = true → s.easel.decided = false → s.canvasNs ≤ s.phaseNs + 20000 →
    w = (if s.dev.state = .sleepPrep then 3 else if s.dev.causeCrank = true then 2
      else if (s.dev.causeTemp || s.dev.causeSag || s.dev.causeTime) = true then 1 else s.easel.normal) →
    ∃ t, exec (.decisionPoint true) s = .next t ∧ t.easel.decided = true ∧
      (s.easel.bad = [] → t.easel.next = (if (s.slot w).st = 2 ∨ w = s.easel.run then w else s.easel.run) ∧
        (t.easel.switchPending = true ↔ t.easel.next ≠ s.easel.run))) ∧
  (∀ s : State, s.dispatching = true → s.easel.decided = false → s.canvasNs ≤ s.phaseNs + 20000 →
    ∃ t, exec (.decisionPoint false) s = .next t ∧ t.easel.decided = true ∧ t.easel.next = s.easel.run ∧
      t.easel.switchPending = false) ∧
  (∀ (s : State) (n k detail : Nat) (rest : List (Nat × Nat)), s.easel.running = true → s.easel.loads = (n, k) :: rest →
    (s.slot n).st = 1 → (∀ m ∈ rest, m.1 ≠ n) →
    ∃ t, exec (.paletteLoaded 0 detail) s = .next t ∧ (t.slot n).st = 2 ∧ (t.slot n).id = (s.palSection k).id ∧
      (t.slot n).strokes = (s.palSection k).strokes ∧
      t.easel.loads = (if n = 1 ∨ n = 2 then [(n + 1, n + 1)] else []) ++ rest) ∧
  (∀ (s : State) (n k code detail : Nat) (rest : List (Nat × Nat)), s.easel.running = true → s.easel.loads = (n, k) :: rest →
    (s.slot n).st = 1 → (∀ m ∈ rest, m.1 ≠ n) → code ≠ 0 →
    ∃ t, exec (.paletteLoaded code detail) s = .next t ∧ (t.slot n).st = 0 ∧
      t.easel.loads = (if n = 1 ∨ n = 2 then [(n + 1, n + 1)] else []) ++ rest)

/-- R71, R76, R115, R502. -/
def Obligations.CanvasBoundaries : Prop :=
  ∀ s : State,
    (s.atBoundary = false → exec .canvasBoundary s = .next s) ∧
    (s.atBoundary = true → s.dev.state = .starting → s.dev.loadsDone = true →
      ∃ t, exec .canvasBoundary s = .next t ∧ t.dev.state.coarse = .run ∧ t.dev.armed = s.dev.armed ∧ t.et = s.et) ∧
    (s.atBoundary = true → s.active = true → s.easel.running = true → s.wake.phase ≠ 3 →
      ∃ t, exec .canvasBoundary s = .next t ∧
        t.easel.canvasCount = (s.easel.canvasCount + 1) % 2 ^ 64 ∧ t.easel.canvasEt = s.et ∧ t.easel.idx = 0 ∧
        t.easel.decided = false ∧ t.easel.late = [] ∧ t.dev.state.coarse = .run ∧ t.dev.armed = s.dev.armed ∧
        t.gw.rx = s.gw.rx.mapV (fun _ x => { x with age := sat8 x.age }) ∧
        (s.time.realignPending = false → t.easel.realignHold = false ∧
          t.easel.run = (if s.easel.next ≠ s.easel.run ∧ (s.slot s.easel.next).st = 2 then s.easel.next else s.easel.run) ∧
          t.easel.canvasIdx = s.canvasNo) ∧
        (s.time.realignPending = true → (s.dev.armed = false ∨ s.time.cfg.realignArmed = true) →
          t.easel.realignHold = true ∧ t.easel.run = s.easel.run ∧ t.easel.realignSkips = sat16 s.easel.realignSkips ∧
          t.time.realignPending = false ∧ t.time.ztOffset = s.time.ztOffset - (s.timeSrc s.time.source).err)) ∧
    (s.atBoundary = true → s.active = true → s.easel.running = true → s.wake.phase = 3 →
      ∃ t, exec .canvasBoundary s = .next t ∧ t.dev.armed = false ∧ t.wake.phase = 4 ∧ t.dev.state.coarse = .run)

/-- R178 to R182. -/
def Obligations.RoutePipelines : Prop :=
  (∀ (s : State) (p : Nat) (q : RouteStroke) (rest : List RouteStroke), (s.pipe p).queue = q :: rest → (s.pipe p).busy = false →
    ∃ t, exec (.routeExecution p) s = .next t ∧ (t.pipe p).queue = rest ∧ (t.pipe p).busy = true ∧ (t.pipe p).start = s.et ∧
      (t.pipe p).strokes = wrap32 (s.pipe p).strokes ∧ t.gw.tx = s.gw.tx ∧ t.gw.recs = s.gw.recs ∧ t.mem = s.mem) ∧
  (∀ (s : State) (p : Nat), (s.pipe p).busy = true → ∃ u, exec (.routeCommit p) s = .next
      (((s.pipe p).writes.foldl (fun s w => s.commitWrite (0x121 + p) w) u).traceLog 0 (s.pipe p).trace) ∧
    u = s.setPipe p (u.pipe p) ∧ (u.pipe p).busy = false ∧ (u.pipe p).writes = [] ∧ (u.pipe p).queue = (s.pipe p).queue) ∧
  (∀ (s : State) (src : Nat) (w : GwWrite), w.kind = 2 ∨ w.kind = 3 →
    ((s.actRec (recOf w)).hold = 0 → (s.part (s.destOwner w.kind w.id)).inReset = false →
      (s.commitWrite src w).actRec (recOf w) = { has := true, value := w.value, age := w.age, since := 0, et := s.et, hold := 0 } ∧
      ∀ k, k ≠ recOf w → (s.commitWrite src w).actRec k = s.actRec k) ∧
    ((s.actRec (recOf w)).hold ≠ 0 → (s.commitWrite src w).gw.recs = s.gw.recs ∧
      (s.commitWrite src w).gw.heldDrops = sat32 s.gw.heldDrops)) ∧
  (∀ (s : State) (src : Nat) (w : GwWrite), w.kind = 4 → (s.gw.mbx.val {} w.id).placed = true → (s.gw.mbx.val {} w.id).dest = true →
    let a := (s.gw.mbx.val {} w.id).addr
    let t := s.commitWrite src w
    memRead t.mem a 8 = leBytes 8 (if w.outType = 1 then twos 64 w.value else w.value.toNat) ∧
      memRead t.mem (a + 8) 2 = leBytes 1 w.age ++ leBytes 1 (pack [(0, 1, b2n w.sat), (1, 1, b2n w.forced)]) ∧
      memRead t.mem (a + 10) 2 = leBytes 2 (u16 (memRead s.mem (a + 10) 2) 0 + 1) ∧
      ∀ b, b < a ∨ a + 12 ≤ b → memGet t.mem b = memGet s.mem b) ∧
  (∀ (s : State) (p first count : Nat) (tr : Option TraceOf), p < 4 → (s.pipe p).queue.length < 16 →
    ((s.routeQueue p first count tr).pipe p).queue = (s.pipe p).queue ++ [⟨first, count, tr⟩])

/-- R108, R188, R191. -/
def Obligations.RistrettoPath : Prop :=
  (∀ (s : State), s.easel.running = true →
    (risFirst s.et s.easel.ris = none → exec .ristrettoSlot s = .next s) ∧
    (∀ e, risFirst s.et s.easel.ris = some e → e ∈ s.easel.ris ∧ e.ready ≤ s.et ∧
      (∀ y ∈ s.easel.ris, y.ready ≤ s.et → risBefore y e = false ∨ y = e) ∧
      ∃ t, exec .ristrettoSlot s = .next t ∧
        (risFirst s.et (s.easel.ris.erase e) = none → t.easel.ris = s.easel.ris.erase e ∧ t.gw.risRun = s.gw.risRun ++ [e] ∧
          (t.lane 5).dispatched = wrap32 (s.lane 5).dispatched) ∧
        (∀ f, risFirst s.et (s.easel.ris.erase e) = some f → t.easel.ris = (s.easel.ris.erase e).erase f ∧
          t.gw.risRun = s.gw.risRun ++ [e] ++ [f]))) ∧
  (∀ (s : State) (e : RisEvent) (rest : List RisEvent), s.gw.risRun = e :: rest →
    ∃ t, exec .ristrettoExecute s = .next t ∧ t.gw.risRun = rest ∧ t.gw.risRoutes = wrap32 s.gw.risRoutes ∧
      (rUsed (s.routeBytes (s.gw.triggers.val {} e.trig).signal) = false → t.gw.recs = s.gw.recs ∧ t.gw.tx = s.gw.tx)) ∧
  (∀ (s : State) (w : GwWrite) (hold : Nat), w.kind = 2 ∨ w.kind = 3 →
    (s.inReset (s.destOwner w.kind w.id) = true →
      s.risDestA w hold = { s with gw := { s.gw with notApplied := sat32 s.gw.notApplied } }) ∧
    (s.inReset (s.destOwner w.kind w.id) = false →
      (s.risDestA w hold).actRec (recOf w) = { has := true, value := w.value, age := w.age, since := 0, et := s.et, hold := hold } ∧
      (s.dev.armed = false → (s.risDestA w hold).gw.notApplied = sat32 s.gw.notApplied ∧ (s.risDestA w hold).lsw = s.lsw) ∧
      (s.dev.armed = true → (s.risDestA w hold).gw.notApplied = s.gw.notApplied ∧
        (s.risDestA w hold).easel.risLink.val 0 (recOf w) = s.et / 32 + 1)))

/-- R257 to R261: the feeds' monitors. Voltages 10 mV, currents 0.1 A, the UV comparator in mV. -/
def Obligations.FeedMonitors : Prop :=
  ∀ (s : State) (f v : Nat), s.powered = true → f ≤ 1 →
    ((s.feed f).sag = false → v < (s.feed f).sagTh → ∃ t, exec (.sagEnter f v) s = .next t ∧
      (t.feed f).sag = true ∧ (t.feed f).sagAt = s.et ∧ (t.feed f).v = v ∧ (f = 0 → t.dev.causeSag = true)) ∧
    ((s.feed f).sag = true → (s.feed f).sagTh + (if f = 0 then 50 else 200) ≤ v → (s.feed f).sagAt + 50000000 ≤ s.et →
      ∃ t, exec (.sagExit f v) s = .next t ∧ (t.feed f).sag = false ∧
        (f = 0 → (t.feed 0).crank = false ∧ t.dev.causeSag = false)) ∧
    ((s.feed 0).sag = true → (s.feed 0).crank = false → v < (s.feed 0).crankTh → ∃ t, exec (.crankStart v) s = .next t ∧
      (t.feed 0).crank = true ∧ (t.feed 0).crankAt = s.et ∧ t.dev.causeCrank = true) ∧
    ((s.feed 0).crank = true → (s.feed 0).crankTh + 100 ≤ v → (s.feed 0).crankAt + 50000000 ≤ s.et →
      ∃ t, exec (.crankEnd v) s = .next t ∧ (t.feed 0).crank = false ∧ t.dev.causeCrank = false) ∧
    (v < (if f = 0 then 4500 else 24000) → ∃ t, exec (.uvLatch f v) s = .next t ∧ (t.feed f).uv = true ∧
      t.dev.armed = s.dev.armed ∧ ∀ k, f = 0 ∨ feedOf k = 1 → t.inertOut k = true) ∧
    ((s.feed f).overvolt = false → (if f = 0 then 3200 else 5400) < v →
      ∃ t, exec (.overvoltage f v) s = .next t ∧ (t.feed f).overvolt = true ∧ t.lsw = s.lsw) ∧
    ((s.feed f).overvolt = true → v ≤ (if f = 0 then 3200 else 5400) →
      ∃ t, exec (.overvoltageEnd f v) s = .next t ∧ (t.feed f).overvolt = false) ∧
    ((s.feed f).overload = false → (if f = 0 then 3300 else 1320) < v → ∃ t, exec (.overload f v) s = .next t ∧
      (t.feed f).overload = true ∧ (t.feed f).overAt = s.et) ∧
    ((s.feed f).overload = true → (s.feed f).overload2 = false → (if f = 0 then 3300 else 1320) < v →
      (s.feed f).overAt + 10000000 ≤ s.et → ∃ t, exec (.overloadClass2Shed f v) s = .next t ∧ (t.feed f).overload = true ∧
      (t.feed f).overload2 = true) ∧
    ((s.feed f).overload = true → v < (if f = 0 then 3000 else 1200) → (s.feed f).overAt + 100000000 ≤ s.et →
      ∃ t, exec (.overloadEnd f v) s = .next t ∧ (t.feed f).overload = false ∧ (t.feed f).overload2 = false)

/-- R270 and R272. -/
def Obligations.DeratingSteps : Prop :=
  ∀ (s : State) (psw rail : Nat) (tcp tjc : Int), s.active = true →
    (∃ t, exec (.thermalModelEval psw rail tcp tjc) s = .next t ∧ t.pwr.psw = psw ∧ t.pwr.pmod = psw + rail ∧
      t.pwr.tcp = tcp ∧ t.pwr.tjc = tjc ∧ t.pwr.pmax = 120000 - 240 * (tcp - 750).toNat ∧
      t.pwr.step = max s.pwr.step
        (if 80000 ≤ psw ∨ 120000 - 240 * (tcp - 750).toNat ≤ psw + rail ∨ 880 ≤ tcp ∨ 1200 ≤ tjc then 2
         else if 72000 ≤ psw ∨ 9 * (120000 - 240 * (tcp - 750).toNat) ≤ 10 * (psw + rail) ∨ 850 ≤ tcp ∨ 1150 ≤ tjc then 1 else 0)) ∧
    (∀ a, s.pwr.step ≠ 0 → s.pwr.leaveAt = some a → a + 10000000000 ≤ s.et → ∃ t, exec .deratingStepFall s = .next t ∧
      t.pwr.step = s.pwr.step - 1 ∧ t.pwr.stepAt = s.et ∧ (t.dev.causeTemp = true ↔ s.pwr.step ≠ 1)) ∧
    (∀ a, s.pwr.leaveAt = some a → s.et < a + 10000000000 → exec .deratingStepFall s = .next s) ∧
    (s.pwr.step = 2 → s.pwr.stepAt + 1000000000 ≤ s.et →
      80000 ≤ s.pwr.psw ∨ s.pwr.pmax ≤ s.pwr.pmod ∨ 880 ≤ s.pwr.tcp ∨ 1200 ≤ s.pwr.tjc →
      ∃ t, exec .deratingStep3Entry s = .next t ∧ t.pwr.step = 3)

/-- R27, R275, R564. Rails 0 to 6 in the order of the status page; 5 VGATE, 6 VISO. -/
def Obligations.SupplyMoves : Prop :=
  (∀ (s : State) (mv straps : Nat), s.dev.state = .off → 6000 < mv → ∃ t, exec (.powerOn mv straps) s = .next t ∧
    t.dev.state = .starting ∧ t.dev.startCause = 0 ∧ t.dev.armed = false ∧ t.cmd.queues = []) ∧
  (∀ (s : State) (mv : Nat), mv < 3000 →
    s.dev.state = .starting ∨ s.dev.state = .run ∨ s.dev.state = .degraded ∨ s.dev.state = .sleepPrep →
    ∃ t, exec (.standbyEntry mv) s = .next t ∧ t.dev.state = .standby ∧ t.dev.fell = true ∧ t.dev.armed = false ∧
      t.cmd = { replies := s.cmd.replies } ∧ t.bam = s.bam.kept ∧ t.pending = s.pending) ∧
  (∀ (s : State) (mv straps : Nat), s.dev.state = .standby → s.dev.fell = true → s.dev.lockout = false → 6000 < mv →
    ∃ t, exec (.powerOn mv straps) s = .next t ∧ t.dev.state = .starting ∧ t.dev.startCause = 4) ∧
  (∀ (s : State) (mv straps : Nat), mv ≤ 6000 → exec (.powerOn mv straps) s = .next s) ∧
  (∀ (s : State) (mv : Nat), mv < 2500 → ∃ t, exec (.powerOff mv) s = .next t ∧ t.dev.state = .off) ∧
  (∀ (s : State) (rail : Nat), s.powered = true →
    (rail < 5 → ∃ t, exec (.railFault rail) s = .next t ∧ t.dev.state = .starting ∧ t.dev.startCause = 3) ∧
    (∃ t, exec (.railFault 5) s = .next t ∧ (t.feed 0).uv = true ∧ t.pwr.railFaults = sat16 s.pwr.railFaults) ∧
    (∃ t, exec (.railFault 6) s = .next t ∧ t.dio.barrierOk = false ∧ t.pwr.railFaults = sat16 s.pwr.railFaults))

/-- R239, R242, R247, R248, R266, R268. -/
def Obligations.BridgeRows : Prop :=
  ∀ s : State, s.active = true →
    (∀ b, b < 6 → (s.bridge b).stallEn = true → (s.bridge b).stallFilter ≤ (s.bridge b).stallRun →
      (s.bridge b).out = 1 ∨ (s.bridge b).out = 2 → ∃ t, exec (.stall b) s = .next t ∧
      (t.bridge b).stalled = (s.bridge b).out ∧ (t.bridge b).out = (if (s.bridge b).stallBrake then 3 else 0) ∧
      (t.bridge b).stallRun = 0 ∧ (t.bridge b).stalls = sat16 (s.bridge b).stalls ∧ (t.bridge b).cmd = (s.bridge b).cmd) ∧
    (∀ b leg side, b < 6 → (s.bridge b).cfg.enabled = true → (s.bridge b).xlock = false → leg ≤ 1 → side ≤ 1 →
      ∃ t, exec (.xcondFault b leg side) s = .next t ∧ (t.bridge b).xlock = true ∧ (t.outlet (56 + b)).on = false ∧
      (t.bridge b).out = 0 ∧ (t.bridge b).xcond = sat16 (s.bridge b).xcond) ∧
    (∀ i, 56 ≤ i → i < 68 → (s.bridge (outletOf i - 56)).cfg.enabled = true → (s.bridge (outletOf i - 56)).period ≠ 0 →
      ((s.bridge (outletOf i - 56)).o.on || (s.bridge (outletOf i - 56)).o.pend) = true →
      ∃ t, exec (.pwmPeriodStart i) s = .next t ∧
        (t.bridge (outletOf i - 56)).curDuty = (s.bridge (outletOf i - 56)).duty ∧
        ((s.bridge (outletOf i - 56)).o.pend = true →
          (t.bridge (outletOf i - 56)).out = (s.bridge (outletOf i - 56)).cmd ∧ (t.bridge (outletOf i - 56)).o.on = true)) ∧
    (∀ f k rest, f ≤ 1 → (s.feed f).resume = k :: rest → (s.feed f).resumeAt ≤ s.et →
      ∃ t, exec (.shedResume f) s = .next t ∧ (t.feed f).resumeAt = s.et + 1000000 ∧
        ((s.outlet k).shed = false ∨ s.wanted k = false ∨ s.inertOut k = true → (t.feed f).resume = rest) ∧
        ((s.outlet k).shed = true → s.wanted k = true → s.inertOut k = false → feedOf k = f →
          s.admits f (s.outlet k).shedAcct (if s.protHeld k || (decide (56 ≤ k) && (s.bridge (k - 56)).xlock)
            then (s.cfgOf k).steady else (s.cfgOf k).largest) = false →
          (t.feed f).resume = rest ++ [k] ∧ (t.feed f).refusals = sat16 (s.feed f).refusals) ∧
        ((s.outlet k).shed = true → s.wanted k = true → s.inertOut k = false →
          s.admits f (s.outlet k).shedAcct (if s.protHeld k || (decide (56 ≤ k) && (s.bridge (k - 56)).xlock)
            then (s.cfgOf k).steady else (s.cfgOf k).largest) = true →
          (t.feed f).resume = rest ∧ (t.outlet k).shed = false))

/-- R73, R74, R78, R79: sources gained and lost. -/
def Obligations.TimeSources : Prop :=
  ∀ s : State, s.powered = true →
    (∀ (c gm : Nat) (err rate : Int), c ≤ 1 → srcEnabled s.time.cfg c = true → rate.natAbs ≤ 50000 →
      (s.timeSrc c).good ≠ 0 → (err - (s.timeSrc c).lastErr).natAbs ≤ 1000 → ∃ t, exec (.gptpSyncReceived c err rate gm) s = .next t ∧
      (t.timeSrc c).good = (s.timeSrc c).good + 1 ∧ (t.timeSrc c).lastErr = err ∧ (t.timeSrc c).lastAt = s.et ∧
      (t.timeSrc c).qualified = ((s.timeSrc c).qualified || decide (4 ≤ (s.timeSrc c).good + 1))) ∧
    (∀ (err : Int) (spacing width : Nat), srcEnabled s.time.cfg 3 = true → 1000 ≤ width → (s.timeSrc 3).good ≠ 0 →
      999990000 ≤ spacing → spacing ≤ 1000010000 → ∃ t, exec (.ppsEdge err spacing width) s = .next t ∧
      (t.timeSrc 3).good = (s.timeSrc 3).good + 1 ∧ (t.timeSrc 3).lastErr = ambig 1000000000 err ∧
      (t.timeSrc 3).qualified = ((s.timeSrc 3).qualified || decide (3 ≤ (s.timeSrc 3).good + 1))) ∧
    (∀ c, c ≤ 1 → srcEnabled s.time.cfg c = true → ∃ t, exec (.syncReceiptTimeout c) s = .next t ∧
      (t.timeSrc c).good = 0 ∧ (t.timeSrc c).qualified = false ∧
      (s.time.source = c → (s.timeSrc c).qualified = true → s.time.ztState = 2 → s.time.gm = false →
        s.time.cfg.priority1 = 255 → (∀ d, d ≠ c → s.candidate d = false) →
        t.time.source = 4 ∧ t.time.ztState = 3 ∧ t.time.holdoverStart = some s.et)) ∧
    ((s.timeSrc 3).good ≠ 0 ∨ (s.timeSrc 3).qualified = true → (s.timeSrc 3).lastAt + 1100000000 ≤ s.et →
      ∃ t, exec .ppsTimeout s = .next t ∧ (t.timeSrc 3).good = 0 ∧ (t.timeSrc 3).qualified = false) ∧
    (∀ c, s.byRank.find? s.candidate = some c → s.time.source ≠ c → s.refusable (s.timeSrc c).err = false →
      (s.timeSrc c).qualAt + s.time.cfg.revertMs * 1000000 ≤ s.et →
      ∃ t, exec (.revertHoldoffExpiry c) s = .next t ∧ t.time.source = c)

/-- R72, R78, R79, R80, R89, R90: what the passing of time does. -/
def Obligations.TimeRows : Prop :=
  ∀ s : State, s.powered = true →
    (∀ a, s.time.holdoverStart = some a → a + s.time.cfg.holdoverMs * 1000000 ≤ s.et → ∃ t, exec .holdoverExpired s = .next t ∧
      t.time.holdoverStart = none ∧ t.time.ztState = (if s.time.ztState = 3 then 4 else s.time.ztState) ∧
      t.time.before = (if s.time.before = 3 then 4 else s.time.before) ∧ t.dev.causeTime = true) ∧
    (∀ a, s.time.waitSince = some a → a + 20000000000 ≤ s.et → s.time.ztState = 0 → ∃ t, exec .timeWaitTimeout s = .next t ∧
      t.time.ztState = 4 ∧ t.time.rateAdj = 0 ∧ t.time.waitSince = none ∧ t.dev.causeTime = true) ∧
    (s.time.ztState = 2 → s.time.source ≠ 4 → ∃ t, exec .rtcWrite s = .next t ∧
      t.rtcNs = ((s.et + s.time.ztOffset) / 1000000000).toNat * 1000000000) ∧
    (s.time.ztState ≠ 2 ∨ s.time.source = 4 → exec .rtcWrite s = .next s) ∧
    (∀ n, n < 16 → (s.pg n).st ≠ 0 → (s.pg n).next ≤ s.et →
      ((s.pg n).active = false → ∃ t, exec (.pgEdge n) s = .next t ∧ (t.pg n).st = 2 ∧ (t.pg n).active = true ∧
        (t.pg n).next = (s.pg n).next + (s.pg n).width) ∧
      ((s.pg n).active = true → ∃ t, exec (.pgEdge n) s = .next t ∧ (t.pg n).active = false ∧
        (t.pg n).pulses = ((s.pg n).pulses + 1) % 2 ^ 32 ∧
        ((s.pg n).mode = 0 ∨ (s.pg n).stopping = true ∨ (s.pg n).pulses + 1 = (s.pg n).count → (t.pg n).st = 0) ∧
        ((s.pg n).mode ≠ 0 → (s.pg n).stopping = false → (s.pg n).pulses + 1 ≠ (s.pg n).count →
          (t.pg n).st = (s.pg n).st ∧ (t.pg n).next = (s.pg n).next - (s.pg n).width + (s.pg n).period))) ∧
    (∀ p, s.active = true → p < 12 → s.time.cfg.portMask.testBit p = true → s.time.cfg.roles.getD p 0 = 1 → s.portUp p = true →
      (s.timeSrc 0).qualified = true ∨ s.time.gm = true → ∃ t, exec (.syncTransmit p) s = .next t ∧
        t.time.syncSent.val 0 p = s.time.syncSent.val 0 p + 1)

/-- R323, R325 to R328, R331. States: 0 OFF, 1 TRAINING, 2 UP, 3 ASLEEP, 4 PHY_FAULT. -/
def Obligations.PortLinks : Prop :=
  ∀ (s : State) (p : Nat),
    ((s.prtOf p).st = 1 → ∃ t, exec (.linkUp p) s = .next t ∧ (t.prtOf p).st = 2 ∧ (t.prtOf p).fails = 0 ∧
      (t.prtOf p).linkUps = sat16 (s.prtOf p).linkUps ∧ (t.prtOf p).lastUp = s.et) ∧
    (∀ b, (s.prtOf p).st = 2 → ∃ t, exec (.linkDown p b) s = .next t ∧ (t.prtOf p).st = 1 ∧ (t.prtOf p).plcaOk = false) ∧
    ((s.prtOf p).st = 1 → p < 12 → (s.prtOf p).trainAt + (s.prtOf p).cfg.training * 1000000 ≤ s.et →
      ∃ t, exec (.trainFail p) s = .next t ∧ (t.prtOf p).st = 1 ∧ (t.prtOf p).fails = (s.prtOf p).fails + 1 ∧
      (t.prtOf p).trainFails = sat16 (s.prtOf p).trainFails ∧ (t.prtOf p).trainAt = s.et) ∧
    (p < 16 → (s.prtOf p).st ≠ 0 → ∃ t, exec (.phyFault p) s = .next t ∧ (t.prtOf p).st = 4) ∧
    ((s.prtOf p).sleepDue ≠ none → ∃ t, exec (.tc10Asleep p) s = .next t ∧ (t.prtOf p).st = 3 ∧
      (t.prtOf p).sleepDue = none ∧ (t.prtOf p).sleeps = sat16 (s.prtOf p).sleeps) ∧
    (∀ due, (s.prtOf p).sleepDue = some due → due ≤ s.et → s.wake.tc10Wait.contains p = false →
      ∃ t, exec (.tc10SleepTimeout p) s = .next t ∧ t.prtOf p = { s.prtOf p with sleepDue := none }) ∧
    ((s.prtOf p).st = 2 → (s.prtOf p).cfg.tc10 = true → (s.prtOf p).cfg.acceptSleep = true →
      ∃ t, exec (.tc10RemoteSleep p) s = .next t ∧ (t.prtOf p).st = 3 ∧ (t.prtOf p).sleeps = sat16 (s.prtOf p).sleeps) ∧
    (p < 12 → (s.prtOf p).st = 3 → ∃ t, exec (.tc10Wake p false) s = .next t ∧ (t.prtOf p).st = 1 ∧
      (t.prtOf p).wakes = sat16 (s.prtOf p).wakes) ∧
    ((s.prtOf p).st = 2 → 12 ≤ p →
      ((s.prtOf p).cfg.leader = false → (s.prtOf p).plcaOk = true → ∃ t, exec (.plcaBeaconLost p) s = .next t ∧
        (t.prtOf p).plcaOk = false ∧ (t.prtOf p).beaconLosses = sat16 (s.prtOf p).beaconLosses) ∧
      ((s.prtOf p).cfg.leader = false → (s.prtOf p).plcaOk = false → ∃ t, exec (.plcaBeaconReceived p) s = .next t ∧
        (t.prtOf p).plcaOk = decide ((s.prtOf p).beacons ≠ 0)) ∧
      ((s.prtOf p).cfg.leader = true → ∃ t, exec (.plcaBeaconReceived p) s = .next t ∧
        (t.prtOf p).collisions = sat16 (s.prtOf p).collisions) ∧
      (p < 16 → (s.prtOf p).cfg.alone ≠ 0 → (s.prtOf p).heardAt + (s.prtOf p).cfg.alone * 1000000 ≤ s.et →
        ∃ t, exec (.segmentAlone p) s = .next t ∧ (t.prtOf p).alone = true)) ∧
    (∀ result dist, (s.outstanding fun o => o.on 0x0703 p) = true → result < 4 → dist < 65536 →
      ∃ t, exec (.cableDiagDone p result dist) s = .next t ∧ (t.prtOf p).diagResult = result ∧ (t.prtOf p).diagDist = dist ∧
        ∀ o ∈ t.cmd.async, o.on 0x0703 p = false) ∧
    (∃ t, exec (.prtTrainTimeout p) s = .next t ∧ t.prt = s.prt ∧ ((s.prtOf p).st ≠ 2 → ∀ o ∈ t.cmd.async,
      o.on 0x0701 p = true → s.et < o.startEt + u16 o.pk.params 2 * 1000000)) ∧
    (s.wake.phase = 2 → s.wake.tc10Wait.contains p = true → (s.prtOf p).sleepDue.getD (s.wake.armEt + 16000000) ≤ s.et →
      ∃ t, exec (.tc10SleepForced p) s = .next t ∧ (t.prtOf p).st = 3 ∧ (t.prtOf p).sleeps = sat16 (s.prtOf p).sleeps)

/-- R286 to R303: the switch core's events. -/
def Obligations.SwitchFrames : Prop :=
  ∀ s : State, s.active = true →
    (∀ f : EthFrame, f.port < 16 → s.portUp f.port = true → (s.swPort f.port).cfg.macsec = false →
      (f.port < 12 → f.etherType ≠ 0x88F7) →
      let vid := if f.tagged && f.vid != 0 then f.vid else (s.swPort f.port).cfg.pvid
      let v := s.swc.vlans.val {} vid
      (v.vid = 0 ∨ v.members.testBit f.port = false → ∃ t, exec (.frameDecisionPoint f) s = .next t ∧
        (t.swPort f.port).rxDiscard = sat32 (s.swPort f.port).rxDiscard ∧
        (t.swPort f.port).rx = some { dropped := true, len := f.len } ∧ t.swc.frames = s.swc.frames) ∧
      (∀ i q, v.vid ≠ 0 → v.members.testBit f.port = true → s.swc.streams = [] → s.fdbFind f.dst v.fid = some i →
        (s.swc.fdb.val {} i).ports = 2 ^ q → (s.swc.fdb.val {} i).flags = 0 → q < 16 → q ≠ f.port →
        v.members.testBit q = true → s.portUp q = true → f.dst < 0x0180C2000000 →
        s.admitOk q (bits (s.swPort f.port).cfg.pcpMap (3 * if f.tagged then f.pcp else 0) 3)
          (cellsOf (if f.known then f.len else (s.swPort f.port).cfg.maxLen)) f.dst vid = true →
        ∃ t b, exec (.frameDecisionPoint f) s = .next t ∧ t.swc.nextFrame = s.swc.nextFrame + 1 ∧
          t.swc.frames.val none s.swc.nextFrame = some b ∧ b.f = f ∧ b.vid = vid ∧ b.copies = 1 ∧
          ∃ r, (t.swPort f.port).rx = some r ∧ r.frame = some s.swc.nextFrame ∧ r.len = f.len)) ∧
    (∀ p r, p < 21 → (s.swPort p).rx = some r →
      (∀ id b, r.frame = some id → r.learn = none → r.len ≤ (s.swPort p).cfg.maxLen → s.swc.frames.val none id = some b →
        ∃ t, exec (.frameEnd p true false) s = .next t ∧ (t.swPort p).rx = none ∧
          (t.swPort p).rxFrames = wrap32 (s.swPort p).rxFrames ∧
          t.swc.frames.val none id = some { b with complete := true, cells := cellsOf r.len }) ∧
      (r.frame = none → ∃ t, exec (.frameEnd p false false) s = .next t ∧ (t.swPort p).rx = none ∧
          (t.swPort p).rxBad = (if r.dropped then (s.swPort p).rxBad else sat32 (s.swPort p).rxBad))) ∧
    (∀ p c copy rest b, p < 16 → s.portUp p = true → (s.swPort p).cfg.macsec = false → (s.swPort p).tx = none →
      [7, 6, 5, 4, 3, 2, 1, 0].find? ((s.touch p).eligible p) = some c →
      ((s.swPort p).clsAt c).queue = copy :: rest → s.swc.frames.val none copy.frame = some b →
      ∃ t x, exec (.transmissionSelect p) s = .next t ∧ (t.swPort p).tx = some x ∧ x.copy = copy ∧ x.cls = c ∧
        ((t.swPort p).clsAt c).queue = rest) ∧
    (∀ mac fid i, s.fdbFind mac fid = some i → (s.swc.fdb.val {} i).type = 3 →
      (s.swc.fdb.val {} i).seen + s.swc.ageing * 1000000000 ≤ s.et →
      ∃ t, exec (.fdbAgeing mac fid) s = .next t ∧ t.swc.fdb.val {} i = {}) ∧
    (∀ i k, k / 32 = i → (s.swc.cbs.val {} i).func = 2 ∨ (s.swc.cbs.val {} i).func = 3 →
      (s.swc.cbState.val {} k).since + (s.swc.cbs.val {} i).timeout * 1000 ≤ s.et →
      ∃ t, exec (.cbResetTimeout i) s = .next t ∧ (t.swc.cbState.val {} k).takeAny = true)

/-- R341 to R351. States: 0 OFF, 1 INTEGRATING, 2 RUNNING, 3 BUS_OFF, 4 ASLEEP. -/
def Obligations.CanFrames : Prop :=
  ∀ (s : State) (n : Nat),
    (∀ f, (s.canOf n).st = 2 → (s.canOf n).rx = none →
      (s.canFilter n f = none → ∃ t, exec (.canFrameReceived n f) s = .next t ∧
        (t.canOf n).unmatched = sat32 (s.canOf n).unmatched ∧ (t.canOf n).rx = some ⟨f, s.et, none, false⟩) ∧
      (∀ g, s.canFilter n f = some g → ∃ t, exec (.canFrameReceived n f) s = .next t ∧
        (t.canOf n).rx = some ⟨f, s.et, if g.toBuf then some g.buf else none, g.toRing⟩ ∧
        (g.toBuf = true → (t.gw.rx.val {} g.buf).data = f.payload.take g.len ∧ (t.gw.rx.val {} g.buf).has = true))) ∧
    (∀ r, (s.canOf n).rx = some r → (s.canOf n).err = 0 → (s.canOf n).tec < 128 → (s.canOf n).rxErr < 128 →
      (r.toRing = false → ∃ t, exec (.canFrameValid n) s = .next t ∧ (t.canOf n).rx = none ∧
        (t.canOf n).rxOk = wrap32 (s.canOf n).rxOk ∧ (t.canOf n).rxErr = (s.canOf n).rxErr - 1) ∧
      (r.toRing = true → s.ringStopped (s.canOf n).cfg.ring = false →
        (s.canOf n).rxCells + canCells r.frame.payload.length ≤ (s.canOf n).cfg.rxQuota →
        ∃ t, exec (.canFrameValid n) s = .next t ∧ (t.canOf n).fifo = (s.canOf n).fifo ++ [(r.stamp, r.frame)])) ∧
    (∀ r, (s.canOf n).st = 2 → (s.canOf n).attempt = none → (s.canOf n).rx = none → bestReq (s.canOf n).placed = some r →
      ∃ t, exec (.canAttemptStart n) s = .next t ∧
        (t.canOf n).attempt = some { r with attempts := r.attempts + 1, sof := s.et } ∧
        (t.canOf n).placed = (s.canOf n).placed.erase r) ∧
    (∀ r, (s.canOf n).attempt = some r → (s.canOf n).cancelling = false → (s.canOf n).next = [] →
      (r.attempts < (s.canOf n).cfg.retry → ∃ t, exec (.canArbitrationLost n) s = .next t ∧ (t.canOf n).attempt = none ∧
        (t.canOf n).placed = { r with lost := true } :: (s.canOf n).placed ∧ (t.canOf n).arbLost = sat16 (s.canOf n).arbLost) ∧
      ((s.canOf n).tec < 128 → (s.canOf n).err = 0 → (s.canOf n).rxErr < 128 →
        ∃ t, exec (.canTxSuccess n) s = .next t ∧ (t.canOf n).attempt = none ∧ (t.canOf n).tec = (s.canOf n).tec - 1 ∧
        (t.canOf n).txOk = wrap32 (s.canOf n).txOk) ∧
      (∀ kind past, (s.canOf n).st = 2 → (s.canOf n).rx = none → kind ≠ 7 → (s.canOf n).err = 0 → (s.canOf n).tec + 8 < 128 →
        (s.canOf n).rxErr < 128 → r.attempts < (s.canOf n).cfg.retry →
        ∃ t, exec (.canBusError n kind past false) s = .next t ∧ (t.canOf n).tec = (s.canOf n).tec + 8 ∧
        (t.canOf n).lastError = kind ∧ (t.canOf n).placed = r :: (s.canOf n).placed) ∧
      (∀ kind past more, (s.canOf n).st = 2 → (s.canOf n).rx = none → kind ≠ 7 → (s.canOf n).err = 1 → kind ≠ 3 →
        255 < (s.canOf n).tec + 8 → (s.canOf n).tec ≤ 255 → ∃ t, exec (.canBusError n kind past more) s = .next t ∧
        (t.canOf n).st = 3 ∧ (t.canOf n).err = 2 ∧ (t.canOf n).attempt = none ∧ (t.canOf n).placed = [] ∧
        (t.canOf n).waiting = [] ∧ (t.canOf n).busOffs = sat16 (s.canOf n).busOffs)) ∧
    ((s.canOf n).st = 1 → ∃ t, exec (.canIntegrated n) s = .next t ∧ (t.canOf n).st = 2) ∧
    ((s.canOf n).st = 3 → (s.canOf n).recovering = true → ∃ t, exec (.busOffRecovered n) s = .next t ∧
      (t.canOf n).st = 1 ∧ (t.canOf n).tec = 0 ∧ (t.canOf n).rxErr = 0 ∧ (t.canOf n).err = 0) ∧
    (∀ reason, s.dev.state = .run → (s.canOf n).st = 4 → (s.canOf n).armed = true → reason ≤ 2 →
      (reason = 0 ↔ (s.canOf n).wakeCfg.mode ≠ 2) → ∃ t, exec (.canWake n reason) s = .next t ∧ (t.canOf n).st = 1 ∧
      (t.canOf n).armed = false)

/-- R362 to R370, R384. POC 4 COLDSTART_LISTEN, 9 INTEGRATION_LISTEN, 12 NORMAL_ACTIVE, 13 NORMAL_PASSIVE, 14 HALT; channel k of
cluster k / 2. -/
def Obligations.FlexRayRows : Prop :=
  ∀ (s : State) (c k : Nat),
    (∀ cycle err rate offs, (s.cluster c).cfg.enabled = true → 3 ≤ (s.cluster c).poc → (s.cluster c).poc ≤ 13 → cycle < 64 →
      ∃ t, exec (.fryCycleStart c cycle err rate offs) s = .next t ∧ (t.cluster c).cycle = cycle ∧
        (t.cluster c).cycleEt = s.et ∧ (t.cluster c).rateCorr = rate ∧ (t.cluster c).offsCorr = offs ∧
        (t.cluster c).poc = if (s.cluster c).haltAtEnd = true then 14 else (s.cluster c).poc) ∧
    (∀ slot cycle b i, (s.cluster (k / 2)).cfg.enabled = true → chanOn (s.cluster (k / 2)).cfg k = true →
      s.fry.bufs.findIdx (fun b => b.transmit && bufMatches b k slot cycle) = i → s.fry.bufs[i]? = some b →
      (s.cluster (k / 2)).alone = false →
      (∀ d, (s.cluster (k / 2)).poc = 12 → (s.fryTx (2 * i + k % 2)).pend = some d →
        (s.fryTx (2 * i + k % 2)).pendCycle = 0xFF → (s.fryTx (2 * i + k % 2)).pendAt + 2000 ≤ s.et →
        ∃ t, exec (.fryActionPoint k slot cycle) s = .next t ∧ (t.fryCh k).sent = some (slot, some d) ∧
          (t.fryCh k).txFrames = wrap32 (s.fryCh k).txFrames ∧ (t.fryTx (2 * i + k % 2)).pend = none) ∧
      ((s.cluster (k / 2)).poc = 12 → (s.fryTx (2 * i + k % 2)).pend = none → slot ≤ (s.cluster (k / 2)).cfg.staticSlots →
        ∃ t, exec (.fryActionPoint k slot cycle) s = .next t ∧ (t.fryCh k).sent = some (slot, (s.fryTx (2 * i + k % 2)).last) ∧
          (t.fryCh k).repeats =
            if (s.fryTx (2 * i + k % 2)).last = none then (s.fryCh k).repeats else sat32 (s.fryCh k).repeats) ∧
      ((s.cluster (k / 2)).poc = 13 → exec (.fryActionPoint k slot cycle) s = .next s)) ∧
    (∀ f, (s.cluster (k / 2)).cfg.enabled = true → chanOn (s.cluster (k / 2)).cfg k = true → 3 ≤ (s.cluster (k / 2)).poc →
      (s.cluster (k / 2)).poc ≤ 13 →
      (f.err ≠ none → ∃ t, exec (.fryFrameReceived k f) s = .next t ∧ t.gw = s.gw ∧
        (t.fryCh k).rxErrors = sat32 (s.fryCh k).rxErrors ∧ (t.cluster (k / 2)).heardAt = s.et) ∧
      (f.err = none → f.null = true → ∃ t, exec (.fryFrameReceived k f) s = .next t ∧ t.gw = s.gw ∧
        (t.fryCh k).nullRx = sat16 (s.fryCh k).nullRx) ∧
      (∀ b, f.err = none → f.null = false → (s.cluster (k / 2)).poc = 12 →
        s.fry.bufs.find? (fun b => !b.transmit && bufMatches b k f.slot f.cycle) = some b → b.buf ≠ 0xFFFF →
        ∃ t, exec (.fryFrameReceived k f) s = .next t ∧ (t.fryCh k).rxOk = wrap32 (s.fryCh k).rxOk ∧
          (t.gw.rx.val {} b.buf).data = f.payload.take (2 * b.words) ∧ (t.gw.rx.val {} b.buf).has = true ∧
          (t.gw.rx.val {} b.buf).age = 0)) ∧
    (∀ branch slot off, (s.cluster (k / 2)).cfg.enabled = true → chanOn (s.cluster (k / 2)).cfg k = true →
      chanStar (s.cluster (k / 2)).cfg k = true → ((s.cluster (k / 2)).poc = 12 ∨ (s.cluster (k / 2)).poc = 13) →
      (branch = 4 ∨ branch < 4 ∧ branch < chanBranches (s.cluster (k / 2)).cfg k) →
      ((s.fryCh k).branches.val {} branch).disabled = false → ((s.fryCh k).branches.val {} branch).iso = 0 →
      (s.ownsSlot k branch slot = true → off.natAbs ≤ (s.cluster (k / 2)).cfg.guard →
        ∃ t, exec (.branchTxStart k branch 0 slot off) s = .next t ∧
          (t.fryCh k).fwd = some ⟨branch, 0, slot, (s.cluster (k / 2)).cycle⟩ ∧
          ((t.fryCh k).branches.val {} branch).run = 0) ∧
      ((s.ownsSlot k branch slot = false ∨ (s.cluster (k / 2)).cfg.guard < off.natAbs) →
        ∃ t, exec (.branchTxStart k branch 0 slot off) s = .next t ∧ (t.fryCh k).fwd = (s.fryCh k).fwd ∧
          ((t.fryCh k).branches.val {} branch).run = ((s.fryCh k).branches.val {} branch).run + 1 ∧
          ((t.fryCh k).branches.val {} branch).violations = sat16 ((s.fryCh k).branches.val {} branch).violations ∧
          ((t.fryCh k).branches.val {} branch).blockEnd = s.nextOwn k branch ∧
          (((t.fryCh k).branches.val {} branch).iso ≠ 0 ↔ 3 ≤ ((s.fryCh k).branches.val {} branch).run + 1))) ∧
    (∀ g slot, (s.fryCh k).fwd = some g → chanStar (s.cluster (k / 2)).cfg k = true →
      ((s.cluster (k / 2)).poc = 12 ∨ (s.cluster (k / 2)).poc = 13) →
      ∃ t, exec (.branchTruncated k g.branch slot) s = .next t ∧ (t.fryCh k).fwd = none ∧
        (t.fryCh k).truncations = sat16 (s.fryCh k).truncations) ∧
    (∀ code, (s.cluster c).cfg.enabled = true → 2 ≤ (s.cluster c).poc → 2 ≤ code → code ≤ 14 →
      ∃ t, exec (.pocState c code) s = .next t ∧ (t.cluster c).poc = code ∧
        (code = 12 → (s.cluster c).poc ≠ 12 → (t.cluster c).alone = false)) ∧
    ((s.cluster c).cfg.enabled = true → 3 ≤ (s.cluster c).poc → (s.cluster c).poc ≤ 11 →
      ((s.cluster c).cfg.coldstart = true ∧ (s.cluster c).cfg.attempts ≤ (s.cluster c).attempts ∨
        (s.cluster c).heardAt + 64 * cycleNs (s.cluster c).cfg ≤ s.et) →
      ∃ t, exec (.frAlone c) s = .next t ∧ (t.cluster c).alone = true ∧ (t.cluster c).poc = 9) ∧
    ((s.cluster c).alone = true → (s.cluster c).cfg.coldstart = true → (s.cluster c).cfg.retry ≠ 0 → (s.cluster c).poc = 9 →
      (s.cluster c).aloneAt + (s.cluster c).cfg.retry * 1000000 ≤ s.et →
      ∃ t, exec (.coldstartRetry c) s = .next t ∧ (t.cluster c).poc = 4 ∧ (t.cluster c).attempts = 0) ∧
    (∃ t, exec (.fryStartTimeout c) s = .next t ∧ t.fry = s.fry ∧ ∀ o ∈ t.cmd.async,
      o.on 0x0901 c = true → s.et < o.startEt + u16 o.pk.params 2 * 1000000)

/-- R378 to R381, R512. States: 1 RUNNING, 2 ASLEEP, 3 WAKING; errors 0 none, 3 and 5 framing and checksum. -/
def Obligations.LinRows : Prop :=
  ∀ (s : State) (n : Nat),
    (∀ c, (s.linOf n).cur = some c →
      (∀ e, e.err = 0 → ∃ t, exec (.linFrameEnd n e) s = .next t ∧ (t.linOf n).cur = none ∧
        (t.linOf n).framesOk = wrap32 (s.linOf n).framesOk ∧
        (∀ i ent, c.cmd = none → c.entry = some i → s.lin.entries[i]? = some ent → ent.dir = 1 → ent.buf ≠ 0xFFFF →
          (t.gw.rx.val {} ent.buf).data = e.data.take ent.len ∧ (t.gw.rx.val {} ent.buf).has = true ∧
          (t.gw.rx.val {} ent.buf).age = 0) ∧
        (∀ i ent, c.cmd = none → c.entry = some i → s.lin.entries[i]? = some ent → ent.dir ≠ 1 →
          (t.gw.tx.val {} ent.buf).written = false) ∧
        (∀ pk, c.cmd = some pk → c.entry = none → (t.linOf n).st = 2 ∧ (t.linOf n).sleeps = sat16 (s.linOf n).sleeps ∧
          ∀ o ∈ t.cmd.async, o.on 0x0A03 n = false) ∧
        (∀ pk i, c.cmd = some pk → c.entry = some i → ∀ o ∈ t.cmd.async, (o.code == 0x0A01 && o.pk == pk) = false)) ∧
      (∀ e i ent, (e.err = 3 ∨ e.err = 5) → c.cmd = none → c.entry = some i → s.lin.entries[i]? = some ent → ent.type = 1 →
        ent.dir = 1 → ∃ t, exec (.linFrameEnd n e) s = .next t ∧ (t.linOf n).cur = none ∧
          (t.linOf n).collisions = sat16 (s.linOf n).collisions ∧ (t.linOf n).rxErrors = (s.linOf n).rxErrors) ∧
      (∀ e i ent, e.err ≠ 0 → c.entry = some i → s.lin.entries[i]? = some ent → ent.type ≠ 1 →
        ∃ t, exec (.linFrameEnd n e) s = .next t ∧ (t.linOf n).cur = none ∧ (t.linOf n).lastError = e.err ∧
          (t.linOf n).rxErrors = sat16 (s.linOf n).rxErrors ∧
          ((s.linOf n).cfg.commander = false → (t.linOf n).respErr = true)) ∧
      (∀ data, ∃ t, exec (.linResponseTimeout n data) s = .next t ∧ (t.linOf n).cur = none ∧
        (s.linSubs c = true → data = [] → (t.linOf n).lastError = 1 ∧ (t.linOf n).noResponse = sat16 (s.linOf n).noResponse ∧
          ((s.linOf n).cfg.commander = true → (t.linOf n).run = sat8 (s.linOf n).run)) ∧
        (s.linSubs c = true → data ≠ [] → (t.linOf n).lastError = 2 ∧
          (t.linOf n).rxErrors = sat16 (s.linOf n).rxErrors))) ∧
    (∀ id, (s.linOf n).cfg.enabled = true → (s.linOf n).cfg.commander = false → ((s.linOf n).st = 1 ∨ (s.linOf n).st = 3) →
      (∃ t, exec (.linHeaderReceived n id true) s = .next t ∧ (t.linOf n).st = 2 ∧
        (t.linOf n).sleeps = sat16 (s.linOf n).sleeps) ∧
      (∀ i, s.lin.entries.findIdx (fun e => e.ch == n && e.id == id) = i →
        (∀ ent, s.lin.entries[i]? = some ent → ent.type ≠ 3 → ent.dir = 1 →
          ∃ t, exec (.linHeaderReceived n id false) s = .next t ∧ (t.linOf n).st = 1 ∧ (t.linOf n).headerAt = s.et ∧
            (t.linOf n).cur = some { entry := some i, start := s.et }) ∧
        (∀ ent, s.lin.entries[i]? = some ent → ent.type = 0 → ent.dir = 0 → i ≠ (s.linOf n).cfg.respErrEntry →
          ∃ t, exec (.linHeaderReceived n id false) s = .next t ∧ (t.linOf n).st = 1 ∧
            (t.linOf n).cur = some { entry := some i, start := s.et, data := s.txData ent.buf }) ∧
        (s.lin.entries[i]? = none →
          ∃ t, exec (.linHeaderReceived n id false) s = .next t ∧ (t.linOf n).st = 1 ∧ (t.linOf n).cur = none))) ∧
    ((s.linOf n).cfg.enabled = true → (s.linOf n).cfg.commander = false → (s.linOf n).st = 1 →
      (s.linOf n).headerAt + (s.linOf n).cfg.idle * 1000000 ≤ s.et →
      ∃ t, exec (.linIdleSleep n) s = .next t ∧ (t.linOf n).st = 2 ∧ (t.linOf n).sleeps = sat16 (s.linOf n).sleeps) ∧
    ((s.linOf n).cfg.enabled = true → (s.linOf n).st = 2 →
      (∃ t, exec (.linWake n true) s = .next t ∧ (t.linOf n).st = 3 ∧ (t.linOf n).wakes = sat16 (s.linOf n).wakes ∧
        (t.linOf n).pulses = 1 ∧ (t.linOf n).wakeAt = s.et) ∧
      (s.dev.state ≠ .sleepPrep → (s.dev.state = .sleep ∨ s.wake.phase = 4 → s.wake.armed.testBit (20 + n) = true) →
        ∃ t, exec (.linWake n false) s = .next t ∧ (t.linOf n).st = 3 ∧
        (t.linOf n).wakes = sat16 (s.linOf n).wakes ∧ (t.linOf n).pulses = 0)) ∧
    ((s.linOf n).cfg.enabled = true → (s.linOf n).st = 1 → (s.linSleepCmd n).isSome = true → s.dev.state ≠ .sleepPrep →
      ∃ t, exec (.linWake n false) s = .next t ∧ (t.linOf n).st = 1 ∧ ∀ o ∈ t.cmd.async, o.on 0x0A03 n = false) ∧
    ((s.linOf n).st = 3 → (s.linOf n).cfg.commander = true → (s.linOf n).wakeAt + 101000000 ≤ s.et →
      ∃ t, exec (.linWakingEnd n) s = .next t ∧ (t.linOf n).st = 1) ∧
    ((s.linOf n).st = 3 → (s.linOf n).cfg.commander = false → (s.linOf n).pulses ≠ 0 →
      (s.linOf n).wakeAt + 250 * (s.linOf n).pulses * 1000000 ≤ s.et →
      ∃ t, exec (.linWakeNoHeader n) s = .next t ∧ (t.linOf n).st = 3 ∧ (t.linOf n).pulses = 0)

/-- R389 to R393, R406. `wb` 0 OK, 1 BREAK, 2 SHORT. -/
def Obligations.InputFilters : Prop :=
  ∀ (s : State) (n : Nat), n < 80 →
    (∀ level first, (s.din n).enabled = true → s.powered = true → s.dinHeld n = false → first ≤ s.et →
      ((s.din n).sampled = false → ∃ t, exec (.filteredEdge n level first) s = .next t ∧
        t.din n = { s.din n with sampled := true, raw := level, filt := level, qual := level, cnt := 0 }) ∧
      ((s.din n).sampled = true → (s.din n).filt ≠ level →
        ((s.din n).qual = level → ∃ t, exec (.filteredEdge n level first) s = .next t ∧ (t.din n).filt = level ∧
          (t.din n).qual = level ∧ (t.din n).debUntil = none ∧ (t.din n).edges = (s.din n).edges ∧
          (t.din n).chatter = satAdd 16 (s.din n).chatter ((s.din n).pendEdges + 1)) ∧
        ((s.din n).qual ≠ level → (s.din n).debounce ≠ 0 → ∃ t, exec (.filteredEdge n level first) s = .next t ∧
          (t.din n).filt = level ∧ (t.din n).qual = (s.din n).qual ∧ (t.din n).stamp = first ∧
          (t.din n).debUntil = some (s.et + (s.din n).debounce * 1000)) ∧
        ((s.din n).qual ≠ level → (s.din n).debounce = 0 → ∃ t, exec (.filteredEdge n level first) s = .next t ∧
          (t.din n).filt = level ∧ (t.din n).qual = level ∧
          ((s.din n).wb = 0 → (t.din n).edges = wrap32 (s.din n).edges ∧ (t.din n).lastEdge = first)))) ∧
    (∀ due, s.dinHeld n = false → (s.din n).debUntil = some due → due ≤ s.et → (s.din n).filt ≠ (s.din n).qual →
      ∃ t, exec (.diEdge n) s = .next t ∧ (t.din n).qual = (s.din n).filt ∧ (t.din n).debUntil = none ∧
        (t.din n).edges = (if (s.din n).wb = 0 then wrap32 (s.din n).edges else (s.din n).edges) ∧
        (t.din n).lastEdge = if (s.din n).wb = 0 then (s.din n).stamp else (s.din n).lastEdge) ∧
    (∀ v, s.powered = true → v < 600 → s.dio.feedLow = false → ∃ t, exec (.diFeedLow v) s = .next t ∧ t.dio.feedLow = true ∧
      t.din n = if n < 64 then { s.din n with debUntil := none } else s.din n) ∧
    (∀ v, s.powered = true → 650 < v → s.dio.feedLow = true → s.dio.feedLowAt + 1000000 ≤ s.et → n < 64 →
      ∃ t, exec (.diSamplingResume v) s = .next t ∧ t.dio.feedLow = false ∧ (t.din n).cnt = 0 ∧
        (t.din n).filt = (s.din n).filt ∧ (t.din n).qual = (s.din n).qual ∧
        (t.din n).debUntil = if (s.din n).sampled = true ∧ (s.din n).filt ≠ (s.din n).qual then
          some (s.et + (s.din n).debounce * 1000) else none) ∧
    (n < 64 → (s.din n).wbEn = true →
      ((s.din n).breakFilter ≠ 0 → (s.din n).wb = 0 →
        (∀ wb, (wb = 1 ∧ (s.din n).breakFilter ≤ (s.din n).brkRun ∨
            wb = 2 ∧ (s.din n).brkRun < (s.din n).breakFilter ∧ (s.din n).breakFilter ≤ (s.din n).shortRun) →
          ∃ t, exec (.wireBreak n) s = .next t ∧ (t.din n).wb = wb ∧ (t.din n).breaks = sat16 (s.din n).breaks ∧
            (t.din n).held = (s.din n).qual ∧ (t.din n).edges = (s.din n).edges)) ∧
      ((s.din n).wb ≠ 0 → (s.din n).breakFilter ≤ (s.din n).okRun → ∃ t, exec (.wireOk n) s = .next t ∧ (t.din n).wb = 0 ∧
        (t.din n).edges = (s.din n).edges)) ∧
    (∀ o skipped brk shrt, s.diTests.find? (fun o => decide (testEnd o ≤ s.et)) = some o →
      ∃ t tested found short, exec (.wirebreakTestDone skipped brk shrt) s = .next t ∧ t.cmd.async = s.cmd.async.erase o ∧
        tested = mapBits (fun n => (testMap o).testBit n && !skipped.testBit n) 64 ∧
        found = mapBits (fun n => tested.testBit n && brk.testBit n) 64 ∧
        short = mapBits (fun n => (mapBits (fun n => tested.testBit n && shrt.testBit n) 64).testBit n &&
          (s.din n).mode == 2) 64 ∧
        (o.discard = false → isQuiet o.pk = false →
          t.answered o.pk stOk (leBytes 8 tested ++ leBytes 8 found ++ leBytes 8 short)))

/-- R395 to R397. `safe` 2: the field safe state is in force. XVS in 10 mV, the output current in mA. -/
def Obligations.IsolatedBank : Prop :=
  ∀ (s : State), s.powered = true →
    (∀ a b, s.dio.barrierOk = true → ∃ t, exec (.barrierLost a b) s = .next t ∧ t.dio.barrierOk = false ∧
      t.dio.losses = sat16 s.dio.losses ∧ t.dio.lostAt = s.et ∧
      (∀ n, (s.xo n).enabled = true → t.xo n = if (s.xo n).safeField = 1 then
          { s.xo n with safe := 2, holdUntil := some (s.et + 500000000) }
        else { s.xo n with safe := 2, holdUntil := none, out := false }) ∧
      (∀ n, (t.din n).filt = (s.din n).filt ∧ (t.din n).qual = (s.din n).qual)) ∧
    (s.dio.barrierOk = false → ∃ t, exec .barrierRestored s = .next t ∧ t.dio.barrierOk = true ∧ t.dio.xos = s.dio.xos) ∧
    (∀ n current thermal, n < 8 → (s.xo n).enabled = true → (s.xo n).out = true → (thermal = true ∨ 700 < current) →
      ∃ t, exec (.xoFault n current thermal) s = .next t ∧ (t.xo n).out = false ∧ (t.xo n).fault = true ∧
        (t.xo n).faults = sat16 (s.xo n).faults ∧ (t.xo n).retryAt = s.et + 100000000 ∧ (t.xo n).cmd = (s.xo n).cmd) ∧
    (∀ n holds, n < 8 → (s.xo n).fault = true → (s.xo n).cmd = true → (s.xo n).retryAt ≤ s.et → s.xoInert = false →
      (s.xo n).safe ≠ 2 → s.dio.xvsOk = true → ∃ t, exec (.xoRetry n holds) s = .next t ∧
        (t.xo n).fault = !holds ∧ (holds = true → (t.xo n).out = true) ∧
        (holds = false → (t.xo n).retryAt = s.et + 100000000 ∧ (t.xo n).out = (s.xo n).out)) ∧
    (∀ v, s.dio.xvsOk = true → v < 1800 → ∃ t, exec (.xvsLost v) s = .next t ∧ t.dio.xvsOk = false ∧
      ∀ n, t.xo n = { s.xo n with out := false }) ∧
    (∀ v, s.dio.xvsOk = false → 1800 ≤ v → ∃ t, exec (.xvsReturn v) s = .next t ∧ t.dio.xvsOk = true ∧
      ∀ n, t.xo n = if (s.xo n).safe = 2 ∨ s.xoInert = true then s.xo n
        else { s.xo n with out := (s.xo n).cmd && !(s.xo n).fault }) ∧
    (∀ n due, (s.xo n).holdUntil = some due → due ≤ s.et → ∃ t, exec (.fieldHoldExpiry n) s = .next t ∧
      t.xo n = { s.xo n with holdUntil := none, out := false })

/-- R413 to R416, R419, R421 to R424. Partition states: 1 RUNNING, 2 RESETTING, 3 HELD, 4 RESTARTING; pair states: 0 running,
1 idle, 3 halted; cause bit 1 mismatch. -/
def Obligations.PairsAndPartitions : Prop :=
  ∀ (s : State),
    (∀ k rail, k < 6 → s.active = true → (s.pair k).halted = false →
      ∃ t, exec (.lockstepMismatch k rail) s = .next t ∧ (t.pair k).st = 1 ∧
        (t.pair k).mismatches = sat16 (s.pair k).mismatches ∧ (t.pair k).lastMismatch = s.et ∧
        (t.pair k).railFaults = (if rail = true then sat16 (s.pair k).railFaults else (s.pair k).railFaults) ∧
        (∀ p, (s.pair k).st = 0 → (s.pair k).part = p → p < 16 → (s.part p).st = 1 →
          ((s.part p).policy = 0 → (t.part p).st = 2 ∧ (t.part p).inReset = true ∧ (t.part p).lastCause = 2 ∧
            (t.part p).resets = sat16 (s.part p).resets ∧ (t.part p).mismatches = sat16 (s.part p).mismatches) ∧
          ((s.part p).policy ≠ 0 → (t.part p).st = 1 ∧ (t.part p).mismatches = sat16 (s.part p).mismatches ∧
            k ∈ (t.part p).recover)) ∧
        ((s.pair k).st ≠ 0 → ∀ q, (t.part q).st = (s.part q).st)) ∧
    (∀ rail, s.powered = true → ∃ t, exec (.mCoreMismatch rail) s = .next t ∧ t.dev.state = .starting ∧ t.dev.startCause = 3) ∧
    (s.powered = true → s.debugOpen = true →
      (∀ k, k < 6 → (s.pair k).halted = false → ∃ t, exec (.pairHalted k) s = .next t ∧ (t.pair k).halted = true ∧
        (t.pair k).st = 3 ∧ (t.pair k).part = (s.pair k).part) ∧
      (s.par.mPair.halted = false → ∃ t, exec (.pairHalted 6) s = .next t ∧ t.par.mPair.halted = true)) ∧
    (∀ k, k < 6 → (s.pair k).halted = true → ∃ t, exec (.pairResumed k) s = .next t ∧ (t.pair k).halted = false ∧
      (t.pair k).st = if (s.pair k).part = 0x1F then 1 else 0) ∧
    (∀ k, k < 6 → s.active = true → (s.pair k).halted = false →
      ((s.pair k).lastSecureMs ≠ s.et / 1000000 + 1 → ∃ t, exec (.secureInterrupt k) s = .next t ∧
        (t.pair k).secureIrqs = sat16 (s.pair k).secureIrqs ∧ (t.pair k).lastSecureMs = s.et / 1000000 + 1) ∧
      ((s.pair k).lastSecureMs = s.et / 1000000 + 1 → exec (.secureInterrupt k) s = .next s)) ∧
    (∀ p, p < 16 → (s.part p).st = 2 → ∃ t, exec (.partResetDone p) s = .next t ∧
      ((s.part p).restartNext = false → (t.part p).st = 3 ∧ ∀ o ∈ t.cmd.async, waitsOn p true o = false) ∧
      ((s.part p).restartNext = true → (t.part p).st = 4 ∧ (∀ o ∈ t.cmd.async, waitsOn p false o = false) ∧
        (t.part p).restartDue = s.et + (2 + (s.part p).imageMb) * 1000000)) ∧
    (∀ p image, p < 16 → (s.part p).st = 4 → s.active = true →
      (∃ t, exec (.partRestarted p true image) s = .next t ∧ (t.part p).st = 1 ∧ (t.part p).inReset = false ∧
        (t.part p).restarts = sat16 (s.part p).restarts ∧ ∀ o ∈ t.cmd.async, waitsOn p true o = false) ∧
      (∃ t, exec (.partRestarted p false image) s = .next t ∧ (t.part p).st = 3 ∧
        ∀ o ∈ t.cmd.async, waitsOn p true o = false)) ∧
    (∀ i o, s.cmd.async[i]? = some o → o.due ≠ 0 → o.due ≤ s.et →
      (o.started = false → ∃ t, exec (.supervisionTimeout i) s = .next t ∧ t.cmd.async.length + 1 = s.cmd.async.length ∧
        (o.discard = false → t.answered o.pk 0x0E05 [])) ∧
      (o.started = true → o.code ≠ 0x0801 → o.code ≠ 0x0A01 → ∃ t, exec (.supervisionTimeout i) s = .next t ∧
        t.cmd.async = setAt s.cmd.async i { o with due := 0 }))

/-- R64 to R66, R84, R425 to R434, R525. Ring types 4 FRAME_RX, 5 FRAME_TX. -/
def Obligations.RingsAndWindows : Prop :=
  ∀ (s : State),
    (∀ p n v f, n < 128 → s.active = true → (s.ring n).enabled = true → (s.ring n).owner = p → s.inReset p = false →
      f = (v % 65536 + 65536 - (s.ring n).cons) % 65536 →
      ((s.ring n).hostMade = true →
        ((s.ring n).fill ≤ f → f ≤ (s.ring n).depth → ∃ t, exec (.dbProducer p n v) s = .next t ∧
          (t.ring n).prod = v % 65536 ∧ (t.ring n).cons = (s.ring n).cons ∧ t.mem = s.mem) ∧
        ((f < (s.ring n).fill ∨ (s.ring n).depth < f) → ∃ t, exec (.dbProducer p n v) s = .next t ∧
          (t.ring n).prod = (s.ring n).prod ∧ (t.ring n).cons = (s.ring n).cons ∧
          (t.ring n).indexErrors = sat16 (s.ring n).indexErrors)) ∧
      ((s.ring n).hostMade = false →
        (f ≤ (s.ring n).fill → (s.ring n).lost = 0 → ∃ t, exec (.dbConsumer p n v) s = .next t ∧
          (t.ring n).cons = v % 65536 ∧ (t.ring n).prod = (s.ring n).prod ∧ t.mem = s.mem) ∧
        (0 < f → f ≤ (s.ring n).fill → (s.ring n).lost ≠ 0 → ∃ t, exec (.dbConsumer p n v) s = .next t ∧
          (t.ring n).cons = v % 65536 ∧ (t.ring n).lost = 0 ∧ (t.ring n).prod = ((s.ring n).prod + 1) % 65536) ∧
        ((s.ring n).fill < f → ∃ t, exec (.dbConsumer p n v) s = .next t ∧ (t.ring n).prod = (s.ring n).prod ∧
          (t.ring n).cons = (s.ring n).cons ∧ (t.ring n).indexErrors = sat16 (s.ring n).indexErrors)) ∧
      (v % 2 = 1 →
        ((s.ring n).hostMade = true ∨ (s.ring n).fill = 0 → ∃ t, exec (.irqAck p n v) s = .next t ∧
          t.ring n = { s.ring n with pendingLost := false, armed := (s.ring n).irqEn }) ∧
        ((s.ring n).hostMade = false → (s.ring n).fill ≠ 0 → (s.ring n).irqEn = true → (s.part p).inReset = false →
          (s.part p).vi.length < 32 → ∃ t, exec (.irqAck p n v) s = .next t ∧ (t.part p).vi = (s.part p).vi ++ [n] ∧
            t.ring n = { s.ring n with pendingLost := false, armed := false }))) ∧
    (∀ p v, p < 16 → s.active = true → s.inReset p = false → (s.part p).st ≠ 0 →
      (∃ t, exec (.viConsume p v) s = .next t ∧ t.part p = { s.part p with vi := (s.part p).vi.drop (v % 64) }) ∧
      (v % 2 = 1 → ∃ t, exec (.viOvfAck p v) s = .next t ∧ t.part p = { s.part p with viOvf := false })) ∧
    (∀ e r, s.nextEvent = some e → r = s.ring (s.part e.dest).eventRing → r.enabled = true → r.fill + 1 < r.depth → r.lost = 0 →
      s.poisonLeft r.nextSlot 16 = false → e.ev.bytes.length = 16 → ∃ t, exec .eventDelivery s = .next t ∧
        (t.ring (s.part e.dest).eventRing).prod = (r.prod + 1) % 65536 ∧ memRead t.mem r.nextSlot 16 = e.ev.bytes ∧
        (r.armed = false → t.evq = s.evq.erase e)) ∧
    (∀ n, n < 128 → s.active = true → (s.ring n).enabled = true → s.ringStopped n = false →
      (∀ bs u, (s.ring n).type = 4 → (s.ring n).full = false → s.nextFrame n = some (bs, u) →
        (bs.length ≤ (s.ring n).slotSize → ∃ t, exec (.ringSlotMove n) s = .next t ∧
          (t.ring n).prod = ((s.ring n).prod + 1) % 65536 ∧ (t.ring n).cons = (s.ring n).cons ∧
          (s.poisonLeft (s.ring n).nextSlot bs.length = false → memRead t.mem (s.ring n).nextSlot bs.length = bs)) ∧
        ((s.ring n).slotSize < bs.length → ∃ t, exec (.ringSlotMove n) s = .next t ∧
          (t.ring n).prod = (s.ring n).prod ∧ (t.ring n).tooSmall = sat16 (s.ring n).tooSmall)) ∧
      (∀ a len, (s.ring n).type = 5 → (s.ring n).fill ≠ 0 →
        a = (s.ring n).base + (s.ring n).cons % (s.ring n).depth * (s.ring n).slotSize → s.poisoned a (s.ring n).slotSize = false →
        len = leNat (memRead s.mem a 2) →
        ((len = 0 ∨ (s.ring n).slotSize < len + 32) → ∃ t, exec (.ringSlotMove n) s = .next t ∧
          (t.ring n).cons = ((s.ring n).cons + 1) % 65536 ∧ (t.ring n).indexErrors = sat16 (s.ring n).indexErrors) ∧
        (len ≠ 0 → len + 32 ≤ (s.ring n).slotSize → exec (.ringSlotMove n) s =
          .next ((s.ringPop n).frameIn (parseFrame (s.ring n).binding (memRead s.mem (a + 32) len)))))) ∧
    (∀ p a, p < 16 → s.powered = true →
      (a % 4 = 0 → s.winVisible p a = true → ∃ t, exec (.lowWordRead p a) s = .next t ∧
        t.dev.lastLoad = some (s.winWord a) ∧ t.dev.latch.val (0, 0) p = (a + 4, s.winWord (a + 4)) ∧ t.flt = s.flt) ∧
      ((a % 4 ≠ 0 ∨ s.winVisible p a = false) → ∃ t, exec (.lowWordRead p a) s = .next t ∧ t.dev.lastLoad = none ∧
        t.dev.latch = s.dev.latch)) ∧
    (∀ w, s.powered = true → w.isWrite = true → w.init < 16 → s.deadRegister w.init w.addr = true →
      ∃ t, exec (.statusWindowStore w) s = .next t ∧
        (t.part w.init).postedErrors = sat32 (s.part w.init).postedErrors)

/-- R448 and R471 to R475. -/
def Obligations.BamlysRequests : Prop :=
  ∀ (s : State) (o : Outst) (svc : BamService), bamFirst s.bamQueue = some o → s.bam.serving = true → s.bam.halted = false →
    s.bam.policyAfter = false → (s.feedBelow6 && writesRecord o.code o.pk.params) = false → isCheckOnly o.pk = false →
    o.discard = false → o.code ∈ [0x0D00, 0x0D01, 0x0D02, 0x0D03, 0x0D04, 0x0D05, 0x0D06, 0x0D07] →
    (bamCheck o.code o.pk.params s svc ≠ stOk → ∃ t, exec (.bamRequestExecute svc) s = .next t ∧
      t.answered o.pk (bamCheck o.code o.pk.params s svc) [] ∧ t.cmd.async = s.cmd.async.erase o ∧
      t.bam = { s.bam with drbg := (s.bam.drbg + 1) % 1024 }) ∧
    (bamCheck o.code o.pk.params s svc = stOk → isQuiet o.pk = false →
      ∃ t, exec (.bamRequestExecute svc) s = .next t ∧ t.cmd.async = s.cmd.async.erase o ∧
        t.bam.drbg = (s.bam.drbg + 1) % 1024 ∧
        (o.code = 0x0D05 → t.answered o.pk stOk (fit (u32 o.pk.params 0) svc.out)) ∧
        (o.code = 0x0D03 → t.bam.kr = (u16 o.pk.params 0 :: s.bam.kr.filter (· != u16 o.pk.params 0)).take 16 ∧
          t.answered o.pk stOk (fit (if (s.keySlot (u16 o.pk.params 0)).type = 0x10 then 64
            else if (s.keySlot (u16 o.pk.params 0)).type = 0x11 then 96 else 16) svc.out)) ∧
        (o.code = 0x0D04 → t.bam.kr = s.bam.kr ∧ t.bam.slots = s.bam.slots ∧
          t.answered o.pk (if svc.valid = true then stOk else 0x0F05) []) ∧
        (o.code = 0x0D00 → u8 o.pk.params 0 = 0 → t.bam.slots = s.bam.slots ∧
          t.answered o.pk stOk (leBytes 1 s.bam.lc ++ leBytes 1 s.bam.count ++ leBytes 1 s.bam.policy ++
            leBytes 1 (pack [(0, 1, b2n s.bam.locked), (1, 1, b2n s.bam.rootOk), (2, 1, b2n s.debugOpen)]) ++
            leBytes 4 s.epoch ++ leBytes 4 s.bam.authCounter ++ leBytes 2 s.bam.restarts ++ leBytes 2 s.slotsUsed ++
            fit 48 s.bam.measurement)) ∧
        (o.code = 0x0D01 → u8 o.pk.params 0 = 2 → (t.cmd.sessions.val {} (u8 o.pk.params 1)).isOpen = false ∧
          t.answered o.pk stOk []) ∧
        (o.code = 0x0D01 → u8 o.pk.params 0 ≠ 2 → (t.cmd.sessions.val {} (u8 o.pk.params 1)).isOpen = true ∧
          (t.cmd.sessions.val {} (u8 o.pk.params 1)).high = 0 ∧ (t.cmd.sessions.val {} (u8 o.pk.params 1)).window = 0 ∧
          t.answered o.pk stOk (fit 16 svc.out)) ∧
        (o.code = 0x0D02 → u8 o.pk.params 0 = 0 → t.bam.slots = s.bam.slots ∧ t.answered o.pk stOk (leBytes 4 0)) ∧
        (o.code = 0x0D02 → u8 o.pk.params 0 = 4 → (t.bam.slots.val {} (u16 o.pk.params 2)).type = 0 ∧
          (t.bam.slots.val {} (u16 o.pk.params 2)).seq =
            max (s.bam.slots.val {} (u16 o.pk.params 2)).seq (s.bam.other.val {} (u16 o.pk.params 2)).seq + 1 ∧
          t.bam.stage = [] ∧ t.answered o.pk stOk (leBytes 4 (t.bam.slots.val {} (u16 o.pk.params 2)).seq)) ∧
        (o.code = 0x0D06 → t.bam.lc = u8 o.pk.params 0 ∧ t.bam.count = s.bam.count + 1 ∧ t.bam.kr = [] ∧
          t.cmd.sessions = [] ∧ (∀ e ∈ t.bam.slots, e.1 < 16 ∨ e.2.epoch = t.epoch) ∧
          (u8 o.pk.params 0 = 4 → t.bam.slots = []) ∧ t.answered o.pk stOk []) ∧
        (o.code = 0x0D07 → u8 o.pk.params 0 = 0 → t.bam.policy = u8 o.pk.params 1 ∧ t.bam.armed = u8 o.pk.params 2 ∧
          t.answered o.pk stOk []) ∧
        (o.code = 0x0D07 → u8 o.pk.params 0 ≠ 0 → t.bam.locked = false ∧ t.answered o.pk stOk []))

/-- R451, R456, R457, R465 to R468. Device phases of an alarm: 0 running, 1 start, 2 SLEEP, 3 key operation. -/
def Obligations.BamlysAndTamper : Prop :=
  ∀ (s : State),
    (∀ fails recovered store meas, s.dev.state = .starting → s.pwr.refOk = true → s.bam.serving = false →
      s.bam.halted = false → s.bam.bootRetry = none →
      (∃ t, exec (.bamlysStart fails recovered store meas true) s = .next t ∧ t.bam.serving = true ∧
        t.bam.measurement = fit 48 meas ∧ t.bam.kr = [] ∧ t.bam.alarmsDue = [] ∧
        (s.bam.known = true → s.bam.policyDue = false → t.bam.lc = s.bam.lc ∧
          (t.bam.rootOk = true ↔ s.bam.lc ≠ 4 ∧
            ((s.bam.lc = 0 ∧ s.bam.helper = false) ∨ (s.bam.helper = true ∧ fails < 3))))) ∧
      (∃ t, exec (.bamlysStart fails recovered store meas false) s = .next t ∧ t.bam.serving = false ∧ t.bam.halted = true ∧
        ∀ o ∈ t.cmd.async, (o.code / 256 == 0x0D && o.started) = false)) ∧
    (∀ cause fwOk fails recovered meas, s.powered = true → s.bam.serving = true → s.bam.halted = false → cause ≤ 2 →
      ∃ t, exec (.bamlysRestart cause fwOk fails recovered meas) s = .next t ∧ t.bam.restarts = sat16 s.bam.restarts ∧
        t.bam.lastRestart = s.et ∧ t.bam.kr = [] ∧ t.bam.stage = [] ∧ t.bam.measurement = fit 48 meas ∧
        t.bam.restartAt = s.et :: s.bam.restartAt.filter (fun e => decide (s.et < e + 60000000000)) ∧
        (∀ o ∈ t.cmd.async, (o.code / 256 == 0x0D && o.started) = false) ∧
        ((4 ≤ t.bam.restartAt.length ∨ fwOk = false) → t.bam.halted = true ∧ t.bam.serving = false) ∧
        (t.bam.restartAt.length < 4 → fwOk = true → t.bam.halted = false ∧ t.bam.serving = true)) ∧
    (s.bam.serving = true → ∃ t, exec .keyRegisterRemask s = .next t ∧ t.bam = { s.bam with remasks := wrap32 s.bam.remasks }) ∧
    (∀ p an scs xpn k, p < 12 → an < 4 → (s.swPort p).cfg.macsec = true → s.bam.serving = true → s.bam.halted = false →
      s.bam.locked = false → s.portUp p = true → k < 238 →
      ((s.keySlot (18 + k)).type ≠ 0 ∧ s.mayUse (s.keySlot (18 + k)) 5 = true ∧ (s.keySlot (18 + k)).bindKind = 2 ∧
        (s.keySlot (18 + k)).bindIdx = p) →
      ∃ t, exec (.mkaSakInstall p an scs xpn) s = .next t ∧ (t.swPort p).secTx = true ∧ (t.swPort p).txAn = an ∧
        (t.swPort p).txPn = 1 ∧ (t.swPort p).xpn = xpn ∧ p ∉ t.bam.mkaWait) ∧
    (∀ src phase b, s.bam.armed.testBit src = false → exec (.tamperAlarm src phase b) s = .next s) ∧
    (∀ src b, src ≤ 4 → s.bam.armed.testBit src = true →
      (s.active = true → ∃ t, exec (.tamperAlarm src 0 b) s = .next t ∧ t.bam.alarms = sat16 s.bam.alarms ∧
        t.bam.log = (⟨src, 0, s.rtcNs⟩ :: s.bam.log).take 8 ∧
        (s.bam.policy = 1 → t.bam.locked = true ∧ t.bam.lc = s.bam.lc) ∧ (s.bam.policy = 2 → t.bam.lc = 4) ∧
        (s.bam.policy = 0 → t.bam.locked = s.bam.locked ∧ t.bam.lc = s.bam.lc)) ∧
      (s.dev.state = .starting → s.bam.serving = false → s.bam.halted = false →
        ∃ t, exec (.tamperAlarm src 1 b) s = .next t ∧ t.bam.log = (⟨src, 1, s.rtcNs⟩ :: s.bam.log).take 8 ∧
          (s.bam.bootAlarms = 0 → t.dev.state = .starting ∧ t.bam.bootRetry = some (s.et + 100000000)) ∧
          (1 ≤ s.bam.bootAlarms → t.dev.state = .standby ∧ t.dev.lockout = true)) ∧
      (s.dev.state = .sleep → ∃ t, exec (.tamperAlarm src 2 b) s = .next t ∧
        t.bam.log = (⟨src, 2, s.rtcNs⟩ :: s.bam.log).take 8 ∧ t.bam.policyDue = true ∧
        t.wake.map = setBit s.wake.map (wakeBit 0x50) true) ∧
      (∀ o, s.active = true → bamFirst s.bamQueue = some o → keyOperation o.code = true → s.bam.serving = true →
        (¬ (b = true ∧ writesRecord o.code o.pk.params = true) → ∃ t, exec (.tamperAlarm src 3 b) s = .next t ∧
          t.cmd.async = s.cmd.async.erase o ∧ t.bam.kr = [] ∧ t.bam.keyAborts = sat16 s.bam.keyAborts) ∧
        (b = true → writesRecord o.code o.pk.params = true → ∃ t, exec (.tamperAlarm src 3 b) s = .next t ∧
          t.cmd.async = s.cmd.async ∧ t.bam.policyAfter = true ∧ t.bam.lc = s.bam.lc))) ∧
    (∀ at_, s.bam.bootRetry = some at_ → at_ ≤ s.et → ∃ t, exec .tamperBootRetry s = .next t ∧ t.bam.bootRetry = none)

/-- An update command that writes the slot state record and has not written it. -/
def updWaits (o : Outst) : Bool :=
  o.started && (o.code == 0x0E01 || o.code == 0x0E03 || o.code == 0x0E04 || o.code == 0x0E05)

/-- R482 to R487, R497, R549. Slot states: 2 SKETCH, 3 PENDING, 4 TRIAL, 5 ACTIVE, 7 FAILED; palette slot states: 1 loading,
2 LOADED. -/
def Obligations.StartAndUpdate : Prop :=
  ∀ (s : State),
    (∀ record r i j, s.dev.state = .starting → s.pwr.refOk = false → s.bam.bootRetry = none →
      r = (if s.upd.known = true then s.upd.record else record) → ((i = 0 ∧ j = 1) ∨ (i = 1 ∧ j = 0)) →
      let at_ := fun (q : SlotRecord) n => if n = 0 then q.a else q.b
      ((at_ r i).st = 3 → (at_ r j).st ≠ 3 → (at_ r j).st ≠ 4 → 0 < (at_ r i).trialStarts →
        ∃ t, exec (.referenceQualified record) s = .next t ∧ t.pwr.refOk = true ∧ t.dev.state = .starting ∧ t.dev.activeSlot = i ∧
          t.upd.started = some i ∧ at_ t.upd.record i = { at_ r i with st := 4, trialLeft := (at_ r i).trialStarts - 1 } ∧
          at_ t.upd.record j = at_ r j) ∧
      ((at_ r i).st = 4 → (at_ r j).st ≠ 3 → (at_ r j).st ≠ 4 → 0 < (at_ r i).trialLeft →
        ∃ t, exec (.referenceQualified record) s = .next t ∧ t.pwr.refOk = true ∧ t.dev.state = .starting ∧ t.dev.activeSlot = i ∧
          t.upd.started = some i ∧ at_ t.upd.record i = { at_ r i with trialLeft := (at_ r i).trialLeft - 1 } ∧
          at_ t.upd.record j = at_ r j) ∧
      ((at_ r i).st = 4 → (at_ r j).st = 5 → (at_ r i).trialLeft = 0 →
        ∃ t, exec (.referenceQualified record) s = .next t ∧ t.dev.state = .starting ∧ t.dev.activeSlot = j ∧
          t.upd.started = some j ∧ t.upd.fallback = some (j, 0) ∧ t.upd.record.fallbacks = sat16 r.fallbacks ∧
          at_ t.upd.record i = { at_ r i with st := 7 } ∧ at_ t.upd.record j = at_ r j) ∧
      ((at_ r i).st = 5 → (at_ r j).st ≠ 3 → (at_ r j).st ≠ 4 → (at_ r j).st ≠ 5 →
        ∃ t, exec (.referenceQualified record) s = .next t ∧ t.dev.state = .starting ∧ t.dev.activeSlot = i ∧
          t.upd.started = some i ∧ t.upd.record = r) ∧
      ((at_ r i).st ∉ [3, 4, 5] → (at_ r j).st ∉ [3, 4, 5] →
        ∃ t, exec (.referenceQualified record) s = .next t ∧ t.dev.state = .standby)) ∧
    (s.dev.state = .starting → s.pwr.refOk = false → s.bam.bootRetry = none → s.dev.startEt + 5000000 ≤ s.et →
      s.bam.serving = false → s.bam.armed.testBit 2 = true → ∃ t, exec .referenceTimeout s = .next t ∧
        (s.bam.bootAlarms = 0 → t.dev.state = .starting ∧ t.bam.bootRetry = some (s.et + 100000000)) ∧
        (1 ≤ s.bam.bootAlarms → t.dev.state = .standby ∧ t.dev.lockout = true)) ∧
    (∀ g i, s.dev.state = .starting → s.pwr.refOk = true → s.dev.mcoreUp = false → s.upd.started = some i → i ≤ 1 →
      s.bam.bootRetry = none → (s.bam.serving = true ∨ s.bam.halted = true) →
      (s.imageCode g = 0 → ∃ t, exec (.mcoreFirmwareStart g true) s = .next t ∧ t.dev.state = .starting ∧ t.dev.mcoreUp = true ∧
        t.dev.imageId = g.imageId ∧ t.dev.imageVersion = g.version ∧ t.dev.fwVersion = g.firmware ∧
        t.easel.canvasLen = g.canvasUs * 125 ∧ (t.slot 0).st = 1 ∧ t.upd = s.upd) ∧
      (∀ ok, (ok = false ∨ s.imageCode g ≠ 0) →
        ((s.slotRec i).st = 4 → (s.slotRec (1 - i)).st = 5 → ∃ t, exec (.mcoreFirmwareStart g ok) s = .next t ∧
          t.dev.state = .starting ∧ t.upd.started = some (1 - i) ∧ (t.slotRec i).st = 7 ∧ t.upd.fallback = some (1 - i, 1)) ∧
        ((s.slotRec i).st = 4 → (s.slotRec (1 - i)).st ≠ 5 → ∃ t, exec (.mcoreFirmwareStart g ok) s = .next t ∧
          t.dev.state = .standby ∧ (t.slotRec i).st = 7))) ∧
    (s.dev.state = .starting → s.dev.mcoreUp = true → s.dev.loadsDone = false → ∃ t, exec .startLoadComplete s = .next t ∧
      t.dev.loadsDone = true ∧ t.dev.state = .starting ∧ (t.slot 0).st = 2 ∧ (t.slot 0).strokes = (s.palSection 0).strokes) ∧
    (∀ c, s.upd.committing = true → s.feedBelow6 = false → (s.slotRec s.spareSlot).st = 1 →
      (c.digestOk = false → ∃ t, exec (.chunkCommit c) s = .next t ∧ t.upd.staged = [] ∧ t.upd.committing = false ∧
        t.upd.record = { s.upd.record with digestFails := sat16 s.upd.record.digestFails } ∧ t.upd.flash = s.upd.flash ∧
        ∀ o ∈ t.cmd.async, (o.code == 0x0E02 && o.started) = false) ∧
      (c.digestOk = true → (s.slotRec s.spareSlot).committed ≠ 0 → ∃ t, exec (.chunkCommit c) s = .next t ∧
        t.upd.staged = [] ∧ t.upd.committing = false ∧
        t.upd.flash = s.upd.flash.put [] (s.spareSlot * 192 + (s.slotRec s.spareSlot).committed) s.upd.staged ∧
        (t.slotRec s.spareSlot).committed = (s.slotRec s.spareSlot).committed + 1 ∧
        (∀ o ∈ t.cmd.async, (o.code == 0x0E02 && o.started) = false) ∧
        (t.slotRec s.spareSlot).st = (if (s.slotRec s.spareSlot).committed + 1 ≠ (s.slotRec s.spareSlot).chunks then 1
          else if s.acceptCode c.accept = 0 then 2 else 7))) ∧
    (∀ at_, s.upd.healthEnd = some at_ → at_ ≤ s.et → s.active = true → (s.slotRec s.dev.activeSlot).st = 4 →
      ∃ t, exec .healthExpired s = .next t ∧ (t.slotRec s.dev.activeSlot).st = 7 ∧ t.upd.healthEnd = none ∧
        t.dev.state = s.dev.state) ∧
    (∀ at_, s.upd.activateAt = some at_ → at_ ≤ s.et → s.active = true → ∃ t, exec .activateReset s = .next t ∧
      t.dev.state = .starting ∧ t.dev.startCause = 2 ∧ t.dev.armed = false) ∧
    (∀ r, s.dev.resetPend = some r → r.due ≤ s.et → s.active = true →
      (r.scope = 1 → ∃ t, exec .resetDelayExpiry s = .next t ∧ t.dev.state = .starting ∧ t.dev.startCause = 2 ∧
        t.dev.armed = false) ∧
      (r.scope = 2 → ∃ t, exec .resetDelayExpiry s = .next t ∧ t.dev.armed = s.dev.armed) ∧
      (r.scope = 3 → ∃ t, exec .resetDelayExpiry s = .next t ∧ t.swc.fdb = [] ∧ t.swc.frames = [])) ∧
    (∀ v o, 600 ≤ v → s.cmd.async.filter updWaits = [o] → ∃ t, exec (.flashWriteResume v) s = .next t ∧
      (∀ m ∈ t.cmd.async, updWaits m = false) ∧ (o.code = 0x0E03 → (t.slotRec s.spareSlot).st = 3))

/-- R499 to R508. Phases of a sleep request: 1 PREP, 2 ARMING, 3 ARMED, 4 past the commit point. -/
def Obligations.SleepAndWake : Prop :=
  ∀ (s : State),
    (s.wake.phase = 1 → s.wake.slot3 = 1 → s.wake.prepFrom = none → s.wake.acceptEt + 1000000000 ≤ s.et →
      ∃ t, exec .prepFallbackTimeout s = .next t ∧
        t.wake = { s.wake with prepFrom := some (s.wake.acceptEt + 1000000000) }) ∧
    (∀ start, s.wake.phase = 1 → s.wake.prepFrom = some start → start + s.wake.prepMs * 1000000 ≤ s.et →
      (∀ n, n < 4 → s.curSet.wki.testBit n = true → (s.wki n).enabled = true → (s.wki n).level = true → s.wkiOn n = false) →
      ∃ t, exec .sleepArming s = .next t ∧ t.wake.armEt = s.et ∧
        (∀ n, n < 16 → s.curSet.can.testBit n = true → (s.canOf n).cfg.enabled = true →
          (t.canOf n).st = 4 ∧ (t.canOf n).armed = true) ∧
        (∀ n, n < 12 → s.curSet.lin.testBit n = true → (s.linOf n).cfg.enabled = true → (t.linOf n).st = 2) ∧
        (∀ p, p < 12 → s.curSet.ports.testBit p = true → (s.prtOf p).cfg.enabled = true → (s.prtOf p).st ≠ 3 →
          t.wake.phase = 2 ∧ p ∈ t.wake.tc10Wait ∧ (t.prtOf p).sleepDue.isSome = true) ∧
        ((∀ p, p < 12 → s.curSet.ports.testBit p = true → (s.prtOf p).cfg.enabled = true → (s.prtOf p).st = 3) →
          s.wake.tc10Wait = [] → t.wake.phase = 3)) ∧
    (s.wake.phase = 4 → s.dev.state = .sleepPrep → ∃ t, exec .sleepEntered s = .next t ∧ t.dev.state = .sleep ∧
      t.wake.phase = 0) ∧
    (∀ n level, n < 4 → (s.wki n).enabled = true → s.dev.state ≠ .off →
      (s.wake.wkiLevel.testBit n = level → exec (.wakeLine n level) s = .next s) ∧
      (s.wake.wkiLevel.testBit n ≠ level →
        (level ≠ (s.wki n).high → ∃ t, exec (.wakeLine n level) s = .next t ∧
          t.wake = { s.wake with wkiLevel := setBit s.wake.wkiLevel n level } ∧ t.dev.state = s.dev.state) ∧
        (level = (s.wki n).high → s.dev.state = .sleep → ∃ t, exec (.wakeLine n level) s = .next t ∧
          t.wake.map = setBit s.wake.map (wakeBit (0x10 + n)) true ∧ t.dev.state = .sleep ∧
          (s.wake.map = 0 → t.wake.first = 0x10 + n ∧ t.wake.firstRtc = s.rtcNs)) ∧
        (level = (s.wki n).high → s.beforeCommit = true → s.curSet.wki.testBit n = true →
          ∃ t, exec (.wakeLine n level) s = .next t ∧ (t.dev.state = .run ∨ t.dev.state = .degraded) ∧ t.wake.phase = 0 ∧
            ∀ o ∈ t.cmd.async, (o.code == 0x0F01 && u8 o.pk.params 0 == 0) = false) ∧
        (level = (s.wki n).high → s.beforeCommit = true → s.curSet.wki.testBit n = false →
          ∃ t, exec (.wakeLine n level) s = .next t ∧ t.dev.state = .sleepPrep ∧ t.wake.phase = s.wake.phase ∧
            t.wake.map = setBit s.wake.map (wakeBit (0x10 + n)) true) ∧
        (level = (s.wki n).high → s.dev.state = .standby → s.dev.lockout = false →
          ∃ t, exec (.wakeLine n level) s = .next t ∧ t.dev.state = .starting ∧ t.dev.startCause = 4))) ∧
    (s.dev.state = .sleep → s.wake.map ≠ 0 → ∃ t, exec .wakeFromSleep s = .next t ∧ t.dev.state = .starting ∧
      t.dev.startCause = 1 ∧ t.dev.wokenDue = true ∧ t.wake.map = s.wake.map) ∧
    (∀ n, (s.wko n).pulseEnd ≠ 0 → (s.wko n).pulseEnd ≤ s.rtcNs → ∃ t, exec (.wkoPulseEnd n) s = .next t ∧
      (t.wko n).active = false ∧ (t.wko n).pulseEnd = 0)

/-- R521 to R534. -/
def Obligations.CrossingsAndErrors : Prop :=
  ∀ (s : State), s.powered = true →
    (∃ t, exec .bridgeRetry s = .next t ∧ t.flt = { s.flt with
      bridgeRetries := sat16 s.flt.bridgeRetries, tokenHost := !s.flt.tokenHost }) ∧
    (∀ w x isLoad, x ≤ 10 → (holdMode x = true → s.clockRuns x = false) →
      (holdMode x = true → isLoad = false → (s.flt.hold.val [] x).length < 8 → exec (.busTimeout w x isLoad) s =
        .next { s with flt := { s.flt with hold := s.flt.hold.put [] x (s.flt.hold.val [] x ++ [w]) } }) ∧
      (s.injected 2 w.addr 0 = false → (holdMode x = false ∨ isLoad = true ∨ 8 ≤ (s.flt.hold.val [] x).length) →
        ∃ t r, exec (.busTimeout w x isLoad) s = .next t ∧ t.flt.bridgeTimeouts = sat16 s.flt.bridgeTimeouts ∧
          t.flt.recent = (r :: s.flt.recent).take 1024 ∧ r.cls = 5 ∧ r.level = 0 ∧
          r.part = (if w.init < 16 then w.init else 0x1F) ∧ r.seq = s.flt.nextSeq ∧
          (w.init < 16 → isLoad = true → (t.fltPart w.init).loadErrors = sat16 (s.fltPart w.init).loadErrors) ∧
          (w.init < 16 → isLoad = false → (t.part w.init).postedErrors = sat32 (s.part w.init).postedErrors))) ∧
    (∀ x, holdMode x = true → s.clockRuns x = true → ∃ t, exec (.holdBufferDrain x) s = .next t ∧
      t.flt.hold.val [] x = [] ∧ ∀ w, s.flt.hold.val [] x = [w] → w.isWrite = true → inDram w.addr = true →
        memRead t.mem w.addr w.size = leBytes w.size w.data) ∧
    (∀ src, s.injected 3 0 0 = false → ∃ t r, exec (.cdcOverrun src) s = .next t ∧
      t.flt.cdcOverruns = sat16 s.flt.cdcOverruns ∧ src ∈ t.flt.cdcSticky ∧
      t.flt.recent = (r :: s.flt.recent).take 1024 ∧ r.cls = 6 ∧ r.level = 0) ∧
    (∃ t, exec (.patrolScrub false) s = .next t ∧ t.flt = { s.flt with scrubs := s.flt.scrubs + 1 }) ∧
    (∃ t, exec (.patrolScrub true) s = .next t ∧ t.flt = { s.flt with dramScrubs := s.flt.dramScrubs + 1 }) ∧
    (∀ mem a, mem ≤ 10 → s.injected 0 a 0 = false → s.flt.inject = none → ∃ t, exec (.eccCorrected mem a) s = .next t ∧
      t.flt.eccCorr = s.flt.eccCorr.put 0 mem (sat16 (s.flt.eccCorr.val 0 mem)) ∧
      (0x201, 1 + 16 * mem, 0xFF) ∈ t.dev.onceCanvas ∧ t.flt.recent = s.flt.recent) ∧
    (∀ mem a, mem ≤ 10 → s.injected 1 a 0 = false →
      (mem ≠ 7 → ∃ t, exec (.eccUncorrectable mem a) s = .next t ∧
        t.flt.eccUncorr = s.flt.eccUncorr.put 0 mem (sat16 (s.flt.eccUncorr.val 0 mem)) ∧
        (mem = 2 ∨ mem = 8 → eccUnit a ∈ t.flt.poison) ∧
        (mem = 4 → ∃ r, t.flt.held = s.flt.held ++ [⟨r, s.et + 40000000⟩] ∧ r.cls = 4 ∧ t.flt.recent = s.flt.recent) ∧
        (mem ≠ 4 → ∃ r, t.flt.recent = (r :: s.flt.recent).take 1024 ∧ r.cls = 4 ∧ r.seq = s.flt.nextSeq) ∧
        (mem = 3 → t.easel.blocks = s.easel.blocks.eraseIdx (a / 16384))) ∧
      (mem = 7 → ∃ t, exec (.eccUncorrectable mem a) s = .next t ∧ t.dev.state = .starting ∧ t.dev.startCause = 3)) ∧
    (∀ p a, s.poisoned a 1 = true → p < 16 → s.grantOf a < 16 →
      ∃ t, exec (.poisonRead p a) s = .next t ∧
        (t.fltPart (s.grantOf a)).poisonReads = sat16 (s.fltPart (s.grantOf a)).poisonReads ∧
        (t.fltPart p).loadErrors = sat16 (s.fltPart p).loadErrors) ∧
    (∀ h, s.flt.held.find? (fun h => decide (h.due ≤ s.et)) = some h → ∃ t r, exec .faultReport s = .next t ∧
      t.flt.held = s.flt.held.erase h ∧ t.flt.recent = (r :: s.flt.recent).take 1024 ∧ r.level = h.rep.level ∧
      r.attempts = h.rep.attempts ∧ r.seq = h.rep.seq ∧ r.actionEt = s.et) ∧
    (s.dev.mcoreUp = true → s.flt.wdog + 100000000 ≤ s.et → ∃ t, exec .mcoreWatchdogExpiry s = .next t ∧
      t.dev.state = .starting ∧ t.dev.startCause = 3) ∧
    (s.flt.lastFlush + 100000000 ≤ s.et → ∃ t, exec .logFlush s = .next t ∧ t.flt.buffer = [] ∧ t.flt.lastFlush = s.et ∧
      t.flt.log = (if 2097152 < (s.flt.buffer ++ s.flt.log).length then (s.flt.buffer ++ s.flt.log).take (2097152 - 4096)
        else s.flt.buffer ++ s.flt.log))

/-- R229 to R234, in terms of the action that OpenStrokeRunsHead runs. -/
def Obligations.LoadCommandActions : Prop :=
  ∀ (pk : Packet) (s : State) (i : Nat), i < 56 → (s.chan i).cfg.enabled = true → u16 pk.params 0 = i →
    (s.inertOut i = true → lswSetSpec.act pk s = if u8 pk.params 2 = 1 then fail 0x0606 s else ok s) ∧
    (s.inertOut i = false →
      (u8 pk.params 2 ≠ 1 → ∃ t, lswSetSpec.act pk s = ⟨t, some (if s.protHeld i then 0x0600 else stOk, [])⟩ ∧
        (t.chan i).cmd = 0 ∧ (t.chan i).duty = 0 ∧ (t.chan i).o.on = false ∧ (t.chan i).o.acct = none) ∧
      (u8 pk.params 2 = 1 → (s.chan i).cmd = 0 → s.classShed (feedOf i) (s.chan i).cfg.loadClass = false →
        (s.protHeld i = false → s.admits (feedOf i) 1 (s.chan i).cfg.largest = true → ∃ t, lswSetSpec.act pk s = ⟨t, some (stOk, [])⟩ ∧
          (t.chan i).cmd = 1 ∧ (t.chan i).duty = 65535 ∧ (t.chan i).o.on = true ∧ (t.chan i).o.acct = some 1) ∧
        (s.protHeld i = true → s.admits (feedOf i) 1 (s.chan i).cfg.steady = true → ∃ t, lswSetSpec.act pk s = ⟨t, some (0x0600, [])⟩ ∧
          (t.chan i).cmd = 1 ∧ (t.chan i).o = { (s.chan i).o with acct := some 1 }) ∧
        (s.admits (feedOf i) 1 (if s.protHeld i then (s.chan i).cfg.steady else (s.chan i).cfg.largest) = false →
          ∃ t, lswSetSpec.act pk s = ⟨t, some (stNoResource, [])⟩ ∧ t.chan i = { s.chan i with safe := false } ∧
            (t.feed (feedOf i)).refusals = sat16 (s.feed (feedOf i)).refusals))) ∧
    ((s.chan i).cfg.minPeriod ≠ 0 → u16 pk.params 6 < (s.chan i).cfg.minPeriod → lswSetPwmSpec.act pk s = fail stContract s) ∧
    (((s.chan i).cfg.minPeriod = 0 ∨ (s.chan i).cfg.minPeriod ≤ u16 pk.params 6) → s.inertOut i = false →
      u16 pk.params 4 ≠ 0 → u16 pk.params 4 ≠ 65535 → u16 pk.params 6 ≠ 0 → (s.chan i).cmd = 0 →
      s.classShed (feedOf i) (s.chan i).cfg.loadClass = false → s.protHeld i = false →
      (s.admits (feedOf i) 1 (s.chan i).cfg.largest = true → ∃ t, lswSetPwmSpec.act pk s = ⟨t, some (stOk, [])⟩ ∧
        (t.chan i).cmd = 2 ∧ (t.chan i).duty = u16 pk.params 4 ∧ (t.chan i).period = u16 pk.params 6 ∧
        (t.chan i).o.pend = true ∧ (t.chan i).o.acct = some 1) ∧
      (s.admits (feedOf i) 1 (s.chan i).cfg.largest = false → ∃ t, lswSetPwmSpec.act pk s = ⟨t, some (stNoResource, [])⟩ ∧
        t.chan i = { s.chan i with safe := false })) ∧
    (let sel := u8 pk.params 2
     let beyond := (sel.testBit 3 && decide ((s.chan i).cfg.imgRetry < u8 pk.params 14)) ||
       (sel.testBit 2 && !envWithin (s.chan i).cfg (u16 pk.params 6) (u16 pk.params 8) (u16 pk.params 10) (u16 pk.params 12))
     (beyond = true → lswConfigSpec.act pk s = fail stContract s) ∧
     (beyond = false → ∃ t, lswConfigSpec.act pk s = ok t ∧ (∀ j, j ≠ i → t.chan j = s.chan j) ∧
       t.prot = s.prot ∧ (t.chan i).cmd = (s.chan i).cmd ∧ (t.chan i).o = (s.chan i).o ∧
       (t.chan i).cfg.slew = (if sel.testBit 0 then u8 pk.params 3 else (s.chan i).cfg.slew) ∧
       (t.chan i).cfg.limit = (if sel.testBit 1 && (s.chan i).o.step == 0 then u16 pk.params 4 else (s.chan i).cfg.limit) ∧
       (sel.testBit 1 = true → (s.chan i).o.step ≠ 0 → (t.chan i).nextLimit = some (u16 pk.params 4)) ∧
       ((t.chan i).cfg.s1c, (t.chan i).cfg.s1d, (t.chan i).cfg.s2c, (t.chan i).cfg.s2d) =
         (if sel.testBit 2 then (u16 pk.params 6, u16 pk.params 8, u16 pk.params 10, u16 pk.params 12)
          else ((s.chan i).cfg.s1c, (s.chan i).cfg.s1d, (s.chan i).cfg.s2c, (s.chan i).cfg.s2d)) ∧
       (t.chan i).cfg.retryN = (if sel.testBit 3 then u8 pk.params 14 else (s.chan i).cfg.retryN) ∧
       ((t.chan i).olEn, (t.chan i).olThr, (t.chan i).olFilter) =
         (if sel.testBit 4 then (u8 pk.params 15 == 1, u16 pk.params 16, u16 pk.params 18)
          else ((s.chan i).olEn, (s.chan i).olThr, (s.chan i).olFilter)))) ∧
    (∃ t, lswClearOcLatchSpec.act pk s = ok t ∧ (t.chan i).cmd = 0 ∧ (t.chan i).o.on = false ∧ (t.prot i).oc = 0 ∧ (t.prot i).att = 0 ∧
      (t.prot i).th = (s.prot i).th) ∧
    (∃ t, lswClearThermalLatchSpec.act pk s = ok t ∧ (t.chan i).cmd = 0 ∧ (t.chan i).o.on = false ∧
      (t.prot i).th = (if (s.prot i).tj ≤ 1500 ∧ (s.prot i).dt ≤ 400 then 0 else 1) ∧ (t.prot i).shutdowns = [] ∧
      (t.prot i).att = (s.prot i).att) ∧
    (∀ q, ∃ t, lswIsmSelectSpec.act q s = ok t ∧ t.lsw.ism = (if u16 q.params 0 = 0xFFFF then 0xFF else u16 q.params 0) ∧
      t.lsw.chans = s.lsw.chans ∧ t.lsw.prot = s.lsw.prot)

/-- R31, R61 to R63, R92 to R94, R281 and R282, in terms of the actions that ImmediateCommandsReply and OpenStrokeRunsHead run. -/
def Obligations.DeviceTimePowerActions : Prop :=
  ∀ (pk : Packet) (s : State),
    (∃ t, resetSpec.act pk s = ok t ∧ t.dev.resetPend = some ⟨u8 pk.params 0, s.et + u32 pk.params 4 * 1000⟩ ∧
      { t.dev with resetPend := s.dev.resetPend } = s.dev) ∧
    (armSpec.check pk s = if u32 pk.params 0 = s.dev.imageId then stOk else 0x0200) ∧
    (∃ t, armSpec.act pk s = ok t ∧ t.dev.armed = true ∧ { t with dev := s.dev } = s ∧ { t.dev with armed := s.dev.armed } = s.dev) ∧
    (∃ t, disarmSpec.act pk s = ok t ∧ t.dev.armed = false ∧
      (∀ i, i < 56 → (s.chan i).cfg.enabled = true → (t.chan i).cmd = 0 ∧ (t.chan i).o.on = false ∧ (t.chan i).o.acct = none) ∧
      (∀ b, b < 6 → (s.bridge b).cfg.enabled = true → (t.bridge b).cmd = 0 ∧ (t.bridge b).o.on = false ∧ (t.bridge b).o.acct = none) ∧
      (∀ n, (t.xo n).cmd = false ∧ (t.xo n).out = false ∧ (t.xo n).holdUntil = none) ∧
      (∀ n, (t.pg n).st = 0 ∧ (t.pg n).active = false)) ∧
    (∃ t, timeSetSourcesSpec.act pk s = ok t ∧
      (let g := t.time.cfg
       g.priGptp = u8 pk.params 0 ∧ g.priFr = u8 pk.params 1 ∧ g.priPps = u8 pk.params 2 ∧
       g.realignArmed = (u8 pk.params 3).testBit 0 ∧ g.ppsFalling = (u8 pk.params 3).testBit 1 ∧ g.primary = u8 pk.params 4 ∧
       g.hot = u8 pk.params 5 ∧ g.frCluster = u8 pk.params 6 ∧ g.stepThr = u32 pk.params 8 ∧ g.maxSlew = u16 pk.params 12 ∧
       g.revertMs = u16 pk.params 14 ∧ g.holdoverMs = s.time.cfg.holdoverMs ∧ g.portMask = s.time.cfg.portMask ∧
       g.roles = s.time.cfg.roles) ∧
      (u8 pk.params 0 = 0 → u8 pk.params 1 = 0 → u8 pk.params 2 = 0 →
        t.time.ztState = 4 ∧ t.time.rateAdj = 0 ∧ t.time.holdoverStart = none ∧ t.dev.causeTime = false)) ∧
    (∃ t, timeSetHoldoverSpec.act pk s = ok t ∧ t.time.cfg = { s.time.cfg with holdoverMs := u32 pk.params 0 } ∧
      (∀ a, s.time.holdoverStart = some a → a + u32 pk.params 0 * 1000000 ≤ s.et → t.time.holdoverStart = none ∧ t.dev.causeTime = true) ∧
      (∀ a, s.time.holdoverStart = some a → s.et < a + u32 pk.params 0 * 1000000 →
        t.time.holdoverStart = some a ∧ t.dev = s.dev)) ∧
    (∃ t, pgConfigSpec.act pk s = ok t ∧ (∀ n, n ≠ u8 pk.params 0 → t.pg n = s.pg n) ∧
      t.pg (u8 pk.params 0) = { s.pg (u8 pk.params 0) with
        configured := true, mode := u8 pk.params 1, polarity := u8 pk.params 2, width := u32 pk.params 4, period := u32 pk.params 8, count := u32 pk.params 12 }) ∧
    (let d := diff40 (u40 pk.params 3) s.et
     (d ≤ 0 → pgStartSpec.act pk s = fail 0x0302 s) ∧
     (0 < d → ∃ t, pgStartSpec.act pk s = ok t ∧ (∀ n, n ≠ u8 pk.params 0 → t.pg n = s.pg n) ∧
       t.pg (u8 pk.params 0) = { s.pg (u8 pk.params 0) with
         st := 1, start := ((s.et : Int) + d).toNat, next := ((s.et : Int) + d).toNat, pulses := 0, active := false, stopping := false })) ∧
    (let x := s.pg (u8 pk.params 0)
     ∃ t, pgStopSpec.act pk s = ok t ∧ (∀ n, n ≠ u8 pk.params 0 → t.pg n = s.pg n) ∧
      (x.st = 0 → t = s) ∧
      (x.st ≠ 0 → x.active = true → t.pg (u8 pk.params 0) = { x with stopping := true }) ∧
      (x.st ≠ 0 → x.active = false → t.pg (u8 pk.params 0) = { x with st := 0, active := false, stopping := false, next := 0 })) ∧
    (∃ t, pwrSetSagThresholdSpec.act pk s = ok t ∧
      t.feed 0 = { s.feed 0 with
        sagTh := (if u16 pk.params 0 = 0 then (s.feed 0).sagTh else u16 pk.params 0),
        crankTh := (if u16 pk.params 2 = 0 then (s.feed 0).crankTh else u16 pk.params 2) } ∧
      t.feed 1 = { s.feed 1 with sagTh := if u16 pk.params 4 = 0 then (s.feed 1).sagTh else u16 pk.params 4 }) ∧
    (∃ t, pwrUnlatchUvSpec.act pk s = ok t ∧
      (∀ f, f < 2 → t.feed f = if (u32 pk.params 0).testBit f then { s.feed f with uv := false } else s.feed f))

/-- An MBR command that turns the bridge off into mode `z` (R244): what it leaves and what it answers. -/
def offInto (s : State) (b z per : Nat) (r : ActRes) : Prop :=
  let held := s.protHeld (56 + b) || (s.bridge b).xlock
  ∃ t, r = ⟨t, some (if held then 0x0680 else stOk, [])⟩ ∧ (t.bridge b).cmd = z ∧ (t.bridge b).duty = 0 ∧
    (t.bridge b).o.on = false ∧ (t.bridge b).o.acct = none ∧ (t.bridge b).period = per ∧
    ((s.bridge b).stalled ≤ 2 → (t.bridge b).stalled = 0) ∧ (held = false → (t.bridge b).out = if z = 3 then 3 else 0)

/-- R238, R243, R244, R248, R252 and R253, in terms of the actions that OpenStrokeRunsHead runs. -/
def Obligations.BridgeCommandActions : Prop :=
  ∀ (pk : Packet) (s : State) (b : Nat), b < 6 → (s.bridge b).cfg.enabled = true → u8 pk.params 0 = b →
    (let x := s.bridge b
     let m := u8 pk.params 1
     let d := u16 pk.params 2
     let p := u32 pk.params 4
     let held := s.protHeld (56 + b) || x.xlock
     let per := if p = 0 then x.period else p
     let z := if x.zeroBrake then 3 else 0
     let short := p ≠ 0 ∧ x.cfg.minPeriod ≠ 0 ∧ p < x.cfg.minPeriod
     (short → mbrDriveSpec.act pk s = fail stContract s) ∧
     (¬ short → s.inertOut (56 + b) = true → mbrDriveSpec.act pk s = if m = 0 then ok s else fail 0x0688 s) ∧
     (s.inertOut (56 + b) = true → mbrBrakeSpec.act pk s = fail 0x0688 s) ∧
     (s.inertOut (56 + b) = false →
       offInto s b 3 x.period (mbrBrakeSpec.act pk s) ∧
       (¬ short →
         (m = 0 → offInto s b 0 per (mbrDriveSpec.act pk s)) ∧
         (m = 1 ∨ m = 2 → d = 0 → offInto s b z per (mbrDriveSpec.act pk s)) ∧
         (m = 1 ∨ m = 2 → d ≠ 0 → x.stalled = m → ∃ t, mbrDriveSpec.act pk s = ⟨t, some (0x0687, [])⟩ ∧
           (t.bridge b).cmd = m ∧ (t.bridge b).duty = d ∧ (t.bridge b).stalled = m ∧ (t.bridge b).o = x.o ∧ (t.bridge b).out = x.out) ∧
         (m = 1 ∨ m = 2 → d ≠ 0 → x.stalled = 0 → x.cmd = 0 ∨ x.cmd = 3 → x.out = 0 ∨ x.out = 3 → x.o.acct = none →
           (s.classShed 0 x.cfg.loadClass = true → ∃ t, mbrDriveSpec.act pk s = ⟨t, some (if held then 0x0680 else stOk, [])⟩ ∧
             (t.bridge b).cmd = m ∧ (t.bridge b).o.on = false ∧ (t.bridge b).o.shed = true ∧ (t.bridge b).o.acct = none) ∧
           (s.classShed 0 x.cfg.loadClass = false →
             (s.admits 0 1 (if held then x.cfg.steady else x.cfg.largest) = false → ∃ t, mbrDriveSpec.act pk s = ⟨t, some (stNoResource, [])⟩ ∧
               (t.bridge b).cmd = z ∧ (t.bridge b).o.on = false ∧ (t.bridge b).o.acct = none ∧ (t.bridge b).period = x.period ∧
               (t.feed 0).refusals = sat16 (s.feed 0).refusals) ∧
             (held = true → s.admits 0 1 x.cfg.steady = true → ∃ t, mbrDriveSpec.act pk s = ⟨t, some (0x0680, [])⟩ ∧
               (t.bridge b).cmd = m ∧ (t.bridge b).duty = d ∧ (t.bridge b).o.on = false ∧ (t.bridge b).o.acct = some 1) ∧
             (held = false → s.admits 0 1 x.cfg.largest = true → ∃ t, mbrDriveSpec.act pk s = ⟨t, some (stOk, [])⟩ ∧
               (t.bridge b).cmd = m ∧ (t.bridge b).duty = d ∧ (t.bridge b).period = per ∧ (t.bridge b).o.acct = some 1 ∧
               (if d ≠ 65535 ∧ per ≠ 0 then (t.bridge b).o.on = false ∧ (t.bridge b).o.pend = true ∧ (t.bridge b).out = 0
                else (t.bridge b).o.on = true ∧ (t.bridge b).out = m))))))) ∧
    (let sel := u16 pk.params 2
     let x := s.bridge b
     let ps := pk.params
     let beyond := (sel.testBit 3 && decide (x.cfg.imgRetry < u8 ps 5)) ||
       (sel.testBit 2 && !envWithin x.cfg (u16 ps 8) (u16 ps 10) (u16 ps 12) (u16 ps 14))
     let clear := sel.testBit 8 || sel.testBit 9 || sel.testBit 10
     (beyond = true → mbrConfigSpec.act pk s = fail stContract s) ∧
     (beyond = false → ∃ t, mbrConfigSpec.act pk s = ok t ∧ (∀ c, c ≠ b → t.bridge c = s.bridge c) ∧ (∀ i, t.chan i = s.chan i) ∧
       (t.bridge b).cfg.slew = (if sel.testBit 0 then u8 ps 4 else x.cfg.slew) ∧
       (t.bridge b).cfg.limit = (if sel.testBit 1 && x.o.step == 0 then u16 ps 6 else x.cfg.limit) ∧
       (sel.testBit 1 = true → x.o.step ≠ 0 → (t.bridge b).nextLimit = some (u16 ps 6)) ∧
       ((t.bridge b).cfg.s1c, (t.bridge b).cfg.s1d, (t.bridge b).cfg.s2c, (t.bridge b).cfg.s2d) =
         (if sel.testBit 2 then (u16 ps 8, u16 ps 10, u16 ps 12, u16 ps 14) else (x.cfg.s1c, x.cfg.s1d, x.cfg.s2c, x.cfg.s2d)) ∧
       (t.bridge b).cfg.retryN = (if sel.testBit 3 then u8 ps 5 else x.cfg.retryN) ∧
       (t.bridge b).dead = (if sel.testBit 4 then u16 ps 16 else x.dead) ∧
       ((t.bridge b).stallThr, (t.bridge b).stallFilter, (t.bridge b).stallEn) =
         (if sel.testBit 5 then (u16 ps 18, u16 ps 20, u8 ps 22 == 1) else (x.stallThr, x.stallFilter, x.stallEn)) ∧
       (clear = false → (t.bridge b).cmd = x.cmd ∧ (t.bridge b).o = x.o ∧ t.lsw.prot = s.lsw.prot) ∧
       (clear = true → (t.bridge b).cmd = 0 ∧ (t.bridge b).duty = 0 ∧ (t.bridge b).o.on = false ∧ (t.bridge b).o.acct = none) ∧
       (sel.testBit 8 = true → ∀ i ∈ machines (56 + b), (t.prot i).oc ≠ 4) ∧
       (sel.testBit 9 = true → ∀ i ∈ machines (56 + b), (t.prot i).th ≠ 2) ∧
       (sel.testBit 10 = true → (t.bridge b).xlock = false)))

/-- R199, R200, R317 to R319, R327, R331, R350, R356 to R358, R384 and R385, in terms of the actions that OpenStrokeRunsHead,
ImmediateCommandsReply and AsyncCommandsAreAccepted run. -/
def Obligations.NetworkCommandActions : Prop :=
  ∀ (pk : Packet) (s : State), let ps := pk.params
    (∃ t, gwSignalForceSpec.act pk s = ok t ∧ (∀ g, g ≠ u32 ps 0 → t.sigStat g = s.sigStat g) ∧
      t.sigStat (u32 ps 0) = { s.sigStat (u32 ps 0) with force := u8 ps 4, forceVal := u64 ps 8 }) ∧
    (∃ t, gwWakeRouteSetSpec.act pk s = ok t ∧ ((u32 ps 0, u16 ps 6) ∈ t.gw.wakeRoutes ↔ u8 ps 4 = 1) ∧
      (∀ w, w ≠ (u32 ps 0, u16 ps 6) → (w ∈ t.gw.wakeRoutes ↔ w ∈ s.gw.wakeRoutes))) ∧
    (let mac := beNat ((ps.drop 4).take 6)
     let new : FdbEnt := { mac := mac, fid := u16 ps 10, ports := u32 ps 12, type := 2, flags := u8 ps 17, seen := 0 }
     (∀ i, s.fdbFind mac (u16 ps 10) = some i → ∃ t, swcFdbWriteSpec.act pk s = ok t ∧
       t.swc.fdb.val {} i = (if u8 ps 0 = 1 then {} else new) ∧ (∀ j, j ≠ i → t.swc.fdb.val {} j = s.swc.fdb.val {} j)) ∧
     (∀ i, s.fdbFind mac (u16 ps 10) = none →
       (upFrom (State.bucketOf mac (u16 ps 10) * 8) 8).find? (fun i => (s.swc.fdb.val {} i).type == 0) = some i →
       ∃ t, swcFdbWriteSpec.act pk s = ok t ∧ t.swc.fdb.val {} i = new ∧ (∀ j, j ≠ i → t.swc.fdb.val {} j = s.swc.fdb.val {} j))) ∧
    (let hit := fun (e : FdbEnt) =>
       ((e.type = 3 ∧ (u8 ps 0).testBit 0 = true) ∨ (e.type = 2 ∧ (u8 ps 0).testBit 1 = true)) ∧
         (u8 ps 1 = 0xFF ∨ e.ports.testBit (u8 ps 1) = true) ∧ (u16 ps 2 = 0xFFFF ∨ e.fid = u16 ps 2)
     ∃ t, swcFdbFlushSpec.act pk s = ok t ∧ (∀ e, e ∈ t.swc.fdb ↔ e ∈ s.swc.fdb ∧ ¬ hit e.2)) ∧
    (∃ t, swcClearCountersSpec.act pk s = ok t ∧
      (∀ p, (u32 ps 0).testBit p = false → t.swPort p = s.swPort p) ∧
      (∀ p, (u32 ps 0).testBit p = true → (t.swPort p).rxFrames = 0 ∧ (t.swPort p).txFrames = 0 ∧ (t.swPort p).rxOctets = 0 ∧
        (t.swPort p).txOctets = 0 ∧ (t.swPort p).rxBad = 0 ∧ (t.swPort p).rxDiscard = 0 ∧ (t.swPort p).cfg = (s.swPort p).cfg) ∧
      t.swc.peak = (if (u32 ps 0).testBit 21 then s.cellsUsed else s.swc.peak) ∧
      t.swc.learnFail = (if (u32 ps 0).testBit 21 then 0 else s.swc.learnFail)) ∧
    (let p := u8 ps 0
     let x := s.prtOf p
     (x.st = 0 → ∃ t, prtEnableSpec.act pk s = (if u16 ps 2 = 0 then ok t else later t) ∧ (t.prtOf p).st = 1 ∧ (t.prtOf p).trainAt = s.et) ∧
     (x.st = 3 → ∃ t, prtEnableSpec.act pk s = ok t ∧ (t.prtOf p).st = 1 ∧ (t.prtOf p).wakes = sat16 x.wakes) ∧
     (x.st ≠ 0 → x.st ≠ 3 → x.sleepDue = none → prtEnableSpec.act pk s = ok s) ∧
     (∃ t, prtDisableSpec.act pk s = ok t ∧ (t.prtOf p).st = 0) ∧
     (∃ t, prtTc10SleepSpec.act pk s = later t ∧ t.prtOf p = { x with sleepDue := some (s.et + 16000000) }) ∧
     prtCableDiagSpec.act pk s = later s) ∧
    (let n := u8 ps 0
     let x := s.canOf n
     (∃ t, canSetFilterSpec.act pk s = ok t ∧ (∀ k, k ≠ u8 ps 1 → (t.canOf n).host.val {} k = x.host.val {} k) ∧
       (t.canOf n).host.val {} (u8 ps 1) = (if u8 ps 2 = 1 then
         { ch := n, formats := u8 ps 3, id := u32 ps 4, mask := u32 ps 8, toRing := true } else {})) ∧
     (u8 ps 1 = 2 → ∃ t, canSetWakeSpec.act pk s = ok t ∧ (x.st = 4 → (t.canOf n).st = 1 ∧ (t.canOf n).armed = false) ∧ (x.st ≠ 4 → t = s)) ∧
     (u8 ps 1 ≠ 2 → ∃ t, canSetWakeSpec.act pk s = ok t ∧ (t.canOf n).wakeCfg.mode = u8 ps 2 ∧ (t.canOf n).wakeCfg.id = u32 ps 4 ∧
       (t.canOf n).wakeCfg.mask = u32 ps 8 ∧ (u8 ps 1 = 1 → (t.canOf n).st = 4 ∧ (t.canOf n).armed = true) ∧
       (u8 ps 1 ≠ 1 → (t.canOf n).st = x.st)) ∧
     (∃ t, canRecoverSpec.act pk s = ok t ∧ (t.canOf n).recovering = true) ∧
     (∃ t, canTxSpec.act pk s = later t ∧ (t.canOf n).st = x.st ∧
       (t.canOf n).waiting = x.waiting ++ [{ entry := 0, frame := canTxFrame ps, cmd := some pk }])) ∧
    (let c := u8 ps 0
     let x := s.cluster c
     (x.poc = 2 ∨ x.poc = 14 → ∃ t, fryStartSpec.act pk s = (if u16 ps 2 = 0 then ok t else later t) ∧
       (t.cluster c).poc = (if u8 ps 1 ≠ 0 then 3 else if x.cfg.coldstart then 4 else 9)) ∧
     (u8 ps 1 = 0 → ∃ t, fryHaltSpec.act pk s = ok t ∧ t.cluster c = { x with haltAtEnd := true }) ∧
     (u8 ps 1 ≠ 0 → ∃ t, fryHaltSpec.act pk s = ok t ∧ (t.cluster c).poc = 14) ∧
     (∃ t, fryBranchEnableSpec.act pk s = ok t ∧
       (t.fryCh c).branches.val {} (u8 ps 1) = { (s.fryCh c).branches.val {} (u8 ps 1) with disabled := u8 ps 2 == 0 } ∧
       (∀ b, b ≠ u8 ps 1 → (t.fryCh c).branches.val {} b = (s.fryCh c).branches.val {} b))) ∧
    (let n := u8 ps 0
     let x := s.linOf n
     (x.st = 2 → ∃ t, linWakePulseSpec.act pk s = ok t ∧ (t.linOf n).st = 3 ∧ (t.linOf n).pulses = 1 ∧ (t.linOf n).wakes = sat16 x.wakes) ∧
     (x.st ≠ 2 → linWakePulseSpec.act pk s = ok s) ∧
     linTxSpec.act pk s = later s ∧ linGotoSleepSpec.act pk s = later s)

/-- R130, R131, R404, R405, R422, R423, R435, R486, R489, R497, R499, R503, R515 and R539, in terms of the actions that
ImmediateCommandsReply, OpenStrokeRunsHead and AsyncCommandsAreAccepted run. -/
def Obligations.SystemCommandActions : Prop :=
  ∀ (pk : Packet) (s : State), let ps := pk.params
    (∃ t, paletteUnloadSpec.act pk s = ok t ∧ t.slot (u8 ps 0) = {} ∧ (∀ n, n ≠ u8 ps 0 → t.slot n = s.slot n)) ∧
    (∃ t, paletteSwitchSpec.act pk s = later t ∧ t.easel.normal = u8 ps 0 ∧
      (∀ o ∈ t.cmd.async, o.code = 0x0202 → o.started = true → o.pk = pk ∨ s.easel.switchDue = some o.pk)) ∧
    (let n := u16 ps 0
     let sel := u8 ps 2
     let x := s.din n
     let beyond := sel.testBit 1 && (s.gw.triggers.any fun e => e.2.used && e.2.kind == 0 && e.2.source == n) && decide (x.imageK < u8 ps 4)
     (beyond = true → dioConfigSpec.act pk s = fail stContract s) ∧
     (beyond = false → ∃ t, dioConfigSpec.act pk s = ok t ∧ (∀ m, m ≠ n → t.din m = s.din m) ∧
       (t.din n).wetting = (if sel.testBit 0 then u8 ps 3 else x.wetting) ∧
       ((t.din n).k, (t.din n).cnt) = (if sel.testBit 1 then (u8 ps 4, 0) else (x.k, x.cnt)) ∧
       (t.din n).debounce = (if sel.testBit 2 then u16 ps 6 else x.debounce) ∧
       ((t.din n).rise, (t.din n).fall) = (if sel.testBit 3 then ((u8 ps 5).testBit 0, (u8 ps 5).testBit 1) else (x.rise, x.fall)) ∧
       ((t.din n).breakFilter, (t.din n).wb) = (if sel.testBit 4 then (u16 ps 10, if u16 ps 10 = 0 then 0 else x.wb) else (x.breakFilter, x.wb)) ∧
       (t.din n).sensorThr = (if sel.testBit 5 then u16 ps 8 else x.sensorThr) ∧
       (t.din n).xiType = (if sel.testBit 6 then u8 ps 12 else x.xiType) ∧
       (t.din n).filt = x.filt ∧ (t.din n).qual = x.qual)) ∧
    ((s.xoInert = true → dioSetXoSpec.act pk s = fail 0x0D02 s) ∧
     (s.xoInert = false → s.dio.barrierOk = false → ∃ t, dioSetXoSpec.act pk s = fail 0x0D03 t ∧ t.dio.xos = s.dio.xos) ∧
     (s.xoInert = false → s.dio.barrierOk = true → (s.xo (u8 ps 0)).enabled = true → ∃ t, dioSetXoSpec.act pk s = ok t ∧
       (t.xo (u8 ps 0)).cmd = (u8 ps 1 == 1) ∧ (t.xo (u8 ps 0)).safe = 0 ∧
       (t.xo (u8 ps 0)).out = ((u8 ps 1 == 1) && s.dio.xvsOk && !(s.xo (u8 ps 0)).fault) ∧
       (∀ n, n ≠ u8 ps 0 → t.xo n = s.xo n))) ∧
    (let p := u8 ps 0
     (p < 16 → (s.part p).st = 1 → ∃ t, partResetSpec.act pk s = later t ∧ (t.part p).st = 2 ∧ (t.part p).inReset = true ∧
       (t.part p).lastCause = 1 ∧ (t.part p).resets = sat16 (s.part p).resets) ∧
     (∃ t, partRestartSpec.act pk s = later t ∧ (t.part p).st = 4 ∧
       (t.part p).restartDue = s.et + (2 + (s.part p).imageMb) * 1000000 ∧ (∀ q, q ≠ p → t.part q = s.part q)) ∧
     (∃ t, ringResetSpec.act pk s = ok t ∧ (t.ring p).prod = 0 ∧ (t.ring p).cons = 0 ∧ (t.ring p).armed = (s.ring p).irqEn ∧
       (t.ring p).drops = satAdd 32 (s.ring p).drops (s.ring p).fill ∧ (∀ q, q ≠ p → t.ring q = s.ring q))) ∧
    ((u8 ps 0 ≠ 1 → ∃ t, sleepRequestSpec.act pk s = later t ∧ t.dev.state = .sleepPrep ∧ t.wake.phase = 1 ∧ t.wake.set = u8 ps 1 ∧
       t.wake.prepMs = u16 ps 2 ∧ t.wake.acceptEt = s.et) ∧
     (u8 ps 0 = 1 → ∃ t, sleepRequestSpec.act pk s = ok t ∧ t.wake.phase = 0 ∧ (t.dev.state = .run ∨ t.dev.state = .degraded) ∧
       ∀ o ∈ t.cmd.async, (o.code == 0x0F01 && u8 o.pk.params 0 == 0) = false) ∧
     (∃ t, wakeClearSourceSpec.act pk s = ok t ∧
       (∀ i, i < 48 → t.wake.map.testBit i = (s.wake.map.testBit i && !(u64 ps 0).testBit i)) ∧
       (t.wake.map = 0 → t.wake.first = 0 ∧ t.wake.late = false) ∧
       (t.wake.map ≠ 0 → t.wake.first = s.wake.first ∧ t.wake.late = s.wake.late))) ∧
    (∃ t, fltClearSpec.act pk s = ok t ∧ t.fltPart (u8 ps 0) = { strokes := (s.fltPart (u8 ps 0)).strokes } ∧
      (∀ q, q ≠ u8 ps 0 → t.fltPart q = s.fltPart q) ∧
      (t.flt.count, t.flt.esc) = (if u8 ps 1 = 1 then ([], []) else (s.flt.count, s.flt.esc))) ∧
    ((s.feedBelow6 = true → updBeginSpec.act pk s = later s ∧ updActivateSpec.act pk s = later s ∧ updVarnishSpec.act pk s = later s ∧
       updAbortSpec.act pk s = later s) ∧
     (s.feedBelow6 = false → s.dev.activeSlot ≤ 1 →
       ((s.slotRec s.spareSlot).sketch ≠ u32 ps 0 → ∃ t r, updBeginSpec.act pk s = ⟨t, some (stOk, r)⟩ ∧
         t.slotRec s.spareSlot = { st := 1, sketch := u32 ps 0, version := u32 ps 4, chunks := u16 ps 8 } ∧
         t.slotRec s.dev.activeSlot = s.slotRec s.dev.activeSlot) ∧
       (∃ t, updActivateSpec.act pk s = ⟨t, some (stOk, [])⟩ ∧ t.slotRec s.spareSlot = { s.slotRec s.spareSlot with st := 3 } ∧
         t.slotRec s.dev.activeSlot = s.slotRec s.dev.activeSlot ∧
         t.upd.activateAt = (if u8 ps 4 = 1 then some (s.et + 1000000) else none)) ∧
       (∃ t, updVarnishSpec.act pk s = ⟨t, some (stOk, [])⟩ ∧ (t.slotRec s.dev.activeSlot).st = 5 ∧
         (t.slotRec s.spareSlot).st = (if (s.slotRec s.spareSlot).st = 5 then 6 else (s.slotRec s.spareSlot).st) ∧
         t.upd.record.varnished = (s.slotRec s.dev.activeSlot).version ∧ t.upd.healthEnd = none)))
end

