-- ==== Sys2Proof/Laws/BaseView.lean ====
section
/-!
SUPPORT. Sys2Proof/Laws/BaseView.lean: the view of the state that almost no operation changes: the queue, ET, the coarse device
state, the arm state, and whether the sleep commit point has passed.
-/

namespace Sys2Proof.Machine

/-- The view. -/
structure Base where
  pending : List Instr
  et : Nat
  state : DevState
  armed : Bool
  committed : Bool

def State.base (s : State) : Base := ⟨s.pending, s.et, s.dev.state.coarse, s.dev.armed, s.wake.phase == 4⟩

@[simp] theorem State.base_mk (a b c d e f g h i j k l m n o p q r t u v w x y z) :
    (State.mk a b c d e f g h i j k l m n o p q r t u v w x y z).base = ⟨a, b, h.state.coarse, h.armed, q.phase == 4⟩ := rfl

@[simp] theorem State.base_eta (s : State) :
    (⟨s.pending, s.et, s.dev.state.coarse, s.dev.armed, s.wake.phase == 4⟩ : Base) = s.base := rfl

theorem State.base_ext {s t : State} (h : t.base = s.base) :
    t.pending = s.pending ∧ t.et = s.et ∧ t.dev.state.coarse = s.dev.state.coarse ∧ t.dev.armed = s.dev.armed ∧
      (t.wake.phase == 4) = (s.wake.phase == 4) := by
  simp only [State.base, Base.mk.injEq] at h
  exact h

@[simp] theorem foldl_base {α : Type} (f : State → α → State) (h : ∀ s a, (f s a).base = s.base) (l : List α) (s : State) :
    (l.foldl f s).base = s.base := by
  induction l generalizing s with
  | nil => rfl
  | cons a l ih => simp [List.foldl, ih, h]

@[simp] theorem foldl_fst_base {α β : Type} (f : State × β → α → State × β) (h : ∀ a x, (f a x).1.base = a.1.base)
    (l : List α) (a : State × β) : (l.foldl f a).1.base = a.1.base := by
  induction l generalizing a with
  | nil => rfl
  | cons x l ih => simp [List.foldl, ih, h]

@[simp] theorem onlyIf_base (c : Bool) (s t : State) (h : t.base = s.base) : (onlyIf c s t).base = s.base := by
  cases c <;> simp [onlyIf, h]

@[simp] theorem State.base_ite (c : Prop) [Decidable c] (a b : State) :
    (if c then a else b).base = if c then a.base else b.base := apply_ite _ _ _ _

@[simp] theorem State.base_fst_ite {α : Type} (c : Prop) [Decidable c] (a b : State × α) :
    (if c then a else b).1.base = if c then a.1.base else b.1.base := by
  split <;> rfl

end Sys2Proof.Machine
end

