-- ==== Sys2Proof/Laws/Base1.lean ====
section
/-!
SUPPORT. Sys2Proof/Laws/Base1.lean: what no operation of these files changes of the view `State.base` (the queue, ET, the coarse
device state, the arm state, the passed commit point): the shared operations.
-/

namespace Sys2Proof.Machine

@[simp] theorem State.store_base (s : State) (a : Nat) (bs : List Byte) : (State.store s a bs).base = s.base := by
  unfold State.store
  try dsimp only
  (repeat' split) <;> simp

@[simp] theorem State.setPart_base (s : State) (p : Nat) (x : Part) : (State.setPart s p x).base = s.base := by
  unfold State.setPart
  try dsimp only
  (repeat' split) <;> simp

@[simp] theorem State.setPair_base (s : State) (k : Nat) (x : Pair) : (State.setPair s k x).base = s.base := by
  unfold State.setPair
  try dsimp only
  (repeat' split) <;> simp

@[simp] theorem State.setRing_base (s : State) (n : Nat) (x : Ring) : (State.setRing s n x).base = s.base := by
  unfold State.setRing
  try dsimp only
  (repeat' split) <;> simp

@[simp] theorem State.fresh_base (s : State) : (State.fresh s).2.base = s.base := by
  unfold State.fresh
  try dsimp only
  (repeat' split) <;> simp

@[simp] theorem State.deliver_base (s : State) (ev : EventRec) (p : Nat) : (State.deliver s ev p).base = s.base := by
  unfold State.deliver
  try dsimp only
  (repeat' split) <;> simp

@[simp] theorem State.raiseAt_base (s : State) (et : Nat) (tos : List Nat) (src kind data : Nat) : (State.raiseAt s et tos src kind data).base = s.base := by
  unfold State.raiseAt
  try dsimp only
  (repeat' split) <;> simp

@[simp] theorem State.raise_base (s : State) (tos : List Nat) (src kind data : Nat) : (State.raise s tos src kind data).base = s.base := by
  unfold State.raise
  try dsimp only
  (repeat' split) <;> simp

@[simp] theorem State.raiseOnce_base (s : State) (tos : List Nat) (src kind data : Nat) : (State.raiseOnce s tos src kind data).base = s.base := by
  unfold State.raiseOnce
  try dsimp only
  (repeat' split) <;> simp

@[simp] theorem State.raiseOncePer_base (s : State) (et : Nat) (tos : List Nat) (src kind data : Nat) : (State.raiseOncePer s et tos src kind data).base = s.base := by
  unfold State.raiseOncePer
  try dsimp only
  (repeat' split) <;> simp

@[simp] theorem State.ringDiscard_base (s : State) (n : Nat) : (State.ringDiscard s n).base = s.base := by
  unfold State.ringDiscard
  try dsimp only
  (repeat' split) <;> simp

@[simp] theorem State.raiseVi_base (s : State) (n : Nat) : (State.raiseVi s n).base = s.base := by
  unfold State.raiseVi
  try dsimp only
  (repeat' split) <;> simp

@[simp] theorem State.ringIrq_base (s : State) (n : Nat) : (State.ringIrq s n).base = s.base := by
  unfold State.ringIrq
  try dsimp only
  (repeat' split) <;> simp

@[simp] theorem State.chargeDram_base (s : State) (n bytes : Nat) : (State.chargeDram s n bytes).base = s.base := by
  unfold State.chargeDram
  try dsimp only
  (repeat' split) <;> simp

@[simp] theorem State.ringPush_base (s : State) (n : Nat) (bs : List Byte) : (State.ringPush s n bs).base = s.base := by
  unfold State.ringPush
  try dsimp only
  (repeat' split) <;> simp

@[simp] theorem State.ringPop_base (s : State) (n : Nat) : (State.ringPop s n).base = s.base := by
  unfold State.ringPop
  try dsimp only
  (repeat' split) <;> simp

@[simp] theorem State.ringRecord_base (s : State) (n et : Nat) (bs : List Byte) : (State.ringRecord s n et bs).base = s.base := by
  unfold State.ringRecord
  try dsimp only
  (repeat' split) <;> simp

@[simp] theorem State.ringFreed_base (s : State) (n : Nat) : (State.ringFreed s n).base = s.base := by
  unfold State.ringFreed
  try dsimp only
  (repeat' split) <;> simp

@[simp] theorem State.setFltPart_base (s : State) (p : Nat) (x : FltPart) : (State.setFltPart s p x).base = s.base := by
  unfold State.setFltPart
  try dsimp only
  (repeat' split) <;> simp

@[simp] theorem State.logRec_base (s : State) (r : LogRec) : (State.logRec s r).base = s.base := by
  unfold State.logRec
  try dsimp only
  (repeat' split) <;> simp

@[simp] theorem State.makeReport_base (s : State) (r : FltReport) : (State.makeReport s r).base = s.base := by
  unfold State.makeReport
  try dsimp only
  (repeat' split) <;> simp

@[simp] theorem State.nextFault_base (s : State) : (State.nextFault s).2.base = s.base := by
  unfold State.nextFault
  try dsimp only
  (repeat' split) <;> simp

@[simp] theorem State.fault_base (s : State) (src cls level part kind data attempts hold : Nat) : (State.fault s src cls level part kind data attempts hold).base = s.base := by
  unfold State.fault
  try dsimp only
  (repeat' split) <;> simp

@[simp] theorem State.escalate_base (s : State) (p level : Nat) : (State.escalate s p level).base = s.base := by
  unfold State.escalate
  try dsimp only
  (repeat' split) <;> simp

@[simp] theorem State.postedError_base (s : State) (r : PostedRec) : (State.postedError s r).base = s.base := by
  unfold State.postedError
  try dsimp only
  (repeat' split) <;> simp

@[simp] theorem State.writeReply_base (s : State) (pk : Packet) (status : Nat) (result : List Byte) : (State.writeReply s pk status result).base = s.base := by
  unfold State.writeReply
  try dsimp only
  (repeat' split) <;> simp

@[simp] theorem State.setStat_base (s : State) (p : Nat) (x : CmdStat) : (State.setStat s p x).base = s.base := by
  unfold State.setStat
  try dsimp only
  (repeat' split) <;> simp

@[simp] theorem State.finalReply_base (s : State) (code : Nat) (pk : Packet) (status : Nat) (result : List Byte) : (State.finalReply s code pk status result).base = s.base := by
  unfold State.finalReply
  try dsimp only
  (repeat' split) <;> simp

@[simp] theorem State.acceptReply_base (s : State) (pk : Packet) : (State.acceptReply s pk).base = s.base := by
  unfold State.acceptReply
  try dsimp only
  (repeat' split) <;> simp

@[simp] theorem State.finishAsync_base (s : State) (o : Outst) (status : Nat) (result : List Byte) : (State.finishAsync s o status result).base = s.base := by
  unfold State.finishAsync
  try dsimp only
  (repeat' split) <;> simp

@[simp] theorem State.finishWhere_base (s : State) (f : Outst → Bool) (status : Nat) (result : List Byte) : (State.finishWhere s f status result).base = s.base := by
  unfold State.finishWhere
  try dsimp only
  (repeat' split) <;> simp

@[simp] theorem State.supReport_base (s : State) (code : Nat) (pk : Packet) (attempts : Nat) (withdrawn : Bool) : (State.supReport s code pk attempts withdrawn).base = s.base := by
  unfold State.supReport
  try dsimp only
  (repeat' split) <;> simp

@[simp] theorem State.setChan_base (s : State) (i : Nat) (x : Chan) : (State.setChan s i x).base = s.base := by
  unfold State.setChan
  try dsimp only
  (repeat' split) <;> simp

@[simp] theorem State.setBridge_base (s : State) (b : Nat) (x : Bridge) : (State.setBridge s b x).base = s.base := by
  unfold State.setBridge
  try dsimp only
  (repeat' split) <;> simp

@[simp] theorem State.setProt_base (s : State) (i : Nat) (x : Prot) : (State.setProt s i x).base = s.base := by
  unfold State.setProt
  try dsimp only
  (repeat' split) <;> simp

@[simp] theorem State.setFeed_base (s : State) (f : Nat) (x : Feed) : (State.setFeed s f x).base = s.base := by
  unfold State.setFeed
  try dsimp only
  (repeat' split) <;> simp

@[simp] theorem State.setOutlet_base (s : State) (k : Nat) (o : Outlet) : (State.setOutlet s k o).base = s.base := by
  unfold State.setOutlet
  try dsimp only
  (repeat' split) <;> simp

@[simp] theorem State.refused_base (s : State) (k a origin amount : Nat) : (State.refused s k a origin amount).base = s.base := by
  unfold State.refused
  try dsimp only
  (repeat' split) <;> simp

@[simp] theorem State.refusedQuiet_base (s : State) (k : Nat) : (State.refusedQuiet s k).base = s.base := by
  unfold State.refusedQuiet
  try dsimp only
  (repeat' split) <;> simp

@[simp] theorem State.markOk_base (s : State) (k : Nat) (t : Option Nat) : (State.markOk s k t).base = s.base := by
  unfold State.markOk
  try dsimp only
  (repeat' split) <;> simp

@[simp] theorem State.outArm_base (s : State) (k : Nat) (acct : Option Nat) (pour retry : Bool) : (State.outArm s k acct pour retry).base = s.base := by
  unfold State.outArm
  try dsimp only
  (repeat' split) <;> simp

@[simp] theorem State.outGo_base (s : State) (k : Nat) : (State.outGo s k).base = s.base := by
  unfold State.outGo
  try dsimp only
  (repeat' split) <;> simp

@[simp] theorem State.outOn_base (s : State) (k : Nat) (acct : Option Nat) (pour retry : Bool) : (State.outOn s k acct pour retry).base = s.base := by
  unfold State.outOn
  try dsimp only
  (repeat' split) <;> simp

@[simp] theorem State.outOff_base (s : State) (k : Nat) : (State.outOff s k).base = s.base := by
  unfold State.outOff
  try dsimp only
  (repeat' split) <;> simp

@[simp] theorem State.outRelease_base (s : State) (k : Nat) : (State.outRelease s k).base = s.base := by
  unfold State.outRelease
  try dsimp only
  (repeat' split) <;> simp

@[simp] theorem State.shedOut_base (s : State) (k : Nat) : (State.shedOut s k).base = s.base := by
  unfold State.shedOut
  try dsimp only
  (repeat' split) <;> simp

@[simp] theorem State.shedStart_base (s : State) (f c cause : Nat) : (State.shedStart s f c cause).base = s.base := by
  unfold State.shedStart
  try dsimp only
  (repeat' split) <;> simp

@[simp] theorem State.shedStop_base (s : State) (f c cause : Nat) : (State.shedStop s f c cause).base = s.base := by
  unfold State.shedStop
  try dsimp only
  (repeat' split) <;> simp

@[simp] theorem State.reshed_base (s old : State) (f cause : Nat) : (State.reshed s old f cause).base = s.base := by
  unfold State.reshed
  try dsimp only
  (repeat' split) <;> simp

@[simp] theorem State.degrade_base (s : State) : (State.degrade s).base = s.base := by
  unfold State.degrade
  dsimp only
  split
  · rename_i h
    simp only [Bool.and_eq_true, beq_iff_eq] at h
    simp [State.base, h.1, DevState.coarse]
  · split
    · rename_i h
      simp only [Bool.and_eq_true, beq_iff_eq] at h
      simp [State.base, h.1, DevState.coarse]
    · rfl

@[simp] theorem State.inertOne_base (s : State) (k : Nat) : (State.inertOne s k).base = s.base := by
  unfold State.inertOne
  try dsimp only
  (repeat' split) <;> simp

@[simp] theorem State.inertWhere_base (s : State) (f : Nat → Bool) : (State.inertWhere s f).base = s.base := by
  unfold State.inertWhere
  try dsimp only
  (repeat' split) <;> simp

end Sys2Proof.Machine
end

