-- ==== Sys2Proof/Laws/Base2.lean ====
section
/-!
SUPPORT. Sys2Proof/Laws/Base2.lean: what no operation of these files changes of the view `State.base` (the queue, ET, the coarse
device state, the arm state, the passed commit point): load channels, bridges and the switch.
-/

namespace Sys2Proof.Machine

@[simp] theorem State.loadOff_base (s : State) (i : Nat) : (State.loadOff s i).base = s.base := by
  unfold State.loadOff
  try dsimp only
  (repeat' split) <;> simp

@[simp] theorem State.loadOn_base (s : State) (i mode duty acct origin : Nat) : (State.loadOn s i mode duty acct origin).1.base = s.base := by
  unfold State.loadOn
  try dsimp only
  (repeat' split) <;> simp

@[simp] theorem State.loadCommand_base (s : State) (i mode duty acct origin : Nat) : (State.loadCommand s i mode duty acct origin).1.base = s.base := by
  unfold State.loadCommand
  try dsimp only
  (repeat' split) <;> simp

@[simp] theorem State.loadValue_base (s : State) (i : Nat) (v : Int) (acct origin : Nat) : (State.loadValue s i v acct origin).base = s.base := by
  unfold State.loadValue
  try dsimp only
  (repeat' split) <;> simp

@[simp] theorem State.loadSet_base (s : State) (i mode duty period : Nat) : (State.loadSet s i mode duty period).base = s.base := by
  unfold State.loadSet
  try dsimp only
  (repeat' split) <;> simp

@[simp] theorem State.loadApply_base (s : State) (i ageLimit fallback : Nat) : (State.loadApply s i ageLimit fallback).base = s.base := by
  unfold State.loadApply
  try dsimp only
  (repeat' split) <;> simp

@[simp] theorem State.loadPeriod_base (s : State) (i : Nat) : (State.loadPeriod s i).base = s.base := by
  unfold State.loadPeriod
  try dsimp only
  (repeat' split) <;> simp

@[simp] theorem State.restoreOut_base (s : State) (k : Nat) : (State.restoreOut s k).base = s.base := by
  unfold State.restoreOut
  try dsimp only
  (repeat' split) <;> simp

@[simp] theorem State.ocTrip_base (s : State) (i : Nat) : (State.ocTrip s i).base = s.base := by
  unfold State.ocTrip
  try dsimp only
  (repeat' split) <;> simp

@[simp] theorem State.outBack_base (s : State) (k : Nat) (pour : Bool) : (State.outBack s k pour).base = s.base := by
  unfold State.outBack
  try dsimp only
  (repeat' split) <;> simp

@[simp] theorem State.ocRetry_base (s : State) (i : Nat) (pour : Bool) : (State.ocRetry s i pour).base = s.base := by
  unfold State.ocRetry
  try dsimp only
  (repeat' split) <;> simp

@[simp] theorem State.ocPauseEnd_base (s : State) (i : Nat) : (State.ocPauseEnd s i).base = s.base := by
  unfold State.ocPauseEnd
  try dsimp only
  (repeat' split) <;> simp

@[simp] theorem State.pourStepEnd_base (s : State) (k : Nat) : (State.pourStepEnd s k).base = s.base := by
  unfold State.pourStepEnd
  try dsimp only
  (repeat' split) <;> simp

@[simp] theorem State.thShutdown_base (s : State) (i : Nat) (tj dt : Int) : (State.thShutdown s i tj dt).base = s.base := by
  unfold State.thShutdown
  try dsimp only
  (repeat' split) <;> simp

@[simp] theorem State.thRestart_base (s : State) (i : Nat) (tj dt : Int) : (State.thRestart s i tj dt).base = s.base := by
  unfold State.thRestart
  try dsimp only
  (repeat' split) <;> simp

@[simp] theorem State.olMs_base (s : State) (i mean n : Nat) : (State.olMs s i mean n).base = s.base := by
  unfold State.olMs
  try dsimp only
  (repeat' split) <;> simp

@[simp] theorem State.unstall_base (s : State) (b mode : Nat) : (State.unstall s b mode).base = s.base := by
  unfold State.unstall
  try dsimp only
  (repeat' split) <;> simp

@[simp] theorem State.bridgeOff_base (s : State) (b mode : Nat) : (State.bridgeOff s b mode).base = s.base := by
  unfold State.bridgeOff
  try dsimp only
  (repeat' split) <;> simp

@[simp] theorem State.bridgeDrive_base (s : State) (b mode duty acct origin : Nat) : (State.bridgeDrive s b mode duty acct origin).1.base = s.base := by
  unfold State.bridgeDrive
  try dsimp only
  (repeat' split) <;> simp

@[simp] theorem State.bridgeCommand_base (s : State) (b mode duty acct origin : Nat) : (State.bridgeCommand s b mode duty acct origin).1.base = s.base := by
  unfold State.bridgeCommand
  try dsimp only
  (repeat' split) <;> simp

@[simp] theorem State.bridgeValue_base (s : State) (b : Nat) (v : Int) (acct origin : Nat) : (State.bridgeValue s b v acct origin).base = s.base := by
  unfold State.bridgeValue
  try dsimp only
  (repeat' split) <;> simp

@[simp] theorem State.bridgeSet_base (s : State) (b mode duty period : Nat) : (State.bridgeSet s b mode duty period).base = s.base := by
  unfold State.bridgeSet
  try dsimp only
  (repeat' split) <;> simp

@[simp] theorem State.bridgeApply_base (s : State) (b ageLimit fallback : Nat) : (State.bridgeApply s b ageLimit fallback).base = s.base := by
  unfold State.bridgeApply
  try dsimp only
  (repeat' split) <;> simp

@[simp] theorem State.bridgePeriod_base (s : State) (b : Nat) : (State.bridgePeriod s b).base = s.base := by
  unfold State.bridgePeriod
  try dsimp only
  (repeat' split) <;> simp

@[simp] theorem State.stallMs_base (s : State) (i avg : Nat) (drove : Bool) : (State.stallMs s i avg drove).base = s.base := by
  unfold State.stallMs
  try dsimp only
  (repeat' split) <;> simp

@[simp] theorem State.stall_base (s : State) (b : Nat) : (State.stall s b).base = s.base := by
  unfold State.stall
  try dsimp only
  (repeat' split) <;> simp

@[simp] theorem State.xcondFault_base (s : State) (b leg side : Nat) : (State.xcondFault s b leg side).base = s.base := by
  unfold State.xcondFault
  try dsimp only
  (repeat' split) <;> simp

@[simp] theorem State.mbrClear_base (s : State) (b : Nat) (oc : Bool) : (State.mbrClear s b oc).base = s.base := by
  unfold State.mbrClear
  try dsimp only
  (repeat' split) <;> simp

@[simp] theorem State.xlockClear_base (s : State) (b : Nat) : (State.xlockClear s b).base = s.base := by
  unfold State.xlockClear
  try dsimp only
  (repeat' split) <;> simp

@[simp] theorem State.loadSafe_base (s : State) (i : Nat) : (State.loadSafe s i).base = s.base := by
  unfold State.loadSafe
  try dsimp only
  (repeat' split) <;> simp

@[simp] theorem State.bridgeSafe_base (s : State) (b : Nat) : (State.bridgeSafe s b).base = s.base := by
  unfold State.bridgeSafe
  try dsimp only
  (repeat' split) <;> simp

@[simp] theorem State.setSwPort_base (s : State) (p : Nat) (x : SwPort) : (State.setSwPort s p x).base = s.base := by
  unfold State.setSwPort
  try dsimp only
  (repeat' split) <;> simp

@[simp] theorem State.setPrt_base (s : State) (p : Nat) (x : Prt) : (State.setPrt s p x).base = s.base := by
  unfold State.setPrt
  try dsimp only
  (repeat' split) <;> simp

@[simp] theorem State.onPort_base (s : State) (p : Nat) (f : SwPort → SwPort) : (State.onPort s p f).base = s.base := by
  unfold State.onPort
  try dsimp only
  (repeat' split) <;> simp

@[simp] theorem State.dropCopy_base (s : State) (id : Nat) : (State.dropCopy s id).base = s.base := by
  unfold State.dropCopy
  try dsimp only
  (repeat' split) <;> simp

@[simp] theorem State.touch_base (s : State) (p : Nat) : (State.touch s p).base = s.base := by
  unfold State.touch
  try dsimp only
  (repeat' split) <;> simp

@[simp] theorem State.zeroize_base (s : State) (p cause : Nat) : (State.zeroize s p cause).base = s.base := by
  unfold State.zeroize
  try dsimp only
  (repeat' split) <;> simp

@[simp] theorem State.setFdb_base (s : State) (i : Nat) (e : FdbEnt) : (State.setFdb s i e).base = s.base := by
  unfold State.setFdb
  try dsimp only
  (repeat' split) <;> simp

@[simp] theorem State.learn_base (s : State) (p mac fid : Nat) : (State.learn s p mac fid).base = s.base := by
  unfold State.learn
  try dsimp only
  (repeat' split) <;> simp

@[simp] theorem State.police_base (s : State) (f : EthFrame) (i : Nat) (st : Stream) : (State.police s f i st).1.base = s.base := by
  unfold State.police
  try dsimp only
  (repeat' split) <;> simp

@[simp] theorem State.cbStage_base (s : State) (f : EthFrame) (i : Nat) : (State.cbStage s f i).1.base = s.base := by
  unfold State.cbStage
  try dsimp only
  (repeat' split) <;> simp

@[simp] theorem State.admitCopy_base (s : State) (q c cells ingress id dst vid : Nat) (cut : Bool) : (State.admitCopy s q c cells ingress id dst vid cut).1.base = s.base := by
  unfold State.admitCopy
  try dsimp only
  (repeat' split) <;> simp

@[simp] theorem State.rxDiscard_base (s : State) (p : Nat) : (State.rxDiscard s p).base = s.base := by
  unfold State.rxDiscard
  try dsimp only
  (repeat' split) <;> simp

@[simp] theorem State.egress_base (s : State) (f : EthFrame) (b : FrameBuf) (v : VlanRec) (ports : Nat) (cutOk : Bool) : (State.egress s f b v ports cutOk).1.base = s.base := by
  unfold State.egress
  try dsimp only
  (repeat' split) <;> simp

@[simp] theorem State.forward_base (s : State) (f : EthFrame) (w : SwWay) (cb seq : Option Nat) : (State.forward s f w cb seq).1.base = s.base := by
  unfold State.forward
  try dsimp only
  (repeat' split) <;> simp

@[simp] theorem State.sequence_base (s : State) (f : EthFrame) (w : SwWay) : (State.sequence s f w).1.base = s.base := by
  unfold State.sequence
  try dsimp only
  (repeat' split) <;> simp

@[simp] theorem State.streamStage_base (s : State) (f : EthFrame) (w : SwWay) (i : Nat) : (State.streamStage s f w i).1.base = s.base := by
  unfold State.streamStage
  try dsimp only
  (repeat' split) <;> simp

@[simp] theorem State.vlanStage_base (s : State) (f : EthFrame) : (State.vlanStage s f).1.base = s.base := by
  unfold State.vlanStage
  try dsimp only
  (repeat' split) <;> simp

@[simp] theorem State.classify_base (s : State) (f : EthFrame) : (State.classify s f).1.base = s.base := by
  unfold State.classify
  try dsimp only
  (repeat' split) <;> simp

@[simp] theorem State.spoilFrame_base (s : State) (p id : Nat) : (State.spoilFrame s p id).base = s.base := by
  unfold State.spoilFrame
  refine (foldl_base _ ?_ _ _).trans ?_
  · intro s q
    dsimp only
    (repeat' split) <;> simp
  · split <;> simp

@[simp] theorem State.finishRx_base (s : State) (p : Nat) (r : SwRx) (good : Bool) : (State.finishRx s p r good).base = s.base := by
  unfold State.finishRx
  try dsimp only
  (repeat' split) <;> simp

@[simp] theorem State.frameIn_base (s : State) (f : EthFrame) : (State.frameIn s f).base = s.base := by
  unfold State.frameIn
  try dsimp only
  (repeat' split) <;> simp

@[simp] theorem State.frameEnd_base (s : State) (p : Nat) (good symbol : Bool) : (State.frameEnd s p good symbol).base = s.base := by
  unfold State.frameEnd
  try dsimp only
  (repeat' split) <;> simp

@[simp] theorem State.gwStore_base (s : State) (q : Nat) (b : FrameBuf) : (State.gwStore s q b).base = s.base := by
  unfold State.gwStore
  try dsimp only
  (repeat' split) <;> simp

@[simp] theorem State.deliverIn_base (s : State) (q : Nat) (b : FrameBuf) (t : SwTx) : (State.deliverIn s q b t).base = s.base := by
  unfold State.deliverIn
  try dsimp only
  (repeat' split) <;> simp

@[simp] theorem State.txDone_base (s : State) (p : Nat) : (State.txDone s p).base = s.base := by
  unfold State.txDone
  try dsimp only
  (repeat' split) <;> simp

@[simp] theorem State.sendCopy_base (s : State) (p c : Nat) (copy : Copy) (b : FrameBuf) (x : SwPort) : (State.sendCopy s p c copy b x).base = s.base := by
  unfold State.sendCopy
  extract_lets v tg rt ln t pn y t1 t2 t3
  have h1 : t1.base = s.base := State.setSwPort_base _ _ _
  have h2 : t2.base = s.base := by
    show (if _ then _ else _ : State).base = _
    split
    · exact (State.raise_base _ _ _ _ _).trans h1
    · exact h1
  have h3 : t3.base = s.base := by
    show (if _ then _ else _ : State).base = _
    split
    · exact (State.raise_base _ _ _ _ _).trans h2
    · exact h2
  split
  · exact (State.deliverIn_base _ _ _ _).trans h3
  · exact h3

@[simp] theorem State.selectTx_base (n : Nat) (s : State) (p : Nat) : (State.selectTx n s p).base = s.base := by
  induction n generalizing s with
  | zero => rfl
  | succ n ih =>
    unfold State.selectTx
    split
    · rfl
    · extract_lets x k
      split
      · rfl
      · extract_lets y
        split
        · rw [ih, State.dropCopy_base, State.setSwPort_base]
        · split
          · rfl
          · exact State.sendCopy_base _ _ _ _ _ _

@[simp] theorem State.transmissionSelect_base (s : State) (p : Nat) : (State.transmissionSelect s p).base = s.base := by
  unfold State.transmissionSelect
  extract_lets w t
  split
  · rfl
  · split
    · exact State.txDone_base s p
    · exact (State.selectTx_base _ _ _).trans (State.txDone_base s p)

@[simp] theorem State.portFlush_base (s : State) (p : Nat) : (State.portFlush s p).base = s.base := by
  unfold State.portFlush
  try dsimp only
  (repeat' split) <;> simp

@[simp] theorem State.gateSet_base (s : State) (p gates : Nat) : (State.gateSet s p gates).base = s.base := by
  unfold State.gateSet
  try dsimp only
  (repeat' split) <;> simp

@[simp] theorem State.fdbAgeing_base (s : State) (mac fid : Nat) : (State.fdbAgeing s mac fid).base = s.base := by
  unfold State.fdbAgeing
  try dsimp only
  (repeat' split) <;> simp

@[simp] theorem State.cbTimeout_base (s : State) (i : Nat) : (State.cbTimeout s i).base = s.base := by
  unfold State.cbTimeout
  try dsimp only
  (repeat' split) <;> simp

@[simp] theorem State.sakInstall_base (s : State) (p an scs : Nat) (xpn : Bool) : (State.sakInstall s p an scs xpn).base = s.base := by
  unfold State.sakInstall
  try dsimp only
  (repeat' split) <;> simp

end Sys2Proof.Machine
end

