-- ==== Sys2Proof/Laws/Base3.lean ====
section
/-!
SUPPORT. Sys2Proof/Laws/Base3.lean: what no operation of these files changes of the view `State.base` (the queue, ET, the coarse
device state, the arm state, the passed commit point): links, ports, CAN, time and power.
-/

namespace Sys2Proof.Machine

@[simp] theorem State.setCan_base (s : State) (n : Nat) (x : Can) : (State.setCan s n x).base = s.base := by
  unfold State.setCan
  try dsimp only
  (repeat' split) <;> simp

@[simp] theorem State.setLin_base (s : State) (n : Nat) (x : Lin) : (State.setLin s n x).base = s.base := by
  unfold State.setLin
  try dsimp only
  (repeat' split) <;> simp

@[simp] theorem State.noteSource_base (s : State) (code : Nat) : (State.noteSource s code).base = s.base := by
  unfold State.noteSource
  try dsimp only
  (repeat' split) <;> simp

@[simp] theorem State.wkoPulse_base (s : State) (f : Wko → Bool) : (State.wkoPulse s f).base = s.base := by
  unfold State.wkoPulse
  try dsimp only
  (repeat' split) <;> simp

@[simp] theorem State.canUp_base (s : State) (n : Nat) : (State.canUp s n).base = s.base := by
  unfold State.canUp
  try dsimp only
  (repeat' split) <;> simp

@[simp] theorem State.linWaking_base (s : State) (n : Nat) (sent : Bool) : (State.linWaking s n sent).base = s.base := by
  unfold State.linWaking
  try dsimp only
  (repeat' split) <;> simp

@[simp] theorem State.portTrain_base (s : State) (p : Nat) : (State.portTrain s p).base = s.base := by
  unfold State.portTrain
  try dsimp only
  (repeat' split) <;> simp

@[simp] theorem State.tc10End_base (s : State) (p status : Nat) : (State.tc10End s p status).base = s.base := by
  unfold State.tc10End
  try dsimp only
  (repeat' split) <;> simp

@[simp] theorem State.portWake_base (s : State) (p : Nat) (remote : Bool) : (State.portWake s p remote).base = s.base := by
  unfold State.portWake
  try dsimp only
  (repeat' split) <;> simp

@[simp] theorem State.noteSource_bc (s : State) (c : Nat) : (s.noteSource c).beforeCommit = s.beforeCommit := rfl

theorem State.beforeCommit_base {s : State} (h : s.beforeCommit = true) : s.base.state = .run ∧ s.base.committed = false := by
  simp only [State.beforeCommit, Bool.and_eq_true, beq_iff_eq, bne_iff_ne, ne_eq] at h
  constructor
  · show s.dev.state.coarse = _
    rw [h.1.1]; rfl
  · show (s.wake.phase == 4) = _
    simp [h.1.2]

@[simp] theorem State.sleepEnd_base (s : State) (status : Nat) (result : List Byte) : (State.sleepEnd s status result).base = s.base := by
  unfold State.sleepEnd
  try dsimp only
  (repeat' split) <;> simp

theorem State.sleepAbort_base (s : State) (code : Nat) (cancel : Bool) (h : s.base.state = .run ∧ s.base.committed = false) :
    (s.sleepAbort code cancel).base = s.base := by
  unfold State.sleepAbort
  extract_lets a w d k t t1 t2 t3 t4 t5 t6
  have ht : t.base = s.base := by
    have e1 : s.dev.state.coarse = .run := h.1
    have e2 : (s.wake.phase == 4) = false := h.2
    show (⟨_, _, _, _, _⟩ : Base) = ⟨_, _, _, _, _⟩
    rw [e1, e2]; rfl
  simp [t6, t5, t4, t3, t2, t1, ht]

@[simp] theorem State.wakeFrom_base (s : State) (code : Nat) : (State.wakeFrom s code).base = s.base := by
  unfold State.wakeFrom
  extract_lets t
  have ht : t.base = s.base := by simp [t]
  by_cases h : t.beforeCommit = true
  · rw [if_pos h, t.sleepAbort_base code false (State.beforeCommit_base h), ht]
  · rw [if_neg h]
    split
    · rw [State.wkoPulse_base, ht]
    · exact ht

@[simp] theorem State.wakeTransceiver_base (s : State) (code : Nat) (tos : List Nat) : (State.wakeTransceiver s code tos).base = s.base := by
  unfold State.wakeTransceiver
  try dsimp only
  (repeat' split) <;> simp

@[simp] theorem State.wakeRequest_base (s : State) (cls idx : Nat) : (State.wakeRequest s cls idx).base = s.base := by
  unfold State.wakeRequest
  try dsimp only
  (repeat' split) <;> simp

@[simp] theorem State.risPush_base (s : State) (t src et level : Nat) : (State.risPush s t src et level).base = s.base := by
  unfold State.risPush
  try dsimp only
  (repeat' split) <;> simp

@[simp] theorem State.triggerWhere_base (s : State) (f : Trigger → Bool) (src et level : Nat) : (State.triggerWhere s f src et level).base = s.base := by
  unfold State.triggerWhere
  try dsimp only
  (repeat' split) <;> simp

@[simp] theorem State.freshBuf_base (s : State) (buf : Nat) (data : List Byte) : (State.freshBuf s buf data).base = s.base := by
  unfold State.freshBuf
  try dsimp only
  (repeat' split) <;> simp

@[simp] theorem State.txSent_base (s : State) (buf : Nat) : (State.txSent s buf).base = s.base := by
  unfold State.txSent
  try dsimp only
  (repeat' split) <;> simp

@[simp] theorem State.portLeave_base (s : State) (p st : Nat) : (State.portLeave s p st).base = s.base := by
  unfold State.portLeave
  try dsimp only
  (repeat' split) <;> simp

@[simp] theorem State.portOff_base (s : State) (p cause : Nat) : (State.portOff s p cause).base = s.base := by
  unfold State.portOff
  try dsimp only
  (repeat' split) <;> simp

@[simp] theorem State.portSleep_base (s : State) (p cause : Nat) : (State.portSleep s p cause).base = s.base := by
  unfold State.portSleep
  try dsimp only
  (repeat' split) <;> simp

@[simp] theorem State.portsRetrain_base (s : State) : (State.portsRetrain s).base = s.base := by
  unfold State.portsRetrain
  try dsimp only
  (repeat' split) <;> simp

@[simp] theorem State.linkUp_base (s : State) (p : Nat) : (State.linkUp s p).base = s.base := by
  unfold State.linkUp
  try dsimp only
  (repeat' split) <;> simp

@[simp] theorem State.linkDown_base (s : State) (p : Nat) (localFault : Bool) : (State.linkDown s p localFault).base = s.base := by
  unfold State.linkDown
  try dsimp only
  (repeat' split) <;> simp

@[simp] theorem State.trainFail_base (s : State) (p : Nat) : (State.trainFail s p).base = s.base := by
  unfold State.trainFail
  try dsimp only
  (repeat' split) <;> simp

@[simp] theorem State.phyFault_base (s : State) (p : Nat) : (State.phyFault s p).base = s.base := by
  unfold State.phyFault
  try dsimp only
  (repeat' split) <;> simp

@[simp] theorem State.tc10Asleep_base (s : State) (p : Nat) : (State.tc10Asleep s p).base = s.base := by
  unfold State.tc10Asleep
  try dsimp only
  (repeat' split) <;> simp

@[simp] theorem State.tc10Timeout_base (s : State) (p : Nat) : (State.tc10Timeout s p).base = s.base := by
  unfold State.tc10Timeout
  try dsimp only
  (repeat' split) <;> simp

@[simp] theorem State.tc10Remote_base (s : State) (p : Nat) : (State.tc10Remote s p).base = s.base := by
  unfold State.tc10Remote
  try dsimp only
  (repeat' split) <;> simp

@[simp] theorem State.tc10Wake_base (s : State) (p : Nat) (remote : Bool) : (State.tc10Wake s p remote).base = s.base := by
  unfold State.tc10Wake
  try dsimp only
  (repeat' split) <;> simp

@[simp] theorem State.beaconLost_base (s : State) (p : Nat) : (State.beaconLost s p).base = s.base := by
  unfold State.beaconLost
  try dsimp only
  (repeat' split) <;> simp

@[simp] theorem State.beaconReceived_base (s : State) (p : Nat) : (State.beaconReceived s p).base = s.base := by
  unfold State.beaconReceived
  try dsimp only
  (repeat' split) <;> simp

@[simp] theorem State.segmentAlone_base (s : State) (p : Nat) : (State.segmentAlone s p).base = s.base := by
  unfold State.segmentAlone
  try dsimp only
  (repeat' split) <;> simp

@[simp] theorem State.diagDone_base (s : State) (p result dist : Nat) : (State.diagDone s p result dist).base = s.base := by
  unfold State.diagDone
  try dsimp only
  (repeat' split) <;> simp

@[simp] theorem State.prtTrainTimeout_base (s : State) (p : Nat) : (State.prtTrainTimeout s p).base = s.base := by
  unfold State.prtTrainTimeout
  try dsimp only
  (repeat' split) <;> simp

@[simp] theorem State.canNoAck_base (s : State) (n status : Nat) : (State.canNoAck s n status).base = s.base := by
  unfold State.canNoAck
  try dsimp only
  (repeat' split) <;> simp

@[simp] theorem State.canEnd_base (s : State) (n : Nat) (r : CanReq) (status : Nat) : (State.canEnd s n r status).base = s.base := by
  unfold State.canEnd
  try dsimp only
  (repeat' split) <;> simp

@[simp] theorem State.cancelEnd_base (s : State) (n status : Nat) (r : Option CanReq) : (State.cancelEnd s n status r).base = s.base := by
  unfold State.cancelEnd
  try dsimp only
  (repeat' split) <;> simp

@[simp] theorem State.canPlace_base (s : State) (n : Nat) (r : CanReq) : (State.canPlace s n r).base = s.base := by
  unfold State.canPlace
  try dsimp only
  (repeat' split) <;> simp

@[simp] theorem State.canRelease_base (s : State) (n i : Nat) : (State.canRelease s n i).base = s.base := by
  unfold State.canRelease
  try dsimp only
  (repeat' split) <;> simp

@[simp] theorem State.canRisRelease_base (s : State) (buf : Nat) : (State.canRisRelease s buf).base = s.base := by
  unfold State.canRisRelease
  try dsimp only
  (repeat' split) <;> simp

@[simp] theorem State.canNext_base (s : State) (n : Nat) : (State.canNext s n).base = s.base := by
  unfold State.canNext
  try dsimp only
  (repeat' split) <;> simp

@[simp] theorem State.canAllOff_base (s : State) (n : Nat) : (State.canAllOff s n).base = s.base := by
  unfold State.canAllOff
  try dsimp only
  (repeat' split) <;> simp

@[simp] theorem State.canErrState_base (s : State) (n : Nat) : (State.canErrState s n).base = s.base := by
  unfold State.canErrState
  try dsimp only
  (repeat' split) <;> simp

@[simp] theorem State.canReceive_base (s : State) (n : Nat) (f : CanFrame) : (State.canReceive s n f).base = s.base := by
  unfold State.canReceive
  try dsimp only
  (repeat' split) <;> simp

@[simp] theorem State.canValid_base (s : State) (n : Nat) : (State.canValid s n).base = s.base := by
  unfold State.canValid
  try dsimp only
  (repeat' split) <;> simp

@[simp] theorem State.canAttempt_base (s : State) (n : Nat) : (State.canAttempt s n).base = s.base := by
  unfold State.canAttempt
  try dsimp only
  (repeat' split) <;> simp

@[simp] theorem State.canRetry_base (s : State) (n status : Nat) (past : Bool) : (State.canRetry s n status past).base = s.base := by
  unfold State.canRetry
  try dsimp only
  (repeat' split) <;> simp

@[simp] theorem State.canLost_base (s : State) (n : Nat) : (State.canLost s n).base = s.base := by
  unfold State.canLost
  try dsimp only
  (repeat' split) <;> simp

@[simp] theorem State.canError_base (s : State) (n kind : Nat) (past more : Bool) : (State.canError s n kind past more).base = s.base := by
  unfold State.canError
  try dsimp only
  (repeat' split) <;> simp

@[simp] theorem State.canSuccess_base (s : State) (n : Nat) : (State.canSuccess s n).base = s.base := by
  unfold State.canSuccess
  try dsimp only
  (repeat' split) <;> simp

@[simp] theorem State.canCancel_base (s : State) (n : Nat) (src : Source) (tag : Nat) (pk : Option Packet) : (State.canCancel s n src tag pk).1.base = s.base := by
  unfold State.canCancel
  try dsimp only
  (repeat' split) <;> simp

@[simp] theorem State.canIntegrated_base (s : State) (n : Nat) : (State.canIntegrated s n).base = s.base := by
  unfold State.canIntegrated
  try dsimp only
  (repeat' split) <;> simp

@[simp] theorem State.canRecovered_base (s : State) (n : Nat) : (State.canRecovered s n).base = s.base := by
  unfold State.canRecovered
  try dsimp only
  (repeat' split) <;> simp

@[simp] theorem State.canSleep_base (s : State) (n : Nat) : (State.canSleep s n).base = s.base := by
  unfold State.canSleep
  try dsimp only
  (repeat' split) <;> simp

@[simp] theorem State.canWake_base (s : State) (n reason : Nat) : (State.canWake s n reason).base = s.base := by
  unfold State.canWake
  try dsimp only
  (repeat' split) <;> simp

@[simp] theorem State.setRate_base (s : State) (c : Int) : (State.setRate s c).base = s.base := by
  unfold State.setRate
  try dsimp only
  (repeat' split) <;> simp

@[simp] theorem State.steer_base (s : State) (err : Int) : (State.steer s err).base = s.base := by
  unfold State.steer
  by_cases h : (err == 0) = true
  · rw [if_pos h]
    simp
  · rw [if_neg h]
    rw [State.base_mk, State.base_eta, State.setRate_base]

@[simp] theorem State.setTimeSrc_base (s : State) (c : Nat) (x : TimeSrc) : (State.setTimeSrc s c x).base = s.base := by
  unfold State.setTimeSrc
  try dsimp only
  (repeat' split) <;> simp

@[simp] theorem State.markRefused_base (s : State) (c : Nat) : (State.markRefused s c).base = s.base := by
  unfold State.markRefused
  try dsimp only
  (repeat' split) <;> simp

@[simp] theorem State.enterAcquire_base (s : State) : (State.enterAcquire s).base = s.base := by
  unfold State.enterAcquire
  try dsimp only
  (repeat' split) <;> simp

@[simp] theorem State.enterLocked_base (s : State) : (State.enterLocked s).base = s.base := by
  unfold State.enterLocked
  try dsimp only
  (repeat' split) <;> simp

@[simp] theorem State.causeTime_base (s : State) : (State.causeTime s).base = s.base := by
  unfold State.causeTime
  try dsimp only
  (repeat' split) <;> simp

@[simp] theorem State.followErr_base (s : State) (err : Int) : (State.followErr s err).base = s.base := by
  unfold State.followErr
  try dsimp only
  (repeat' split) <;> simp

@[simp] theorem State.setSource_base (s : State) (c : Nat) : (State.setSource s c).base = s.base := by
  unfold State.setSource
  try dsimp only
  (repeat' split) <;> simp

@[simp] theorem State.timeFall_base (s : State) (lost : Nat) : (State.timeFall s lost).base = s.base := by
  unfold State.timeFall
  extract_lets st t t1 t2 t3 t4 t5
  by_cases c : t.time.gm = true
  · rw [if_pos c]; simp [t]
  · rw [if_neg c]
    by_cases d : (st == 2) = true
    · rw [if_pos d]; rw [State.raise_base, State.base_mk, State.base_eta]; simp [t2, t]
    · rw [if_neg d]
      rw [State.base_mk, State.base_eta]
      simp [t4, t]

@[simp] theorem State.pickSource_base (l : List Nat) (s : State) : (State.pickSource l s).1.base = s.base := by
  induction l generalizing s with
  | nil => rfl
  | cons c l ih =>
    unfold State.pickSource
    split
    · exact ih s
    · split
      · simp [ih]
      · rfl

@[simp] theorem State.reselect_base (s : State) : (State.reselect s).base = s.base := by
  unfold State.reselect
  rcases h : s.pickSource s.byRank with ⟨t, best⟩
  have ht : t.base = s.base := by have := State.pickSource_base s.byRank s; rw [h] at this; exact this
  dsimp only
  cases best with
  | none =>
    dsimp only; split
    · exact ht
    · simp [ht]
  | some c =>
    dsimp only; split
    · exact ht
    · simp [ht]

@[simp] theorem State.timeLost_base (s : State) (c : Nat) : (State.timeLost s c).base = s.base := by
  unfold State.timeLost
  try dsimp only
  (repeat' split) <;> simp

@[simp] theorem State.timeGood_base (s : State) (c good need : Nat) (err : Int) : (State.timeGood s c good need err).base = s.base := by
  unfold State.timeGood
  try dsimp only
  (repeat' split) <;> simp

@[simp] theorem State.timeRef_base (s : State) (c : Nat) (err : Int) (freq : Option Int) (was : Nat) : (State.timeRef s c err freq was).base = s.base := by
  unfold State.timeRef
  try dsimp only
  (repeat' split) <;> simp

@[simp] theorem State.gptpSync_base (s : State) (c : Nat) (err ratePpb : Int) (gm : Nat) : (State.gptpSync s c err ratePpb gm).base = s.base := by
  unfold State.gptpSync
  try dsimp only
  (repeat' split) <;> simp

@[simp] theorem State.ppsEdge_base (s : State) (e : Int) (spacing width : Nat) : (State.ppsEdge s e spacing width).base = s.base := by
  unfold State.ppsEdge
  try dsimp only
  (repeat' split) <;> simp

@[simp] theorem State.frRef_base (s : State) (cycleNs cycle : Nat) (e : Int) : (State.frRef s cycleNs cycle e).base = s.base := by
  unfold State.frRef
  try dsimp only
  (repeat' split) <;> simp

@[simp] theorem State.realign_base (s : State) : (State.realign s).base = s.base := by
  unfold State.realign
  try dsimp only
  (repeat' split) <;> simp

@[simp] theorem State.timeRun_base (s : State) : (State.timeRun s).base = s.base := by
  unfold State.timeRun
  try dsimp only
  (repeat' split) <;> simp

@[simp] theorem State.waitTimeout_base (s : State) : (State.waitTimeout s).base = s.base := by
  unfold State.waitTimeout
  try dsimp only
  (repeat' split) <;> simp

@[simp] theorem State.holdoverExpire_base (s : State) : (State.holdoverExpire s).base = s.base := by
  unfold State.holdoverExpire
  try dsimp only
  (repeat' split) <;> simp

@[simp] theorem State.syncTimeout_base (s : State) (c : Nat) : (State.syncTimeout s c).base = s.base := by
  unfold State.syncTimeout
  try dsimp only
  (repeat' split) <;> simp

@[simp] theorem State.ppsTimeout_base (s : State) : (State.ppsTimeout s).base = s.base := by
  unfold State.ppsTimeout
  try dsimp only
  (repeat' split) <;> simp

@[simp] theorem State.rtcWrite_base (s : State) : (State.rtcWrite s).base = s.base := by
  unfold State.rtcWrite
  try dsimp only
  (repeat' split) <;> simp

@[simp] theorem State.syncTransmit_base (s : State) (p : Nat) : (State.syncTransmit s p).base = s.base := by
  unfold State.syncTransmit
  try dsimp only
  (repeat' split) <;> simp

@[simp] theorem State.timeApply_base (s : State) (g : TimeCfg) (imgSlew : Nat) (pgs : Tab PgRec) : (State.timeApply s g imgSlew pgs).base = s.base := by
  unfold State.timeApply
  try dsimp only
  (repeat' split) <;> simp

@[simp] theorem State.setPg_base (s : State) (n : Nat) (x : PulseGen) : (State.setPg s n x).base = s.base := by
  unfold State.setPg
  try dsimp only
  (repeat' split) <;> simp

@[simp] theorem State.pgIdle_base (s : State) (n kind : Nat) : (State.pgIdle s n kind).base = s.base := by
  unfold State.pgIdle
  try dsimp only
  (repeat' split) <;> simp

@[simp] theorem State.pgBegin_base (s : State) (n at_ : Nat) : (State.pgBegin s n at_).base = s.base := by
  unfold State.pgBegin
  try dsimp only
  (repeat' split) <;> simp

@[simp] theorem State.pgStop_base (s : State) (n : Nat) : (State.pgStop s n).base = s.base := by
  unfold State.pgStop
  try dsimp only
  (repeat' split) <;> simp

@[simp] theorem State.pgEdge_base (s : State) (n : Nat) : (State.pgEdge s n).base = s.base := by
  unfold State.pgEdge
  try dsimp only
  (repeat' split) <;> simp

@[simp] theorem State.pgInert_base (s : State) : (State.pgInert s).base = s.base := by
  unfold State.pgInert
  try dsimp only
  (repeat' split) <;> simp

@[simp] theorem State.timeSet_base (s : State) (ps : List Byte) : (State.timeSet s ps).base = s.base := by
  unfold State.timeSet
  try dsimp only
  (repeat' split) <;> simp

@[simp] theorem State.feedV_base (s : State) (f v : Nat) : (State.feedV s f v).base = s.base := by
  unfold State.feedV
  try dsimp only
  (repeat' split) <;> simp

@[simp] theorem State.feedI_base (s : State) (f i : Nat) : (State.feedI s f i).base = s.base := by
  unfold State.feedI
  try dsimp only
  (repeat' split) <;> simp

@[simp] theorem State.sagEnter_base (s : State) (f v : Nat) : (State.sagEnter s f v).base = s.base := by
  unfold State.sagEnter
  try dsimp only
  (repeat' split) <;> simp

@[simp] theorem State.crankStop_base (s : State) (v : Nat) : (State.crankStop s v).base = s.base := by
  unfold State.crankStop
  try dsimp only
  (repeat' split) <;> simp

@[simp] theorem State.sagExit_base (s : State) (f v : Nat) : (State.sagExit s f v).base = s.base := by
  unfold State.sagExit
  try dsimp only
  (repeat' split) <;> simp

@[simp] theorem State.crankStart_base (s : State) (v : Nat) : (State.crankStart s v).base = s.base := by
  unfold State.crankStart
  try dsimp only
  (repeat' split) <;> simp

@[simp] theorem State.crankEnd_base (s : State) (v : Nat) : (State.crankEnd s v).base = s.base := by
  unfold State.crankEnd
  try dsimp only
  (repeat' split) <;> simp

@[simp] theorem State.xosInert_base (s : State) : (State.xosInert s).base = s.base := by
  unfold State.xosInert
  try dsimp only
  (repeat' split) <;> simp

@[simp] theorem State.allInert_base (s : State) : (State.allInert s).base = s.base := by
  unfold State.allInert
  try dsimp only
  (repeat' split) <;> simp

@[simp] theorem State.uvSet_base (s : State) (f : Nat) : (State.uvSet s f).base = s.base := by
  unfold State.uvSet
  try dsimp only
  (repeat' split) <;> simp

@[simp] theorem State.uvLatch_base (s : State) (f mv : Nat) : (State.uvLatch s f mv).base = s.base := by
  unfold State.uvLatch
  try dsimp only
  (repeat' split) <;> simp

@[simp] theorem State.overvoltage_base (s : State) (f v : Nat) : (State.overvoltage s f v).base = s.base := by
  unfold State.overvoltage
  try dsimp only
  (repeat' split) <;> simp

@[simp] theorem State.overvoltageEnd_base (s : State) (f v : Nat) : (State.overvoltageEnd s f v).base = s.base := by
  unfold State.overvoltageEnd
  try dsimp only
  (repeat' split) <;> simp

@[simp] theorem State.overload_base (s : State) (f i : Nat) : (State.overload s f i).base = s.base := by
  unfold State.overload
  try dsimp only
  (repeat' split) <;> simp

@[simp] theorem State.overload2_base (s : State) (f i : Nat) : (State.overload2 s f i).base = s.base := by
  unfold State.overload2
  try dsimp only
  (repeat' split) <;> simp

@[simp] theorem State.overloadEnd_base (s : State) (f i : Nat) : (State.overloadEnd s f i).base = s.base := by
  unfold State.overloadEnd
  try dsimp only
  (repeat' split) <;> simp

@[simp] theorem State.shedResume_base (s : State) (f : Nat) : (State.shedResume s f).base = s.base := by
  unfold State.shedResume
  try dsimp only
  (repeat' split) <;> simp

@[simp] theorem State.stepTo_base (s : State) (n : Nat) : (State.stepTo s n).base = s.base := by
  unfold State.stepTo
  try dsimp only
  (repeat' split) <;> simp

@[simp] theorem State.thermalEval_base (s : State) (psw rail : Nat) (tcp tjc : Int) : (State.thermalEval s psw rail tcp tjc).base = s.base := by
  unfold State.thermalEval
  try dsimp only
  (repeat' split) <;> simp

@[simp] theorem State.stepFall_base (s : State) : (State.stepFall s).base = s.base := by
  unfold State.stepFall
  try dsimp only
  (repeat' split) <;> simp

@[simp] theorem State.step3Entry_base (s : State) : (State.step3Entry s).base = s.base := by
  unfold State.step3Entry
  try dsimp only
  (repeat' split) <;> simp

end Sys2Proof.Machine
end

