-- ==== Sys2Proof/Laws/Base4.lean ====
section
/-!
SUPPORT. Sys2Proof/Laws/Base4.lean: what no operation of these files changes of the view `State.base` (the queue, ET, the coarse
device state, the arm state, the passed commit point): FlexRay, LIN, the gateway, inputs and outputs, rings.
-/

namespace Sys2Proof.Machine

@[simp] theorem State.setCluster_base (s : State) (c : Nat) (x : FryCluster) : (State.setCluster s c x).base = s.base := by
  unfold State.setCluster
  try dsimp only
  (repeat' split) <;> simp

@[simp] theorem State.setFryCh_base (s : State) (k : Nat) (x : FryChan) : (State.setFryCh s k x).base = s.base := by
  unfold State.setFryCh
  try dsimp only
  (repeat' split) <;> simp

@[simp] theorem State.setPoc_base (s : State) (c code : Nat) : (State.setPoc s c code).base = s.base := by
  unfold State.setPoc
  try dsimp only
  (repeat' split) <;> simp

@[simp] theorem State.pocChange_base (s : State) (c code : Nat) : (State.pocChange s c code).base = s.base := by
  unfold State.pocChange
  try dsimp only
  (repeat' split) <;> simp

@[simp] theorem State.fryStartUp_base (s : State) (c : Nat) (wup : Bool) : (State.fryStartUp s c wup).base = s.base := by
  unfold State.fryStartUp
  try dsimp only
  (repeat' split) <;> simp

@[simp] theorem State.fryRun_base (s : State) : (State.fryRun s).base = s.base := by
  unfold State.fryRun
  try dsimp only
  (repeat' split) <;> simp

@[simp] theorem State.fryDown_base (s : State) : (State.fryDown s).base = s.base := by
  unfold State.fryDown
  try dsimp only
  (repeat' split) <;> simp

@[simp] theorem State.frAlone_base (s : State) (c : Nat) : (State.frAlone s c).base = s.base := by
  unfold State.frAlone
  try dsimp only
  (repeat' split) <;> simp

@[simp] theorem State.coldstartRetry_base (s : State) (c : Nat) : (State.coldstartRetry s c).base = s.base := by
  unfold State.coldstartRetry
  try dsimp only
  (repeat' split) <;> simp

@[simp] theorem State.fryStartTimeout_base (s : State) (c : Nat) : (State.fryStartTimeout s c).base = s.base := by
  unfold State.fryStartTimeout
  try dsimp only
  (repeat' split) <;> simp

@[simp] theorem State.fryRestore_base (s : State) (c k : Nat) : (State.fryRestore s c k).base = s.base := by
  unfold State.fryRestore
  try dsimp only
  (repeat' split) <;> simp

@[simp] theorem State.fryLock_base (s : State) (c : Nat) (err : Int) : (State.fryLock s c err).base = s.base := by
  unfold State.fryLock
  try dsimp only
  (repeat' split) <;> simp

@[simp] theorem State.fryCycle_base (s : State) (c cycle : Nat) (err rate offs : Int) : (State.fryCycle s c cycle err rate offs).base = s.base := by
  unfold State.fryCycle
  try dsimp only
  (repeat' split) <;> simp

@[simp] theorem State.setFryTx_base (s : State) (j : Nat) (x : FryTx) : (State.setFryTx s j x).base = s.base := by
  unfold State.setFryTx
  try dsimp only
  (repeat' split) <;> simp

@[simp] theorem State.fryCommit_base (s : State) (c slot cycle chans : Nat) : (State.fryCommit s c slot cycle chans).base = s.base := by
  unfold State.fryCommit
  refine foldl_base _ ?_ _ _
  intro s i
  split
  · rfl
  · refine foldl_base _ ?_ _ _
    intro s i
    split <;> simp

@[simp] theorem State.frySend_base (s : State) (k slot : Nat) (data : Option (List Byte)) (isRepeat : Bool) : (State.frySend s k slot data isRepeat).base = s.base := by
  unfold State.frySend
  try dsimp only
  (repeat' split) <;> simp

@[simp] theorem State.fryAction_base (s : State) (k slot cycle : Nat) : (State.fryAction s k slot cycle).base = s.base := by
  unfold State.fryAction
  try dsimp only
  (repeat' split) <;> simp

@[simp] theorem State.fryReceive_base (s : State) (k : Nat) (f : FryFrame) : (State.fryReceive s k f).base = s.base := by
  unfold State.fryReceive
  try dsimp only
  (repeat' split) <;> simp

@[simp] theorem State.violation_base (s : State) (k branch slot : Nat) (notOwned : Bool) : (State.violation s k branch slot notOwned).base = s.base := by
  unfold State.violation
  try dsimp only
  (repeat' split) <;> simp

@[simp] theorem State.branchTx_base (s : State) (k branch seg slot : Nat) (off : Int) : (State.branchTx s k branch seg slot off).base = s.base := by
  unfold State.branchTx
  try dsimp only
  (repeat' split) <;> simp

@[simp] theorem State.branchTruncated_base (s : State) (k branch slot : Nat) : (State.branchTruncated s k branch slot).base = s.base := by
  unfold State.branchTruncated
  try dsimp only
  (repeat' split) <;> simp

@[simp] theorem State.linSleep_base (s : State) (n why : Nat) : (State.linSleep s n why).base = s.base := by
  unfold State.linSleep
  try dsimp only
  (repeat' split) <;> simp

@[simp] theorem State.linRun_base (s : State) : (State.linRun s).base = s.base := by
  unfold State.linRun
  try dsimp only
  (repeat' split) <;> simp

@[simp] theorem State.linTxEnd_base (s : State) (pk : Packet) (start err : Nat) (data : List Byte) : (State.linTxEnd s pk start err data).base = s.base := by
  unfold State.linTxEnd
  try dsimp only
  (repeat' split) <;> simp

@[simp] theorem State.linError_base (s : State) (n err id : Nat) : (State.linError s n err id).base = s.base := by
  unfold State.linError
  try dsimp only
  (repeat' split) <;> simp

@[simp] theorem State.linGood_base (s : State) (n : Nat) (subs : Bool) : (State.linGood s n subs).base = s.base := by
  unfold State.linGood
  try dsimp only
  (repeat' split) <;> simp

@[simp] theorem State.linStore_base (s : State) (n : Nat) (c : LinCur) (data : List Byte) : (State.linStore s n c data).base = s.base := by
  unfold State.linStore
  try dsimp only
  (repeat' split) <;> simp

@[simp] theorem State.linFrameEnd_base (s : State) (n : Nat) (e : LinEnd) : (State.linFrameEnd s n e).base = s.base := by
  unfold State.linFrameEnd
  try dsimp only
  (repeat' split) <;> simp

@[simp] theorem State.linTimeout_base (s : State) (n : Nat) (data : List Byte) : (State.linTimeout s n data).base = s.base := by
  unfold State.linTimeout
  try dsimp only
  (repeat' split) <;> simp

@[simp] theorem State.linRelease_base (s : State) (n i : Nat) : (State.linRelease s n i).base = s.base := by
  unfold State.linRelease
  try dsimp only
  (repeat' split) <;> simp

@[simp] theorem State.linHeader_base (s : State) (n id : Nat) (sleep : Bool) : (State.linHeader s n id sleep).base = s.base := by
  unfold State.linHeader
  try dsimp only
  (repeat' split) <;> simp

@[simp] theorem State.linIdle_base (s : State) (n : Nat) : (State.linIdle s n).base = s.base := by
  unfold State.linIdle
  try dsimp only
  (repeat' split) <;> simp

@[simp] theorem State.linWake_base (s : State) (n : Nat) (sent : Bool) : (State.linWake s n sent).base = s.base := by
  unfold State.linWake
  try dsimp only
  (repeat' split) <;> simp

@[simp] theorem State.linWakingEnd_base (s : State) (n : Nat) : (State.linWakingEnd s n).base = s.base := by
  unfold State.linWakingEnd
  try dsimp only
  (repeat' split) <;> simp

@[simp] theorem State.linNoHeader_base (s : State) (n : Nat) : (State.linNoHeader s n).base = s.base := by
  unfold State.linNoHeader
  try dsimp only
  (repeat' split) <;> simp

@[simp] theorem State.routeLoad_base (s : State) (sig : Nat) : (State.routeLoad s sig).base = s.base := by
  unfold State.routeLoad
  try dsimp only
  (repeat' split) <;> simp

@[simp] theorem State.mailboxRead_base (s : State) (n : Nat) : (State.mailboxRead s n).1.base = s.base := by
  unfold State.mailboxRead
  try dsimp only
  (repeat' split) <;> simp

@[simp] theorem State.sourceRead_base (s : State) (e : List Byte) (edge : Option (Nat × Nat)) : (State.sourceRead s e edge).1.base = s.base := by
  unfold State.sourceRead
  try dsimp only
  (repeat' split) <;> simp

@[simp] theorem State.inputLatch_base (s : State) (g : Nat) : (State.inputLatch s g).base = s.base := by
  unfold State.inputLatch
  try dsimp only
  (repeat' split) <;> simp

@[simp] theorem State.gwEvent_base (s : State) (src kind sig data : Nat) : (State.gwEvent s src kind sig data).base = s.base := by
  unfold State.gwEvent
  try dsimp only
  (repeat' split) <;> simp

@[simp] theorem State.setSig_base (s : State) (sig : Nat) (x : SigStat) : (State.setSig s sig x).base = s.base := by
  unfold State.setSig
  try dsimp only
  (repeat' split) <;> simp

@[simp] theorem State.execEntry_base (s : State) (sig src : Nat) (edge : Option (Nat × Nat)) : (State.execEntry s sig src edge).1.base = s.base := by
  unfold State.execEntry
  try dsimp only
  (repeat' split) <;> simp

@[simp] theorem State.putField_base (s : State) (w : GwWrite) : (State.putField s w).base = s.base := by
  unfold State.putField
  try dsimp only
  (repeat' split) <;> simp

@[simp] theorem State.writeFrame_base (s : State) (src : Nat) (w : GwWrite) : (State.writeFrame s src w).1.base = s.base := by
  unfold State.writeFrame
  try dsimp only
  (repeat' split) <;> simp

@[simp] theorem State.putRec_base (s : State) (w : GwWrite) (hold : Nat) : (State.putRec s w hold).base = s.base := by
  unfold State.putRec
  try dsimp only
  (repeat' split) <;> simp

@[simp] theorem State.writeRec_base (s : State) (src : Nat) (w : GwWrite) : (State.writeRec s src w).base = s.base := by
  unfold State.writeRec
  try dsimp only
  (repeat' split) <;> simp

@[simp] theorem State.writeMailbox_base (s : State) (w : GwWrite) : (State.writeMailbox s w).base = s.base := by
  unfold State.writeMailbox
  try dsimp only
  (repeat' split) <;> simp

@[simp] theorem State.commitWrite_base (s : State) (src : Nat) (w : GwWrite) : (State.commitWrite s src w).base = s.base := by
  unfold State.commitWrite
  try dsimp only
  (repeat' split) <;> simp

@[simp] theorem State.setPipe_base (s : State) (p : Nat) (x : Pipe) : (State.setPipe s p x).base = s.base := by
  unfold State.setPipe
  try dsimp only
  (repeat' split) <;> simp

@[simp] theorem State.routeQueue_base (s : State) (p first count : Nat) (trace : Option TraceOf) : (State.routeQueue s p first count trace).base = s.base := by
  unfold State.routeQueue
  try dsimp only
  (repeat' split) <;> simp

@[simp] theorem State.routeMiss_base (s : State) (sig : Nat) : (State.routeMiss s sig).base = s.base := by
  unfold State.routeMiss
  try dsimp only
  (repeat' split) <;> simp

@[simp] theorem State.routeOne_base (p : Nat) (acc : State × List GwWrite) (sig : Nat) :
    (State.routeOne p acc sig).1.base = acc.1.base := by
  unfold State.routeOne
  dsimp only
  (repeat' split) <;> simp

@[simp] theorem State.routeStart_base (s : State) (p : Nat) : (State.routeStart s p).base = s.base := by
  unfold State.routeStart
  extract_lets x
  cases h : x.queue with
  | nil => rfl
  | cons q rest =>
    dsimp only
    by_cases c : x.busy = true
    · rw [if_pos c]
    · rw [if_neg c]
      simp

@[simp] theorem State.traceLog_base (s : State) (l : Nat) (t : Option TraceOf) : (State.traceLog s l t).base = s.base := by
  unfold State.traceLog
  try dsimp only
  (repeat' split) <;> simp

@[simp] theorem State.routeCommit_base (s : State) (p : Nat) : (State.routeCommit s p).base = s.base := by
  unfold State.routeCommit
  try dsimp only
  (repeat' split) <;> simp

@[simp] theorem State.prefetchRoutes_base (s : State) (first count : Nat) : (State.prefetchRoutes s first count).base = s.base := by
  unfold State.prefetchRoutes
  try dsimp only
  (repeat' split) <;> simp

@[simp] theorem State.risTake_base (s : State) : (State.risTake s).base = s.base := by
  unfold State.risTake
  try dsimp only
  (repeat' split) <;> simp

@[simp] theorem State.risSlot_base (s : State) : (State.risSlot s).base = s.base := by
  unfold State.risSlot
  try dsimp only
  (repeat' split) <;> simp

@[simp] theorem State.risDestA_base (s : State) (w : GwWrite) (hold : Nat) : (State.risDestA s w hold).base = s.base := by
  unfold State.risDestA
  try dsimp only
  (repeat' split) <;> simp

@[simp] theorem State.risExecute_base (s : State) : (State.risExecute s).base = s.base := by
  unfold State.risExecute
  try dsimp only
  (repeat' split) <;> simp

@[simp] theorem State.gwBoundary_base (s : State) : (State.gwBoundary s).base = s.base := by
  unfold State.gwBoundary
  try dsimp only
  (repeat' split) <;> simp

@[simp] theorem State.mailboxStart_base (s : State) : (State.mailboxStart s).base = s.base := by
  unfold State.mailboxStart
  try dsimp only
  (repeat' split) <;> simp

@[simp] theorem State.setDin_base (s : State) (n : Nat) (x : Din) : (State.setDin s n x).base = s.base := by
  unfold State.setDin
  try dsimp only
  (repeat' split) <;> simp

@[simp] theorem State.qualify_base (s : State) (n : Nat) : (State.qualify s n).base = s.base := by
  unfold State.qualify
  try dsimp only
  (repeat' split) <;> simp

@[simp] theorem State.debounceOf_base (s : State) (n : Nat) : (State.debounceOf s n).base = s.base := by
  unfold State.debounceOf
  try dsimp only
  (repeat' split) <;> simp

@[simp] theorem State.filteredEdge_base (s : State) (n : Nat) (level : Bool) (first : Nat) : (State.filteredEdge s n level first).base = s.base := by
  unfold State.filteredEdge
  try dsimp only
  (repeat' split) <;> simp

@[simp] theorem State.diEdge_base (s : State) (n : Nat) : (State.diEdge s n).base = s.base := by
  unfold State.diEdge
  try dsimp only
  (repeat' split) <;> simp

@[simp] theorem State.dinHold_base (s : State) (lo hi : Nat) : (State.dinHold s lo hi).base = s.base := by
  unfold State.dinHold
  try dsimp only
  (repeat' split) <;> simp

@[simp] theorem State.dinResume_base (s : State) (lo hi : Nat) : (State.dinResume s lo hi).base = s.base := by
  unfold State.dinResume
  try dsimp only
  (repeat' split) <;> simp

@[simp] theorem State.diFeedLow_base (s : State) (v : Nat) : (State.diFeedLow s v).base = s.base := by
  unfold State.diFeedLow
  try dsimp only
  (repeat' split) <;> simp

@[simp] theorem State.diResume_base (s : State) (v : Nat) : (State.diResume s v).base = s.base := by
  unfold State.diResume
  try dsimp only
  (repeat' split) <;> simp

@[simp] theorem State.dinStart_base (s : State) : (State.dinStart s).base = s.base := by
  unfold State.dinStart
  try dsimp only
  (repeat' split) <;> simp

@[simp] theorem State.dinMs_base (s : State) (n measure : Nat) : (State.dinMs s n measure).base = s.base := by
  unfold State.dinMs
  try dsimp only
  (repeat' split) <;> simp

@[simp] theorem State.wireBreak_base (s : State) (n : Nat) : (State.wireBreak s n).base = s.base := by
  unfold State.wireBreak
  try dsimp only
  (repeat' split) <;> simp

@[simp] theorem State.wireOk_base (s : State) (n : Nat) : (State.wireOk s n).base = s.base := by
  unfold State.wireOk
  try dsimp only
  (repeat' split) <;> simp

@[simp] theorem State.testDone_base (s : State) (skipped brk shrt : Nat) : (State.testDone s skipped brk shrt).base = s.base := by
  unfold State.testDone
  try dsimp only
  (repeat' split) <;> simp

@[simp] theorem State.setXo_base (s : State) (n : Nat) (x : Xo) : (State.setXo s n x).base = s.base := by
  unfold State.setXo
  try dsimp only
  (repeat' split) <;> simp

@[simp] theorem State.xoPut_base (s : State) (n : Nat) (level : Bool) : (State.xoPut s n level).base = s.base := by
  unfold State.xoPut
  try dsimp only
  (repeat' split) <;> simp

@[simp] theorem State.xoSet_base (s : State) (n : Nat) (level : Bool) : (State.xoSet s n level).base = s.base := by
  unfold State.xoSet
  try dsimp only
  (repeat' split) <;> simp

@[simp] theorem State.xoSafe_base (s : State) (n : Nat) : (State.xoSafe s n).base = s.base := by
  unfold State.xoSafe
  try dsimp only
  (repeat' split) <;> simp

@[simp] theorem State.barrierLost_base (s : State) (logicSide viso : Bool) : (State.barrierLost s logicSide viso).base = s.base := by
  unfold State.barrierLost
  try dsimp only
  (repeat' split) <;> simp

@[simp] theorem State.barrierRestored_base (s : State) : (State.barrierRestored s).base = s.base := by
  unfold State.barrierRestored
  try dsimp only
  (repeat' split) <;> simp

@[simp] theorem State.fieldHoldEnd_base (s : State) (n : Nat) : (State.fieldHoldEnd s n).base = s.base := by
  unfold State.fieldHoldEnd
  try dsimp only
  (repeat' split) <;> simp

@[simp] theorem State.xoFault_base (s : State) (n current : Nat) (thermal : Bool) : (State.xoFault s n current thermal).base = s.base := by
  unfold State.xoFault
  try dsimp only
  (repeat' split) <;> simp

@[simp] theorem State.xoRetry_base (s : State) (n : Nat) (holds : Bool) : (State.xoRetry s n holds).base = s.base := by
  unfold State.xoRetry
  try dsimp only
  (repeat' split) <;> simp

@[simp] theorem State.xvsLost_base (s : State) (v : Nat) : (State.xvsLost s v).base = s.base := by
  unfold State.xvsLost
  try dsimp only
  (repeat' split) <;> simp

@[simp] theorem State.xvsReturn_base (s : State) (v : Nat) : (State.xvsReturn s v).base = s.base := by
  unfold State.xvsReturn
  try dsimp only
  (repeat' split) <;> simp

@[simp] theorem State.dinBoundary_base (s : State) : (State.dinBoundary s).base = s.base := by
  unfold State.dinBoundary
  try dsimp only
  (repeat' split) <;> simp

@[simp] theorem State.postFail_base (s : State) (p addr size cause path pair seq : Nat) : (State.postFail s p addr size cause path pair seq).base = s.base := by
  unfold State.postFail
  try dsimp only
  (repeat' split) <;> simp

@[simp] theorem State.ringEvent_base (s : State) (n kind data : Nat) : (State.ringEvent s n kind data).base = s.base := by
  unfold State.ringEvent
  try dsimp only
  (repeat' split) <;> simp

@[simp] theorem State.indexError_base (s : State) (n v : Nat) (producer : Bool) : (State.indexError s n v producer).base = s.base := by
  unfold State.indexError
  try dsimp only
  (repeat' split) <;> simp

@[simp] theorem State.doorbellWrite_base (s : State) (p n : Nat) (f : State → State) (h : ∀ s, (f s).base = s.base) :
    (s.doorbellWrite p n f).base = s.base := by
  unfold State.doorbellWrite
  split
  · rfl
  · exact h s

@[simp] theorem State.dbProducer_base (s : State) (p n v : Nat) : (State.dbProducer s p n v).base = s.base := by
  unfold State.dbProducer
  try dsimp only
  (repeat' split) <;> simp

@[simp] theorem State.dbConsumer_base (s : State) (p n v : Nat) : (State.dbConsumer s p n v).base = s.base := by
  unfold State.dbConsumer
  try dsimp only
  (repeat' split) <;> simp

@[simp] theorem State.irqAck_base (s : State) (p n v : Nat) : (State.irqAck s p n v).base = s.base := by
  unfold State.irqAck
  try dsimp only
  (repeat' split) <;> simp

@[simp] theorem State.viConsume_base (s : State) (p v : Nat) : (State.viConsume s p v).base = s.base := by
  unfold State.viConsume
  try dsimp only
  (repeat' split) <;> simp

@[simp] theorem State.viOvfAck_base (s : State) (p v : Nat) : (State.viOvfAck s p v).base = s.base := by
  unfold State.viOvfAck
  try dsimp only
  (repeat' split) <;> simp

@[simp] theorem State.eventDeliver_base (s : State) : (State.eventDeliver s).base = s.base := by
  unfold State.eventDeliver
  try dsimp only
  (repeat' split) <;> simp

theorem State.nextFrame_base {s t : State} {n : Nat} {bs : List Byte} (h : s.nextFrame n = some (bs, t)) :
    t.base = s.base := by
  unfold State.nextFrame at h
  split at h
  · simp only [Option.some.injEq, Prod.mk.injEq] at h
    rw [← h.2]; rfl
  · split at h
    · simp only [Option.map_eq_some_iff, Prod.mk.injEq] at h
      obtain ⟨a, _, _, e⟩ := h
      rw [← e]; simp
    · split at h
      · simp only [Option.map_eq_some_iff, Prod.mk.injEq] at h
        obtain ⟨a, _, _, e⟩ := h
        rw [← e]; simp
      · split at h
        · simp only [Option.map_eq_some_iff, Prod.mk.injEq] at h
          obtain ⟨a, _, _, e⟩ := h
          rw [← e]; simp
        · cases h

@[simp] theorem State.moveRx_base (s : State) (n : Nat) : (State.moveRx s n).base = s.base := by
  unfold State.moveRx
  extract_lets r
  split
  · rfl
  · split
    · rfl
    · rename_i e
      split <;> simp [State.nextFrame_base e]

@[simp] theorem State.moveTx_base (s : State) (n : Nat) : (State.moveTx s n).base = s.base := by
  unfold State.moveTx
  try dsimp only
  (repeat' split) <;> simp

@[simp] theorem State.ringMove_base (s : State) (n : Nat) : (State.ringMove s n).base = s.base := by
  unfold State.ringMove
  try dsimp only
  (repeat' split) <;> simp

@[simp] theorem State.ringStop_base (s : State) (n : Nat) : (State.ringStop s n).base = s.base := by
  unfold State.ringStop
  try dsimp only
  (repeat' split) <;> simp

@[simp] theorem State.ringStart_base (s : State) (n : Nat) : (State.ringStart s n).base = s.base := by
  unfold State.ringStart
  try dsimp only
  (repeat' split) <;> simp

end Sys2Proof.Machine
end

