-- ==== Sys2Proof/Laws/Base5.lean ====
section
/-!
SUPPORT. Sys2Proof/Laws/Base5.lean: what no operation of these files changes of the view `State.base` (the queue, ET, the coarse
device state, the arm state, the passed commit point): partitions, Easel, protection, Bamlys and update.
-/

namespace Sys2Proof.Machine

@[simp] theorem State.laneSpecific_base (s : State) (l : Nat) : (State.laneSpecific s l).base = s.base := by
  unfold State.laneSpecific
  try dsimp only
  (repeat' split) <;> simp

@[simp] theorem State.predClear_base (s : State) (k : Nat) : (State.predClear s k).base = s.base := by
  unfold State.predClear
  try dsimp only
  (repeat' split) <;> simp

@[simp] theorem State.window_base (s : State) (k p ns : Nat) : (State.window s k p ns).base = s.base := by
  unfold State.window
  try dsimp only
  (repeat' split) <;> simp

@[simp] theorem State.drainCommands_base (s : State) (p : Nat) : (State.drainCommands s p).base = s.base := by
  unfold State.drainCommands
  try dsimp only
  (repeat' split) <;> simp

@[simp] theorem State.partSafe_base (s : State) (p : Nat) : (State.partSafe s p).base = s.base := by
  unfold State.partSafe
  try dsimp only
  (repeat' split) <;> simp

@[simp] theorem State.recsEmpty_base (s : State) (p : Nat) : (State.recsEmpty s p).base = s.base := by
  unfold State.recsEmpty
  try dsimp only
  (repeat' split) <;> simp

@[simp] theorem State.partReset_base (s : State) (p cause : Nat) (restart : Bool) : (State.partReset s p cause restart).base = s.base := by
  unfold State.partReset
  try dsimp only
  (repeat' split) <;> simp

@[simp] theorem State.clusterReset_base (s : State) : (State.clusterReset s).base = s.base := by
  unfold State.clusterReset
  try dsimp only
  (repeat' split) <;> simp

@[simp] theorem State.restartBegin_base (s : State) (p : Nat) : (State.restartBegin s p).base = s.base := by
  unfold State.restartBegin
  try dsimp only
  (repeat' split) <;> simp

@[simp] theorem State.resetDone_base (s : State) (p : Nat) : (State.resetDone s p).base = s.base := by
  unfold State.resetDone
  try dsimp only
  (repeat' split) <;> simp

@[simp] theorem State.restarted_base (s : State) (p : Nat) (digestOk : Bool) (image : List Byte) : (State.restarted s p digestOk image).base = s.base := by
  unfold State.restarted
  try dsimp only
  (repeat' split) <;> simp

@[simp] theorem State.partsRun_base (s : State) : (State.partsRun s).base = s.base := by
  unfold State.partsRun
  try dsimp only
  (repeat' split) <;> simp

@[simp] theorem State.mismatch_base (s : State) (k : Nat) (rail : Bool) : (State.mismatch s k rail).base = s.base := by
  unfold State.mismatch
  try dsimp only
  (repeat' split) <;> simp

@[simp] theorem State.pairHalt_base (s : State) (k : Nat) : (State.pairHalt s k).base = s.base := by
  unfold State.pairHalt
  try dsimp only
  (repeat' split) <;> simp

@[simp] theorem State.pairResume_base (s : State) (k : Nat) : (State.pairResume s k).base = s.base := by
  unfold State.pairResume
  try dsimp only
  (repeat' split) <;> simp

@[simp] theorem State.secureIrq_base (s : State) (k : Nat) : (State.secureIrq s k).base = s.base := by
  unfold State.secureIrq
  try dsimp only
  (repeat' split) <;> simp

@[simp] theorem State.supTimeout_base (s : State) (serial : Nat) : (State.supTimeout s serial).base = s.base := by
  unfold State.supTimeout
  try dsimp only
  (repeat' split) <;> simp

@[simp] theorem State.setSlot_base (s : State) (n : Nat) (x : PalSlot) : (State.setSlot s n x).base = s.base := by
  unfold State.setSlot
  try dsimp only
  (repeat' split) <;> simp

@[simp] theorem State.setLane_base (s : State) (l : Nat) (x : Lane) : (State.setLane s l x).base = s.base := by
  unfold State.setLane
  try dsimp only
  (repeat' split) <;> simp

@[simp] theorem State.setPartOvr_base (s : State) (p : Nat) (x : PartOvr) : (State.setPartOvr s p x).base = s.base := by
  unfold State.setPartOvr
  try dsimp only
  (repeat' split) <;> simp

@[simp] theorem State.takeStroke_base (s : State) (phase : Nat) : (State.takeStroke s phase).base = s.base := by
  unfold State.takeStroke
  try dsimp only
  (repeat' split) <;> simp

@[simp] theorem State.bufferMiss_base (s : State) : (State.bufferMiss s).base = s.base := by
  unfold State.bufferMiss
  try dsimp only
  (repeat' split) <;> simp

@[simp] theorem State.fillBlock_base (s : State) (first count : Nat) : (State.fillBlock s first count).base = s.base := by
  unfold State.fillBlock
  try dsimp only
  (repeat' split) <;> simp

@[simp] theorem State.blockArrived_base (s : State) : (State.blockArrived s).base = s.base := by
  unfold State.blockArrived
  try dsimp only
  (repeat' split) <;> simp

@[simp] theorem State.countOverrun_base (s : State) (l ovr p : Nat) : (State.countOverrun s l ovr p).base = s.base := by
  unfold State.countOverrun
  try dsimp only
  (repeat' split) <;> simp

@[simp] theorem State.strokeFault_base (s : State) (src p data : Nat) : (State.strokeFault s src p data).base = s.base := by
  unfold State.strokeFault
  try dsimp only
  (repeat' split) <;> simp

@[simp] theorem State.overrun_base (s : State) (h : StrokeHd) (st : Stroke) : (State.overrun s h st).base = s.base := by
  unfold State.overrun
  try dsimp only
  (repeat' split) <;> simp

@[simp] theorem State.dropLate_base (s : State) (f : LateStroke → Bool) : (State.dropLate s f).base = s.base := by
  unfold State.dropLate
  try dsimp only
  (repeat' split) <;> simp

@[simp] theorem State.countDispatch_base (s : State) (l lag : Nat) : (State.countDispatch s l lag).base = s.base := by
  unfold State.countDispatch
  try dsimp only
  (repeat' split) <;> simp

@[simp] theorem State.startStroke_base (s : State) (h : StrokeHd) (st : Stroke) (late : Bool) (act : State → State)
    (hf : ∀ s, (act s).base = s.base) : (s.startStroke h st late act).base = s.base := by
  unfold State.startStroke
  (repeat' split) <;> simp [hf]

@[simp] theorem State.strokeDo_base (s : State) (h : StrokeHd) (st : Stroke) (act : Bool → State → State)
    (hf : ∀ b s, (act b s).base = s.base) : (s.strokeDo h st act).base = s.base := by
  unfold State.strokeDo
  (repeat' split) <;> simp [hf]

@[simp] theorem State.strokeOverrun_base (s : State) (h : StrokeHd) (st : Stroke) : (State.strokeOverrun s h st).base = s.base := by
  unfold State.strokeOverrun
  try dsimp only
  (repeat' split) <;> simp

@[simp] theorem State.pgTrigger_base (s : State) (n phase delay : Nat) : (State.pgTrigger s n phase delay).base = s.base := by
  unfold State.pgTrigger
  try dsimp only
  (repeat' split) <;> simp

@[simp] theorem State.startLoad_base (s : State) : (State.startLoad s).base = s.base := by
  unfold State.startLoad
  try dsimp only
  (repeat' split) <;> simp

@[simp] theorem State.askLoad_base (s : State) (n k : Nat) : (State.askLoad s n k).base = s.base := by
  unfold State.askLoad
  try dsimp only
  (repeat' split) <;> simp

@[simp] theorem State.acceptLog_base (s : State) (src : Nat) (rec_ : List Byte) : (State.acceptLog s src rec_).base = s.base := by
  unfold State.acceptLog
  try dsimp only
  (repeat' split) <;> simp

@[simp] theorem State.markFailed_base (s : State) : (State.markFailed s).base = s.base := by
  unfold State.markFailed
  try dsimp only
  (repeat' split) <;> simp

@[simp] theorem State.paletteLoaded_base (s : State) (code detail : Nat) : (State.paletteLoaded s code detail).base = s.base := by
  unfold State.paletteLoaded
  try dsimp only
  (repeat' split) <;> simp

@[simp] theorem State.decisionPoint_base (s : State) (headOk : Bool) : (State.decisionPoint s headOk).base = s.base := by
  unfold State.decisionPoint
  try dsimp only
  (repeat' split) <;> simp

@[simp] theorem State.paletteStart_base (s : State) (n reason : Nat) : (State.paletteStart s n reason).base = s.base := by
  unfold State.paletteStart
  try dsimp only
  (repeat' split) <;> simp

@[simp] theorem State.switchReply_base (s : State) : (State.switchReply s).base = s.base := by
  unfold State.switchReply
  try dsimp only
  (repeat' split) <;> simp

@[simp] theorem State.canvasBegin_base (s : State) : (State.canvasBegin s).base = s.base := by
  unfold State.canvasBegin
  try dsimp only
  (repeat' split) <;> simp

@[simp] theorem State.canvasTurn_base (s : State) : (State.canvasTurn s).base = s.base := by
  unfold State.canvasTurn
  try dsimp only
  (repeat' split) <;> simp

@[simp] theorem State.ocTripRow_base (s : State) (i current : Nat) : (State.ocTripRow s i current).base = s.base := by
  unfold State.ocTripRow
  try dsimp only
  (repeat' split) <;> simp

@[simp] theorem State.ocPauseRow_base (s : State) (i : Nat) : (State.ocPauseRow s i).base = s.base := by
  unfold State.ocPauseRow
  try dsimp only
  (repeat' split) <;> simp

@[simp] theorem State.ocRetryRow_base (s : State) (i : Nat) : (State.ocRetryRow s i).base = s.base := by
  unfold State.ocRetryRow
  try dsimp only
  (repeat' split) <;> simp

@[simp] theorem State.ocRecovered_base (s : State) (i : Nat) : (State.ocRecovered s i).base = s.base := by
  unfold State.ocRecovered
  try dsimp only
  (repeat' split) <;> simp

@[simp] theorem State.pourRow_base (s : State) (i : Nat) : (State.pourRow s i).base = s.base := by
  unfold State.pourRow
  try dsimp only
  (repeat' split) <;> simp

@[simp] theorem State.thShutRow_base (s : State) (i : Nat) (tj dt : Int) : (State.thShutRow s i tj dt).base = s.base := by
  unfold State.thShutRow
  try dsimp only
  (repeat' split) <;> simp

@[simp] theorem State.thRestartRow_base (s : State) (i : Nat) (tj dt : Int) : (State.thRestartRow s i tj dt).base = s.base := by
  unfold State.thRestartRow
  try dsimp only
  (repeat' split) <;> simp

@[simp] theorem State.cooldownOverrun_base (s : State) (i : Nat) : (State.cooldownOverrun s i).base = s.base := by
  unfold State.cooldownOverrun
  try dsimp only
  (repeat' split) <;> simp

@[simp] theorem State.periodRow_base (s : State) (i : Nat) : (State.periodRow s i).base = s.base := by
  unfold State.periodRow
  try dsimp only
  (repeat' split) <;> simp

@[simp] theorem State.senseMs_base (s : State) (i : Nat) (m : SenseMs) : (State.senseMs s i m).base = s.base := by
  unfold State.senseMs
  try dsimp only
  (repeat' split) <;> simp

@[simp] theorem State.openLoad_base (s : State) (i : Nat) : (State.openLoad s i).base = s.base := by
  unfold State.openLoad
  try dsimp only
  (repeat' split) <;> simp

@[simp] theorem State.openLoadCleared_base (s : State) (i : Nat) : (State.openLoadCleared s i).base = s.base := by
  unfold State.openLoadCleared
  try dsimp only
  (repeat' split) <;> simp

@[simp] theorem State.stallRow_base (s : State) (b : Nat) : (State.stallRow s b).base = s.base := by
  unfold State.stallRow
  try dsimp only
  (repeat' split) <;> simp

@[simp] theorem State.xcondRow_base (s : State) (b leg side : Nat) : (State.xcondRow s b leg side).base = s.base := by
  unfold State.xcondRow
  try dsimp only
  (repeat' split) <;> simp

@[simp] theorem State.shedRow_base (s : State) (f : Nat) : (State.shedRow s f).base = s.base := by
  unfold State.shedRow
  try dsimp only
  (repeat' split) <;> simp

@[simp] theorem State.krUse_base (s : State) (n : Nat) : (State.krUse s n).base = s.base := by
  unfold State.krUse
  try dsimp only
  (repeat' split) <;> simp

@[simp] theorem State.writeRecord_base (s : State) (n op : Nat) (k : KeySlot) : (State.writeRecord s n op k).base = s.base := by
  unfold State.writeRecord
  try dsimp only
  (repeat' split) <;> simp

@[simp] theorem State.secErase_base (s : State) (p : Nat) : (State.secErase s p).base = s.base := by
  unfold State.secErase
  try dsimp only
  (repeat' split) <;> simp

@[simp] theorem State.closeSessions_base (s : State) : (State.closeSessions s).base = s.base := by
  unfold State.closeSessions
  try dsimp only
  (repeat' split) <;> simp

@[simp] theorem State.eraseOld_base (s : State) : (State.eraseOld s).base = s.base := by
  unfold State.eraseOld
  try dsimp only
  (repeat' split) <;> simp

@[simp] theorem State.lifecycle_base (s : State) (lc : Nat) : (State.lifecycle s lc).base = s.base := by
  unfold State.lifecycle
  try dsimp only
  (repeat' split) <;> simp

@[simp] theorem State.tamperPolicy_base (s : State) : (State.tamperPolicy s).base = s.base := by
  unfold State.tamperPolicy
  try dsimp only
  (repeat' split) <;> simp

@[simp] theorem State.tamperLog_base (s : State) (src phase : Nat) : (State.tamperLog s src phase).base = s.base := by
  unfold State.tamperLog
  try dsimp only
  (repeat' split) <;> simp

@[simp] theorem State.tamperEvent_base (s : State) (et src phase applied : Nat) : (State.tamperEvent s et src phase applied).base = s.base := by
  unfold State.tamperEvent
  try dsimp only
  (repeat' split) <;> simp

@[simp] theorem State.authTake_base (s : State) (ps : List Byte) (at_ : Nat) : (State.authTake s ps at_).base = s.base := by
  unfold State.authTake
  try dsimp only
  (repeat' split) <;> simp

@[simp] theorem State.bamSession_base (s : State) (ps : List Byte) (svc : BamService) : (State.bamSession s ps svc).1.base = s.base := by
  unfold State.bamSession
  try dsimp only
  (repeat' split) <;> simp

@[simp] theorem State.bamInstall_base (s : State) (ps : List Byte) (svc : BamService) : (State.bamInstall s ps svc).1.base = s.base := by
  unfold State.bamInstall
  try dsimp only
  (repeat' split) <;> simp

@[simp] theorem State.bamPolicy_base (s : State) (ps : List Byte) : (State.bamPolicy s ps).base = s.base := by
  unfold State.bamPolicy
  try dsimp only
  (repeat' split) <;> simp

@[simp] theorem bamAct_base (code : Nat) (ps : List Byte) (s : State) (svc : BamService) : (bamAct code ps s svc).1.base = s.base := by
  unfold bamAct
  try dsimp only
  (repeat' split) <;> simp

@[simp] theorem State.bamExecute_base (s : State) (svc : BamService) : (State.bamExecute s svc).base = s.base := by
  unfold State.bamExecute
  try dsimp only
  (repeat' split) <;> simp

@[simp] theorem State.bamRoot_base (s : State) (fails : Nat) (recovered : List Nat) : (State.bamRoot s fails recovered).base = s.base := by
  unfold State.bamRoot
  try dsimp only
  (repeat' split) <;> simp

@[simp] theorem State.bamHalt_base (s : State) (why : Nat) : (State.bamHalt s why).base = s.base := by
  unfold State.bamHalt
  try dsimp only
  (repeat' split) <;> simp

@[simp] theorem State.bamContent_base (s : State) (store : BamStore) : (State.bamContent s store).base = s.base := by
  unfold State.bamContent
  try dsimp only
  (repeat' split) <;> simp

@[simp] theorem State.bamServe_base (s : State) : (State.bamServe s).base = s.base := by
  unfold State.bamServe
  extract_lets due pol b t b1
  have h : t.base = s.base := by
    refine (foldl_base _ ?_ _ _).trans rfl
    intro s a
    simp
  split
  · rw [State.tamperPolicy_base, State.base_mk, State.base_eta, h]
  · exact h

@[simp] theorem State.bamStart_base (s : State) (fails : Nat) (recovered : List Nat) (store : BamStore) (meas : List Byte) (fwOk : Bool) : (State.bamStart s fails recovered store meas fwOk).base = s.base := by
  unfold State.bamStart
  try dsimp only
  (repeat' split) <;> simp

@[simp] theorem State.bamRestart_base (s : State) (cause : Nat) (fwOk : Bool) (fails : Nat) (recovered : List Nat) (meas : List Byte) : (State.bamRestart s cause fwOk fails recovered meas).base = s.base := by
  unfold State.bamRestart
  try dsimp only
  (repeat' split) <;> simp

@[simp] theorem State.remask_base (s : State) : (State.remask s).base = s.base := by
  unfold State.remask
  try dsimp only
  (repeat' split) <;> simp

@[simp] theorem State.mkaInstall_base (s : State) (p an scs : Nat) (xpn : Bool) : (State.mkaInstall s p an scs xpn).base = s.base := by
  unfold State.mkaInstall
  try dsimp only
  (repeat' split) <;> simp

@[simp] theorem State.setSlotRec_base (s : State) (i : Nat) (x : SlotRec) : (State.setSlotRec s i x).base = s.base := by
  unfold State.setSlotRec
  try dsimp only
  (repeat' split) <;> simp

@[simp] theorem State.slotStart_base (s : State) (i : Nat) : (State.slotStart s i).base = s.base := by
  unfold State.slotStart
  try dsimp only
  (repeat' split) <;> simp

@[simp] theorem State.slotNone_base (s : State) : (State.slotNone s).base = s.base := by
  unfold State.slotNone
  try dsimp only
  (repeat' split) <;> simp

@[simp] theorem State.fallBack_base (s : State) (i cause : Nat) : (State.fallBack s i cause).base = s.base := by
  unfold State.fallBack
  try dsimp only
  (repeat' split) <;> simp

@[simp] theorem State.selectSlot_base (s : State) : (State.selectSlot s).base = s.base := by
  unfold State.selectSlot
  try dsimp only
  (repeat' split) <;> simp

@[simp] theorem State.slotFails_base (s : State) : (State.slotFails s).base = s.base := by
  unfold State.slotFails
  try dsimp only
  (repeat' split) <;> simp

@[simp] theorem State.updRun_base (s : State) : (State.updRun s).base = s.base := by
  unfold State.updRun
  try dsimp only
  (repeat' split) <;> simp

@[simp] theorem State.healthExpired_base (s : State) : (State.healthExpired s).base = s.base := by
  unfold State.healthExpired
  try dsimp only
  (repeat' split) <;> simp

@[simp] theorem State.relayStep_base (s : State) : (State.relayStep s).base = s.base := by
  unfold State.relayStep
  try dsimp only
  (repeat' split) <;> simp

@[simp] theorem State.relayPump_base (s : State) : (State.relayPump s).base = s.base := by
  unfold State.relayPump
  try dsimp only
  (repeat' split) <;> simp

@[simp] theorem State.chunkReply_base (s : State) (status : Nat) (result : List Byte) : (State.chunkReply s status result).base = s.base := by
  unfold State.chunkReply
  try dsimp only
  (repeat' split) <;> simp

@[simp] theorem State.chunkDrop_base (s : State) (status : Nat) : (State.chunkDrop s status).base = s.base := by
  unfold State.chunkDrop
  try dsimp only
  (repeat' split) <;> simp

@[simp] theorem State.sketchEnd_base (s : State) (c : ChunkResult) : (State.sketchEnd s c).base = s.base := by
  unfold State.sketchEnd
  try dsimp only
  (repeat' split) <;> simp

@[simp] theorem State.chunkCommit_base (s : State) (c : ChunkResult) : (State.chunkCommit s c).base = s.base := by
  unfold State.chunkCommit
  try dsimp only
  (repeat' split) <;> simp

@[simp] theorem State.updBegin_base (s : State) (ps : List Byte) : (State.updBegin s ps).1.base = s.base := by
  unfold State.updBegin
  try dsimp only
  (repeat' split) <;> simp

@[simp] theorem State.updActivate_base (s : State) (ps : List Byte) : (State.updActivate s ps).1.base = s.base := by
  unfold State.updActivate
  try dsimp only
  (repeat' split) <;> simp

@[simp] theorem State.updVarnish_base (s : State) (x : List Byte) : (State.updVarnish s x).1.base = s.base := by
  unfold State.updVarnish
  try dsimp only
  (repeat' split) <;> simp

@[simp] theorem State.updAbort_base (s : State) (ps : List Byte) : (State.updAbort s ps).1.base = s.base := by
  unfold State.updAbort
  try dsimp only
  (repeat' split) <;> simp

@[simp] theorem updAct_base (code : Nat) (ps : List Byte) (s : State) : (updAct code ps s).1.base = s.base := by
  unfold updAct
  try dsimp only
  (repeat' split) <;> simp

@[simp] theorem State.flashResume_base (s : State) (v : Nat) : (State.flashResume s v).base = s.base := by
  unfold State.flashResume
  try dsimp only
  (repeat' split) <;> simp

end Sys2Proof.Machine
end

