-- ==== Sys2Proof/Laws/Base6.lean ====
section
/-!
SUPPORT. Sys2Proof/Laws/Base6.lean: what no operation of these files changes of the view `State.base` (the queue, ET, the coarse
device state, the arm state, the passed commit point): sleep, faults, starts, windows, intake.
-/

namespace Sys2Proof.Machine

@[simp] theorem State.armDetector_base (s : State) (bit : Nat) : (State.armDetector s bit).base = s.base := by
  unfold State.armDetector
  try dsimp only
  (repeat' split) <;> simp

@[simp] theorem State.armDetector_bc (s : State) (b : Nat) : (s.armDetector b).beforeCommit = s.beforeCommit := rfl

@[simp] theorem State.prepFallback_base (s : State) : (State.prepFallback s).base = s.base := by
  unfold State.prepFallback
  try dsimp only
  (repeat' split) <;> simp

@[simp] theorem State.prepStart_base (s : State) : (State.prepStart s).base = s.base := by
  unfold State.prepStart
  try dsimp only
  (repeat' split) <;> simp

@[simp] theorem State.armedCheck_base (s : State) : (State.armedCheck s).base = s.base := by
  unfold State.armedCheck
  extract_lets w
  split
  · rename_i h
    simp only [Bool.and_eq_true, beq_iff_eq] at h
    rw [State.raise_base]
    show (⟨_, _, _, _, _⟩ : Base) = ⟨_, _, _, _, _⟩
    rw [show s.wake.phase = 2 from h.1]; rfl
  · rfl

@[simp] theorem State.armLines_base (s : State) : (State.armLines s).base = s.base := by
  unfold State.armLines
  refine foldl_base _ ?_ _ _
  intro s n
  dsimp only
  split
  · rfl
  · rename_i h
    simp only [Bool.or_eq_true, Bool.not_eq_true', not_or, Bool.not_eq_false] at h
    split
    · rw [State.sleepAbort_base _ _ _ (State.beforeCommit_base (by simp [h])), State.noteSource_base, State.armDetector_base]
    · exact State.armDetector_base _ _

@[simp] theorem State.armCan_base (s : State) : (State.armCan s).base = s.base := by
  unfold State.armCan
  try dsimp only
  (repeat' split) <;> simp

@[simp] theorem State.armLin_base (s : State) : (State.armLin s).base = s.base := by
  unfold State.armLin
  try dsimp only
  (repeat' split) <;> simp

@[simp] theorem State.armPorts_base (s : State) : (State.armPorts s).base = s.base := by
  unfold State.armPorts
  try dsimp only
  (repeat' split) <;> simp

@[simp] theorem State.sleepArming_base (s : State) : (State.sleepArming s).base = s.base := by
  unfold State.sleepArming
  extract_lets w
  split
  · rfl
  · rename_i t0 _
    split
    · rfl
    · rename_i t _ _ h
      simp only [Bool.or_eq_true, bne_iff_ne, ne_eq, not_or, Decidable.not_not] at h
      have ht : t.base = s.base := by
        refine (State.armLines_base _).trans ?_
        show (⟨_, _, _, _, _⟩ : Base) = ⟨_, _, _, _, _⟩
        rw [show s.wake.phase = 1 from h.1]; rfl
      split
      · exact ht
      · rw [State.armedCheck_base, State.armPorts_base, State.armLin_base, State.armCan_base, ht]

@[simp] theorem State.tc10Acked_base (s : State) (p : Nat) : (State.tc10Acked s p).base = s.base := by
  unfold State.tc10Acked
  try dsimp only
  (repeat' split) <;> simp

@[simp] theorem State.tc10Force_base (s : State) (p : Nat) : (State.tc10Force s p).base = s.base := by
  unfold State.tc10Force
  try dsimp only
  (repeat' split) <;> simp

@[simp] theorem State.endCommands_base (s : State) : (State.endCommands s).base = s.base := by
  unfold State.endCommands
  try dsimp only
  (repeat' split) <;> simp

@[simp] theorem State.sleepDown_base (s : State) : (State.sleepDown s).base = s.base := by
  unfold State.sleepDown
  try dsimp only
  (repeat' split) <;> simp

@[simp] theorem State.wkoAwake_base (s : State) (on : Bool) : (State.wkoAwake s on).base = s.base := by
  unfold State.wkoAwake
  try dsimp only
  (repeat' split) <;> simp

@[simp] theorem State.logFlush_base (s : State) : (State.logFlush s).base = s.base := by
  unfold State.logFlush
  try dsimp only
  (repeat' split) <;> simp

@[simp] theorem State.wakeLine_base (s : State) (n : Nat) (level : Bool) : (State.wakeLine s n level).base = s.base := by
  unfold State.wakeLine
  try dsimp only
  (repeat' split) <;> simp

@[simp] theorem State.wkoPulseEnd_base (s : State) (n : Nat) : (State.wkoPulseEnd s n).base = s.base := by
  unfold State.wkoPulseEnd
  try dsimp only
  (repeat' split) <;> simp

@[simp] theorem State.arise_base (s : State) (hit : Bool) (f : State → State) (hf : ∀ s, (f s).base = s.base) :
    (s.arise hit f).base = s.base := by
  unfold State.arise
  dsimp only
  (repeat' split) <;> simp [hf]

@[simp] theorem State.bridgeRetry_base (s : State) : (State.bridgeRetry s).base = s.base := by
  unfold State.bridgeRetry
  try dsimp only
  (repeat' split) <;> simp

@[simp] theorem State.busWrite_base (s : State) (w : BusWrite) : (State.busWrite s w).base = s.base := by
  unfold State.busWrite
  try dsimp only
  (repeat' split) <;> simp

@[simp] theorem State.busTimeout_base (s : State) (w : BusWrite) (crossing : Nat) (isLoad : Bool) : (State.busTimeout s w crossing isLoad).base = s.base := by
  unfold State.busTimeout
  try dsimp only
  (repeat' split) <;> simp

@[simp] theorem State.holdDrain_base (s : State) (crossing : Nat) : (State.holdDrain s crossing).base = s.base := by
  unfold State.holdDrain
  try dsimp only
  (repeat' split) <;> simp

@[simp] theorem State.cdcOverrun_base (s : State) (src : Nat) : (State.cdcOverrun s src).base = s.base := by
  unfold State.cdcOverrun
  try dsimp only
  (repeat' split) <;> simp

@[simp] theorem State.patrol_base (s : State) (dram : Bool) : (State.patrol s dram).base = s.base := by
  unfold State.patrol
  try dsimp only
  (repeat' split) <;> simp

@[simp] theorem State.eccCorrected_base (s : State) (mem addr : Nat) : (State.eccCorrected s mem addr).base = s.base := by
  unfold State.eccCorrected
  try dsimp only
  (repeat' split) <;> simp

@[simp] theorem State.eccAction_base (s : State) (mem addr : Nat) : (State.eccAction s mem addr).base = s.base := by
  unfold State.eccAction
  split
  · split
    · simp
    · rfl
  · split
    · simp
    · rfl
  · extract_lets u
    split <;> rfl
  · extract_lets u
    split <;> rfl
  · rfl
  · extract_lets u
    split <;> rfl
  · split
    · rw [State.base_mk, State.base_eta]
    · rfl
  · rfl

@[simp] theorem State.eccUncorrectable_base (s : State) (mem addr : Nat) : (State.eccUncorrectable s mem addr).base = s.base := by
  unfold State.eccUncorrectable
  try dsimp only
  (repeat' split) <;> simp

@[simp] theorem State.poisonRead_base (s : State) (p addr : Nat) : (State.poisonRead s p addr).base = s.base := by
  unfold State.poisonRead
  try dsimp only
  (repeat' split) <;> simp

@[simp] theorem State.faultReport_base (s : State) : (State.faultReport s).base = s.base := by
  unfold State.faultReport
  try dsimp only
  (repeat' split) <;> simp

@[simp] theorem State.reportHeld_base (s : State) : (State.reportHeld s).base = s.base := by
  unfold State.reportHeld
  try dsimp only
  (repeat' split) <;> simp

@[simp] theorem State.logTick_base (s : State) : (State.logTick s).base = s.base := by
  unfold State.logTick
  try dsimp only
  (repeat' split) <;> simp

@[simp] theorem State.startMark_base (s : State) (slot : Nat) : (State.startMark s slot).base = s.base := by
  unfold State.startMark
  try dsimp only
  (repeat' split) <;> simp

@[simp] theorem State.tamperRetry_base (s : State) : (State.tamperRetry s).base = s.base := by
  unfold State.tamperRetry
  try dsimp only
  (repeat' split) <;> simp

@[simp] theorem State.setPlan_base (s : State) (g : Image) : (State.setPlan s g).base = s.base := by
  unfold State.setPlan
  try dsimp only
  (repeat' split) <;> simp

@[simp] theorem State.rxDecl_base (s : State) (buf len cls idx : Nat) : (State.rxDecl s buf len cls idx).base = s.base := by
  unfold State.rxDecl
  try dsimp only
  (repeat' split) <;> simp

@[simp] theorem State.txDecl_base (s : State) (buf len cls idx : Nat) : (State.txDecl s buf len cls idx).base = s.base := by
  unfold State.txDecl
  try dsimp only
  (repeat' split) <;> simp

@[simp] theorem State.setRoutes_base (s : State) (g : Image) : (State.setRoutes s g).base = s.base := by
  unfold State.setRoutes
  try dsimp only
  (repeat' split) <;> simp

@[simp] theorem State.fdbStatic_base (s : State) (e : FdbEnt) : (State.fdbStatic s e).base = s.base := by
  unfold State.fdbStatic
  try dsimp only
  (repeat' split) <;> simp

@[simp] theorem State.setSwitch_base (s : State) (g : Image) : (State.setSwitch s g).base = s.base := by
  unfold State.setSwitch
  try dsimp only
  (repeat' split) <;> simp

@[simp] theorem State.setBuses_base (s : State) (g : Image) : (State.setBuses s g).base = s.base := by
  unfold State.setBuses
  try dsimp only
  (repeat' split) <;> simp

@[simp] theorem State.setOutputs_base (s : State) (g : Image) : (State.setOutputs s g).base = s.base := by
  unfold State.setOutputs
  try dsimp only
  (repeat' split) <;> simp

@[simp] theorem State.setWake_base (s : State) (g : Image) : (State.setWake s g).base = s.base := by
  unfold State.setWake
  try dsimp only
  (repeat' split) <;> simp

@[simp] theorem State.applyImage_base (s : State) (g : Image) : (State.applyImage s g).base = s.base := by
  unfold State.applyImage
  try dsimp only
  (repeat' split) <;> simp

@[simp] theorem State.startLoadDone_base (s : State) : (State.startLoadDone s).base = s.base := by
  unfold State.startLoadDone
  try dsimp only
  (repeat' split) <;> simp

@[simp] theorem State.busesRun_base (s : State) : (State.busesRun s).base = s.base := by
  unfold State.busesRun
  try dsimp only
  (repeat' split) <;> simp

@[simp] theorem State.woken_base (s : State) : (State.woken s).base = s.base := by
  unfold State.woken
  try dsimp only
  (repeat' split) <;> simp

@[simp] theorem State.heatEffects_base (s : State) : (State.heatEffects s).base = s.base := by
  unfold State.heatEffects
  try dsimp only
  (repeat' split) <;> simp

@[simp] theorem State.switchReset_base (s : State) : (State.switchReset s).base = s.base := by
  unfold State.switchReset
  try dsimp only
  (repeat' split) <;> simp

@[simp] theorem State.lowRead_base (s : State) (p a : Nat) : (State.lowRead s p a).base = s.base := by
  unfold State.lowRead
  try dsimp only
  (repeat' split) <;> simp

@[simp] theorem State.windowStore_base (s : State) (w : BusWrite) : (State.windowStore s w).base = s.base := by
  unfold State.windowStore
  try dsimp only
  (repeat' split) <;> simp

@[simp] theorem State.setQueue_base (s : State) (cls : Nat) (q : List Queued) : (State.setQueue s cls q).base = s.base := by
  unfold State.setQueue
  try dsimp only
  (repeat' split) <;> simp

@[simp] theorem State.outstand_base (s : State) (o : OpSpec) (pk : Packet) (started : Bool) : (State.outstand s o pk started).base = s.base := by
  unfold State.outstand
  try dsimp only
  (repeat' split) <;> simp

@[simp] theorem State.authFail_base (s : State) (code : Nat) (pk : Packet) (replay : Bool) : (State.authFail s code pk replay).base = s.base := by
  unfold State.authFail
  try dsimp only
  (repeat' split) <;> simp

@[simp] theorem State.slewDone_base (s : State) : (State.slewDone s).base = s.base := by
  unfold State.slewDone
  try dsimp only
  (repeat' split) <;> simp

end Sys2Proof.Machine
end

