-- ==== Sys2Proof/Laws/BaseSpec.lean ====
section
/-!
SUPPORT. Sys2Proof/Laws/BaseSpec.lean: the action of no opcode but ARM, DISARM and SLEEP_REQUEST changes the view `State.base`.
-/

namespace Sys2Proof.Machine

@[simp] theorem ok_st (s : State) : (ok s).st = s := rfl
@[simp] theorem okWith_st (r : List Byte) (s : State) : (okWith r s).st = s := rfl
@[simp] theorem fail_st (c : Nat) (s : State) : (fail c s).st = s := rfl
@[simp] theorem later_st (s : State) : (later s).st = s := rfl

@[simp] theorem ActRes.base_ite (c : Prop) [Decidable c] (a b : ActRes) :
    State.base (ActRes.st (if c then a else b)) = if c then State.base a.st else State.base b.st := by
  split <;> rfl

@[simp] theorem nopSpec_base (pk : Packet) (s : State) : (nopSpec.act pk s).st.base = s.base := by
  unfold nopSpec
  try dsimp only
  (repeat' split) <;> first | rfl | simp

@[simp] theorem identifySpec_base (pk : Packet) (s : State) : (identifySpec.act pk s).st.base = s.base := by
  unfold identifySpec
  try dsimp only
  (repeat' split) <;> first | rfl | simp

@[simp] theorem getStateSpec_base (pk : Packet) (s : State) : (getStateSpec.act pk s).st.base = s.base := by
  unfold getStateSpec
  try dsimp only
  (repeat' split) <;> first | rfl | simp

@[simp] theorem resetSpec_base (pk : Packet) (s : State) : (resetSpec.act pk s).st.base = s.base := by
  unfold resetSpec
  try dsimp only
  (repeat' split) <;> first | rfl | simp

@[simp] theorem timeGetStatusSpec_base (pk : Packet) (s : State) : (timeGetStatusSpec.act pk s).st.base = s.base := by
  unfold timeGetStatusSpec
  try dsimp only
  (repeat' split) <;> first | rfl | simp

@[simp] theorem timeSetSourcesSpec_base (pk : Packet) (s : State) : (timeSetSourcesSpec.act pk s).st.base = s.base := by
  unfold timeSetSourcesSpec
  try dsimp only
  (repeat' split) <;> first | rfl | simp

@[simp] theorem timeSetHoldoverSpec_base (pk : Packet) (s : State) : (timeSetHoldoverSpec.act pk s).st.base = s.base := by
  unfold timeSetHoldoverSpec
  try dsimp only
  (repeat' split) <;> first | rfl | simp

@[simp] theorem pgConfigSpec_base (pk : Packet) (s : State) : (pgConfigSpec.act pk s).st.base = s.base := by
  unfold pgConfigSpec
  try dsimp only
  (repeat' split) <;> first | rfl | simp

@[simp] theorem pgStartSpec_base (pk : Packet) (s : State) : (pgStartSpec.act pk s).st.base = s.base := by
  unfold pgStartSpec
  try dsimp only
  (repeat' split) <;> first | rfl | simp

@[simp] theorem pgStopSpec_base (pk : Packet) (s : State) : (pgStopSpec.act pk s).st.base = s.base := by
  unfold pgStopSpec
  try dsimp only
  (repeat' split) <;> first | rfl | simp

@[simp] theorem easelGetStatusSpec_base (pk : Packet) (s : State) : (easelGetStatusSpec.act pk s).st.base = s.base := by
  unfold easelGetStatusSpec
  try dsimp only
  (repeat' split) <;> first | rfl | simp

@[simp] theorem paletteLoadSpec_base (pk : Packet) (s : State) : (paletteLoadSpec.act pk s).st.base = s.base := by
  unfold paletteLoadSpec
  try dsimp only
  (repeat' split) <;> first | rfl | simp

@[simp] theorem paletteSwitchSpec_base (pk : Packet) (s : State) : (paletteSwitchSpec.act pk s).st.base = s.base := by
  unfold paletteSwitchSpec
  try dsimp only
  (repeat' split) <;> first | rfl | simp

@[simp] theorem paletteUnloadSpec_base (pk : Packet) (s : State) : (paletteUnloadSpec.act pk s).st.base = s.base := by
  unfold paletteUnloadSpec
  try dsimp only
  (repeat' split) <;> first | rfl | simp

@[simp] theorem easelGetOverrunsSpec_base (pk : Packet) (s : State) : (easelGetOverrunsSpec.act pk s).st.base = s.base := by
  unfold easelGetOverrunsSpec
  try dsimp only
  (repeat' split) <;> first | rfl | simp

@[simp] theorem easelClearCountersSpec_base (pk : Packet) (s : State) : (easelClearCountersSpec.act pk s).st.base = s.base := by
  unfold easelClearCountersSpec
  try dsimp only
  (repeat' split) <;> first | rfl | simp

@[simp] theorem gwGetStatusSpec_base (pk : Packet) (s : State) : (gwGetStatusSpec.act pk s).st.base = s.base := by
  unfold gwGetStatusSpec
  try dsimp only
  (repeat' split) <;> first | rfl | simp

@[simp] theorem gwRouteReadSpec_base (pk : Packet) (s : State) : (gwRouteReadSpec.act pk s).st.base = s.base := by
  unfold gwRouteReadSpec
  try dsimp only
  (repeat' split) <;> first | rfl | simp

@[simp] theorem gwSignalReadSpec_base (pk : Packet) (s : State) : (gwSignalReadSpec.act pk s).st.base = s.base := by
  unfold gwSignalReadSpec
  try dsimp only
  (repeat' split) <;> first | rfl | simp

@[simp] theorem gwSignalForceSpec_base (pk : Packet) (s : State) : (gwSignalForceSpec.act pk s).st.base = s.base := by
  unfold gwSignalForceSpec
  try dsimp only
  (repeat' split) <;> first | rfl | simp

@[simp] theorem gwWakeRouteSetSpec_base (pk : Packet) (s : State) : (gwWakeRouteSetSpec.act pk s).st.base = s.base := by
  unfold gwWakeRouteSetSpec
  try dsimp only
  (repeat' split) <;> first | rfl | simp

@[simp] theorem lswSetSpec_base (pk : Packet) (s : State) : (lswSetSpec.act pk s).st.base = s.base := by
  unfold lswSetSpec
  try dsimp only
  (repeat' split) <;> first | rfl | simp

@[simp] theorem lswSetPwmSpec_base (pk : Packet) (s : State) : (lswSetPwmSpec.act pk s).st.base = s.base := by
  unfold lswSetPwmSpec
  try dsimp only
  (repeat' split) <;> first | rfl | simp

@[simp] theorem lswConfigSpec_base (pk : Packet) (s : State) : (lswConfigSpec.act pk s).st.base = s.base := by
  unfold lswConfigSpec
  try dsimp only
  (repeat' split) <;> first | rfl | simp

@[simp] theorem lswGetStatusSpec_base (pk : Packet) (s : State) : (lswGetStatusSpec.act pk s).st.base = s.base := by
  unfold lswGetStatusSpec
  try dsimp only
  (repeat' split) <;> first | rfl | simp

@[simp] theorem lswClearOcLatchSpec_base (pk : Packet) (s : State) : (lswClearOcLatchSpec.act pk s).st.base = s.base := by
  unfold lswClearOcLatchSpec
  try dsimp only
  (repeat' split) <;> first | rfl | simp

@[simp] theorem lswClearThermalLatchSpec_base (pk : Packet) (s : State) : (lswClearThermalLatchSpec.act pk s).st.base = s.base := by
  unfold lswClearThermalLatchSpec
  try dsimp only
  (repeat' split) <;> first | rfl | simp

@[simp] theorem lswIsmSelectSpec_base (pk : Packet) (s : State) : (lswIsmSelectSpec.act pk s).st.base = s.base := by
  unfold lswIsmSelectSpec
  try dsimp only
  (repeat' split) <;> first | rfl | simp

@[simp] theorem mbrConfigSpec_base (pk : Packet) (s : State) : (mbrConfigSpec.act pk s).st.base = s.base := by
  unfold mbrConfigSpec
  try dsimp only
  (repeat' split) <;> first | rfl | simp

@[simp] theorem mbrDriveSpec_base (pk : Packet) (s : State) : (mbrDriveSpec.act pk s).st.base = s.base := by
  unfold mbrDriveSpec
  try dsimp only
  (repeat' split) <;> first | rfl | simp

@[simp] theorem mbrBrakeSpec_base (pk : Packet) (s : State) : (mbrBrakeSpec.act pk s).st.base = s.base := by
  unfold mbrBrakeSpec
  try dsimp only
  (repeat' split) <;> first | rfl | simp

@[simp] theorem mbrGetStatusSpec_base (pk : Packet) (s : State) : (mbrGetStatusSpec.act pk s).st.base = s.base := by
  unfold mbrGetStatusSpec
  try dsimp only
  (repeat' split) <;> first | rfl | simp

@[simp] theorem pwrGetStatusSpec_base (pk : Packet) (s : State) : (pwrGetStatusSpec.act pk s).st.base = s.base := by
  unfold pwrGetStatusSpec
  try dsimp only
  (repeat' split) <;> first | rfl | simp

@[simp] theorem pwrSetSagThresholdSpec_base (pk : Packet) (s : State) : (pwrSetSagThresholdSpec.act pk s).st.base = s.base := by
  unfold pwrSetSagThresholdSpec
  try dsimp only
  (repeat' split) <;> first | rfl | simp

@[simp] theorem pwrUnlatchUvSpec_base (pk : Packet) (s : State) : (pwrUnlatchUvSpec.act pk s).st.base = s.base := by
  unfold pwrUnlatchUvSpec
  try dsimp only
  (repeat' split) <;> first | rfl | simp

@[simp] theorem pwrGetLedgerSpec_base (pk : Packet) (s : State) : (pwrGetLedgerSpec.act pk s).st.base = s.base := by
  unfold pwrGetLedgerSpec
  try dsimp only
  (repeat' split) <;> first | rfl | simp

@[simp] theorem pwrGetThermalSpec_base (pk : Packet) (s : State) : (pwrGetThermalSpec.act pk s).st.base = s.base := by
  unfold pwrGetThermalSpec
  try dsimp only
  (repeat' split) <;> first | rfl | simp

@[simp] theorem swcGetCountersSpec_base (pk : Packet) (s : State) : (swcGetCountersSpec.act pk s).st.base = s.base := by
  unfold swcGetCountersSpec
  try dsimp only
  (repeat' split) <;> first | rfl | simp

@[simp] theorem swcFdbReadSpec_base (pk : Packet) (s : State) : (swcFdbReadSpec.act pk s).st.base = s.base := by
  unfold swcFdbReadSpec
  try dsimp only
  (repeat' split) <;> first | rfl | simp

@[simp] theorem swcFdbWriteSpec_base (pk : Packet) (s : State) : (swcFdbWriteSpec.act pk s).st.base = s.base := by
  unfold swcFdbWriteSpec
  try dsimp only
  (repeat' split) <;> first | rfl | simp

@[simp] theorem swcFdbFlushSpec_base (pk : Packet) (s : State) : (swcFdbFlushSpec.act pk s).st.base = s.base := by
  unfold swcFdbFlushSpec
  try dsimp only
  (repeat' split) <;> first | rfl | simp

@[simp] theorem swcClearCountersSpec_base (pk : Packet) (s : State) : (swcClearCountersSpec.act pk s).st.base = s.base := by
  unfold swcClearCountersSpec
  try dsimp only
  (repeat' split) <;> first | rfl | simp

@[simp] theorem prtGetStatusSpec_base (pk : Packet) (s : State) : (prtGetStatusSpec.act pk s).st.base = s.base := by
  unfold prtGetStatusSpec
  try dsimp only
  (repeat' split) <;> first | rfl | simp

@[simp] theorem prtEnableSpec_base (pk : Packet) (s : State) : (prtEnableSpec.act pk s).st.base = s.base := by
  unfold prtEnableSpec
  try dsimp only
  (repeat' split) <;> first | rfl | simp

@[simp] theorem prtDisableSpec_base (pk : Packet) (s : State) : (prtDisableSpec.act pk s).st.base = s.base := by
  unfold prtDisableSpec
  try dsimp only
  (repeat' split) <;> first | rfl | simp

@[simp] theorem prtCableDiagSpec_base (pk : Packet) (s : State) : (prtCableDiagSpec.act pk s).st.base = s.base := by
  unfold prtCableDiagSpec
  try dsimp only
  (repeat' split) <;> first | rfl | simp

@[simp] theorem prtTc10SleepSpec_base (pk : Packet) (s : State) : (prtTc10SleepSpec.act pk s).st.base = s.base := by
  unfold prtTc10SleepSpec
  try dsimp only
  (repeat' split) <;> first | rfl | simp

@[simp] theorem canGetStatusSpec_base (pk : Packet) (s : State) : (canGetStatusSpec.act pk s).st.base = s.base := by
  unfold canGetStatusSpec
  try dsimp only
  (repeat' split) <;> first | rfl | simp

@[simp] theorem canTxSpec_base (pk : Packet) (s : State) : (canTxSpec.act pk s).st.base = s.base := by
  unfold canTxSpec
  try dsimp only
  (repeat' split) <;> first | rfl | simp

@[simp] theorem canTxCancelSpec_base (pk : Packet) (s : State) : (canTxCancelSpec.act pk s).st.base = s.base := by
  unfold canTxCancelSpec
  try dsimp only
  (repeat' split) <;> first | rfl | simp

@[simp] theorem canSetFilterSpec_base (pk : Packet) (s : State) : (canSetFilterSpec.act pk s).st.base = s.base := by
  unfold canSetFilterSpec
  try dsimp only
  (repeat' split) <;> first | rfl | simp

@[simp] theorem canSetWakeSpec_base (pk : Packet) (s : State) : (canSetWakeSpec.act pk s).st.base = s.base := by
  unfold canSetWakeSpec
  try dsimp only
  (repeat' split) <;> first | rfl | simp

@[simp] theorem canRecoverSpec_base (pk : Packet) (s : State) : (canRecoverSpec.act pk s).st.base = s.base := by
  unfold canRecoverSpec
  try dsimp only
  (repeat' split) <;> first | rfl | simp

@[simp] theorem fryGetStatusSpec_base (pk : Packet) (s : State) : (fryGetStatusSpec.act pk s).st.base = s.base := by
  unfold fryGetStatusSpec
  try dsimp only
  (repeat' split) <;> first | rfl | simp

@[simp] theorem fryStartSpec_base (pk : Packet) (s : State) : (fryStartSpec.act pk s).st.base = s.base := by
  unfold fryStartSpec
  try dsimp only
  (repeat' split) <;> first | rfl | simp

@[simp] theorem fryHaltSpec_base (pk : Packet) (s : State) : (fryHaltSpec.act pk s).st.base = s.base := by
  unfold fryHaltSpec
  try dsimp only
  (repeat' split) <;> first | rfl | simp

@[simp] theorem fryBranchEnableSpec_base (pk : Packet) (s : State) : (fryBranchEnableSpec.act pk s).st.base = s.base := by
  unfold fryBranchEnableSpec
  try dsimp only
  (repeat' split) <;> first | rfl | simp

@[simp] theorem linGetStatusSpec_base (pk : Packet) (s : State) : (linGetStatusSpec.act pk s).st.base = s.base := by
  unfold linGetStatusSpec
  try dsimp only
  (repeat' split) <;> first | rfl | simp

@[simp] theorem linTxSpec_base (pk : Packet) (s : State) : (linTxSpec.act pk s).st.base = s.base := by
  unfold linTxSpec
  try dsimp only
  (repeat' split) <;> first | rfl | simp

@[simp] theorem linWakePulseSpec_base (pk : Packet) (s : State) : (linWakePulseSpec.act pk s).st.base = s.base := by
  unfold linWakePulseSpec
  try dsimp only
  (repeat' split) <;> first | rfl | simp

@[simp] theorem linGotoSleepSpec_base (pk : Packet) (s : State) : (linGotoSleepSpec.act pk s).st.base = s.base := by
  unfold linGotoSleepSpec
  try dsimp only
  (repeat' split) <;> first | rfl | simp

@[simp] theorem dioGetInputsSpec_base (pk : Packet) (s : State) : (dioGetInputsSpec.act pk s).st.base = s.base := by
  unfold dioGetInputsSpec
  try dsimp only
  (repeat' split) <;> first | rfl | simp

@[simp] theorem dioConfigSpec_base (pk : Packet) (s : State) : (dioConfigSpec.act pk s).st.base = s.base := by
  unfold dioConfigSpec
  try dsimp only
  (repeat' split) <;> first | rfl | simp

@[simp] theorem dioSetXoSpec_base (pk : Packet) (s : State) : (dioSetXoSpec.act pk s).st.base = s.base := by
  unfold dioSetXoSpec
  try dsimp only
  (repeat' split) <;> first | rfl | simp

@[simp] theorem dioWirebreakTestSpec_base (pk : Packet) (s : State) : (dioWirebreakTestSpec.act pk s).st.base = s.base := by
  unfold dioWirebreakTestSpec
  try dsimp only
  (repeat' split) <;> first | rfl | simp

@[simp] theorem partGetStatusSpec_base (pk : Packet) (s : State) : (partGetStatusSpec.act pk s).st.base = s.base := by
  unfold partGetStatusSpec
  try dsimp only
  (repeat' split) <;> first | rfl | simp

@[simp] theorem partResetSpec_base (pk : Packet) (s : State) : (partResetSpec.act pk s).st.base = s.base := by
  unfold partResetSpec
  try dsimp only
  (repeat' split) <;> first | rfl | simp

@[simp] theorem partRestartSpec_base (pk : Packet) (s : State) : (partRestartSpec.act pk s).st.base = s.base := by
  unfold partRestartSpec
  try dsimp only
  (repeat' split) <;> first | rfl | simp

@[simp] theorem ringGetStatusSpec_base (pk : Packet) (s : State) : (ringGetStatusSpec.act pk s).st.base = s.base := by
  unfold ringGetStatusSpec
  try dsimp only
  (repeat' split) <;> first | rfl | simp

@[simp] theorem ringResetSpec_base (pk : Packet) (s : State) : (ringResetSpec.act pk s).st.base = s.base := by
  unfold ringResetSpec
  try dsimp only
  (repeat' split) <;> first | rfl | simp

@[simp] theorem partReadPostedErrorsSpec_base (pk : Packet) (s : State) : (partReadPostedErrorsSpec.act pk s).st.base = s.base := by
  unfold partReadPostedErrorsSpec
  try dsimp only
  (repeat' split) <;> first | rfl | simp

@[simp] theorem bamGetStatusSpec_base (pk : Packet) (s : State) : (bamGetStatusSpec.act pk s).st.base = s.base := by
  rfl

@[simp] theorem bamSessionOpenSpec_base (pk : Packet) (s : State) : (bamSessionOpenSpec.act pk s).st.base = s.base := by
  rfl

@[simp] theorem bamKeyInstallSpec_base (pk : Packet) (s : State) : (bamKeyInstallSpec.act pk s).st.base = s.base := by
  rfl

@[simp] theorem bamSignSpec_base (pk : Packet) (s : State) : (bamSignSpec.act pk s).st.base = s.base := by
  rfl

@[simp] theorem bamVerifySpec_base (pk : Packet) (s : State) : (bamVerifySpec.act pk s).st.base = s.base := by
  rfl

@[simp] theorem bamRandomSpec_base (pk : Packet) (s : State) : (bamRandomSpec.act pk s).st.base = s.base := by
  rfl

@[simp] theorem bamLifecycleSetSpec_base (pk : Packet) (s : State) : (bamLifecycleSetSpec.act pk s).st.base = s.base := by
  rfl

@[simp] theorem bamTamperPolicySpec_base (pk : Packet) (s : State) : (bamTamperPolicySpec.act pk s).st.base = s.base := by
  rfl

@[simp] theorem updGetStatusSpec_base (pk : Packet) (s : State) : (updGetStatusSpec.act pk s).st.base = s.base := by
  unfold updGetStatusSpec
  try dsimp only
  (repeat' split) <;> first | rfl | simp

@[simp] theorem updRunOr_base (code : Nat) (pk : Packet) (s : State) : (updRunOr code pk s).st.base = s.base := by
  unfold updRunOr
  split
  · rfl
  · exact updAct_base _ _ _

@[simp] theorem updBeginSpec_base (pk : Packet) (s : State) : (updBeginSpec.act pk s).st.base = s.base := by
  exact updRunOr_base _ _ _

@[simp] theorem updChunkSpec_base (pk : Packet) (s : State) : (updChunkSpec.act pk s).st.base = s.base := by
  unfold updChunkSpec
  try dsimp only
  (repeat' split) <;> first | rfl | simp

@[simp] theorem updActivateSpec_base (pk : Packet) (s : State) : (updActivateSpec.act pk s).st.base = s.base := by
  exact updRunOr_base _ _ _

@[simp] theorem updVarnishSpec_base (pk : Packet) (s : State) : (updVarnishSpec.act pk s).st.base = s.base := by
  exact updRunOr_base _ _ _

@[simp] theorem updAbortSpec_base (pk : Packet) (s : State) : (updAbortSpec.act pk s).st.base = s.base := by
  exact updRunOr_base _ _ _

@[simp] theorem wakeGetSourceSpec_base (pk : Packet) (s : State) : (wakeGetSourceSpec.act pk s).st.base = s.base := by
  unfold wakeGetSourceSpec
  try dsimp only
  (repeat' split) <;> first | rfl | simp

theorem State.wakeConfig_base {s t : State} {ps : List Byte} (h : s.wakeConfig ps = some t) : t.base = s.base := by
  unfold State.wakeConfig at h
  extract_lets at h
  split at h
  · simp at h
  · split at h
    · split at h
      · simp at h
      · rw [← Option.some.inj h]; rfl
    · split at h
      · split at h
        · simp at h
        · rw [← Option.some.inj h]; rfl
      · split at h
        · simp at h
        · rw [← Option.some.inj h]; rfl

@[simp] theorem wakeConfigSpec_base (pk : Packet) (s : State) : (wakeConfigSpec.act pk s).st.base = s.base := by
  show ((s.wakeConfig pk.params).getD s).base = s.base
  cases h : s.wakeConfig pk.params with
  | none => rfl
  | some t => exact State.wakeConfig_base h

theorem State.wakeIte_base (s : State) (c : Bool) (x y : Wake) (hx : x.phase = s.wake.phase) (hy : y.phase = s.wake.phase) :
    State.base { s with wake := if c then x else y } = s.base := by
  cases c
  · show (⟨_, _, _, _, _⟩ : Base) = ⟨_, _, _, _, _⟩
    rw [show (if false = true then x else y).phase = s.wake.phase from hy]
  · show (⟨_, _, _, _, _⟩ : Base) = ⟨_, _, _, _, _⟩
    rw [show (if true = true then x else y).phase = s.wake.phase from hx]

@[simp] theorem wakeClearSourceSpec_base (pk : Packet) (s : State) : (wakeClearSourceSpec.act pk s).st.base = s.base := by
  exact State.wakeIte_base s _ _ _ rfl rfl

@[simp] theorem fltGetStatusSpec_base (pk : Packet) (s : State) : (fltGetStatusSpec.act pk s).st.base = s.base := by
  unfold fltGetStatusSpec
  try dsimp only
  (repeat' split) <;> first | rfl | simp

@[simp] theorem fltReadLogSpec_base (pk : Packet) (s : State) : (fltReadLogSpec.act pk s).st.base = s.base := by
  unfold fltReadLogSpec
  try dsimp only
  (repeat' split) <;> first | rfl | simp

@[simp] theorem fltClearSpec_base (pk : Packet) (s : State) : (fltClearSpec.act pk s).st.base = s.base := by
  unfold fltClearSpec
  try dsimp only
  (repeat' split) <;> first | rfl | simp

@[simp] theorem fltInjectSpec_base (pk : Packet) (s : State) : (fltInjectSpec.act pk s).st.base = s.base := by
  unfold fltInjectSpec
  try dsimp only
  (repeat' split) <;> first | rfl | simp

end Sys2Proof.Machine
end

