-- ==== Sys2Proof/Laws/BaseCommand.lean ====
section
/-!
SUPPORT. Sys2Proof/Laws/BaseCommand.lean: what a command packet, an open stroke and the release of a held command change of the
view `State.base`: nothing but the arm state.
-/

namespace Sys2Proof.Machine

theorem State.intakeOpen_eq (s : State) : s.intakeOpen = (s.base.state == .run && !s.base.committed) := by
  show (s.active && (s.wake.phase != 4)) = _
  show _ = (s.dev.state.coarse == .run && !(s.wake.phase == 4))
  unfold State.active
  cases s.dev.state <;> rfl

theorem State.intakeOpen_iff (s : State) : s.intakeOpen = true ↔ s.base.state = .run ∧ s.base.committed = false := by
  rw [State.intakeOpen_eq]
  simp

theorem State.intakeOpen_congr {s t : State} (h : t.base = s.base) : t.intakeOpen = s.intakeOpen := by
  rw [State.intakeOpen_eq, State.intakeOpen_eq, h]

/-- Everything but the arm state is as before. -/
def Base.armOnly (a b : Base) : Prop := ∃ x, b = { a with armed := x }

theorem Base.armOnly_refl (a : Base) : a.armOnly a := ⟨a.armed, rfl⟩

theorem sleepRequest_base (s : State) (a b : Nat) (h : s.intakeOpen = true) : (s.sleepRequest a b).base = s.base := by
  obtain ⟨h1, h2⟩ := s.intakeOpen_iff.mp h
  unfold State.sleepRequest
  rw [State.raise_base]
  have e1 : s.dev.state.coarse = .run := h1
  have e2 : (s.wake.phase == 4) = false := h2
  show (⟨_, _, _, _, _⟩ : Base) = ⟨_, _, _, _, _⟩
  rw [e1, e2]; rfl

theorem sleepRequestSpec_base (pk : Packet) (s : State) (h : s.intakeOpen = true) :
    (sleepRequestSpec.act pk s).st.base = s.base := by
  show State.base (ActRes.st (if _ then _ else _)) = _
  split
  · exact State.sleepAbort_base s 0 true (s.intakeOpen_iff.mp h)
  · exact sleepRequest_base s _ _ h

theorem armSpec_base (pk : Packet) (s : State) : s.base.armOnly (armSpec.act pk s).st.base := ⟨true, rfl⟩

theorem disarmSpec_base (pk : Packet) (s : State) : s.base.armOnly (disarmSpec.act pk s).st.base := by
  refine ⟨false, ?_⟩
  have h := State.allInert_base s
  obtain ⟨h1, h2, h3, -, h5⟩ := State.base_ext h
  show (⟨s.allInert.pending, s.allInert.et, s.allInert.dev.state.coarse, false, s.allInert.wake.phase == 4⟩ : Base) = _
  rw [h1, h2, h3, h5]; rfl

/-- An opcode whose action changes at most the arm state where command intake runs. -/
def OpSpec.Tame (o : OpSpec) : Prop :=
  ∀ (pk : Packet) (s : State), s.intakeOpen = true → s.base.armOnly (o.act pk s).st.base

theorem OpSpec.tame_of {o : OpSpec} (h : ∀ (pk : Packet) (s : State), (o.act pk s).st.base = s.base) : o.Tame := fun pk s _ => by
  rw [h]; exact Base.armOnly_refl _

theorem sleepRequestSpec_tame : sleepRequestSpec.Tame := fun pk s h => by
  rw [sleepRequestSpec_base pk s h]; exact Base.armOnly_refl _

theorem armSpec_tame : armSpec.Tame := fun pk s _ => armSpec_base pk s

theorem disarmSpec_tame : disarmSpec.Tame := fun pk s _ => disarmSpec_base pk s

theorem tame_nil : ∀ o ∈ ([] : List OpSpec), o.Tame := by simp

theorem tame_cons {a : OpSpec} {l : List OpSpec} (h : a.Tame) (k : ∀ o ∈ l, o.Tame) : ∀ o ∈ a :: l, o.Tame := by
  simp only [List.mem_cons, forall_eq_or_imp]
  exact ⟨h, k⟩

theorem specsOf_tame_00 : ∀ o ∈ specsOf 0x00, o.Tame :=
  tame_cons (OpSpec.tame_of nopSpec_base) <|
    tame_cons (OpSpec.tame_of identifySpec_base) <|
    tame_cons (OpSpec.tame_of getStateSpec_base) <|
    tame_cons (OpSpec.tame_of resetSpec_base) <|
    tame_cons armSpec_tame <|
    tame_cons disarmSpec_tame <| tame_nil

theorem specsOf_tame_01 : ∀ o ∈ specsOf 0x01, o.Tame :=
  tame_cons (OpSpec.tame_of timeGetStatusSpec_base) <|
    tame_cons (OpSpec.tame_of timeSetSourcesSpec_base) <|
    tame_cons (OpSpec.tame_of timeSetHoldoverSpec_base) <|
    tame_cons (OpSpec.tame_of pgConfigSpec_base) <|
    tame_cons (OpSpec.tame_of pgStartSpec_base) <|
    tame_cons (OpSpec.tame_of pgStopSpec_base) <| tame_nil

theorem specsOf_tame_02 : ∀ o ∈ specsOf 0x02, o.Tame :=
  tame_cons (OpSpec.tame_of easelGetStatusSpec_base) <|
    tame_cons (OpSpec.tame_of paletteLoadSpec_base) <|
    tame_cons (OpSpec.tame_of paletteSwitchSpec_base) <|
    tame_cons (OpSpec.tame_of paletteUnloadSpec_base) <|
    tame_cons (OpSpec.tame_of easelGetOverrunsSpec_base) <|
    tame_cons (OpSpec.tame_of easelClearCountersSpec_base) <| tame_nil

theorem specsOf_tame_03 : ∀ o ∈ specsOf 0x03, o.Tame :=
  tame_cons (OpSpec.tame_of gwGetStatusSpec_base) <|
    tame_cons (OpSpec.tame_of gwRouteReadSpec_base) <|
    tame_cons (OpSpec.tame_of gwSignalReadSpec_base) <|
    tame_cons (OpSpec.tame_of gwSignalForceSpec_base) <|
    tame_cons (OpSpec.tame_of gwWakeRouteSetSpec_base) <| tame_nil

theorem specsOf_tame_04 : ∀ o ∈ specsOf 0x04, o.Tame :=
  tame_cons (OpSpec.tame_of lswSetSpec_base) <|
    tame_cons (OpSpec.tame_of lswSetPwmSpec_base) <|
    tame_cons (OpSpec.tame_of lswConfigSpec_base) <|
    tame_cons (OpSpec.tame_of lswGetStatusSpec_base) <|
    tame_cons (OpSpec.tame_of lswClearOcLatchSpec_base) <|
    tame_cons (OpSpec.tame_of lswClearThermalLatchSpec_base) <|
    tame_cons (OpSpec.tame_of lswIsmSelectSpec_base) <|
    tame_cons (OpSpec.tame_of mbrConfigSpec_base) <|
    tame_cons (OpSpec.tame_of mbrDriveSpec_base) <|
    tame_cons (OpSpec.tame_of mbrBrakeSpec_base) <|
    tame_cons (OpSpec.tame_of mbrGetStatusSpec_base) <| tame_nil

theorem specsOf_tame_05 : ∀ o ∈ specsOf 0x05, o.Tame :=
  tame_cons (OpSpec.tame_of pwrGetStatusSpec_base) <|
    tame_cons (OpSpec.tame_of pwrSetSagThresholdSpec_base) <|
    tame_cons (OpSpec.tame_of pwrUnlatchUvSpec_base) <|
    tame_cons (OpSpec.tame_of pwrGetLedgerSpec_base) <|
    tame_cons (OpSpec.tame_of pwrGetThermalSpec_base) <| tame_nil

theorem specsOf_tame_06 : ∀ o ∈ specsOf 0x06, o.Tame :=
  tame_cons (OpSpec.tame_of swcGetCountersSpec_base) <|
    tame_cons (OpSpec.tame_of swcFdbReadSpec_base) <|
    tame_cons (OpSpec.tame_of swcFdbWriteSpec_base) <|
    tame_cons (OpSpec.tame_of swcFdbFlushSpec_base) <|
    tame_cons (OpSpec.tame_of swcClearCountersSpec_base) <| tame_nil

theorem specsOf_tame_07 : ∀ o ∈ specsOf 0x07, o.Tame :=
  tame_cons (OpSpec.tame_of prtGetStatusSpec_base) <|
    tame_cons (OpSpec.tame_of prtEnableSpec_base) <|
    tame_cons (OpSpec.tame_of prtDisableSpec_base) <|
    tame_cons (OpSpec.tame_of prtCableDiagSpec_base) <|
    tame_cons (OpSpec.tame_of prtTc10SleepSpec_base) <| tame_nil

theorem specsOf_tame_08 : ∀ o ∈ specsOf 0x08, o.Tame :=
  tame_cons (OpSpec.tame_of canGetStatusSpec_base) <|
    tame_cons (OpSpec.tame_of canTxSpec_base) <|
    tame_cons (OpSpec.tame_of canTxCancelSpec_base) <|
    tame_cons (OpSpec.tame_of canSetFilterSpec_base) <|
    tame_cons (OpSpec.tame_of canSetWakeSpec_base) <|
    tame_cons (OpSpec.tame_of canRecoverSpec_base) <| tame_nil

theorem specsOf_tame_09 : ∀ o ∈ specsOf 0x09, o.Tame :=
  tame_cons (OpSpec.tame_of fryGetStatusSpec_base) <|
    tame_cons (OpSpec.tame_of fryStartSpec_base) <|
    tame_cons (OpSpec.tame_of fryHaltSpec_base) <|
    tame_cons (OpSpec.tame_of fryBranchEnableSpec_base) <| tame_nil

theorem specsOf_tame_0A : ∀ o ∈ specsOf 0x0A, o.Tame :=
  tame_cons (OpSpec.tame_of linGetStatusSpec_base) <|
    tame_cons (OpSpec.tame_of linTxSpec_base) <|
    tame_cons (OpSpec.tame_of linWakePulseSpec_base) <|
    tame_cons (OpSpec.tame_of linGotoSleepSpec_base) <| tame_nil

theorem specsOf_tame_0B : ∀ o ∈ specsOf 0x0B, o.Tame :=
  tame_cons (OpSpec.tame_of dioGetInputsSpec_base) <|
    tame_cons (OpSpec.tame_of dioConfigSpec_base) <|
    tame_cons (OpSpec.tame_of dioSetXoSpec_base) <|
    tame_cons (OpSpec.tame_of dioWirebreakTestSpec_base) <| tame_nil

theorem specsOf_tame_0C : ∀ o ∈ specsOf 0x0C, o.Tame :=
  tame_cons (OpSpec.tame_of partGetStatusSpec_base) <|
    tame_cons (OpSpec.tame_of partResetSpec_base) <|
    tame_cons (OpSpec.tame_of partRestartSpec_base) <|
    tame_cons (OpSpec.tame_of ringGetStatusSpec_base) <|
    tame_cons (OpSpec.tame_of ringResetSpec_base) <|
    tame_cons (OpSpec.tame_of partReadPostedErrorsSpec_base) <| tame_nil

theorem specsOf_tame_0D : ∀ o ∈ specsOf 0x0D, o.Tame :=
  tame_cons (OpSpec.tame_of bamGetStatusSpec_base) <|
    tame_cons (OpSpec.tame_of bamSessionOpenSpec_base) <|
    tame_cons (OpSpec.tame_of bamKeyInstallSpec_base) <|
    tame_cons (OpSpec.tame_of bamSignSpec_base) <|
    tame_cons (OpSpec.tame_of bamVerifySpec_base) <|
    tame_cons (OpSpec.tame_of bamRandomSpec_base) <|
    tame_cons (OpSpec.tame_of bamLifecycleSetSpec_base) <|
    tame_cons (OpSpec.tame_of bamTamperPolicySpec_base) <| tame_nil

theorem specsOf_tame_0E : ∀ o ∈ specsOf 0x0E, o.Tame :=
  tame_cons (OpSpec.tame_of updGetStatusSpec_base) <|
    tame_cons (OpSpec.tame_of updBeginSpec_base) <|
    tame_cons (OpSpec.tame_of updChunkSpec_base) <|
    tame_cons (OpSpec.tame_of updActivateSpec_base) <|
    tame_cons (OpSpec.tame_of updVarnishSpec_base) <|
    tame_cons (OpSpec.tame_of updAbortSpec_base) <| tame_nil

theorem specsOf_tame_0F : ∀ o ∈ specsOf 0x0F, o.Tame :=
  tame_cons (OpSpec.tame_of wakeGetSourceSpec_base) <|
    tame_cons sleepRequestSpec_tame <|
    tame_cons (OpSpec.tame_of wakeConfigSpec_base) <|
    tame_cons (OpSpec.tame_of wakeClearSourceSpec_base) <| tame_nil

theorem specsOf_tame_10 : ∀ o ∈ specsOf 0x10, o.Tame :=
  tame_cons (OpSpec.tame_of fltGetStatusSpec_base) <|
    tame_cons (OpSpec.tame_of fltReadLogSpec_base) <|
    tame_cons (OpSpec.tame_of fltClearSpec_base) <|
    tame_cons (OpSpec.tame_of fltInjectSpec_base) <| tame_nil

theorem specsOf_tame (g : Nat) : ∀ o ∈ specsOf g, o.Tame := by
  unfold specsOf
  split
  · exact specsOf_tame_00
  · exact specsOf_tame_01
  · exact specsOf_tame_02
  · exact specsOf_tame_03
  · exact specsOf_tame_04
  · exact specsOf_tame_05
  · exact specsOf_tame_06
  · exact specsOf_tame_07
  · exact specsOf_tame_08
  · exact specsOf_tame_09
  · exact specsOf_tame_0A
  · exact specsOf_tame_0B
  · exact specsOf_tame_0C
  · exact specsOf_tame_0D
  · exact specsOf_tame_0E
  · exact specsOf_tame_0F
  · exact specsOf_tame_10
  · exact tame_nil

theorem specOf_tame {code : Nat} {o : OpSpec} (h : specOf code = some o) : o.Tame :=
  specsOf_tame _ _ (List.mem_of_find?_eq_some h)

theorem Base.armOnly_trans_eq {a b c : Base} (h : b = a) (k : b.armOnly c) : a.armOnly c := h ▸ k

theorem State.runNow_base {o : OpSpec} (ho : o.Tame) (pk : Packet) (s : State) (h : s.intakeOpen = true) :
    s.base.armOnly (s.runNow o pk).base := by
  unfold State.runNow
  simp only [State.finalReply_base]
  exact ho pk s h

theorem State.startAsync_base {o : OpSpec} (ho : o.Tame) (pk : Packet) (s : State) (h : s.intakeOpen = true) :
    s.base.armOnly (s.startAsync o pk).base := by
  have k := ho pk (s.outstand o pk true) h
  unfold State.startAsync
  dsimp only
  split
  · exact k
  · rw [State.finishWhere_base]; exact k

theorem State.dispatch_base {o : OpSpec} (ho : o.Tame) (pk : Packet) (s : State) (h : s.intakeOpen = true) :
    s.base.armOnly (s.dispatch o pk).base := by
  unfold State.dispatch
  extract_lets w t u
  have ht : t.base = s.base := by
    show State.base (if _ then _ else _) = _
    split
    · exact State.acceptReply_base _ _
    · rfl
  have hi : t.intakeOpen = true := (State.intakeOpen_congr ht).trans h
  split
  · have hu : u.base = s.base := by
      show State.base (if _ then _ else _) = _
      split
      · exact (State.outstand_base _ _ _ _).trans ht
      · exact ht
    exact ⟨u.base.armed, by rw [← hu]; rfl⟩
  · cases o.comp
    · exact Base.armOnly_trans_eq ht (State.runNow_base ho pk t hi)
    · dsimp only
      rw [State.setQueue_base, ht]
      exact Base.armOnly_refl _
    · exact Base.armOnly_trans_eq ht (State.startAsync_base ho pk t hi)

theorem State.unhold_base {o : OpSpec} (ho : o.Tame) (hd : HeldCmd) (s : State) (h : s.intakeOpen = true) :
    s.base.armOnly (s.unhold hd o).base := by
  unfold State.unhold
  extract_lets c t
  have ht : t.base = s.base := rfl
  have hi : t.intakeOpen = true := (State.intakeOpen_congr ht).trans h
  cases o.comp
  · dsimp only
    split
    · exact State.runNow_base ho _ t hi
    · rw [State.finalReply_base, ht]
      exact Base.armOnly_refl _
  · dsimp only
    rw [State.setQueue_base, ht]
    exact Base.armOnly_refl _
  · dsimp only
    split
    · exact State.startAsync_base ho _ t hi
    · rw [State.finishWhere_base, ht]
      exact Base.armOnly_refl _

theorem State.nextHeld_spec {s : State} (l : List HeldCmd) {b : List HeldCmd} {hd : HeldCmd} {o : OpSpec}
    (h : s.nextHeld b l = some (hd, o)) : specOf hd.code = some o := by
  induction l generalizing b with
  | nil => simp [State.nextHeld] at h
  | cons x l ih =>
    unfold State.nextHeld at h
    split at h
    · rename_i hx
      split at h
      · exact ih h
      · simp only [Option.some.injEq, Prod.mk.injEq] at h
        rw [← h.1, ← h.2]; exact hx
    · exact ih h

theorem State.release_base (s : State) (h : s.intakeOpen = true) : s.base.armOnly s.release.base := by
  unfold State.release
  split
  · exact Base.armOnly_refl _
  · rename_i e
    exact State.unhold_base (specOf_tame (State.nextHeld_spec _ e)) _ _ h

theorem State.openOne_base (s : State) (cls : Nat) :
    (s.openOne cls).base = s.base ∨ s.intakeOpen = true ∧ s.base.armOnly (s.openOne cls).base := by
  unfold State.openOne
  split
  · exact .inl rfl
  · extract_lets t
    have ht : t.base = s.base := State.setQueue_base _ _ _
    split
    · exact .inl ht
    · rename_i o e
      split
      · rename_i c
        have hi : t.intakeOpen = true := by
          cases hh : t.intakeOpen with
          | true => rfl
          | false => simp [State.recheck, hh, stWrongState, stOk] at c
        exact .inr ⟨(State.intakeOpen_congr ht).symm.trans hi, Base.armOnly_trans_eq ht (State.runNow_base (specOf_tame e) _ t hi)⟩
      · exact .inl ((State.finalReply_base _ _ _ _ _).trans ht)

/-- At most the arm state changes, and that only where command intake runs. -/
def Base.cmd (a b : Base) : Prop := b = a ∨ (a.state = .run ∧ a.committed = false ∧ a.armOnly b)

theorem Base.cmd_refl (a : Base) : a.cmd a := .inl rfl

theorem Base.cmd_trans {a b c : Base} (h : a.cmd b) (k : b.cmd c) : a.cmd c := by
  rcases h with rfl | ⟨h1, h2, x, rfl⟩
  · exact k
  · rcases k with rfl | ⟨_, _, y, rfl⟩
    · exact .inr ⟨h1, h2, x, rfl⟩
    · exact .inr ⟨h1, h2, y, rfl⟩

theorem Base.cmd_of_eq {s t : State} (h : t.base = s.base) : s.base.cmd t.base := .inl h

theorem Base.cmd_of_open {s t : State} (h : s.intakeOpen = true) (k : s.base.armOnly t.base) : s.base.cmd t.base :=
  .inr ⟨(s.intakeOpen_iff.mp h).1, (s.intakeOpen_iff.mp h).2, k⟩

theorem State.openRun_base (cls n : Nat) (s : State) : s.base.cmd (State.openRun cls n s).base := by
  induction n generalizing s with
  | zero => exact Base.cmd_refl _
  | succ n ih =>
    refine Base.cmd_trans ?_ (ih (s.openOne cls))
    rcases State.openOne_base s cls with h | ⟨h, k⟩
    · exact Base.cmd_of_eq h
    · exact Base.cmd_of_open h k

theorem State.startStroke_cmd (s : State) (h : StrokeHd) (st : Stroke) (late : Bool) (act : State → State)
    (hf : ∀ s : State, s.base.cmd (act s).base) : s.base.cmd (s.startStroke h st late act).base := by
  unfold State.startStroke
  split
  · exact Base.cmd_refl _
  · split
    · exact Base.cmd_of_eq (State.laneSpecific_base _ _)
    · split
      · exact hf s
      · split
        · exact hf s
        · rw [State.traceLog_base]; exact hf s

theorem State.strokeDo_cmd (s : State) (h : StrokeHd) (st : Stroke) (act : Bool → State → State)
    (hf : ∀ (b : Bool) (s : State), s.base.cmd (act b s).base) : s.base.cmd (s.strokeDo h st act).base := by
  have go : ∀ t : State, t.base = s.base → ∀ b c, s.base.cmd (t.startStroke h st b (act c)).base := fun t ht b c =>
    Base.cmd_trans (Base.cmd_of_eq ht) (State.startStroke_cmd t h st b _ (hf c))
  unfold State.strokeDo
  split
  · exact Base.cmd_refl _
  · split
    · split
      · exact Base.cmd_refl _
      · exact go _ (by dsimp only; split <;> simp) _ _
    · split
      · exact Base.cmd_refl _
      · split
        · exact Base.cmd_of_eq (by simp)
        · split
          · exact Base.cmd_of_eq (by simp)
          · dsimp only
            split
            · exact go _ (by simp) _ _
            · split
              · exact go _ (by simp) _ _
              · exact Base.cmd_of_eq (by simp)

theorem State.openDo_base (s : State) (h : StrokeHd) (cls count : Nat) : s.base.cmd (s.openDo h cls count).base := by
  unfold State.openDo
  split
  · exact Base.cmd_refl _
  · exact State.strokeDo_cmd _ _ _ _ fun _ s => State.openRun_base cls count s

theorem State.process_base {o : OpSpec} (ho : o.Tame) (pk : Packet) (s : State) (h : s.intakeOpen = true) :
    s.base.armOnly (s.process o pk).base := by
  unfold State.process
  dsimp only
  split
  · rw [State.finalReply_base]; exact Base.armOnly_refl _
  · split
    · rw [State.finalReply_base]; exact Base.armOnly_refl _
    · exact State.dispatch_base ho pk s h

theorem State.fromMp_base {o : OpSpec} (ho : o.Tame) (pk : Packet) (s : State) (h : s.intakeOpen = true) :
    s.base.armOnly (s.fromMp o pk).base := by
  unfold State.fromMp
  dsimp only
  split
  · rw [State.authFail_base]; exact Base.armOnly_refl _
  · split
    · rw [State.authFail_base]; exact Base.armOnly_refl _
    · exact State.process_base ho pk _ h

theorem State.taken_base (s : State) (pk : Packet) : (s.taken pk).base = s.base := by
  unfold State.taken
  split <;> simp

theorem State.skipSlot_base (s : State) (pk : Packet) : (s.skipSlot pk).base = s.base := by
  unfold State.skipSlot
  split <;> simp

/-- A command packet of an opcode changes at most the arm state, and that only where command intake runs. -/
theorem State.command_base {o : OpSpec} (ho : o.Tame) (pk : Packet) (s : State) : s.base.cmd (s.command o pk).base := by
  have ht := State.taken_base s pk
  unfold State.command
  split
  · exact Base.cmd_refl _
  · rename_i h
    have h : s.intakeOpen = true := by
      cases e : s.intakeOpen with
      | true => rfl
      | false => simp [State.takes, e] at h
    have hi : (s.taken pk).intakeOpen = true := (State.intakeOpen_congr ht).trans h
    split
    · exact Base.cmd_of_eq (State.skipSlot_base _ _)
    · split
      · exact Base.cmd_of_eq ((State.finalReply_base _ _ _ _ _).trans ht)
      · split
        · exact Base.cmd_of_open h (Base.armOnly_trans_eq ht (State.process_base ho _ _ hi))
        · exact Base.cmd_of_open h (Base.armOnly_trans_eq ht (State.fromMp_base ho _ _ hi))

end Sys2Proof.Machine
end

