-- ==== Sys2Proof/Laws/BaseMove.lean ====
section
/-!
SUPPORT. Sys2Proof/Laws/BaseMove.lean: the operations that move the device between its states, each by what it does to the view
`State.base`; a step as a whole is one `Base.next`.
-/

namespace Sys2Proof.Machine

/-- The compute side is lost: state `d`, nothing armed, no commit point passed. -/
def Base.lost (a : Base) (d : DevState) : Base := { a with state := d, armed := false, committed := false }

/-- What one command can do to the view. -/
inductive Base.next (a : Base) : Base → Prop where
  | cmd (b : Base) (h : a.cmd b) : Base.next a b
  | off (h : a.state ≠ .off) : Base.next a (a.lost .off)
  | standby (h : a.state = .starting ∨ a.state = .run) : Base.next a (a.lost .standby)
  | starting (n : Nat) : Base.next a ({ a with et := n }.lost .starting)
  | run (h : a.state = .starting) : Base.next a { a with state := .run }
  | commit (h : a.state = .run) (k : a.committed = false) : Base.next a { a with armed := false, committed := true }
  | sleep (h : a.state = .run) (k : a.committed = true) : Base.next a { a with state := .sleep, committed := false }

/-- What one step can do to the view: a command, or a cycle, which advances ET by 0, 2 or 4 ns. -/
inductive Base.stepped (a : Base) : Base → Prop where
  | moved (b : Base) (h : a.next b) : Base.stepped a b
  | ticked (b : Base) (n : Nat) (hn : n = 0 ∨ n = 2 ∨ n = 4) (h : a.cmd b) : Base.stepped a { b with et := b.et + n }

/-- No command and no cycle touches the queue. -/
theorem Base.next_pending {a b : Base} (h : a.next b) : b.pending = a.pending := by
  cases h with
  | cmd b h => rcases h with rfl | ⟨_, _, x, rfl⟩ <;> rfl
  | _ => rfl

/-- A command leaves ET alone unless it enters STARTING. -/
theorem Base.next_et {a b : Base} (h : a.next b) : b.et = a.et ∨ b.state = .starting := by
  cases h with
  | cmd b h => rcases h with rfl | ⟨_, _, x, rfl⟩ <;> exact .inl rfl
  | starting n => exact .inr rfl
  | _ => exact .inl rfl

theorem DevState.coarse_starting {d : DevState} (h : d.coarse = .starting) : d = .starting := by
  cases d <;> simp [DevState.coarse] at h ⊢

theorem Base.next_of_eq {s t : State} (h : t.base = s.base) : s.base.next t.base := .cmd _ (.inl h)

theorem Base.next_refl (a : Base) : a.next a := .cmd _ (.inl rfl)

/-- A change after operations that keep the view. -/
theorem Base.next_after {a b c : Base} (h : b = a) (k : b.next c) : a.next c := h ▸ k

theorem State.volatileLost_base (s : State) (d : DevState) (h : d.coarse = d) : (s.volatileLost d).base = s.base.lost d := by
  show (⟨s.pending, s.et, d.coarse, false, false⟩ : Base) = _
  rw [h]; rfl

theorem State.enterStarting_base (s : State) (cause : Nat) : ∃ n, (s.enterStarting cause).base = { s.base with et := n }.lost .starting := by
  unfold State.enterStarting
  extract_lets t et
  refine ⟨et, ?_⟩
  rw [State.wkoAwake_base]
  rfl

theorem State.deviceReset_base (s : State) (cause : Nat) : ∃ n, (s.deviceReset cause).base = { s.base with et := n }.lost .starting := by
  unfold State.deviceReset
  obtain ⟨n, h⟩ := State.enterStarting_base s.reportHeld.logFlush cause
  refine ⟨n, ?_⟩
  rw [h, State.logFlush_base, State.reportHeld_base]

theorem State.enterStandby_base (s : State) (l : Bool) : (s.enterStandby l).base = s.base.lost .standby := by
  unfold State.enterStandby
  extract_lets t u d
  have ht : t.base = s.base := by
    show State.base (if _ then _ else _) = _
    split <;> simp
  have hu : u.base = s.base.lost .standby := by
    show ((t.logFlush.volatileLost .standby).wkoAwake false).base = _
    rw [State.wkoAwake_base, State.volatileLost_base _ _ rfl, State.logFlush_base, ht]
  rw [State.base_mk]
  exact hu

theorem Base.next_starting {s t : State} (h : ∃ n, t.base = { s.base with et := n }.lost .starting) : s.base.next t.base := by
  obtain ⟨n, h⟩ := h
  rw [h]; exact .starting n

theorem State.deviceReset_next {s t : State} (cause : Nat) (h : t.base = s.base) : s.base.next (t.deviceReset cause).base := by
  refine Base.next_starting ?_
  obtain ⟨n, k⟩ := State.deviceReset_base t cause
  exact ⟨n, by rw [k, h]⟩

theorem State.enterStarting_next {s t : State} (cause : Nat) (h : t.base = s.base) : s.base.next (t.enterStarting cause).base := by
  refine Base.next_starting ?_
  obtain ⟨n, k⟩ := State.enterStarting_base t cause
  exact ⟨n, by rw [k, h]⟩

theorem State.enterStandby_next {s t : State} (l : Bool) (h : t.base = s.base) (k : s.base.state = .starting ∨ s.base.state = .run) :
    s.base.next (t.enterStandby l).base := by
  rw [State.enterStandby_base, h]
  exact .standby k

theorem State.standbyEntry_next (s : State) (mv : Nat) : s.base.next (s.standbyEntry mv).base := by
  have go : s.dev.state.coarse = .starting ∨ s.dev.state.coarse = .run →
      s.base.next (State.base (let s := s.enterStandby false; { s with dev := { s.dev with fell := true } })) := fun h => by
    have := State.enterStandby_next false (rfl : s.base = s.base) h
    exact this
  unfold State.standbyEntry
  split
  · exact Base.next_refl _
  · split <;> rename_i h
    · exact go (by rw [h]; decide)
    · exact go (by rw [h]; decide)
    · exact go (by rw [h]; decide)
    · exact go (by rw [h]; decide)
    · exact Base.next_of_eq rfl
    · exact Base.next_refl _

theorem State.powerOff_next (s : State) (mv : Nat) : s.base.next (s.powerOff mv).base := by
  unfold State.powerOff
  split
  · exact Base.next_refl _
  · rename_i h
    simp only [Bool.or_eq_true, beq_iff_eq, not_or] at h
    extract_lets t
    have ht : t.base = s.base.lost .off := by
      show ((if s.powered then s.logFlush else s).volatileLost .off).base = _
      rw [State.volatileLost_base _ _ rfl]
      split <;> simp
    have : s.base.next (s.base.lost .off) := .off (by
      show s.dev.state.coarse ≠ .off
      intro e
      cases k : s.dev.state <;> simp [k, DevState.coarse] at e h)
    rw [← ht] at this
    obtain ⟨e1, e2, -⟩ := State.base_ext (s := { t with dev := t.dev }) rfl
    have e : (⟨t.pending, t.et, .off, false, false⟩ : Base) = t.base := by
      rw [ht]
      rw [show t.pending = s.pending from congrArg Base.pending ht, show t.et = s.et from congrArg Base.et ht]; rfl
    exact e ▸ this

theorem State.powerOn_next (s : State) (mv straps : Nat) : s.base.next (s.powerOn mv straps).base := by
  unfold State.powerOn
  split
  · exact Base.next_refl _
  · split
    · rw [State.noteSource_base]
      exact State.enterStarting_next _ rfl
    · split
      · exact Base.next_refl _
      · exact State.enterStarting_next _ (State.noteSource_base _ _)
    · exact Base.next_refl _

theorem State.railFault_next (s : State) (rail : Nat) : s.base.next (s.railFault rail).base := by
  unfold State.railFault
  split
  · exact Base.next_refl _
  · extract_lets p t u l v
    have hv : v.base = s.base := by simp [v, u, t]
    split
    · exact Base.next_of_eq ((State.uvSet_base _ _).trans hv)
    · split
      · exact Base.next_of_eq ((State.barrierLost_base _ _ _).trans hv)
      · exact State.deviceReset_next _ hv

theorem State.wakeFromSleep_next (s : State) : s.base.next s.wakeFromSleep.base := by
  unfold State.wakeFromSleep
  split
  · exact State.enterStarting_next _ rfl
  · exact Base.next_refl _

theorem State.wakeLineRow_next (s : State) (n : Nat) (level : Bool) : s.base.next (s.wakeLineRow n level).base := by
  unfold State.wakeLineRow
  extract_lets t asserted
  have ht : t.base = s.base := State.wakeLine_base _ _ _
  split
  · exact State.enterStarting_next _ ht
  · exact Base.next_of_eq ht

theorem State.tamperStart_next {s t : State} (src : Nat) (h : t.base = s.base) (k : s.base.state = .starting) :
    s.base.next (t.tamperStart src).base := by
  unfold State.tamperStart
  extract_lets u n b v w
  have hw : w.base = s.base := by simp [w, v, u, h]
  split
  · exact State.enterStandby_next _ hw (.inl k)
  · exact Base.next_of_eq hw

theorem State.base_starting {s : State} (h : s.dev.state = .starting) : s.base.state = .starting := by
  show s.dev.state.coarse = _
  rw [h]; rfl

theorem State.tamperAlarm_next (s : State) (src phase : Nat) (programming : Bool) :
    s.base.next (s.tamperAlarm src phase programming).base := by
  unfold State.tamperAlarm
  split
  · exact Base.next_refl _
  · rename_i g
    split
    · rename_i h
      refine State.tamperStart_next _ rfl (State.base_starting ?_)
      simp only [beq_iff_eq] at h
      subst h
      simp only [Bool.or_eq_true, not_or, Bool.not_eq_true', Bool.not_eq_false] at g
      have := g.2
      simp [State.tamperPhaseOk] at this
      exact this.1.1
    · refine Base.next_of_eq ?_
      dsimp only
      split
      · split <;> simp
      · split
        · split
          · simp
          · split <;> simp
        · simp

theorem State.referenceQualified_next (s : State) (r : SlotRecord) : s.base.next (s.referenceQualified r).base := by
  unfold State.referenceQualified
  split
  · exact Base.next_refl _
  · rename_i g
    simp only [Bool.or_eq_true, not_or, bne_iff_ne, ne_eq, Decidable.not_not] at g
    extract_lets t p q u
    have hu : u.base = s.base := by
      show (State.selectSlot _).base = _
      rw [State.selectSlot_base, State.base_mk, State.base_eta]
      show State.base (if _ then _ else _) = _
      split <;> simp
    split
    · exact State.enterStandby_next _ hu (.inl (State.base_starting g.1.1))
    · exact Base.next_of_eq hu

theorem State.referenceTimeout_next (s : State) : s.base.next s.referenceTimeout.base := by
  unfold State.referenceTimeout
  split
  · exact Base.next_refl _
  · rename_i g
    simp only [Bool.or_eq_true, not_or, bne_iff_ne, ne_eq, Decidable.not_not] at g
    split
    · exact State.tamperStart_next _ rfl (State.base_starting g.1.1.1.1)
    · exact Base.next_refl _

theorem State.mcoreStart_next (s : State) (g : Image) (c : Bool) : s.base.next (s.mcoreStart g c).base := by
  unfold State.mcoreStart
  split
  · exact Base.next_refl _
  · rename_i k
    simp only [Bool.or_eq_true, not_or, bne_iff_ne, ne_eq, Decidable.not_not] at k
    extract_lets code r t u
    split
    · exact Base.next_of_eq (by simp)
    · have hu : u.base = s.base := by
        show (State.slotFails _).base = _
        rw [State.slotFails_base]
        show State.base (if _ then _ else _) = _
        split <;> simp
      split
      · exact State.enterStandby_next _ hu (.inl (State.base_starting k.1.1.1.1.1))
      · exact Base.next_of_eq hu

theorem State.resetExpiry_next (s : State) : s.base.next s.resetExpiry.base := by
  unfold State.resetExpiry
  split
  · exact Base.next_refl _
  · split
    · exact Base.next_refl _
    · extract_lets d t
      have ht : t.base = s.base := rfl
      split
      · exact State.deviceReset_next _ ht
      · split
        · exact Base.next_of_eq ((State.clusterReset_base _).trans ht)
        · exact Base.next_of_eq ((State.switchReset_base _).trans ht)

theorem State.activateReset_next (s : State) : s.base.next s.activateReset.base := by
  unfold State.activateReset
  split
  · exact Base.next_refl _
  · split
    · exact Base.next_refl _
    · exact State.deviceReset_next _ rfl

theorem State.mcoreMismatch_next (s : State) (rail : Bool) : s.base.next (s.mcoreMismatch rail).base := by
  unfold State.mcoreMismatch
  split
  · exact Base.next_refl _
  · exact State.deviceReset_next _ (by simp)

theorem State.watchdog_next (s : State) : s.base.next s.watchdog.base := by
  unfold State.watchdog
  split
  · exact Base.next_refl _
  · exact State.deviceReset_next _ (by simp)

theorem State.eccRow_next (s : State) (mem addr : Nat) : s.base.next (s.eccRow mem addr).base := by
  unfold State.eccRow
  extract_lets t
  have ht : t.base = s.base := State.eccUncorrectable_base _ _ _
  split
  · exact State.deviceReset_next _ ht
  · exact Base.next_of_eq ht

theorem State.sleepEntered_next (s : State) : s.base.next s.sleepEntered.base := by
  unfold State.sleepEntered
  split
  · exact Base.next_refl _
  · rename_i h
    simp only [Bool.or_eq_true, not_or, bne_iff_ne, ne_eq, Decidable.not_not] at h
    have := Base.next.sleep (a := s.base)
      (by show s.dev.state.coarse = _; rw [h.2]; rfl) (by show (s.wake.phase == 4) = _; rw [h.1]; rfl)
    exact this

theorem State.sleepCommit_base (s : State) (h : s.wake.phase = 3) :
    s.sleepCommit.base = { s.base with armed := false, committed := true } := by
  unfold State.sleepCommit
  rw [if_neg (by simp [h])]
  extract_lets w rtc a b p1 p2 s3 s2
  have hb : b.base = { s.base with committed := true } := by
    show (State.endCommands (State.sleepEnd _ _ _)).base = _
    rw [State.endCommands_base, State.sleepEnd_base]
    rfl
  obtain ⟨h1, h2, h3, -, h5⟩ := State.base_ext (State.allInert_base b)
  have hd : (State.base { b.allInert with dev := { b.allInert.dev with armed := false } }) = { s.base with armed := false, committed := true } := by
    show (⟨b.allInert.pending, b.allInert.et, b.allInert.dev.state.coarse, false, b.allInert.wake.phase == 4⟩ : Base) = _
    rw [h1, h2, h3, h5, show b.pending = s.pending from congrArg Base.pending hb, show b.et = s.et from congrArg Base.et hb,
      show b.dev.state.coarse = s.dev.state.coarse from congrArg Base.state hb,
      show (b.wake.phase == 4) = true from congrArg Base.committed hb]
    rfl
  rw [State.base_mk, State.base_eta, State.logFlush_base, State.logRec_base, State.sleepDown_base, State.base_mk, State.base_eta]
  show (List.foldl _ s3 _).base = _
  rw [foldl_base _ (by intro s p; split <;> simp)]
  exact (State.wkoAwake_base _ _).trans hd

theorem State.enterRun_base (s : State) : s.enterRun.base = { s.base with state := .run } := by
  unfold State.enterRun
  extract_lets t u v w w1 w2 w3
  simp only [w1, w2, w3, State.degrade_base, State.partsRun_base, State.askLoad_base, State.woken_base, State.updRun_base,
    State.mailboxStart_base, State.dinStart_base, State.linRun_base, State.fryRun_base, State.busesRun_base,
    State.timeRun_base, State.timeApply_base, State.canvasBegin_base, State.paletteStart_base]
  rfl

theorem State.boundary_next (s : State) : s.base.next s.boundary.base := by
  unfold State.boundary
  split
  · exact Base.next_refl _
  · split
    · rename_i h
      split
      · rw [State.enterRun_base]
        exact .run (State.base_starting (by simpa using h))
      · exact Base.next_refl _
    · split
      · exact Base.next_refl _
      · rename_i h
        extract_lets t
        have ht : t.prepStart.heatEffects.base = s.base := by simp [t]
        refine Base.next_after ht ?_
        by_cases k : t.prepStart.heatEffects.wake.phase = 3
        · rw [State.sleepCommit_base _ k]
          refine .commit ?_ ?_
          · rw [ht]
            simp only [Bool.or_eq_true, not_or, Bool.not_eq_true', Bool.not_eq_false] at h
            show s.dev.state.coarse = _
            have := h.1
            unfold State.active at this
            cases e : s.dev.state <;> simp [e] at this ⊢ <;> rfl
          · show (t.prepStart.heatEffects.wake.phase == 4) = false
            rw [k]; rfl
        · refine Base.next_of_eq ?_
          unfold State.sleepCommit
          rw [if_pos (by simp [k])]

theorem cycleStep_fst (acc rate : Int) : (cycleStep acc rate).1 = 0 ∨ (cycleStep acc rate).1 = 2 ∨ (cycleStep acc rate).1 = 4 := by
  unfold cycleStep
  dsimp only
  (repeat' split) <;> simp

theorem State.tick_next (s : State) : s.base.stepped s.tick.base := by
  unfold State.tick
  rw [State.slewDone_base]
  have hr : s.base.cmd (onlyIf s.intakeOpen s s.release).base := by
    unfold onlyIf
    split
    · rename_i h
      exact Base.cmd_of_open h (State.release_base s h)
    · exact Base.cmd_refl _
  generalize onlyIf s.intakeOpen s s.release = t at hr
  unfold State.clock
  extract_lets c tm u
  by_cases p : t.powered = true
  · have hu : u = _ := if_pos p
    rw [hu]
    split
    · exact .ticked _ _ (cycleStep_fst _ _) hr
    · exact .ticked _ _ (cycleStep_fst _ _) hr
  · have hu : u = _ := if_neg p
    rw [hu]
    split
    · exact .moved _ (.cmd _ hr)
    · exact .moved _ (.cmd _ hr)

end Sys2Proof.Machine
end

