-- ==== Sys2Proof/Laws/BaseExec.lean ====
section
/-!
SUPPORT. Sys2Proof/Laws/BaseExec.lean: every command and every step answers a next state, and is one `Base.next` of the view
`State.base`.
-/

namespace Sys2Proof.Machine

theorem execDbProducer_next (s : State) (p : Nat) (ring : Nat) (v : Nat) : s.base.next (State.base (s.dbProducer p ring v)) :=
  Base.next_of_eq (by simp)

theorem execDbConsumer_next (s : State) (p : Nat) (ring : Nat) (v : Nat) : s.base.next (State.base (s.dbConsumer p ring v)) :=
  Base.next_of_eq (by simp)

theorem execIrqAck_next (s : State) (p : Nat) (ring : Nat) (v : Nat) : s.base.next (State.base (s.irqAck p ring v)) :=
  Base.next_of_eq (by simp)

theorem execViConsume_next (s : State) (p : Nat) (v : Nat) : s.base.next (State.base (s.viConsume p v)) :=
  Base.next_of_eq (by simp)

theorem execViOvfAck_next (s : State) (p : Nat) (v : Nat) : s.base.next (State.base (s.viOvfAck p v)) :=
  Base.next_of_eq (by simp)

theorem execLowWordRead_next (s : State) (p : Nat) (a : Nat) : s.base.next (State.base (s.lowRead p a)) :=
  Base.next_of_eq (by simp)

theorem execStatusWindowStore_next (s : State) (w : BusWrite) : s.base.next (State.base (s.windowStore w)) :=
  Base.next_of_eq (by simp)

theorem execRoute_next (s : State) (h : StrokeHd) (pipe : Nat) (first : Nat) (count : Nat) : s.base.next (State.base (s.strokeDo h (⟨0x01, 0, pipe, leBytes 4 first ++ leBytes 1 count⟩ : Stroke) fun late s => s.routeQueue pipe first count (s.traceOf h (⟨0x01, 0, pipe, leBytes 4 first ++ leBytes 1 count⟩ : Stroke) late))) :=
  Base.next_of_eq (by simp)

theorem execRouteExecution_next (s : State) (pipe : Nat) : s.base.next (State.base (s.routeStart pipe)) :=
  Base.next_of_eq (by simp)

theorem execRouteCommit_next (s : State) (pipe : Nat) : s.base.next (State.base (s.routeCommit pipe)) :=
  Base.next_of_eq (by simp)

theorem execInputLatch_next (s : State) (h : StrokeHd) (group : Nat) : s.base.next (State.base (s.strokeDo h ⟨0x02, 0, group, []⟩ fun _ s => s.inputLatch group)) :=
  Base.next_of_eq (by simp)

theorem execLoadSet_next (s : State) (h : StrokeHd) (ch : Nat) (mode : Nat) (duty : Nat) (period : Nat) : s.base.next (State.base (s.strokeDo h ⟨0x10, 1, ch, leBytes 2 mode ++ leBytes 2 duty ++ leBytes 2 period⟩ fun _ s => s.loadSet ch mode duty period)) :=
  Base.next_of_eq (by simp)

theorem execLoadApply_next (s : State) (h : StrokeHd) (ch : Nat) (ageLimit : Nat) (fallback : Nat) : s.base.next (State.base (s.strokeDo h ⟨0x11, 1, ch, leBytes 1 ageLimit ++ leBytes 1 fallback⟩ fun _ s => s.loadApply ch ageLimit fallback)) :=
  Base.next_of_eq (by simp)

theorem execBridgeSet_next (s : State) (h : StrokeHd) (br : Nat) (mode : Nat) (duty : Nat) (period : Nat) : s.base.next (State.base (s.strokeDo h ⟨0x12, 1, br, leBytes 2 mode ++ leBytes 2 duty ++ leBytes 4 period⟩ fun _ s => s.bridgeSet br mode duty period)) :=
  Base.next_of_eq (by simp)

theorem execBridgeApply_next (s : State) (h : StrokeHd) (br : Nat) (ageLimit : Nat) (fallback : Nat) : s.base.next (State.base (s.strokeDo h ⟨0x13, 1, br, leBytes 1 ageLimit ++ leBytes 1 fallback⟩ fun _ s => s.bridgeApply br ageLimit fallback)) :=
  Base.next_of_eq (by simp)

theorem execXoSet_next (s : State) (h : StrokeHd) (xo : Nat) (level : Nat) : s.base.next (State.base (s.strokeDo h ⟨0x14, 1, xo, leBytes 1 level⟩ fun _ s => s.xoSet xo (level == 1))) :=
  Base.next_of_eq (by simp)

theorem execPgTrigger_next (s : State) (h : StrokeHd) (pg : Nat) (delay : Nat) : s.base.next (State.base (s.strokeDo h ⟨0x15, 1, pg, leBytes 4 delay⟩ fun _ s => s.pgTrigger pg h.phase delay)) :=
  Base.next_of_eq (by simp)

theorem execGateSet_next (s : State) (h : StrokeHd) (port : Nat) (gates : Nat) : s.base.next (State.base (s.strokeDo h ⟨0x20, 2, port, leBytes 1 gates⟩ fun _ s => s.gateSet port gates)) :=
  Base.next_of_eq (by simp)

theorem execCanRelease_next (s : State) (h : StrokeHd) (ch : Nat) (entry : Nat) : s.base.next (State.base (s.strokeDo h ⟨0x21, 2, ch, leBytes 2 entry⟩ fun _ s => s.canRelease ch entry)) :=
  Base.next_of_eq (by simp)

theorem execFryCommit_next (s : State) (h : StrokeHd) (cl : Nat) (slot : Nat) (cycle : Nat) (chans : Nat) : s.base.next (State.base (s.strokeDo h ⟨0x22, 2, cl, leBytes 2 slot ++ leBytes 1 cycle ++ leBytes 1 chans⟩ fun _ s => s.fryCommit cl slot cycle chans)) :=
  Base.next_of_eq (by simp)

theorem execLinRelease_next (s : State) (h : StrokeHd) (ch : Nat) (entry : Nat) : s.base.next (State.base (s.strokeDo h ⟨0x23, 2, ch, leBytes 2 entry⟩ fun _ s => s.linRelease ch entry)) :=
  Base.next_of_eq (by simp)

theorem execWindow_next (s : State) (h : StrokeHd) (pair : Nat) (part : Nat) (switchNs : Nat) : s.base.next (State.base (s.strokeDo h ⟨0x30, 3, pair, leBytes 1 part⟩ fun _ s => s.window pair part switchNs)) :=
  Base.next_of_eq (by simp)

theorem execPfRoute_next (s : State) (h : StrokeHd) (first : Nat) (count : Nat) : s.base.next (State.base (s.strokeDo h ⟨0x40, 4, 0, leBytes 4 first ++ leBytes 2 count⟩ fun _ s => s.prefetchRoutes first count)) :=
  Base.next_of_eq (by simp)

theorem execPfStroke_next (s : State) (h : StrokeHd) (first : Nat) (count : Nat) : s.base.next (State.base (s.strokeDo h ⟨0x41, 4, 0, leBytes 4 first ++ leBytes 2 count⟩ fun _ s => s.fillBlock first count)) :=
  Base.next_of_eq (by simp)

theorem execStrokeOverrun_next (s : State) (h : StrokeHd) (st : Stroke) : s.base.next (State.base (s.strokeOverrun h st)) :=
  Base.next_of_eq (by simp)

theorem execStrokeBlockArrived_next (s : State)  : s.base.next (State.base (s.blockArrived)) :=
  Base.next_of_eq (by simp)

theorem execRistrettoSlot_next (s : State)  : s.base.next (State.base (s.risSlot)) :=
  Base.next_of_eq (by simp)

theorem execRistrettoExecute_next (s : State)  : s.base.next (State.base (s.risExecute)) :=
  Base.next_of_eq (by simp)

theorem execDecisionPoint_next (s : State) (headOk : Bool) : s.base.next (State.base (s.decisionPoint headOk)) :=
  Base.next_of_eq (by simp)

theorem execPaletteLoaded_next (s : State) (code : Nat) (detail : Nat) : s.base.next (State.base (s.paletteLoaded code detail)) :=
  Base.next_of_eq (by simp)

theorem execGptpSyncReceived_next (s : State) (dom : Nat) (phaseErr : Int) (ratePpb : Int) (gm : Nat) : s.base.next (State.base (onlyIf s.powered s (s.gptpSync dom phaseErr ratePpb gm))) :=
  Base.next_of_eq (by simp)

theorem execPpsEdge_next (s : State) (phaseErr : Int) (spacing : Nat) (width : Nat) : s.base.next (State.base (onlyIf s.powered s (s.ppsEdge phaseErr spacing width))) :=
  Base.next_of_eq (by simp)

theorem execSyncReceiptTimeout_next (s : State) (dom : Nat) : s.base.next (State.base (onlyIf s.powered s (s.syncTimeout dom))) :=
  Base.next_of_eq (by simp)

theorem execPpsTimeout_next (s : State)  : s.base.next (State.base (onlyIf s.powered s s.ppsTimeout)) :=
  Base.next_of_eq (by simp)

theorem execRevertHoldoffExpiry_next (s : State) (src : Nat) : s.base.next (State.base (onlyIf (s.powered && s.candidate src) s s.reselect)) :=
  Base.next_of_eq (by simp)

theorem execHoldoverExpired_next (s : State)  : s.base.next (State.base (onlyIf s.powered s s.holdoverExpire)) :=
  Base.next_of_eq (by simp)

theorem execTimeWaitTimeout_next (s : State)  : s.base.next (State.base (onlyIf s.powered s s.waitTimeout)) :=
  Base.next_of_eq (by simp)

theorem execRtcWrite_next (s : State)  : s.base.next (State.base (onlyIf s.powered s s.rtcWrite)) :=
  Base.next_of_eq (by simp)

theorem execPgEdge_next (s : State) (pg : Nat) : s.base.next (State.base (onlyIf (s.powered && pg < 16) s (s.pgEdge pg))) :=
  Base.next_of_eq (by simp)

theorem execOcTrip_next (s : State) (ch : Nat) (current : Nat) : s.base.next (State.base (s.ocTripRow ch current)) :=
  Base.next_of_eq (by simp)

theorem execOcPauseElapsed_next (s : State) (ch : Nat) : s.base.next (State.base (s.ocPauseRow ch)) :=
  Base.next_of_eq (by simp)

theorem execOcRetry_next (s : State) (ch : Nat) : s.base.next (State.base (s.ocRetryRow ch)) :=
  Base.next_of_eq (by simp)

theorem execOcRecovered_next (s : State) (ch : Nat) : s.base.next (State.base (s.ocRecovered ch)) :=
  Base.next_of_eq (by simp)

theorem execPourStepEnd_next (s : State) (ch : Nat) : s.base.next (State.base (s.pourRow ch)) :=
  Base.next_of_eq (by simp)

theorem execThermalShutdown_next (s : State) (ch : Nat) (tj : Int) (dt : Int) : s.base.next (State.base (s.thShutRow ch tj dt)) :=
  Base.next_of_eq (by simp)

theorem execThermalRestart_next (s : State) (ch : Nat) (tj : Int) (dt : Int) : s.base.next (State.base (s.thRestartRow ch tj dt)) :=
  Base.next_of_eq (by simp)

theorem execCooldownOverrun_next (s : State) (ch : Nat) : s.base.next (State.base (s.cooldownOverrun ch)) :=
  Base.next_of_eq (by simp)

theorem execPwmPeriodStart_next (s : State) (ch : Nat) : s.base.next (State.base (s.periodRow ch)) :=
  Base.next_of_eq (by simp)

theorem execSenseMillisecond_next (s : State) (ch : Nat) (m : SenseMs) : s.base.next (State.base (s.senseMs ch m)) :=
  Base.next_of_eq (by simp)

theorem execOpenLoad_next (s : State) (ch : Nat) : s.base.next (State.base (s.openLoad ch)) :=
  Base.next_of_eq (by simp)

theorem execOpenLoadCleared_next (s : State) (ch : Nat) : s.base.next (State.base (s.openLoadCleared ch)) :=
  Base.next_of_eq (by simp)

theorem execStall_next (s : State) (br : Nat) : s.base.next (State.base (s.stallRow br)) :=
  Base.next_of_eq (by simp)

theorem execXcondFault_next (s : State) (br : Nat) (leg : Nat) (side : Nat) : s.base.next (State.base (s.xcondRow br leg side)) :=
  Base.next_of_eq (by simp)

theorem execShedResume_next (s : State) (feed : Nat) : s.base.next (State.base (s.shedRow feed)) :=
  Base.next_of_eq (by simp)

theorem execSagEnter_next (s : State) (feed : Nat) (v : Nat) : s.base.next (State.base (onlyIf s.powered s (s.sagEnter feed v))) :=
  Base.next_of_eq (by simp)

theorem execSagExit_next (s : State) (feed : Nat) (v : Nat) : s.base.next (State.base (onlyIf s.powered s (s.sagExit feed v))) :=
  Base.next_of_eq (by simp)

theorem execCrankStart_next (s : State) (v : Nat) : s.base.next (State.base (onlyIf s.powered s (s.crankStart v))) :=
  Base.next_of_eq (by simp)

theorem execCrankEnd_next (s : State) (v : Nat) : s.base.next (State.base (onlyIf s.powered s (s.crankEnd v))) :=
  Base.next_of_eq (by simp)

theorem execUvLatch_next (s : State) (feed : Nat) (mv : Nat) : s.base.next (State.base (onlyIf s.powered s (s.uvLatch feed mv))) :=
  Base.next_of_eq (by simp)

theorem execOvervoltage_next (s : State) (feed : Nat) (v : Nat) : s.base.next (State.base (onlyIf s.powered s (s.overvoltage feed v))) :=
  Base.next_of_eq (by simp)

theorem execOvervoltageEnd_next (s : State) (feed : Nat) (v : Nat) : s.base.next (State.base (onlyIf s.powered s (s.overvoltageEnd feed v))) :=
  Base.next_of_eq (by simp)

theorem execOverload_next (s : State) (feed : Nat) (amps : Nat) : s.base.next (State.base (onlyIf s.powered s (s.overload feed amps))) :=
  Base.next_of_eq (by simp)

theorem execOverloadClass2Shed_next (s : State) (feed : Nat) (amps : Nat) : s.base.next (State.base (onlyIf s.powered s (s.overload2 feed amps))) :=
  Base.next_of_eq (by simp)

theorem execOverloadEnd_next (s : State) (feed : Nat) (amps : Nat) : s.base.next (State.base (onlyIf s.powered s (s.overloadEnd feed amps))) :=
  Base.next_of_eq (by simp)

theorem execThermalModelEval_next (s : State) (psw : Nat) (railMw : Nat) (tcp : Int) (tjc : Int) : s.base.next (State.base (onlyIf s.active s (s.thermalEval psw railMw tcp tjc))) :=
  Base.next_of_eq (by simp)

theorem execDeratingStepFall_next (s : State)  : s.base.next (State.base (onlyIf s.active s s.stepFall)) :=
  Base.next_of_eq (by simp)

theorem execDeratingStep3Entry_next (s : State)  : s.base.next (State.base (onlyIf s.active s s.step3Entry)) :=
  Base.next_of_eq (by simp)

theorem execFrameDecisionPoint_next (s : State) (f : EthFrame) : s.base.next (State.base (onlyIf (s.active && f.port < 21 && s.portUp f.port) s (s.frameIn f))) :=
  Base.next_of_eq (by simp)

theorem execFrameEnd_next (s : State) (port : Nat) (good : Bool) (symbol : Bool) : s.base.next (State.base (onlyIf (s.active && port < 21) s (s.frameEnd port good symbol))) :=
  Base.next_of_eq (by simp)

theorem execTransmissionSelect_next (s : State) (port : Nat) : s.base.next (State.base (onlyIf (s.active && port < 21) s (s.transmissionSelect port))) :=
  Base.next_of_eq (by simp)

theorem execFdbAgeing_next (s : State) (mac : Nat) (fid : Nat) : s.base.next (State.base (onlyIf s.active s (s.fdbAgeing mac fid))) :=
  Base.next_of_eq (by simp)

theorem execCbResetTimeout_next (s : State) (cb : Nat) : s.base.next (State.base (onlyIf s.active s (s.cbTimeout cb))) :=
  Base.next_of_eq (by simp)

theorem execLinkUp_next (s : State) (port : Nat) : s.base.next (State.base (s.linkUp port)) :=
  Base.next_of_eq (by simp)

theorem execLinkDown_next (s : State) (port : Nat) (localFault : Bool) : s.base.next (State.base (s.linkDown port localFault)) :=
  Base.next_of_eq (by simp)

theorem execTrainFail_next (s : State) (port : Nat) : s.base.next (State.base (s.trainFail port)) :=
  Base.next_of_eq (by simp)

theorem execTc10Asleep_next (s : State) (port : Nat) : s.base.next (State.base (s.tc10Acked port)) :=
  Base.next_of_eq (by simp)

theorem execTc10SleepTimeout_next (s : State) (port : Nat) : s.base.next (State.base (s.tc10Timeout port)) :=
  Base.next_of_eq (by simp)

theorem execTc10RemoteSleep_next (s : State) (port : Nat) : s.base.next (State.base (s.tc10Remote port)) :=
  Base.next_of_eq (by simp)

theorem execTc10Wake_next (s : State) (port : Nat) (remote : Bool) : s.base.next (State.base (s.tc10Wake port remote)) :=
  Base.next_of_eq (by simp)

theorem execPhyFault_next (s : State) (port : Nat) : s.base.next (State.base (s.phyFault port)) :=
  Base.next_of_eq (by simp)

theorem execPlcaBeaconLost_next (s : State) (port : Nat) : s.base.next (State.base (s.beaconLost port)) :=
  Base.next_of_eq (by simp)

theorem execPlcaBeaconReceived_next (s : State) (port : Nat) : s.base.next (State.base (s.beaconReceived port)) :=
  Base.next_of_eq (by simp)

theorem execSegmentAlone_next (s : State) (port : Nat) : s.base.next (State.base (s.segmentAlone port)) :=
  Base.next_of_eq (by simp)

theorem execCableDiagDone_next (s : State) (port : Nat) (result : Nat) (distance : Nat) : s.base.next (State.base (s.diagDone port result distance)) :=
  Base.next_of_eq (by simp)

theorem execCanFrameReceived_next (s : State) (ch : Nat) (f : CanFrame) : s.base.next (State.base (s.canReceive ch f)) :=
  Base.next_of_eq (by simp)

theorem execCanFrameValid_next (s : State) (ch : Nat) : s.base.next (State.base (s.canValid ch)) :=
  Base.next_of_eq (by simp)

theorem execCanAttemptStart_next (s : State) (ch : Nat) : s.base.next (State.base (s.canAttempt ch)) :=
  Base.next_of_eq (by simp)

theorem execCanArbitrationLost_next (s : State) (ch : Nat) : s.base.next (State.base (s.canLost ch)) :=
  Base.next_of_eq (by simp)

theorem execCanBusError_next (s : State) (ch : Nat) (kind : Nat) (past : Bool) (more : Bool) : s.base.next (State.base (s.canError ch kind past more)) :=
  Base.next_of_eq (by simp)

theorem execCanTxSuccess_next (s : State) (ch : Nat) : s.base.next (State.base (s.canSuccess ch)) :=
  Base.next_of_eq (by simp)

theorem execCanIntegrated_next (s : State) (ch : Nat) : s.base.next (State.base (s.canIntegrated ch)) :=
  Base.next_of_eq (by simp)

theorem execBusOffRecovered_next (s : State) (ch : Nat) : s.base.next (State.base (s.canRecovered ch)) :=
  Base.next_of_eq (by simp)

theorem execCanWake_next (s : State) (ch : Nat) (reason : Nat) : s.base.next (State.base (s.canWake ch reason)) :=
  Base.next_of_eq (by simp)

theorem execFryCycleStart_next (s : State) (cl : Nat) (cycle : Nat) (phaseErr : Int) (rateCorr : Int) (offsCorr : Int) : s.base.next (State.base (s.fryCycle cl cycle phaseErr rateCorr offsCorr)) :=
  Base.next_of_eq (by simp)

theorem execFryActionPoint_next (s : State) (chn : Nat) (slot : Nat) (cycle : Nat) : s.base.next (State.base (s.fryAction chn slot cycle)) :=
  Base.next_of_eq (by simp)

theorem execFryFrameReceived_next (s : State) (chn : Nat) (f : FryFrame) : s.base.next (State.base (s.fryReceive chn f)) :=
  Base.next_of_eq (by simp)

theorem execBranchTxStart_next (s : State) (chn : Nat) (branch : Nat) (seg : Nat) (slot : Nat) (offsetNs : Int) : s.base.next (State.base (s.branchTx chn branch seg slot offsetNs)) :=
  Base.next_of_eq (by simp)

theorem execBranchTruncated_next (s : State) (chn : Nat) (branch : Nat) (slot : Nat) : s.base.next (State.base (s.branchTruncated chn branch slot)) :=
  Base.next_of_eq (by simp)

theorem execPocState_next (s : State) (cl : Nat) (code : Nat) : s.base.next (State.base (s.pocChange cl code)) :=
  Base.next_of_eq (by simp)

theorem execFrAlone_next (s : State) (cl : Nat) : s.base.next (State.base (s.frAlone cl)) :=
  Base.next_of_eq (by simp)

theorem execColdstartRetry_next (s : State) (cl : Nat) : s.base.next (State.base (s.coldstartRetry cl)) :=
  Base.next_of_eq (by simp)

theorem execLinFrameEnd_next (s : State) (ch : Nat) (e : LinEnd) : s.base.next (State.base (s.linFrameEnd ch e)) :=
  Base.next_of_eq (by simp)

theorem execLinResponseTimeout_next (s : State) (ch : Nat) (data : List Byte) : s.base.next (State.base (s.linTimeout ch data)) :=
  Base.next_of_eq (by simp)

theorem execLinHeaderReceived_next (s : State) (ch : Nat) (id : Nat) (sleep : Bool) : s.base.next (State.base (s.linHeader ch id sleep)) :=
  Base.next_of_eq (by simp)

theorem execLinIdleSleep_next (s : State) (ch : Nat) : s.base.next (State.base (s.linIdle ch)) :=
  Base.next_of_eq (by simp)

theorem execLinWake_next (s : State) (ch : Nat) (sent : Bool) : s.base.next (State.base (s.linWake ch sent)) :=
  Base.next_of_eq (by simp)

theorem execLinWakingEnd_next (s : State) (ch : Nat) : s.base.next (State.base (s.linWakingEnd ch)) :=
  Base.next_of_eq (by simp)

theorem execLinWakeNoHeader_next (s : State) (ch : Nat) : s.base.next (State.base (s.linNoHeader ch)) :=
  Base.next_of_eq (by simp)

theorem execFilteredEdge_next (s : State) (input : Nat) (level : Bool) (first : Nat) : s.base.next (State.base (s.filteredEdge input level first)) :=
  Base.next_of_eq (by simp)

theorem execDiEdge_next (s : State) (input : Nat) : s.base.next (State.base (s.diEdge input)) :=
  Base.next_of_eq (by simp)

theorem execDiFeedLow_next (s : State) (v : Nat) : s.base.next (State.base (s.diFeedLow v)) :=
  Base.next_of_eq (by simp)

theorem execDiSamplingResume_next (s : State) (v : Nat) : s.base.next (State.base (s.diResume v)) :=
  Base.next_of_eq (by simp)

theorem execWireBreak_next (s : State) (di : Nat) : s.base.next (State.base (s.wireBreak di)) :=
  Base.next_of_eq (by simp)

theorem execWireOk_next (s : State) (di : Nat) : s.base.next (State.base (s.wireOk di)) :=
  Base.next_of_eq (by simp)

theorem execWirebreakTestDone_next (s : State) (skipped : Nat) (brk : Nat) (shrt : Nat) : s.base.next (State.base (s.testDone skipped brk shrt)) :=
  Base.next_of_eq (by simp)

theorem execBarrierLost_next (s : State) (logicSide : Bool) (viso : Bool) : s.base.next (State.base (s.barrierLost logicSide viso)) :=
  Base.next_of_eq (by simp)

theorem execBarrierRestored_next (s : State)  : s.base.next (State.base (s.barrierRestored)) :=
  Base.next_of_eq (by simp)

theorem execXoFault_next (s : State) (xo : Nat) (current : Nat) (thermal : Bool) : s.base.next (State.base (s.xoFault xo current thermal)) :=
  Base.next_of_eq (by simp)

theorem execXoRetry_next (s : State) (xo : Nat) (holds : Bool) : s.base.next (State.base (s.xoRetry xo holds)) :=
  Base.next_of_eq (by simp)

theorem execXvsLost_next (s : State) (v : Nat) : s.base.next (State.base (s.xvsLost v)) :=
  Base.next_of_eq (by simp)

theorem execFieldHoldExpiry_next (s : State) (xo : Nat) : s.base.next (State.base (s.fieldHoldEnd xo)) :=
  Base.next_of_eq (by simp)

theorem execLockstepMismatch_next (s : State) (pair : Nat) (railFault : Bool) : s.base.next (State.base (s.arise (s.injected 4 0 pair) fun s => s.mismatch pair railFault)) :=
  Base.next_of_eq (by simp)

theorem execPairHalted_next (s : State) (pair : Nat) : s.base.next (State.base (s.pairHalt pair)) :=
  Base.next_of_eq (by simp)

theorem execPairResumed_next (s : State) (pair : Nat) : s.base.next (State.base (s.pairResume pair)) :=
  Base.next_of_eq (by simp)

theorem execSecureInterrupt_next (s : State) (pair : Nat) : s.base.next (State.base (s.secureIrq pair)) :=
  Base.next_of_eq (by simp)

theorem execPartResetDone_next (s : State) (p : Nat) : s.base.next (State.base (s.resetDone p)) :=
  Base.next_of_eq (by simp)

theorem execPartRestarted_next (s : State) (p : Nat) (digestOk : Bool) (image : List Byte) : s.base.next (State.base (s.restarted p digestOk image)) :=
  Base.next_of_eq (by simp)

theorem execSupervisionTimeout_next (s : State) (serial : Nat) : s.base.next (State.base (s.supTimeout serial)) :=
  Base.next_of_eq (by simp)

theorem execEventDelivery_next (s : State)  : s.base.next (State.base (s.eventDeliver)) :=
  Base.next_of_eq (by simp)

theorem execRingSlotMove_next (s : State) (ring : Nat) : s.base.next (State.base (s.ringMove ring)) :=
  Base.next_of_eq (by simp)

theorem execBamRequestExecute_next (s : State) (svc : BamService) : s.base.next (State.base (s.bamExecute svc)) :=
  Base.next_of_eq (by simp)

theorem execBamlysStart_next (s : State) (pufFails : Nat) (recovered : List Nat) (store : BamStore) (measurement : List Byte) (fwOk : Bool) : s.base.next (State.base (s.bamStart pufFails recovered store measurement fwOk)) :=
  Base.next_of_eq (by simp)

theorem execBamlysRestart_next (s : State) (cause : Nat) (fwOk : Bool) (pufFails : Nat) (recovered : List Nat) (measurement : List Byte) : s.base.next (State.base (s.bamRestart cause fwOk pufFails recovered measurement)) :=
  Base.next_of_eq (by simp)

theorem execKeyRegisterRemask_next (s : State)  : s.base.next (State.base (s.remask)) :=
  Base.next_of_eq (by simp)

theorem execMkaSakInstall_next (s : State) (port : Nat) (an : Nat) (scs : Nat) (xpn : Bool) : s.base.next (State.base (s.mkaInstall port an scs xpn)) :=
  Base.next_of_eq (by simp)

theorem execTamperBootRetry_next (s : State)  : s.base.next (State.base (s.tamperRetry)) :=
  Base.next_of_eq (by simp)

theorem execStartLoadComplete_next (s : State)  : s.base.next (State.base (s.startLoadDone)) :=
  Base.next_of_eq (by simp)

theorem execChunkCommit_next (s : State) (c : ChunkResult) : s.base.next (State.base (s.chunkCommit c)) :=
  Base.next_of_eq (by simp)

theorem execHealthExpired_next (s : State)  : s.base.next (State.base (s.healthExpired)) :=
  Base.next_of_eq (by simp)

theorem execPrepFallbackTimeout_next (s : State)  : s.base.next (State.base (s.prepFallback)) :=
  Base.next_of_eq (by simp)

theorem execSleepArming_next (s : State)  : s.base.next (State.base (s.sleepArming)) :=
  Base.next_of_eq (by simp)

theorem execTc10SleepForced_next (s : State) (port : Nat) : s.base.next (State.base (s.tc10Force port)) :=
  Base.next_of_eq (by simp)

theorem execWkoPulseEnd_next (s : State) (line : Nat) : s.base.next (State.base (s.wkoPulseEnd line)) :=
  Base.next_of_eq (by simp)

theorem execBridgeRetry_next (s : State)  : s.base.next (State.base (s.bridgeRetry)) :=
  Base.next_of_eq (by simp)

theorem execBusTimeout_next (s : State) (w : BusWrite) (crossing : Nat) (isLoad : Bool) : s.base.next (State.base (s.busTimeout w crossing isLoad)) :=
  Base.next_of_eq (by simp)

theorem execHoldBufferDrain_next (s : State) (crossing : Nat) : s.base.next (State.base (s.holdDrain crossing)) :=
  Base.next_of_eq (by simp)

theorem execCdcOverrun_next (s : State) (src : Nat) : s.base.next (State.base (s.cdcOverrun src)) :=
  Base.next_of_eq (by simp)

theorem execPatrolScrub_next (s : State) (dram : Bool) : s.base.next (State.base (s.patrol dram)) :=
  Base.next_of_eq (by simp)

theorem execEccCorrected_next (s : State) (mem : Nat) (addr : Nat) : s.base.next (State.base (s.eccCorrected mem addr)) :=
  Base.next_of_eq (by simp)

theorem execPoisonRead_next (s : State) (p : Nat) (addr : Nat) : s.base.next (State.base (s.poisonRead p addr)) :=
  Base.next_of_eq (by simp)

theorem execFaultReport_next (s : State)  : s.base.next (State.base (s.faultReport)) :=
  Base.next_of_eq (by simp)

theorem execLogFlush_next (s : State)  : s.base.next (State.base (s.logTick)) :=
  Base.next_of_eq (by simp)

theorem execXvsReturn_next (s : State) (v : Nat) : s.base.next (State.base (s.xvsReturn v)) :=
  Base.next_of_eq (by simp)

theorem execPrtTrainTimeout_next (s : State) (port : Nat) : s.base.next (State.base (s.prtTrainTimeout port)) :=
  Base.next_of_eq (by simp)

theorem execFryStartTimeout_next (s : State) (cl : Nat) : s.base.next (State.base (s.fryStartTimeout cl)) :=
  Base.next_of_eq (by simp)

theorem execSyncTransmit_next (s : State) (port : Nat) : s.base.next (State.base (onlyIf s.active s (s.syncTransmit port))) :=
  Base.next_of_eq (by simp)

theorem execFlashWriteResume_next (s : State) (v : Nat) : s.base.next (State.base (s.flashResume v)) :=
  Base.next_of_eq (by simp)

/-- Every command answers a next state, and it is one `Base.next`. -/
theorem exec_next (c : Instr) (s : State) : ∃ t, exec c s = .next t ∧ s.base.next t.base := by
  cases c with
  | nop _ => exact ⟨_, rfl, .cmd _ (State.command_base (OpSpec.tame_of nopSpec_base) _ s)⟩
  | identify _ => exact ⟨_, rfl, .cmd _ (State.command_base (OpSpec.tame_of identifySpec_base) _ s)⟩
  | getState _ => exact ⟨_, rfl, .cmd _ (State.command_base (OpSpec.tame_of getStateSpec_base) _ s)⟩
  | reset _ => exact ⟨_, rfl, .cmd _ (State.command_base (OpSpec.tame_of resetSpec_base) _ s)⟩
  | arm _ => exact ⟨_, rfl, .cmd _ (State.command_base armSpec_tame _ s)⟩
  | disarm _ => exact ⟨_, rfl, .cmd _ (State.command_base disarmSpec_tame _ s)⟩
  | timeGetStatus _ => exact ⟨_, rfl, .cmd _ (State.command_base (OpSpec.tame_of timeGetStatusSpec_base) _ s)⟩
  | timeSetSources _ => exact ⟨_, rfl, .cmd _ (State.command_base (OpSpec.tame_of timeSetSourcesSpec_base) _ s)⟩
  | timeSetHoldover _ => exact ⟨_, rfl, .cmd _ (State.command_base (OpSpec.tame_of timeSetHoldoverSpec_base) _ s)⟩
  | pgConfig _ => exact ⟨_, rfl, .cmd _ (State.command_base (OpSpec.tame_of pgConfigSpec_base) _ s)⟩
  | pgStart _ => exact ⟨_, rfl, .cmd _ (State.command_base (OpSpec.tame_of pgStartSpec_base) _ s)⟩
  | pgStop _ => exact ⟨_, rfl, .cmd _ (State.command_base (OpSpec.tame_of pgStopSpec_base) _ s)⟩
  | easelGetStatus _ => exact ⟨_, rfl, .cmd _ (State.command_base (OpSpec.tame_of easelGetStatusSpec_base) _ s)⟩
  | paletteLoad _ => exact ⟨_, rfl, .cmd _ (State.command_base (OpSpec.tame_of paletteLoadSpec_base) _ s)⟩
  | paletteSwitch _ => exact ⟨_, rfl, .cmd _ (State.command_base (OpSpec.tame_of paletteSwitchSpec_base) _ s)⟩
  | paletteUnload _ => exact ⟨_, rfl, .cmd _ (State.command_base (OpSpec.tame_of paletteUnloadSpec_base) _ s)⟩
  | easelGetOverruns _ => exact ⟨_, rfl, .cmd _ (State.command_base (OpSpec.tame_of easelGetOverrunsSpec_base) _ s)⟩
  | easelClearCounters _ => exact ⟨_, rfl, .cmd _ (State.command_base (OpSpec.tame_of easelClearCountersSpec_base) _ s)⟩
  | gwGetStatus _ => exact ⟨_, rfl, .cmd _ (State.command_base (OpSpec.tame_of gwGetStatusSpec_base) _ s)⟩
  | gwRouteRead _ => exact ⟨_, rfl, .cmd _ (State.command_base (OpSpec.tame_of gwRouteReadSpec_base) _ s)⟩
  | gwSignalRead _ => exact ⟨_, rfl, .cmd _ (State.command_base (OpSpec.tame_of gwSignalReadSpec_base) _ s)⟩
  | gwSignalForce _ => exact ⟨_, rfl, .cmd _ (State.command_base (OpSpec.tame_of gwSignalForceSpec_base) _ s)⟩
  | gwWakeRouteSet _ => exact ⟨_, rfl, .cmd _ (State.command_base (OpSpec.tame_of gwWakeRouteSetSpec_base) _ s)⟩
  | lswSet _ => exact ⟨_, rfl, .cmd _ (State.command_base (OpSpec.tame_of lswSetSpec_base) _ s)⟩
  | lswSetPwm _ => exact ⟨_, rfl, .cmd _ (State.command_base (OpSpec.tame_of lswSetPwmSpec_base) _ s)⟩
  | lswConfig _ => exact ⟨_, rfl, .cmd _ (State.command_base (OpSpec.tame_of lswConfigSpec_base) _ s)⟩
  | lswGetStatus _ => exact ⟨_, rfl, .cmd _ (State.command_base (OpSpec.tame_of lswGetStatusSpec_base) _ s)⟩
  | lswClearOcLatch _ => exact ⟨_, rfl, .cmd _ (State.command_base (OpSpec.tame_of lswClearOcLatchSpec_base) _ s)⟩
  | lswClearThermalLatch _ => exact ⟨_, rfl, .cmd _ (State.command_base (OpSpec.tame_of lswClearThermalLatchSpec_base) _ s)⟩
  | lswIsmSelect _ => exact ⟨_, rfl, .cmd _ (State.command_base (OpSpec.tame_of lswIsmSelectSpec_base) _ s)⟩
  | mbrConfig _ => exact ⟨_, rfl, .cmd _ (State.command_base (OpSpec.tame_of mbrConfigSpec_base) _ s)⟩
  | mbrDrive _ => exact ⟨_, rfl, .cmd _ (State.command_base (OpSpec.tame_of mbrDriveSpec_base) _ s)⟩
  | mbrBrake _ => exact ⟨_, rfl, .cmd _ (State.command_base (OpSpec.tame_of mbrBrakeSpec_base) _ s)⟩
  | mbrGetStatus _ => exact ⟨_, rfl, .cmd _ (State.command_base (OpSpec.tame_of mbrGetStatusSpec_base) _ s)⟩
  | pwrGetStatus _ => exact ⟨_, rfl, .cmd _ (State.command_base (OpSpec.tame_of pwrGetStatusSpec_base) _ s)⟩
  | pwrGetThermal _ => exact ⟨_, rfl, .cmd _ (State.command_base (OpSpec.tame_of pwrGetThermalSpec_base) _ s)⟩
  | pwrSetSagThreshold _ => exact ⟨_, rfl, .cmd _ (State.command_base (OpSpec.tame_of pwrSetSagThresholdSpec_base) _ s)⟩
  | pwrUnlatchUv _ => exact ⟨_, rfl, .cmd _ (State.command_base (OpSpec.tame_of pwrUnlatchUvSpec_base) _ s)⟩
  | pwrGetLedger _ => exact ⟨_, rfl, .cmd _ (State.command_base (OpSpec.tame_of pwrGetLedgerSpec_base) _ s)⟩
  | swcGetCounters _ => exact ⟨_, rfl, .cmd _ (State.command_base (OpSpec.tame_of swcGetCountersSpec_base) _ s)⟩
  | swcFdbRead _ => exact ⟨_, rfl, .cmd _ (State.command_base (OpSpec.tame_of swcFdbReadSpec_base) _ s)⟩
  | swcFdbWrite _ => exact ⟨_, rfl, .cmd _ (State.command_base (OpSpec.tame_of swcFdbWriteSpec_base) _ s)⟩
  | swcFdbFlush _ => exact ⟨_, rfl, .cmd _ (State.command_base (OpSpec.tame_of swcFdbFlushSpec_base) _ s)⟩
  | swcClearCounters _ => exact ⟨_, rfl, .cmd _ (State.command_base (OpSpec.tame_of swcClearCountersSpec_base) _ s)⟩
  | prtGetStatus _ => exact ⟨_, rfl, .cmd _ (State.command_base (OpSpec.tame_of prtGetStatusSpec_base) _ s)⟩
  | prtEnable _ => exact ⟨_, rfl, .cmd _ (State.command_base (OpSpec.tame_of prtEnableSpec_base) _ s)⟩
  | prtDisable _ => exact ⟨_, rfl, .cmd _ (State.command_base (OpSpec.tame_of prtDisableSpec_base) _ s)⟩
  | prtCableDiag _ => exact ⟨_, rfl, .cmd _ (State.command_base (OpSpec.tame_of prtCableDiagSpec_base) _ s)⟩
  | prtTc10Sleep _ => exact ⟨_, rfl, .cmd _ (State.command_base (OpSpec.tame_of prtTc10SleepSpec_base) _ s)⟩
  | canGetStatus _ => exact ⟨_, rfl, .cmd _ (State.command_base (OpSpec.tame_of canGetStatusSpec_base) _ s)⟩
  | canTx _ => exact ⟨_, rfl, .cmd _ (State.command_base (OpSpec.tame_of canTxSpec_base) _ s)⟩
  | canTxCancel _ => exact ⟨_, rfl, .cmd _ (State.command_base (OpSpec.tame_of canTxCancelSpec_base) _ s)⟩
  | canSetFilter _ => exact ⟨_, rfl, .cmd _ (State.command_base (OpSpec.tame_of canSetFilterSpec_base) _ s)⟩
  | canSetWake _ => exact ⟨_, rfl, .cmd _ (State.command_base (OpSpec.tame_of canSetWakeSpec_base) _ s)⟩
  | canRecover _ => exact ⟨_, rfl, .cmd _ (State.command_base (OpSpec.tame_of canRecoverSpec_base) _ s)⟩
  | fryGetStatus _ => exact ⟨_, rfl, .cmd _ (State.command_base (OpSpec.tame_of fryGetStatusSpec_base) _ s)⟩
  | fryStart _ => exact ⟨_, rfl, .cmd _ (State.command_base (OpSpec.tame_of fryStartSpec_base) _ s)⟩
  | fryHalt _ => exact ⟨_, rfl, .cmd _ (State.command_base (OpSpec.tame_of fryHaltSpec_base) _ s)⟩
  | fryBranchEnable _ => exact ⟨_, rfl, .cmd _ (State.command_base (OpSpec.tame_of fryBranchEnableSpec_base) _ s)⟩
  | linGetStatus _ => exact ⟨_, rfl, .cmd _ (State.command_base (OpSpec.tame_of linGetStatusSpec_base) _ s)⟩
  | linTx _ => exact ⟨_, rfl, .cmd _ (State.command_base (OpSpec.tame_of linTxSpec_base) _ s)⟩
  | linWakePulse _ => exact ⟨_, rfl, .cmd _ (State.command_base (OpSpec.tame_of linWakePulseSpec_base) _ s)⟩
  | linGotoSleep _ => exact ⟨_, rfl, .cmd _ (State.command_base (OpSpec.tame_of linGotoSleepSpec_base) _ s)⟩
  | dioGetInputs _ => exact ⟨_, rfl, .cmd _ (State.command_base (OpSpec.tame_of dioGetInputsSpec_base) _ s)⟩
  | dioConfig _ => exact ⟨_, rfl, .cmd _ (State.command_base (OpSpec.tame_of dioConfigSpec_base) _ s)⟩
  | dioSetXo _ => exact ⟨_, rfl, .cmd _ (State.command_base (OpSpec.tame_of dioSetXoSpec_base) _ s)⟩
  | dioWirebreakTest _ => exact ⟨_, rfl, .cmd _ (State.command_base (OpSpec.tame_of dioWirebreakTestSpec_base) _ s)⟩
  | partGetStatus _ => exact ⟨_, rfl, .cmd _ (State.command_base (OpSpec.tame_of partGetStatusSpec_base) _ s)⟩
  | partReset _ => exact ⟨_, rfl, .cmd _ (State.command_base (OpSpec.tame_of partResetSpec_base) _ s)⟩
  | partRestart _ => exact ⟨_, rfl, .cmd _ (State.command_base (OpSpec.tame_of partRestartSpec_base) _ s)⟩
  | ringGetStatus _ => exact ⟨_, rfl, .cmd _ (State.command_base (OpSpec.tame_of ringGetStatusSpec_base) _ s)⟩
  | ringReset _ => exact ⟨_, rfl, .cmd _ (State.command_base (OpSpec.tame_of ringResetSpec_base) _ s)⟩
  | partReadPostedErrors _ => exact ⟨_, rfl, .cmd _ (State.command_base (OpSpec.tame_of partReadPostedErrorsSpec_base) _ s)⟩
  | bamGetStatus _ => exact ⟨_, rfl, .cmd _ (State.command_base (OpSpec.tame_of bamGetStatusSpec_base) _ s)⟩
  | bamSessionOpen _ => exact ⟨_, rfl, .cmd _ (State.command_base (OpSpec.tame_of bamSessionOpenSpec_base) _ s)⟩
  | bamKeyInstall _ => exact ⟨_, rfl, .cmd _ (State.command_base (OpSpec.tame_of bamKeyInstallSpec_base) _ s)⟩
  | bamSign _ => exact ⟨_, rfl, .cmd _ (State.command_base (OpSpec.tame_of bamSignSpec_base) _ s)⟩
  | bamVerify _ => exact ⟨_, rfl, .cmd _ (State.command_base (OpSpec.tame_of bamVerifySpec_base) _ s)⟩
  | bamRandom _ => exact ⟨_, rfl, .cmd _ (State.command_base (OpSpec.tame_of bamRandomSpec_base) _ s)⟩
  | bamLifecycleSet _ => exact ⟨_, rfl, .cmd _ (State.command_base (OpSpec.tame_of bamLifecycleSetSpec_base) _ s)⟩
  | bamTamperPolicy _ => exact ⟨_, rfl, .cmd _ (State.command_base (OpSpec.tame_of bamTamperPolicySpec_base) _ s)⟩
  | updGetStatus _ => exact ⟨_, rfl, .cmd _ (State.command_base (OpSpec.tame_of updGetStatusSpec_base) _ s)⟩
  | updBegin _ => exact ⟨_, rfl, .cmd _ (State.command_base (OpSpec.tame_of updBeginSpec_base) _ s)⟩
  | updChunk _ => exact ⟨_, rfl, .cmd _ (State.command_base (OpSpec.tame_of updChunkSpec_base) _ s)⟩
  | updActivate _ => exact ⟨_, rfl, .cmd _ (State.command_base (OpSpec.tame_of updActivateSpec_base) _ s)⟩
  | updVarnish _ => exact ⟨_, rfl, .cmd _ (State.command_base (OpSpec.tame_of updVarnishSpec_base) _ s)⟩
  | updAbort _ => exact ⟨_, rfl, .cmd _ (State.command_base (OpSpec.tame_of updAbortSpec_base) _ s)⟩
  | wakeGetSource _ => exact ⟨_, rfl, .cmd _ (State.command_base (OpSpec.tame_of wakeGetSourceSpec_base) _ s)⟩
  | sleepRequest _ => exact ⟨_, rfl, .cmd _ (State.command_base sleepRequestSpec_tame _ s)⟩
  | wakeConfig _ => exact ⟨_, rfl, .cmd _ (State.command_base (OpSpec.tame_of wakeConfigSpec_base) _ s)⟩
  | wakeClearSource _ => exact ⟨_, rfl, .cmd _ (State.command_base (OpSpec.tame_of wakeClearSourceSpec_base) _ s)⟩
  | fltGetStatus _ => exact ⟨_, rfl, .cmd _ (State.command_base (OpSpec.tame_of fltGetStatusSpec_base) _ s)⟩
  | fltReadLog _ => exact ⟨_, rfl, .cmd _ (State.command_base (OpSpec.tame_of fltReadLogSpec_base) _ s)⟩
  | fltClear _ => exact ⟨_, rfl, .cmd _ (State.command_base (OpSpec.tame_of fltClearSpec_base) _ s)⟩
  | fltInject _ => exact ⟨_, rfl, .cmd _ (State.command_base (OpSpec.tame_of fltInjectSpec_base) _ s)⟩
  | dbProducer _ _ _ => exact ⟨_, rfl, execDbProducer_next s _ _ _⟩
  | dbConsumer _ _ _ => exact ⟨_, rfl, execDbConsumer_next s _ _ _⟩
  | irqAck _ _ _ => exact ⟨_, rfl, execIrqAck_next s _ _ _⟩
  | viConsume _ _ => exact ⟨_, rfl, execViConsume_next s _ _⟩
  | viOvfAck _ _ => exact ⟨_, rfl, execViOvfAck_next s _ _⟩
  | lowWordRead _ _ => exact ⟨_, rfl, execLowWordRead_next s _ _⟩
  | statusWindowStore _ => exact ⟨_, rfl, execStatusWindowStore_next s _⟩
  | route _ _ _ _ => exact ⟨_, rfl, execRoute_next s _ _ _ _⟩
  | routeExecution _ => exact ⟨_, rfl, execRouteExecution_next s _⟩
  | routeCommit _ => exact ⟨_, rfl, execRouteCommit_next s _⟩
  | inputLatch _ _ => exact ⟨_, rfl, execInputLatch_next s _ _⟩
  | loadSet _ _ _ _ _ => exact ⟨_, rfl, execLoadSet_next s _ _ _ _ _⟩
  | loadApply _ _ _ _ => exact ⟨_, rfl, execLoadApply_next s _ _ _ _⟩
  | bridgeSet _ _ _ _ _ => exact ⟨_, rfl, execBridgeSet_next s _ _ _ _ _⟩
  | bridgeApply _ _ _ _ => exact ⟨_, rfl, execBridgeApply_next s _ _ _ _⟩
  | xoSet _ _ _ => exact ⟨_, rfl, execXoSet_next s _ _ _⟩
  | pgTrigger _ _ _ => exact ⟨_, rfl, execPgTrigger_next s _ _ _⟩
  | gateSet _ _ _ => exact ⟨_, rfl, execGateSet_next s _ _ _⟩
  | canRelease _ _ _ => exact ⟨_, rfl, execCanRelease_next s _ _ _⟩
  | fryCommit _ _ _ _ _ => exact ⟨_, rfl, execFryCommit_next s _ _ _ _ _⟩
  | linRelease _ _ _ => exact ⟨_, rfl, execLinRelease_next s _ _ _⟩
  | window _ _ _ _ => exact ⟨_, rfl, execWindow_next s _ _ _ _⟩
  | pfRoute _ _ _ => exact ⟨_, rfl, execPfRoute_next s _ _ _⟩
  | pfStroke _ _ _ => exact ⟨_, rfl, execPfStroke_next s _ _ _⟩
  | openStroke _ _ _ => exact ⟨_, rfl, .cmd _ (State.openDo_base s _ _ _)⟩
  | strokeOverrun _ _ => exact ⟨_, rfl, execStrokeOverrun_next s _ _⟩
  | strokeBlockArrived  => exact ⟨_, rfl, execStrokeBlockArrived_next s⟩
  | ristrettoSlot  => exact ⟨_, rfl, execRistrettoSlot_next s⟩
  | ristrettoExecute  => exact ⟨_, rfl, execRistrettoExecute_next s⟩
  | canvasBoundary  => exact ⟨_, rfl, State.boundary_next s⟩
  | decisionPoint _ => exact ⟨_, rfl, execDecisionPoint_next s _⟩
  | paletteLoaded _ _ => exact ⟨_, rfl, execPaletteLoaded_next s _ _⟩
  | gptpSyncReceived _ _ _ _ => exact ⟨_, rfl, execGptpSyncReceived_next s _ _ _ _⟩
  | ppsEdge _ _ _ => exact ⟨_, rfl, execPpsEdge_next s _ _ _⟩
  | syncReceiptTimeout _ => exact ⟨_, rfl, execSyncReceiptTimeout_next s _⟩
  | ppsTimeout  => exact ⟨_, rfl, execPpsTimeout_next s⟩
  | revertHoldoffExpiry _ => exact ⟨_, rfl, execRevertHoldoffExpiry_next s _⟩
  | holdoverExpired  => exact ⟨_, rfl, execHoldoverExpired_next s⟩
  | timeWaitTimeout  => exact ⟨_, rfl, execTimeWaitTimeout_next s⟩
  | rtcWrite  => exact ⟨_, rfl, execRtcWrite_next s⟩
  | pgEdge _ => exact ⟨_, rfl, execPgEdge_next s _⟩
  | ocTrip _ _ => exact ⟨_, rfl, execOcTrip_next s _ _⟩
  | ocPauseElapsed _ => exact ⟨_, rfl, execOcPauseElapsed_next s _⟩
  | ocRetry _ => exact ⟨_, rfl, execOcRetry_next s _⟩
  | ocRecovered _ => exact ⟨_, rfl, execOcRecovered_next s _⟩
  | pourStepEnd _ => exact ⟨_, rfl, execPourStepEnd_next s _⟩
  | thermalShutdown _ _ _ => exact ⟨_, rfl, execThermalShutdown_next s _ _ _⟩
  | thermalRestart _ _ _ => exact ⟨_, rfl, execThermalRestart_next s _ _ _⟩
  | cooldownOverrun _ => exact ⟨_, rfl, execCooldownOverrun_next s _⟩
  | pwmPeriodStart _ => exact ⟨_, rfl, execPwmPeriodStart_next s _⟩
  | senseMillisecond _ _ => exact ⟨_, rfl, execSenseMillisecond_next s _ _⟩
  | openLoad _ => exact ⟨_, rfl, execOpenLoad_next s _⟩
  | openLoadCleared _ => exact ⟨_, rfl, execOpenLoadCleared_next s _⟩
  | stall _ => exact ⟨_, rfl, execStall_next s _⟩
  | xcondFault _ _ _ => exact ⟨_, rfl, execXcondFault_next s _ _ _⟩
  | shedResume _ => exact ⟨_, rfl, execShedResume_next s _⟩
  | sagEnter _ _ => exact ⟨_, rfl, execSagEnter_next s _ _⟩
  | sagExit _ _ => exact ⟨_, rfl, execSagExit_next s _ _⟩
  | crankStart _ => exact ⟨_, rfl, execCrankStart_next s _⟩
  | crankEnd _ => exact ⟨_, rfl, execCrankEnd_next s _⟩
  | uvLatch _ _ => exact ⟨_, rfl, execUvLatch_next s _ _⟩
  | overvoltage _ _ => exact ⟨_, rfl, execOvervoltage_next s _ _⟩
  | overvoltageEnd _ _ => exact ⟨_, rfl, execOvervoltageEnd_next s _ _⟩
  | overload _ _ => exact ⟨_, rfl, execOverload_next s _ _⟩
  | overloadClass2Shed _ _ => exact ⟨_, rfl, execOverloadClass2Shed_next s _ _⟩
  | overloadEnd _ _ => exact ⟨_, rfl, execOverloadEnd_next s _ _⟩
  | standbyEntry _ => exact ⟨_, rfl, State.standbyEntry_next s _⟩
  | powerOff _ => exact ⟨_, rfl, State.powerOff_next s _⟩
  | powerOn _ _ => exact ⟨_, rfl, State.powerOn_next s _ _⟩
  | thermalModelEval _ _ _ _ => exact ⟨_, rfl, execThermalModelEval_next s _ _ _ _⟩
  | deratingStepFall  => exact ⟨_, rfl, execDeratingStepFall_next s⟩
  | deratingStep3Entry  => exact ⟨_, rfl, execDeratingStep3Entry_next s⟩
  | railFault _ => exact ⟨_, rfl, State.railFault_next s _⟩
  | frameDecisionPoint _ => exact ⟨_, rfl, execFrameDecisionPoint_next s _⟩
  | frameEnd _ _ _ => exact ⟨_, rfl, execFrameEnd_next s _ _ _⟩
  | transmissionSelect _ => exact ⟨_, rfl, execTransmissionSelect_next s _⟩
  | fdbAgeing _ _ => exact ⟨_, rfl, execFdbAgeing_next s _ _⟩
  | cbResetTimeout _ => exact ⟨_, rfl, execCbResetTimeout_next s _⟩
  | linkUp _ => exact ⟨_, rfl, execLinkUp_next s _⟩
  | linkDown _ _ => exact ⟨_, rfl, execLinkDown_next s _ _⟩
  | trainFail _ => exact ⟨_, rfl, execTrainFail_next s _⟩
  | tc10Asleep _ => exact ⟨_, rfl, execTc10Asleep_next s _⟩
  | tc10SleepTimeout _ => exact ⟨_, rfl, execTc10SleepTimeout_next s _⟩
  | tc10RemoteSleep _ => exact ⟨_, rfl, execTc10RemoteSleep_next s _⟩
  | tc10Wake _ _ => exact ⟨_, rfl, execTc10Wake_next s _ _⟩
  | phyFault _ => exact ⟨_, rfl, execPhyFault_next s _⟩
  | plcaBeaconLost _ => exact ⟨_, rfl, execPlcaBeaconLost_next s _⟩
  | plcaBeaconReceived _ => exact ⟨_, rfl, execPlcaBeaconReceived_next s _⟩
  | segmentAlone _ => exact ⟨_, rfl, execSegmentAlone_next s _⟩
  | cableDiagDone _ _ _ => exact ⟨_, rfl, execCableDiagDone_next s _ _ _⟩
  | canFrameReceived _ _ => exact ⟨_, rfl, execCanFrameReceived_next s _ _⟩
  | canFrameValid _ => exact ⟨_, rfl, execCanFrameValid_next s _⟩
  | canAttemptStart _ => exact ⟨_, rfl, execCanAttemptStart_next s _⟩
  | canArbitrationLost _ => exact ⟨_, rfl, execCanArbitrationLost_next s _⟩
  | canBusError _ _ _ _ => exact ⟨_, rfl, execCanBusError_next s _ _ _ _⟩
  | canTxSuccess _ => exact ⟨_, rfl, execCanTxSuccess_next s _⟩
  | canIntegrated _ => exact ⟨_, rfl, execCanIntegrated_next s _⟩
  | busOffRecovered _ => exact ⟨_, rfl, execBusOffRecovered_next s _⟩
  | canWake _ _ => exact ⟨_, rfl, execCanWake_next s _ _⟩
  | fryCycleStart _ _ _ _ _ => exact ⟨_, rfl, execFryCycleStart_next s _ _ _ _ _⟩
  | fryActionPoint _ _ _ => exact ⟨_, rfl, execFryActionPoint_next s _ _ _⟩
  | fryFrameReceived _ _ => exact ⟨_, rfl, execFryFrameReceived_next s _ _⟩
  | branchTxStart _ _ _ _ _ => exact ⟨_, rfl, execBranchTxStart_next s _ _ _ _ _⟩
  | branchTruncated _ _ _ => exact ⟨_, rfl, execBranchTruncated_next s _ _ _⟩
  | pocState _ _ => exact ⟨_, rfl, execPocState_next s _ _⟩
  | frAlone _ => exact ⟨_, rfl, execFrAlone_next s _⟩
  | coldstartRetry _ => exact ⟨_, rfl, execColdstartRetry_next s _⟩
  | linFrameEnd _ _ => exact ⟨_, rfl, execLinFrameEnd_next s _ _⟩
  | linResponseTimeout _ _ => exact ⟨_, rfl, execLinResponseTimeout_next s _ _⟩
  | linHeaderReceived _ _ _ => exact ⟨_, rfl, execLinHeaderReceived_next s _ _ _⟩
  | linIdleSleep _ => exact ⟨_, rfl, execLinIdleSleep_next s _⟩
  | linWake _ _ => exact ⟨_, rfl, execLinWake_next s _ _⟩
  | linWakingEnd _ => exact ⟨_, rfl, execLinWakingEnd_next s _⟩
  | linWakeNoHeader _ => exact ⟨_, rfl, execLinWakeNoHeader_next s _⟩
  | filteredEdge _ _ _ => exact ⟨_, rfl, execFilteredEdge_next s _ _ _⟩
  | diEdge _ => exact ⟨_, rfl, execDiEdge_next s _⟩
  | diFeedLow _ => exact ⟨_, rfl, execDiFeedLow_next s _⟩
  | diSamplingResume _ => exact ⟨_, rfl, execDiSamplingResume_next s _⟩
  | wireBreak _ => exact ⟨_, rfl, execWireBreak_next s _⟩
  | wireOk _ => exact ⟨_, rfl, execWireOk_next s _⟩
  | wirebreakTestDone _ _ _ => exact ⟨_, rfl, execWirebreakTestDone_next s _ _ _⟩
  | barrierLost _ _ => exact ⟨_, rfl, execBarrierLost_next s _ _⟩
  | barrierRestored  => exact ⟨_, rfl, execBarrierRestored_next s⟩
  | xoFault _ _ _ => exact ⟨_, rfl, execXoFault_next s _ _ _⟩
  | xoRetry _ _ => exact ⟨_, rfl, execXoRetry_next s _ _⟩
  | xvsLost _ => exact ⟨_, rfl, execXvsLost_next s _⟩
  | fieldHoldExpiry _ => exact ⟨_, rfl, execFieldHoldExpiry_next s _⟩
  | lockstepMismatch _ _ => exact ⟨_, rfl, execLockstepMismatch_next s _ _⟩
  | mCoreMismatch _ => exact ⟨_, rfl, State.mcoreMismatch_next s _⟩
  | pairHalted _ => exact ⟨_, rfl, execPairHalted_next s _⟩
  | pairResumed _ => exact ⟨_, rfl, execPairResumed_next s _⟩
  | secureInterrupt _ => exact ⟨_, rfl, execSecureInterrupt_next s _⟩
  | partResetDone _ => exact ⟨_, rfl, execPartResetDone_next s _⟩
  | partRestarted _ _ _ => exact ⟨_, rfl, execPartRestarted_next s _ _ _⟩
  | supervisionTimeout _ => exact ⟨_, rfl, execSupervisionTimeout_next s _⟩
  | eventDelivery  => exact ⟨_, rfl, execEventDelivery_next s⟩
  | ringSlotMove _ => exact ⟨_, rfl, execRingSlotMove_next s _⟩
  | bamRequestExecute _ => exact ⟨_, rfl, execBamRequestExecute_next s _⟩
  | bamlysStart _ _ _ _ _ => exact ⟨_, rfl, execBamlysStart_next s _ _ _ _ _⟩
  | bamlysRestart _ _ _ _ _ => exact ⟨_, rfl, execBamlysRestart_next s _ _ _ _ _⟩
  | keyRegisterRemask  => exact ⟨_, rfl, execKeyRegisterRemask_next s⟩
  | mkaSakInstall _ _ _ _ => exact ⟨_, rfl, execMkaSakInstall_next s _ _ _ _⟩
  | tamperAlarm _ _ _ => exact ⟨_, rfl, State.tamperAlarm_next s _ _ _⟩
  | tamperBootRetry  => exact ⟨_, rfl, execTamperBootRetry_next s⟩
  | referenceQualified _ => exact ⟨_, rfl, State.referenceQualified_next s _⟩
  | referenceTimeout  => exact ⟨_, rfl, State.referenceTimeout_next s⟩
  | mcoreFirmwareStart _ _ => exact ⟨_, rfl, State.mcoreStart_next s _ _⟩
  | startLoadComplete  => exact ⟨_, rfl, execStartLoadComplete_next s⟩
  | chunkCommit _ => exact ⟨_, rfl, execChunkCommit_next s _⟩
  | healthExpired  => exact ⟨_, rfl, execHealthExpired_next s⟩
  | activateReset  => exact ⟨_, rfl, State.activateReset_next s⟩
  | resetDelayExpiry  => exact ⟨_, rfl, State.resetExpiry_next s⟩
  | prepFallbackTimeout  => exact ⟨_, rfl, execPrepFallbackTimeout_next s⟩
  | sleepArming  => exact ⟨_, rfl, execSleepArming_next s⟩
  | tc10SleepForced _ => exact ⟨_, rfl, execTc10SleepForced_next s _⟩
  | sleepEntered  => exact ⟨_, rfl, State.sleepEntered_next s⟩
  | wakeLine _ _ => exact ⟨_, rfl, State.wakeLineRow_next s _ _⟩
  | wakeFromSleep  => exact ⟨_, rfl, State.wakeFromSleep_next s⟩
  | wkoPulseEnd _ => exact ⟨_, rfl, execWkoPulseEnd_next s _⟩
  | bridgeRetry  => exact ⟨_, rfl, execBridgeRetry_next s⟩
  | busTimeout _ _ _ => exact ⟨_, rfl, execBusTimeout_next s _ _ _⟩
  | holdBufferDrain _ => exact ⟨_, rfl, execHoldBufferDrain_next s _⟩
  | cdcOverrun _ => exact ⟨_, rfl, execCdcOverrun_next s _⟩
  | patrolScrub _ => exact ⟨_, rfl, execPatrolScrub_next s _⟩
  | eccCorrected _ _ => exact ⟨_, rfl, execEccCorrected_next s _ _⟩
  | eccUncorrectable _ _ => exact ⟨_, rfl, State.eccRow_next s _ _⟩
  | poisonRead _ _ => exact ⟨_, rfl, execPoisonRead_next s _ _⟩
  | faultReport  => exact ⟨_, rfl, execFaultReport_next s⟩
  | mcoreWatchdogExpiry  => exact ⟨_, rfl, State.watchdog_next s⟩
  | logFlush  => exact ⟨_, rfl, execLogFlush_next s⟩
  | xvsReturn _ => exact ⟨_, rfl, execXvsReturn_next s _⟩
  | prtTrainTimeout _ => exact ⟨_, rfl, execPrtTrainTimeout_next s _⟩
  | fryStartTimeout _ => exact ⟨_, rfl, execFryStartTimeout_next s _⟩
  | syncTransmit _ => exact ⟨_, rfl, execSyncTransmit_next s _⟩
  | flashWriteResume _ => exact ⟨_, rfl, execFlashWriteResume_next s _⟩

/-- Every step answers a next state: a command of the queue's front, or a cycle. -/
theorem step_next (s : State) : ∃ t, step s = .next t ∧
    (({ s with pending := s.pending.tail } : State).base).stepped t.base := by
  cases h : s.pending with
  | nil =>
    refine ⟨s.tick, ?_, ?_⟩
    · simp [step, h]
    · have k := State.tick_next s
      have e : ({ s with pending := s.pending.tail } : State).base = s.base := by
        show (⟨_, _, _, _, _⟩ : Base) = ⟨_, _, _, _, _⟩
        rw [h]; rfl
      rw [h] at e
      exact e.symm ▸ k
  | cons c rest =>
    obtain ⟨t, h1, h2⟩ := exec_next c { s with pending := rest }
    refine ⟨t, ?_, .moved _ h2⟩
    simp [step, h, h1]

end Sys2Proof.Machine
end

