-- ==== Sys2Proof/Laws/Bytes.lean ====
section
/-!
SUPPORT. Sys2Proof/Laws/Bytes.lean: reading little-endian fields back from the bytes that spell them.
-/

namespace Sys2Proof.Machine

theorem leNat_leBytes (n v : Nat) : leNat (leBytes n v) = v % 256 ^ n := by
  induction n generalizing v with
  | zero => simp [leBytes, leNat, Nat.mod_one]
  | succ n ih =>
    simp only [leBytes, leNat, ih, BitVec.toNat_ofNat]
    rw [show (2 : Nat) ^ 8 = 256 from rfl, Nat.pow_succ, Nat.mul_comm (256 ^ n) 256, Nat.mod_mul]

@[simp] theorem length_leBytes (n v : Nat) : (leBytes n v).length = n := by
  induction n generalizing v with
  | zero => rfl
  | succ n ih => simp [leBytes, ih]

/-- The first field of a row of fields. -/
theorem rd_first (n v : Nat) (r : List Byte) : rd (leBytes n v ++ r) 0 n = v % 256 ^ n := by
  simp [rd, List.take_append, leNat_leBytes]

/-- A field behind the first one. -/
theorem rd_behind (n v o k : Nat) (r : List Byte) (h : n ≤ o) : rd (leBytes n v ++ r) o k = rd r (o - n) k := by
  simp [rd, List.drop_append, List.drop_eq_nil_of_le, h]

/-- A field that is alone. -/
theorem rd_only (n v : Nat) : rd (leBytes n v) 0 n = v % 256 ^ n := by
  simpa using rd_first n v []

theorem drop_behind (n v o : Nat) (r : List Byte) (h : n ≤ o) : (leBytes n v ++ r).drop o = r.drop (o - n) := by
  simp [List.drop_append, List.drop_eq_nil_of_le, h]

/-- Bytes of the right number are kept as they are. -/
theorem fit_length (l : List Byte) : fit l.length l = l := by
  induction l with
  | nil => rfl
  | cons a l ih => simp [fit, ih]

end Sys2Proof.Machine
end

