-- ==== Sys2Proof/Laws/ViewOut.lean ====
section
/-!
SUPPORT. Sys2Proof/Laws/ViewOut.lean: the view of everything but events, the device registers, time, loads, power, inputs and outputs, partitions and the fault collector.
-/

namespace Sys2Proof.Machine

/-- The view. -/
structure KOut where
  pending : List Instr
  et : Nat
  rtcNs : Nat
  free : Nat
  mem : List Host.Cell
  cmd : Cmd
  easel : Easel
  gw : Gw
  wake : Wake
  swc : Swc
  prt : Tab Prt
  can : Cans
  fry : Fry
  lin : Lins
  bam : Bam
  upd : Upd

def State.kOut (s : State) : KOut := ⟨s.pending, s.et, s.rtcNs, s.free, s.mem, s.cmd, s.easel, s.gw, s.wake, s.swc, s.prt, s.can, s.fry, s.lin, s.bam, s.upd⟩

@[simp] theorem State.kOut_mk (a0 a1 a2 a3 a4 a5 a6 a7 a8 a9 a10 a11 a12 a13 a14 a15 a16 a17 a18 a19 a20 a21 a22 a23 a24) :
    (State.mk a0 a1 a2 a3 a4 a5 a6 a7 a8 a9 a10 a11 a12 a13 a14 a15 a16 a17 a18 a19 a20 a21 a22 a23 a24).kOut = ⟨a0, a1, a2, a3, a4, a8, a10, a11, a16, a18, a19, a20, a21, a22, a23, a24⟩ := rfl

@[simp] theorem State.kOut_eta (s : State) : (⟨s.pending, s.et, s.rtcNs, s.free, s.mem, s.cmd, s.easel, s.gw, s.wake, s.swc, s.prt, s.can, s.fry, s.lin, s.bam, s.upd⟩ : KOut) = s.kOut := rfl

theorem State.kOut_ext {s t : State} (h : t.kOut = s.kOut) :
    t.pending = s.pending ∧ t.et = s.et ∧ t.rtcNs = s.rtcNs ∧ t.free = s.free ∧ t.mem = s.mem ∧ t.cmd = s.cmd ∧ t.easel = s.easel ∧ t.gw = s.gw ∧ t.wake = s.wake ∧ t.swc = s.swc ∧ t.prt = s.prt ∧ t.can = s.can ∧ t.fry = s.fry ∧ t.lin = s.lin ∧ t.bam = s.bam ∧ t.upd = s.upd := by
  simp only [State.kOut, KOut.mk.injEq] at h
  exact h

@[simp] theorem foldl_kOut {α : Type} (f : State → α → State) (h : ∀ s a, (f s a).kOut = s.kOut) (l : List α) (s : State) :
    (l.foldl f s).kOut = s.kOut := by
  induction l generalizing s with
  | nil => rfl
  | cons a l ih => simp [List.foldl, ih, h]

@[simp] theorem foldl_fst_kOut {α β : Type} (f : State × β → α → State × β) (h : ∀ a x, (f a x).1.kOut = a.1.kOut)
    (l : List α) (a : State × β) : (l.foldl f a).1.kOut = a.1.kOut := by
  induction l generalizing a with
  | nil => rfl
  | cons x l ih => simp [List.foldl, ih, h]

@[simp] theorem onlyIf_kOut (c : Bool) (s t : State) (h : t.kOut = s.kOut) : (onlyIf c s t).kOut = s.kOut := by
  cases c <;> simp [onlyIf, h]

@[simp] theorem State.kOut_ite (c : Prop) [Decidable c] (a b : State) :
    (if c then a else b).kOut = if c then a.kOut else b.kOut := apply_ite _ _ _ _

@[simp] theorem State.kOut_fst_ite {α : Type} (c : Prop) [Decidable c] (a b : State × α) :
    (if c then a else b).1.kOut = if c then a.1.kOut else b.1.kOut := by
  split <;> rfl

end Sys2Proof.Machine
end

