-- ==== Sys2Proof/Laws/KeepOut.lean ====
section
/-!
SUPPORT. Sys2Proof/Laws/KeepOut.lean: the operations that leave the view `State.kOut` alone.
-/

namespace Sys2Proof.Machine

@[simp] theorem State.setPart_kOut (s : State) (p : Nat) (x : Part) : (State.setPart s p x).kOut = s.kOut := by
  unfold State.setPart
  try dsimp only
  (repeat' split) <;> first | rfl | simp

@[simp] theorem State.setPair_kOut (s : State) (k : Nat) (x : Pair) : (State.setPair s k x).kOut = s.kOut := by
  unfold State.setPair
  try dsimp only
  (repeat' split) <;> first | rfl | simp

@[simp] theorem State.setRing_kOut (s : State) (n : Nat) (x : Ring) : (State.setRing s n x).kOut = s.kOut := by
  unfold State.setRing
  try dsimp only
  (repeat' split) <;> first | rfl | simp

@[simp] theorem State.deliver_kOut (s : State) (ev : EventRec) (p : Nat) : (State.deliver s ev p).kOut = s.kOut := by
  unfold State.deliver
  try dsimp only
  (repeat' split) <;> first | rfl | simp

@[simp] theorem State.raiseAt_kOut (s : State) (et : Nat) (tos : List Nat) (src kind data : Nat) : (State.raiseAt s et tos src kind data).kOut = s.kOut := by
  unfold State.raiseAt
  try dsimp only
  (repeat' split) <;> first | rfl | simp

@[simp] theorem State.raise_kOut (s : State) (tos : List Nat) (src kind data : Nat) : (State.raise s tos src kind data).kOut = s.kOut := by
  unfold State.raise
  try dsimp only
  (repeat' split) <;> first | rfl | simp

@[simp] theorem State.raiseOnce_kOut (s : State) (tos : List Nat) (src kind data : Nat) : (State.raiseOnce s tos src kind data).kOut = s.kOut := by
  unfold State.raiseOnce
  try dsimp only
  (repeat' split) <;> first | rfl | simp

@[simp] theorem State.raiseVi_kOut (s : State) (n : Nat) : (State.raiseVi s n).kOut = s.kOut := by
  unfold State.raiseVi
  try dsimp only
  (repeat' split) <;> first | rfl | simp

@[simp] theorem State.ringIrq_kOut (s : State) (n : Nat) : (State.ringIrq s n).kOut = s.kOut := by
  unfold State.ringIrq
  try dsimp only
  (repeat' split) <;> first | rfl | simp

@[simp] theorem State.setFltPart_kOut (s : State) (p : Nat) (x : FltPart) : (State.setFltPart s p x).kOut = s.kOut := by
  unfold State.setFltPart
  try dsimp only
  (repeat' split) <;> first | rfl | simp

@[simp] theorem State.logRec_kOut (s : State) (r : LogRec) : (State.logRec s r).kOut = s.kOut := by
  unfold State.logRec
  try dsimp only
  (repeat' split) <;> first | rfl | simp

@[simp] theorem State.makeReport_kOut (s : State) (r : FltReport) : (State.makeReport s r).kOut = s.kOut := by
  unfold State.makeReport
  try dsimp only
  (repeat' split) <;> first | rfl | simp

@[simp] theorem State.nextFault_kOut (s : State) : (State.nextFault s).2.kOut = s.kOut := by
  unfold State.nextFault
  try dsimp only
  (repeat' split) <;> first | rfl | simp

@[simp] theorem State.fault_kOut (s : State) (src cls level part kind data attempts hold : Nat) : (State.fault s src cls level part kind data attempts hold).kOut = s.kOut := by
  unfold State.fault
  try dsimp only
  (repeat' split) <;> first | rfl | simp

@[simp] theorem State.setChan_kOut (s : State) (i : Nat) (x : Chan) : (State.setChan s i x).kOut = s.kOut := by
  unfold State.setChan
  try dsimp only
  (repeat' split) <;> first | rfl | simp

@[simp] theorem State.setBridge_kOut (s : State) (b : Nat) (x : Bridge) : (State.setBridge s b x).kOut = s.kOut := by
  unfold State.setBridge
  try dsimp only
  (repeat' split) <;> first | rfl | simp

@[simp] theorem State.setProt_kOut (s : State) (i : Nat) (x : Prot) : (State.setProt s i x).kOut = s.kOut := by
  unfold State.setProt
  try dsimp only
  (repeat' split) <;> first | rfl | simp

@[simp] theorem State.setFeed_kOut (s : State) (f : Nat) (x : Feed) : (State.setFeed s f x).kOut = s.kOut := by
  unfold State.setFeed
  try dsimp only
  (repeat' split) <;> first | rfl | simp

@[simp] theorem State.setOutlet_kOut (s : State) (k : Nat) (o : Outlet) : (State.setOutlet s k o).kOut = s.kOut := by
  unfold State.setOutlet
  try dsimp only
  (repeat' split) <;> first | rfl | simp

@[simp] theorem State.refused_kOut (s : State) (k a origin amount : Nat) : (State.refused s k a origin amount).kOut = s.kOut := by
  unfold State.refused
  try dsimp only
  (repeat' split) <;> first | rfl | simp

@[simp] theorem State.refusedQuiet_kOut (s : State) (k : Nat) : (State.refusedQuiet s k).kOut = s.kOut := by
  unfold State.refusedQuiet
  try dsimp only
  (repeat' split) <;> first | rfl | simp

@[simp] theorem State.markOk_kOut (s : State) (k : Nat) (t : Option Nat) : (State.markOk s k t).kOut = s.kOut := by
  unfold State.markOk
  try dsimp only
  (repeat' split) <;> first | rfl | simp

@[simp] theorem State.outArm_kOut (s : State) (k : Nat) (acct : Option Nat) (pour retry : Bool) : (State.outArm s k acct pour retry).kOut = s.kOut := by
  unfold State.outArm
  try dsimp only
  (repeat' split) <;> first | rfl | simp

@[simp] theorem State.outGo_kOut (s : State) (k : Nat) : (State.outGo s k).kOut = s.kOut := by
  unfold State.outGo
  try dsimp only
  (repeat' split) <;> first | rfl | simp

@[simp] theorem State.outOn_kOut (s : State) (k : Nat) (acct : Option Nat) (pour retry : Bool) : (State.outOn s k acct pour retry).kOut = s.kOut := by
  unfold State.outOn
  try dsimp only
  (repeat' split) <;> first | rfl | simp

@[simp] theorem State.outOff_kOut (s : State) (k : Nat) : (State.outOff s k).kOut = s.kOut := by
  unfold State.outOff
  try dsimp only
  (repeat' split) <;> first | rfl | simp

@[simp] theorem State.outRelease_kOut (s : State) (k : Nat) : (State.outRelease s k).kOut = s.kOut := by
  unfold State.outRelease
  try dsimp only
  (repeat' split) <;> first | rfl | simp

@[simp] theorem State.shedOut_kOut (s : State) (k : Nat) : (State.shedOut s k).kOut = s.kOut := by
  unfold State.shedOut
  try dsimp only
  (repeat' split) <;> first | rfl | simp

@[simp] theorem State.shedStart_kOut (s : State) (f c cause : Nat) : (State.shedStart s f c cause).kOut = s.kOut := by
  unfold State.shedStart
  try dsimp only
  (repeat' split) <;> first | rfl | simp

@[simp] theorem State.shedStop_kOut (s : State) (f c cause : Nat) : (State.shedStop s f c cause).kOut = s.kOut := by
  unfold State.shedStop
  try dsimp only
  (repeat' split) <;> first | rfl | simp

@[simp] theorem State.reshed_kOut (s old : State) (f cause : Nat) : (State.reshed s old f cause).kOut = s.kOut := by
  unfold State.reshed
  try dsimp only
  (repeat' split) <;> first | rfl | simp

@[simp] theorem State.degrade_kOut (s : State) : (State.degrade s).kOut = s.kOut := by
  unfold State.degrade
  try dsimp only
  (repeat' split) <;> first | rfl | simp

@[simp] theorem State.inertOne_kOut (s : State) (k : Nat) : (State.inertOne s k).kOut = s.kOut := by
  unfold State.inertOne
  try dsimp only
  (repeat' split) <;> first | rfl | simp

@[simp] theorem State.inertWhere_kOut (s : State) (f : Nat → Bool) : (State.inertWhere s f).kOut = s.kOut := by
  unfold State.inertWhere
  try dsimp only
  (repeat' split) <;> first | rfl | simp

@[simp] theorem State.loadPeriod_kOut (s : State) (i : Nat) : (State.loadPeriod s i).kOut = s.kOut := by
  unfold State.loadPeriod
  try dsimp only
  (repeat' split) <;> first | rfl | simp

@[simp] theorem State.restoreOut_kOut (s : State) (k : Nat) : (State.restoreOut s k).kOut = s.kOut := by
  unfold State.restoreOut
  try dsimp only
  (repeat' split) <;> first | rfl | simp

@[simp] theorem State.ocTrip_kOut (s : State) (i : Nat) : (State.ocTrip s i).kOut = s.kOut := by
  unfold State.ocTrip
  try dsimp only
  (repeat' split) <;> first | rfl | simp

@[simp] theorem State.outBack_kOut (s : State) (k : Nat) (pour : Bool) : (State.outBack s k pour).kOut = s.kOut := by
  unfold State.outBack
  try dsimp only
  (repeat' split) <;> first | rfl | simp

@[simp] theorem State.ocRetry_kOut (s : State) (i : Nat) (pour : Bool) : (State.ocRetry s i pour).kOut = s.kOut := by
  unfold State.ocRetry
  try dsimp only
  (repeat' split) <;> first | rfl | simp

@[simp] theorem State.ocPauseEnd_kOut (s : State) (i : Nat) : (State.ocPauseEnd s i).kOut = s.kOut := by
  unfold State.ocPauseEnd
  try dsimp only
  (repeat' split) <;> first | rfl | simp

@[simp] theorem State.pourStepEnd_kOut (s : State) (k : Nat) : (State.pourStepEnd s k).kOut = s.kOut := by
  unfold State.pourStepEnd
  try dsimp only
  (repeat' split) <;> first | rfl | simp

@[simp] theorem State.thShutdown_kOut (s : State) (i : Nat) (tj dt : Int) : (State.thShutdown s i tj dt).kOut = s.kOut := by
  unfold State.thShutdown
  try dsimp only
  (repeat' split) <;> first | rfl | simp

@[simp] theorem State.thRestart_kOut (s : State) (i : Nat) (tj dt : Int) : (State.thRestart s i tj dt).kOut = s.kOut := by
  unfold State.thRestart
  try dsimp only
  (repeat' split) <;> first | rfl | simp

@[simp] theorem State.olMs_kOut (s : State) (i mean n : Nat) : (State.olMs s i mean n).kOut = s.kOut := by
  unfold State.olMs
  try dsimp only
  (repeat' split) <;> first | rfl | simp

@[simp] theorem State.bridgePeriod_kOut (s : State) (b : Nat) : (State.bridgePeriod s b).kOut = s.kOut := by
  unfold State.bridgePeriod
  try dsimp only
  (repeat' split) <;> first | rfl | simp

@[simp] theorem State.stallMs_kOut (s : State) (i avg : Nat) (drove : Bool) : (State.stallMs s i avg drove).kOut = s.kOut := by
  unfold State.stallMs
  try dsimp only
  (repeat' split) <;> first | rfl | simp

@[simp] theorem State.stall_kOut (s : State) (b : Nat) : (State.stall s b).kOut = s.kOut := by
  unfold State.stall
  try dsimp only
  (repeat' split) <;> first | rfl | simp

@[simp] theorem State.xcondFault_kOut (s : State) (b leg side : Nat) : (State.xcondFault s b leg side).kOut = s.kOut := by
  unfold State.xcondFault
  try dsimp only
  (repeat' split) <;> first | rfl | simp

@[simp] theorem State.setRate_kOut (s : State) (c : Int) : (State.setRate s c).kOut = s.kOut := by
  unfold State.setRate
  try dsimp only
  (repeat' split) <;> first | rfl | simp

@[simp] theorem State.steer_kOut (s : State) (err : Int) : (State.steer s err).kOut = s.kOut := by
  unfold State.steer
  by_cases h : (err == 0) = true
  · rw [if_pos h]
    simp
  · rw [if_neg h]
    rw [State.kOut_mk, State.kOut_eta, State.setRate_kOut]

@[simp] theorem State.setTimeSrc_kOut (s : State) (c : Nat) (x : TimeSrc) : (State.setTimeSrc s c x).kOut = s.kOut := by
  unfold State.setTimeSrc
  try dsimp only
  (repeat' split) <;> first | rfl | simp

@[simp] theorem State.markRefused_kOut (s : State) (c : Nat) : (State.markRefused s c).kOut = s.kOut := by
  unfold State.markRefused
  try dsimp only
  (repeat' split) <;> first | rfl | simp

@[simp] theorem State.enterAcquire_kOut (s : State) : (State.enterAcquire s).kOut = s.kOut := by
  unfold State.enterAcquire
  try dsimp only
  (repeat' split) <;> first | rfl | simp

@[simp] theorem State.enterLocked_kOut (s : State) : (State.enterLocked s).kOut = s.kOut := by
  unfold State.enterLocked
  try dsimp only
  (repeat' split) <;> first | rfl | simp

@[simp] theorem State.causeTime_kOut (s : State) : (State.causeTime s).kOut = s.kOut := by
  unfold State.causeTime
  try dsimp only
  (repeat' split) <;> first | rfl | simp

@[simp] theorem State.followErr_kOut (s : State) (err : Int) : (State.followErr s err).kOut = s.kOut := by
  unfold State.followErr
  try dsimp only
  (repeat' split) <;> first | rfl | simp

@[simp] theorem State.setSource_kOut (s : State) (c : Nat) : (State.setSource s c).kOut = s.kOut := by
  unfold State.setSource
  try dsimp only
  (repeat' split) <;> first | rfl | simp

@[simp] theorem State.timeFall_kOut (s : State) (lost : Nat) : (State.timeFall s lost).kOut = s.kOut := by
  unfold State.timeFall
  extract_lets st t t1 t2 t3 t4 t5
  by_cases c : t.time.gm = true
  · rw [if_pos c]; simp [t]
  · rw [if_neg c]
    by_cases d : (st == 2) = true
    · rw [if_pos d]; rw [State.raise_kOut, State.kOut_mk, State.kOut_eta]; simp [t2, t]
    · rw [if_neg d]
      rw [State.kOut_mk, State.kOut_eta]
      simp [t4, t]

@[simp] theorem State.pickSource_kOut (l : List Nat) (s : State) : (State.pickSource l s).1.kOut = s.kOut := by
  induction l generalizing s with
  | nil => rfl
  | cons c l ih =>
    unfold State.pickSource
    split
    · exact ih s
    · split
      · simp [ih]
      · rfl

@[simp] theorem State.reselect_kOut (s : State) : (State.reselect s).kOut = s.kOut := by
  unfold State.reselect
  rcases h : s.pickSource s.byRank with ⟨t, best⟩
  have ht : t.kOut = s.kOut := by have := State.pickSource_kOut s.byRank s; rw [h] at this; exact this
  dsimp only
  cases best with
  | none =>
    dsimp only; split
    · exact ht
    · simp [ht]
  | some c =>
    dsimp only; split
    · exact ht
    · simp [ht]

@[simp] theorem State.timeLost_kOut (s : State) (c : Nat) : (State.timeLost s c).kOut = s.kOut := by
  unfold State.timeLost
  try dsimp only
  (repeat' split) <;> first | rfl | simp

@[simp] theorem State.timeGood_kOut (s : State) (c good need : Nat) (err : Int) : (State.timeGood s c good need err).kOut = s.kOut := by
  unfold State.timeGood
  try dsimp only
  (repeat' split) <;> first | rfl | simp

@[simp] theorem State.timeRef_kOut (s : State) (c : Nat) (err : Int) (freq : Option Int) (was : Nat) : (State.timeRef s c err freq was).kOut = s.kOut := by
  unfold State.timeRef
  try dsimp only
  (repeat' split) <;> first | rfl | simp

@[simp] theorem State.gptpSync_kOut (s : State) (c : Nat) (err ratePpb : Int) (gm : Nat) : (State.gptpSync s c err ratePpb gm).kOut = s.kOut := by
  unfold State.gptpSync
  try dsimp only
  (repeat' split) <;> first | rfl | simp

@[simp] theorem State.ppsEdge_kOut (s : State) (e : Int) (spacing width : Nat) : (State.ppsEdge s e spacing width).kOut = s.kOut := by
  unfold State.ppsEdge
  try dsimp only
  (repeat' split) <;> first | rfl | simp

@[simp] theorem State.waitTimeout_kOut (s : State) : (State.waitTimeout s).kOut = s.kOut := by
  unfold State.waitTimeout
  try dsimp only
  (repeat' split) <;> first | rfl | simp

@[simp] theorem State.holdoverExpire_kOut (s : State) : (State.holdoverExpire s).kOut = s.kOut := by
  unfold State.holdoverExpire
  try dsimp only
  (repeat' split) <;> first | rfl | simp

@[simp] theorem State.syncTimeout_kOut (s : State) (c : Nat) : (State.syncTimeout s c).kOut = s.kOut := by
  unfold State.syncTimeout
  try dsimp only
  (repeat' split) <;> first | rfl | simp

@[simp] theorem State.ppsTimeout_kOut (s : State) : (State.ppsTimeout s).kOut = s.kOut := by
  unfold State.ppsTimeout
  try dsimp only
  (repeat' split) <;> first | rfl | simp

@[simp] theorem State.syncTransmit_kOut (s : State) (p : Nat) : (State.syncTransmit s p).kOut = s.kOut := by
  unfold State.syncTransmit
  try dsimp only
  (repeat' split) <;> first | rfl | simp

@[simp] theorem State.setPg_kOut (s : State) (n : Nat) (x : PulseGen) : (State.setPg s n x).kOut = s.kOut := by
  unfold State.setPg
  try dsimp only
  (repeat' split) <;> first | rfl | simp

@[simp] theorem State.pgIdle_kOut (s : State) (n kind : Nat) : (State.pgIdle s n kind).kOut = s.kOut := by
  unfold State.pgIdle
  try dsimp only
  (repeat' split) <;> first | rfl | simp

@[simp] theorem State.pgEdge_kOut (s : State) (n : Nat) : (State.pgEdge s n).kOut = s.kOut := by
  unfold State.pgEdge
  try dsimp only
  (repeat' split) <;> first | rfl | simp

@[simp] theorem State.pgInert_kOut (s : State) : (State.pgInert s).kOut = s.kOut := by
  unfold State.pgInert
  try dsimp only
  (repeat' split) <;> first | rfl | simp

@[simp] theorem State.feedV_kOut (s : State) (f v : Nat) : (State.feedV s f v).kOut = s.kOut := by
  unfold State.feedV
  try dsimp only
  (repeat' split) <;> first | rfl | simp

@[simp] theorem State.feedI_kOut (s : State) (f i : Nat) : (State.feedI s f i).kOut = s.kOut := by
  unfold State.feedI
  try dsimp only
  (repeat' split) <;> first | rfl | simp

@[simp] theorem State.sagEnter_kOut (s : State) (f v : Nat) : (State.sagEnter s f v).kOut = s.kOut := by
  unfold State.sagEnter
  extract_lets t x t1 t2 t3
  split
  · simp [t]
  · split
    · rw [State.degrade_kOut, State.kOut_mk, State.kOut_eta]; simp [t3, t2, t1, t]
    · simp [t3, t2, t1, t]

@[simp] theorem State.crankStop_kOut (s : State) (v : Nat) : (State.crankStop s v).kOut = s.kOut := by
  unfold State.crankStop
  try dsimp only
  (repeat' split) <;> first | rfl | simp

@[simp] theorem State.sagExit_kOut (s : State) (f v : Nat) : (State.sagExit s f v).kOut = s.kOut := by
  unfold State.sagExit
  dsimp only
  repeat' split
  all_goals try simp

@[simp] theorem State.crankStart_kOut (s : State) (v : Nat) : (State.crankStart s v).kOut = s.kOut := by
  unfold State.crankStart
  try dsimp only
  (repeat' split) <;> first | rfl | simp

@[simp] theorem State.crankEnd_kOut (s : State) (v : Nat) : (State.crankEnd s v).kOut = s.kOut := by
  unfold State.crankEnd
  try dsimp only
  (repeat' split) <;> first | rfl | simp

@[simp] theorem State.xosInert_kOut (s : State) : (State.xosInert s).kOut = s.kOut := by
  unfold State.xosInert
  try dsimp only
  (repeat' split) <;> first | rfl | simp

@[simp] theorem State.allInert_kOut (s : State) : (State.allInert s).kOut = s.kOut := by
  unfold State.allInert
  try dsimp only
  (repeat' split) <;> first | rfl | simp

@[simp] theorem State.uvSet_kOut (s : State) (f : Nat) : (State.uvSet s f).kOut = s.kOut := by
  unfold State.uvSet
  try dsimp only
  (repeat' split) <;> first | rfl | simp

@[simp] theorem State.uvLatch_kOut (s : State) (f mv : Nat) : (State.uvLatch s f mv).kOut = s.kOut := by
  unfold State.uvLatch
  try dsimp only
  (repeat' split) <;> first | rfl | simp

@[simp] theorem State.overvoltage_kOut (s : State) (f v : Nat) : (State.overvoltage s f v).kOut = s.kOut := by
  unfold State.overvoltage
  try dsimp only
  (repeat' split) <;> first | rfl | simp

@[simp] theorem State.overvoltageEnd_kOut (s : State) (f v : Nat) : (State.overvoltageEnd s f v).kOut = s.kOut := by
  unfold State.overvoltageEnd
  try dsimp only
  (repeat' split) <;> first | rfl | simp

@[simp] theorem State.overload_kOut (s : State) (f i : Nat) : (State.overload s f i).kOut = s.kOut := by
  unfold State.overload
  try dsimp only
  (repeat' split) <;> first | rfl | simp

@[simp] theorem State.overload2_kOut (s : State) (f i : Nat) : (State.overload2 s f i).kOut = s.kOut := by
  unfold State.overload2
  try dsimp only
  (repeat' split) <;> first | rfl | simp

@[simp] theorem State.overloadEnd_kOut (s : State) (f i : Nat) : (State.overloadEnd s f i).kOut = s.kOut := by
  unfold State.overloadEnd
  try dsimp only
  (repeat' split) <;> first | rfl | simp

@[simp] theorem State.shedResume_kOut (s : State) (f : Nat) : (State.shedResume s f).kOut = s.kOut := by
  unfold State.shedResume
  try dsimp only
  (repeat' split) <;> first | rfl | simp

@[simp] theorem State.stepTo_kOut (s : State) (n : Nat) : (State.stepTo s n).kOut = s.kOut := by
  unfold State.stepTo
  extract_lets old rise cause p d t1 t2 t3
  have h1 : t1.kOut = s.kOut := rfl
  have h2 : t2.kOut = s.kOut := (State.raise_kOut _ _ _ _ _).trans h1
  have h3 : t3.kOut = s.kOut := by
    show (if _ then _ else _ : State).kOut = _
    split
    · exact h2
    · exact (State.raise_kOut _ _ _ _ _).trans h2
  rw [State.degrade_kOut]
  simp [h3]

@[simp] theorem State.thermalEval_kOut (s : State) (psw rail : Nat) (tcp tjc : Int) : (State.thermalEval s psw rail tcp tjc).kOut = s.kOut := by
  unfold State.thermalEval
  extract_lets p t want
  split
  · exact (State.stepTo_kOut _ _).trans rfl
  · rfl

@[simp] theorem State.stepFall_kOut (s : State) : (State.stepFall s).kOut = s.kOut := by
  unfold State.stepFall
  split
  · split
    · exact State.stepTo_kOut _ _
    · rfl
  · rfl

@[simp] theorem State.step3Entry_kOut (s : State) : (State.step3Entry s).kOut = s.kOut := by
  unfold State.step3Entry
  split
  · exact State.stepTo_kOut _ _
  · rfl

@[simp] theorem State.setDin_kOut (s : State) (n : Nat) (x : Din) : (State.setDin s n x).kOut = s.kOut := by
  unfold State.setDin
  try dsimp only
  (repeat' split) <;> first | rfl | simp

@[simp] theorem State.qualify_kOut (s : State) (n : Nat) : (State.qualify s n).kOut = s.kOut := by
  unfold State.qualify
  try dsimp only
  (repeat' split) <;> first | rfl | simp

@[simp] theorem State.diEdge_kOut (s : State) (n : Nat) : (State.diEdge s n).kOut = s.kOut := by
  unfold State.diEdge
  try dsimp only
  (repeat' split) <;> first | rfl | simp

@[simp] theorem State.dinHold_kOut (s : State) (lo hi : Nat) : (State.dinHold s lo hi).kOut = s.kOut := by
  unfold State.dinHold
  try dsimp only
  (repeat' split) <;> first | rfl | simp

@[simp] theorem State.dinResume_kOut (s : State) (lo hi : Nat) : (State.dinResume s lo hi).kOut = s.kOut := by
  unfold State.dinResume
  try dsimp only
  (repeat' split) <;> first | rfl | simp

@[simp] theorem State.diFeedLow_kOut (s : State) (v : Nat) : (State.diFeedLow s v).kOut = s.kOut := by
  unfold State.diFeedLow
  try dsimp only
  (repeat' split) <;> first | rfl | simp

@[simp] theorem State.diResume_kOut (s : State) (v : Nat) : (State.diResume s v).kOut = s.kOut := by
  unfold State.diResume
  try dsimp only
  (repeat' split) <;> first | rfl | simp

@[simp] theorem State.dinMs_kOut (s : State) (n measure : Nat) : (State.dinMs s n measure).kOut = s.kOut := by
  unfold State.dinMs
  try dsimp only
  (repeat' split) <;> first | rfl | simp

@[simp] theorem State.wireBreak_kOut (s : State) (n : Nat) : (State.wireBreak s n).kOut = s.kOut := by
  unfold State.wireBreak
  try dsimp only
  (repeat' split) <;> first | rfl | simp

@[simp] theorem State.wireOk_kOut (s : State) (n : Nat) : (State.wireOk s n).kOut = s.kOut := by
  unfold State.wireOk
  try dsimp only
  (repeat' split) <;> first | rfl | simp

@[simp] theorem State.setXo_kOut (s : State) (n : Nat) (x : Xo) : (State.setXo s n x).kOut = s.kOut := by
  unfold State.setXo
  try dsimp only
  (repeat' split) <;> first | rfl | simp

@[simp] theorem State.barrierLost_kOut (s : State) (logicSide viso : Bool) : (State.barrierLost s logicSide viso).kOut = s.kOut := by
  unfold State.barrierLost
  try dsimp only
  (repeat' split) <;> first | rfl | simp

@[simp] theorem State.barrierRestored_kOut (s : State) : (State.barrierRestored s).kOut = s.kOut := by
  unfold State.barrierRestored
  try dsimp only
  (repeat' split) <;> first | rfl | simp

@[simp] theorem State.fieldHoldEnd_kOut (s : State) (n : Nat) : (State.fieldHoldEnd s n).kOut = s.kOut := by
  unfold State.fieldHoldEnd
  try dsimp only
  (repeat' split) <;> first | rfl | simp

@[simp] theorem State.xoFault_kOut (s : State) (n current : Nat) (thermal : Bool) : (State.xoFault s n current thermal).kOut = s.kOut := by
  unfold State.xoFault
  try dsimp only
  (repeat' split) <;> first | rfl | simp

@[simp] theorem State.xoRetry_kOut (s : State) (n : Nat) (holds : Bool) : (State.xoRetry s n holds).kOut = s.kOut := by
  unfold State.xoRetry
  try dsimp only
  (repeat' split) <;> first | rfl | simp

@[simp] theorem State.xvsLost_kOut (s : State) (v : Nat) : (State.xvsLost s v).kOut = s.kOut := by
  unfold State.xvsLost
  try dsimp only
  (repeat' split) <;> first | rfl | simp

@[simp] theorem State.xvsReturn_kOut (s : State) (v : Nat) : (State.xvsReturn s v).kOut = s.kOut := by
  unfold State.xvsReturn
  try dsimp only
  (repeat' split) <;> first | rfl | simp

@[simp] theorem State.ringEvent_kOut (s : State) (n kind data : Nat) : (State.ringEvent s n kind data).kOut = s.kOut := by
  unfold State.ringEvent
  try dsimp only
  (repeat' split) <;> first | rfl | simp

@[simp] theorem State.indexError_kOut (s : State) (n v : Nat) (producer : Bool) : (State.indexError s n v producer).kOut = s.kOut := by
  unfold State.indexError
  try dsimp only
  (repeat' split) <;> first | rfl | simp

@[simp] theorem State.doorbellWrite_kOut (s : State) (p n : Nat) (f : State → State) (h : ∀ s, (f s).kOut = s.kOut) :
    (s.doorbellWrite p n f).kOut = s.kOut := by
  unfold State.doorbellWrite
  split
  · rfl
  · exact h s

@[simp] theorem State.dbProducer_kOut (s : State) (p n v : Nat) : (State.dbProducer s p n v).kOut = s.kOut := by
  unfold State.dbProducer
  try dsimp only
  (repeat' split) <;> first | rfl | simp

@[simp] theorem State.irqAck_kOut (s : State) (p n v : Nat) : (State.irqAck s p n v).kOut = s.kOut := by
  unfold State.irqAck
  try dsimp only
  (repeat' split) <;> first | rfl | simp

@[simp] theorem State.viConsume_kOut (s : State) (p v : Nat) : (State.viConsume s p v).kOut = s.kOut := by
  unfold State.viConsume
  try dsimp only
  (repeat' split) <;> first | rfl | simp

@[simp] theorem State.viOvfAck_kOut (s : State) (p v : Nat) : (State.viOvfAck s p v).kOut = s.kOut := by
  unfold State.viOvfAck
  try dsimp only
  (repeat' split) <;> first | rfl | simp

@[simp] theorem State.pairHalt_kOut (s : State) (k : Nat) : (State.pairHalt s k).kOut = s.kOut := by
  unfold State.pairHalt
  try dsimp only
  (repeat' split) <;> first | rfl | simp

@[simp] theorem State.pairResume_kOut (s : State) (k : Nat) : (State.pairResume s k).kOut = s.kOut := by
  unfold State.pairResume
  try dsimp only
  (repeat' split) <;> first | rfl | simp

@[simp] theorem State.secureIrq_kOut (s : State) (k : Nat) : (State.secureIrq s k).kOut = s.kOut := by
  unfold State.secureIrq
  try dsimp only
  (repeat' split) <;> first | rfl | simp

@[simp] theorem State.ocTripRow_kOut (s : State) (i current : Nat) : (State.ocTripRow s i current).kOut = s.kOut := by
  unfold State.ocTripRow
  try dsimp only
  (repeat' split) <;> first | rfl | simp

@[simp] theorem State.ocPauseRow_kOut (s : State) (i : Nat) : (State.ocPauseRow s i).kOut = s.kOut := by
  unfold State.ocPauseRow
  try dsimp only
  (repeat' split) <;> first | rfl | simp

@[simp] theorem State.ocRetryRow_kOut (s : State) (i : Nat) : (State.ocRetryRow s i).kOut = s.kOut := by
  unfold State.ocRetryRow
  try dsimp only
  (repeat' split) <;> first | rfl | simp

@[simp] theorem State.ocRecovered_kOut (s : State) (i : Nat) : (State.ocRecovered s i).kOut = s.kOut := by
  unfold State.ocRecovered
  try dsimp only
  (repeat' split) <;> first | rfl | simp

@[simp] theorem State.pourRow_kOut (s : State) (i : Nat) : (State.pourRow s i).kOut = s.kOut := by
  unfold State.pourRow
  try dsimp only
  (repeat' split) <;> first | rfl | simp

@[simp] theorem State.thShutRow_kOut (s : State) (i : Nat) (tj dt : Int) : (State.thShutRow s i tj dt).kOut = s.kOut := by
  unfold State.thShutRow
  try dsimp only
  (repeat' split) <;> first | rfl | simp

@[simp] theorem State.thRestartRow_kOut (s : State) (i : Nat) (tj dt : Int) : (State.thRestartRow s i tj dt).kOut = s.kOut := by
  unfold State.thRestartRow
  try dsimp only
  (repeat' split) <;> first | rfl | simp

@[simp] theorem State.cooldownOverrun_kOut (s : State) (i : Nat) : (State.cooldownOverrun s i).kOut = s.kOut := by
  unfold State.cooldownOverrun
  try dsimp only
  (repeat' split) <;> first | rfl | simp

@[simp] theorem State.periodRow_kOut (s : State) (i : Nat) : (State.periodRow s i).kOut = s.kOut := by
  unfold State.periodRow
  try dsimp only
  (repeat' split) <;> first | rfl | simp

@[simp] theorem State.senseMs_kOut (s : State) (i : Nat) (m : SenseMs) : (State.senseMs s i m).kOut = s.kOut := by
  unfold State.senseMs
  try dsimp only
  (repeat' split) <;> first | rfl | simp

@[simp] theorem State.openLoad_kOut (s : State) (i : Nat) : (State.openLoad s i).kOut = s.kOut := by
  unfold State.openLoad
  try dsimp only
  (repeat' split) <;> first | rfl | simp

@[simp] theorem State.openLoadCleared_kOut (s : State) (i : Nat) : (State.openLoadCleared s i).kOut = s.kOut := by
  unfold State.openLoadCleared
  try dsimp only
  (repeat' split) <;> first | rfl | simp

@[simp] theorem State.stallRow_kOut (s : State) (b : Nat) : (State.stallRow s b).kOut = s.kOut := by
  unfold State.stallRow
  try dsimp only
  (repeat' split) <;> first | rfl | simp

@[simp] theorem State.xcondRow_kOut (s : State) (b leg side : Nat) : (State.xcondRow s b leg side).kOut = s.kOut := by
  unfold State.xcondRow
  try dsimp only
  (repeat' split) <;> first | rfl | simp

@[simp] theorem State.shedRow_kOut (s : State) (f : Nat) : (State.shedRow s f).kOut = s.kOut := by
  unfold State.shedRow
  try dsimp only
  (repeat' split) <;> first | rfl | simp

@[simp] theorem State.logFlush_kOut (s : State) : (State.logFlush s).kOut = s.kOut := by
  unfold State.logFlush
  try dsimp only
  (repeat' split) <;> first | rfl | simp

@[simp] theorem State.bridgeRetry_kOut (s : State) : (State.bridgeRetry s).kOut = s.kOut := by
  unfold State.bridgeRetry
  try dsimp only
  (repeat' split) <;> first | rfl | simp

@[simp] theorem State.patrol_kOut (s : State) (dram : Bool) : (State.patrol s dram).kOut = s.kOut := by
  unfold State.patrol
  try dsimp only
  (repeat' split) <;> first | rfl | simp

@[simp] theorem State.poisonRead_kOut (s : State) (p addr : Nat) : (State.poisonRead s p addr).kOut = s.kOut := by
  unfold State.poisonRead
  try dsimp only
  (repeat' split) <;> first | rfl | simp

@[simp] theorem State.faultReport_kOut (s : State) : (State.faultReport s).kOut = s.kOut := by
  unfold State.faultReport
  try dsimp only
  (repeat' split) <;> first | rfl | simp

@[simp] theorem State.logTick_kOut (s : State) : (State.logTick s).kOut = s.kOut := by
  unfold State.logTick
  try dsimp only
  (repeat' split) <;> first | rfl | simp

@[simp] theorem State.lowRead_kOut (s : State) (p a : Nat) : (State.lowRead s p a).kOut = s.kOut := by
  unfold State.lowRead
  try dsimp only
  (repeat' split) <;> first | rfl | simp

end Sys2Proof.Machine
end

