-- ==== Sys2Proof/Laws/ViewRing.lean ====
section
/-!
SUPPORT. Sys2Proof/Laws/ViewRing.lean: the view of everything but memory, events, the device registers, commands, partitions and rings, and the fault collector.
-/

namespace Sys2Proof.Machine

/-- The view. -/
structure KRing where
  pending : List Instr
  et : Nat
  rtcNs : Nat
  free : Nat
  time : Time
  easel : Easel
  gw : Gw
  lsw : Lsw
  pwr : Pwr
  dio : Dio
  wake : Wake
  swc : Swc
  prt : Tab Prt
  can : Cans
  fry : Fry
  lin : Lins
  bam : Bam
  upd : Upd

def State.kRing (s : State) : KRing := ⟨s.pending, s.et, s.rtcNs, s.free, s.time, s.easel, s.gw, s.lsw, s.pwr, s.dio, s.wake, s.swc, s.prt, s.can, s.fry, s.lin, s.bam, s.upd⟩

@[simp] theorem State.kRing_mk (a0 a1 a2 a3 a4 a5 a6 a7 a8 a9 a10 a11 a12 a13 a14 a15 a16 a17 a18 a19 a20 a21 a22 a23 a24) :
    (State.mk a0 a1 a2 a3 a4 a5 a6 a7 a8 a9 a10 a11 a12 a13 a14 a15 a16 a17 a18 a19 a20 a21 a22 a23 a24).kRing = ⟨a0, a1, a2, a3, a9, a10, a11, a12, a13, a14, a16, a18, a19, a20, a21, a22, a23, a24⟩ := rfl

@[simp] theorem State.kRing_eta (s : State) : (⟨s.pending, s.et, s.rtcNs, s.free, s.time, s.easel, s.gw, s.lsw, s.pwr, s.dio, s.wake, s.swc, s.prt, s.can, s.fry, s.lin, s.bam, s.upd⟩ : KRing) = s.kRing := rfl

theorem State.kRing_ext {s t : State} (h : t.kRing = s.kRing) :
    t.pending = s.pending ∧ t.et = s.et ∧ t.rtcNs = s.rtcNs ∧ t.free = s.free ∧ t.time = s.time ∧ t.easel = s.easel ∧ t.gw = s.gw ∧ t.lsw = s.lsw ∧ t.pwr = s.pwr ∧ t.dio = s.dio ∧ t.wake = s.wake ∧ t.swc = s.swc ∧ t.prt = s.prt ∧ t.can = s.can ∧ t.fry = s.fry ∧ t.lin = s.lin ∧ t.bam = s.bam ∧ t.upd = s.upd := by
  simp only [State.kRing, KRing.mk.injEq] at h
  exact h

@[simp] theorem foldl_kRing {α : Type} (f : State → α → State) (h : ∀ s a, (f s a).kRing = s.kRing) (l : List α) (s : State) :
    (l.foldl f s).kRing = s.kRing := by
  induction l generalizing s with
  | nil => rfl
  | cons a l ih => simp [List.foldl, ih, h]

@[simp] theorem foldl_fst_kRing {α β : Type} (f : State × β → α → State × β) (h : ∀ a x, (f a x).1.kRing = a.1.kRing)
    (l : List α) (a : State × β) : (l.foldl f a).1.kRing = a.1.kRing := by
  induction l generalizing a with
  | nil => rfl
  | cons x l ih => simp [List.foldl, ih, h]

@[simp] theorem onlyIf_kRing (c : Bool) (s t : State) (h : t.kRing = s.kRing) : (onlyIf c s t).kRing = s.kRing := by
  cases c <;> simp [onlyIf, h]

@[simp] theorem State.kRing_ite (c : Prop) [Decidable c] (a b : State) :
    (if c then a else b).kRing = if c then a.kRing else b.kRing := apply_ite _ _ _ _

@[simp] theorem State.kRing_fst_ite {α : Type} (c : Prop) [Decidable c] (a b : State × α) :
    (if c then a else b).1.kRing = if c then a.1.kRing else b.1.kRing := by
  split <;> rfl

end Sys2Proof.Machine
end

