-- ==== Sys2Proof/Laws/KeepRing.lean ====
section
/-!
SUPPORT. Sys2Proof/Laws/KeepRing.lean: the operations that leave the view `State.kRing` alone.
-/

namespace Sys2Proof.Machine

@[simp] theorem State.store_kRing (s : State) (a : Nat) (bs : List Byte) : (State.store s a bs).kRing = s.kRing := by
  unfold State.store
  try dsimp only
  (repeat' split) <;> first | rfl | simp

@[simp] theorem State.setPart_kRing (s : State) (p : Nat) (x : Part) : (State.setPart s p x).kRing = s.kRing := by
  unfold State.setPart
  try dsimp only
  (repeat' split) <;> first | rfl | simp

@[simp] theorem State.setPair_kRing (s : State) (k : Nat) (x : Pair) : (State.setPair s k x).kRing = s.kRing := by
  unfold State.setPair
  try dsimp only
  (repeat' split) <;> first | rfl | simp

@[simp] theorem State.setRing_kRing (s : State) (n : Nat) (x : Ring) : (State.setRing s n x).kRing = s.kRing := by
  unfold State.setRing
  try dsimp only
  (repeat' split) <;> first | rfl | simp

@[simp] theorem State.deliver_kRing (s : State) (ev : EventRec) (p : Nat) : (State.deliver s ev p).kRing = s.kRing := by
  unfold State.deliver
  try dsimp only
  (repeat' split) <;> first | rfl | simp

@[simp] theorem State.raiseAt_kRing (s : State) (et : Nat) (tos : List Nat) (src kind data : Nat) : (State.raiseAt s et tos src kind data).kRing = s.kRing := by
  unfold State.raiseAt
  try dsimp only
  (repeat' split) <;> first | rfl | simp

@[simp] theorem State.raise_kRing (s : State) (tos : List Nat) (src kind data : Nat) : (State.raise s tos src kind data).kRing = s.kRing := by
  unfold State.raise
  try dsimp only
  (repeat' split) <;> first | rfl | simp

@[simp] theorem State.raiseOnce_kRing (s : State) (tos : List Nat) (src kind data : Nat) : (State.raiseOnce s tos src kind data).kRing = s.kRing := by
  unfold State.raiseOnce
  try dsimp only
  (repeat' split) <;> first | rfl | simp

@[simp] theorem State.ringDiscard_kRing (s : State) (n : Nat) : (State.ringDiscard s n).kRing = s.kRing := by
  unfold State.ringDiscard
  try dsimp only
  (repeat' split) <;> first | rfl | simp

@[simp] theorem State.raiseVi_kRing (s : State) (n : Nat) : (State.raiseVi s n).kRing = s.kRing := by
  unfold State.raiseVi
  try dsimp only
  (repeat' split) <;> first | rfl | simp

@[simp] theorem State.ringIrq_kRing (s : State) (n : Nat) : (State.ringIrq s n).kRing = s.kRing := by
  unfold State.ringIrq
  try dsimp only
  (repeat' split) <;> first | rfl | simp

@[simp] theorem State.chargeDram_kRing (s : State) (n bytes : Nat) : (State.chargeDram s n bytes).kRing = s.kRing := by
  unfold State.chargeDram
  try dsimp only
  (repeat' split) <;> first | rfl | simp

@[simp] theorem State.ringPush_kRing (s : State) (n : Nat) (bs : List Byte) : (State.ringPush s n bs).kRing = s.kRing := by
  unfold State.ringPush
  try dsimp only
  (repeat' split) <;> first | rfl | simp

@[simp] theorem State.ringPop_kRing (s : State) (n : Nat) : (State.ringPop s n).kRing = s.kRing := by
  unfold State.ringPop
  try dsimp only
  (repeat' split) <;> first | rfl | simp

@[simp] theorem State.ringRecord_kRing (s : State) (n et : Nat) (bs : List Byte) : (State.ringRecord s n et bs).kRing = s.kRing := by
  unfold State.ringRecord
  try dsimp only
  (repeat' split) <;> first | rfl | simp

@[simp] theorem State.ringFreed_kRing (s : State) (n : Nat) : (State.ringFreed s n).kRing = s.kRing := by
  unfold State.ringFreed
  try dsimp only
  (repeat' split) <;> first | rfl | simp

@[simp] theorem State.setFltPart_kRing (s : State) (p : Nat) (x : FltPart) : (State.setFltPart s p x).kRing = s.kRing := by
  unfold State.setFltPart
  try dsimp only
  (repeat' split) <;> first | rfl | simp

@[simp] theorem State.logRec_kRing (s : State) (r : LogRec) : (State.logRec s r).kRing = s.kRing := by
  unfold State.logRec
  try dsimp only
  (repeat' split) <;> first | rfl | simp

@[simp] theorem State.makeReport_kRing (s : State) (r : FltReport) : (State.makeReport s r).kRing = s.kRing := by
  unfold State.makeReport
  try dsimp only
  (repeat' split) <;> first | rfl | simp

@[simp] theorem State.nextFault_kRing (s : State) : (State.nextFault s).2.kRing = s.kRing := by
  unfold State.nextFault
  try dsimp only
  (repeat' split) <;> first | rfl | simp

@[simp] theorem State.fault_kRing (s : State) (src cls level part kind data attempts hold : Nat) : (State.fault s src cls level part kind data attempts hold).kRing = s.kRing := by
  unfold State.fault
  try dsimp only
  (repeat' split) <;> first | rfl | simp

@[simp] theorem State.postedError_kRing (s : State) (r : PostedRec) : (State.postedError s r).kRing = s.kRing := by
  unfold State.postedError
  try dsimp only
  (repeat' split) <;> first | rfl | simp

@[simp] theorem State.writeReply_kRing (s : State) (pk : Packet) (status : Nat) (result : List Byte) : (State.writeReply s pk status result).kRing = s.kRing := by
  unfold State.writeReply
  try dsimp only
  (repeat' split) <;> first | rfl | simp

@[simp] theorem State.setStat_kRing (s : State) (p : Nat) (x : CmdStat) : (State.setStat s p x).kRing = s.kRing := by
  unfold State.setStat
  try dsimp only
  (repeat' split) <;> first | rfl | simp

@[simp] theorem State.finalReply_kRing (s : State) (code : Nat) (pk : Packet) (status : Nat) (result : List Byte) : (State.finalReply s code pk status result).kRing = s.kRing := by
  unfold State.finalReply
  try dsimp only
  (repeat' split) <;> first | rfl | simp

@[simp] theorem State.acceptReply_kRing (s : State) (pk : Packet) : (State.acceptReply s pk).kRing = s.kRing := by
  unfold State.acceptReply
  try dsimp only
  (repeat' split) <;> first | rfl | simp

@[simp] theorem State.finishAsync_kRing (s : State) (o : Outst) (status : Nat) (result : List Byte) : (State.finishAsync s o status result).kRing = s.kRing := by
  unfold State.finishAsync
  try dsimp only
  (repeat' split) <;> first | rfl | simp

@[simp] theorem State.finishWhere_kRing (s : State) (f : Outst → Bool) (status : Nat) (result : List Byte) : (State.finishWhere s f status result).kRing = s.kRing := by
  unfold State.finishWhere
  try dsimp only
  (repeat' split) <;> first | rfl | simp

@[simp] theorem State.prtTrainTimeout_kRing (s : State) (p : Nat) : (State.prtTrainTimeout s p).kRing = s.kRing := by
  unfold State.prtTrainTimeout
  try dsimp only
  (repeat' split) <;> first | rfl | simp

@[simp] theorem State.fryStartTimeout_kRing (s : State) (c : Nat) : (State.fryStartTimeout s c).kRing = s.kRing := by
  unfold State.fryStartTimeout
  try dsimp only
  (repeat' split) <;> first | rfl | simp

@[simp] theorem State.testDone_kRing (s : State) (skipped brk shrt : Nat) : (State.testDone s skipped brk shrt).kRing = s.kRing := by
  unfold State.testDone
  try dsimp only
  (repeat' split) <;> first | rfl | simp

@[simp] theorem State.postFail_kRing (s : State) (p addr size cause path pair seq : Nat) : (State.postFail s p addr size cause path pair seq).kRing = s.kRing := by
  unfold State.postFail
  try dsimp only
  (repeat' split) <;> first | rfl | simp

@[simp] theorem State.ringEvent_kRing (s : State) (n kind data : Nat) : (State.ringEvent s n kind data).kRing = s.kRing := by
  unfold State.ringEvent
  try dsimp only
  (repeat' split) <;> first | rfl | simp

@[simp] theorem State.indexError_kRing (s : State) (n v : Nat) (producer : Bool) : (State.indexError s n v producer).kRing = s.kRing := by
  unfold State.indexError
  try dsimp only
  (repeat' split) <;> first | rfl | simp

@[simp] theorem State.doorbellWrite_kRing (s : State) (p n : Nat) (f : State → State) (h : ∀ s, (f s).kRing = s.kRing) :
    (s.doorbellWrite p n f).kRing = s.kRing := by
  unfold State.doorbellWrite
  split
  · rfl
  · exact h s

@[simp] theorem State.dbProducer_kRing (s : State) (p n v : Nat) : (State.dbProducer s p n v).kRing = s.kRing := by
  unfold State.dbProducer
  try dsimp only
  (repeat' split) <;> first | rfl | simp

@[simp] theorem State.dbConsumer_kRing (s : State) (p n v : Nat) : (State.dbConsumer s p n v).kRing = s.kRing := by
  unfold State.dbConsumer
  try dsimp only
  (repeat' split) <;> first | rfl | simp

@[simp] theorem State.irqAck_kRing (s : State) (p n v : Nat) : (State.irqAck s p n v).kRing = s.kRing := by
  unfold State.irqAck
  try dsimp only
  (repeat' split) <;> first | rfl | simp

@[simp] theorem State.viConsume_kRing (s : State) (p v : Nat) : (State.viConsume s p v).kRing = s.kRing := by
  unfold State.viConsume
  try dsimp only
  (repeat' split) <;> first | rfl | simp

@[simp] theorem State.viOvfAck_kRing (s : State) (p v : Nat) : (State.viOvfAck s p v).kRing = s.kRing := by
  unfold State.viOvfAck
  try dsimp only
  (repeat' split) <;> first | rfl | simp

@[simp] theorem State.eventDeliver_kRing (s : State) : (State.eventDeliver s).kRing = s.kRing := by
  unfold State.eventDeliver
  try dsimp only
  (repeat' split) <;> first | rfl | simp

@[simp] theorem State.ringStart_kRing (s : State) (n : Nat) : (State.ringStart s n).kRing = s.kRing := by
  unfold State.ringStart
  try dsimp only
  (repeat' split) <;> first | rfl | simp

@[simp] theorem State.restartBegin_kRing (s : State) (p : Nat) : (State.restartBegin s p).kRing = s.kRing := by
  unfold State.restartBegin
  try dsimp only
  (repeat' split) <;> first | rfl | simp

@[simp] theorem State.resetDone_kRing (s : State) (p : Nat) : (State.resetDone s p).kRing = s.kRing := by
  unfold State.resetDone
  try dsimp only
  (repeat' split) <;> first | rfl | simp

@[simp] theorem State.restarted_kRing (s : State) (p : Nat) (digestOk : Bool) (image : List Byte) : (State.restarted s p digestOk image).kRing = s.kRing := by
  unfold State.restarted
  try dsimp only
  (repeat' split) <;> first | rfl | simp

@[simp] theorem State.pairHalt_kRing (s : State) (k : Nat) : (State.pairHalt s k).kRing = s.kRing := by
  unfold State.pairHalt
  try dsimp only
  (repeat' split) <;> first | rfl | simp

@[simp] theorem State.pairResume_kRing (s : State) (k : Nat) : (State.pairResume s k).kRing = s.kRing := by
  unfold State.pairResume
  try dsimp only
  (repeat' split) <;> first | rfl | simp

@[simp] theorem State.secureIrq_kRing (s : State) (k : Nat) : (State.secureIrq s k).kRing = s.kRing := by
  unfold State.secureIrq
  try dsimp only
  (repeat' split) <;> first | rfl | simp

@[simp] theorem State.logFlush_kRing (s : State) : (State.logFlush s).kRing = s.kRing := by
  unfold State.logFlush
  try dsimp only
  (repeat' split) <;> first | rfl | simp

@[simp] theorem State.arise_kRing (s : State) (hit : Bool) (f : State → State) (hf : ∀ s, (f s).kRing = s.kRing) :
    (s.arise hit f).kRing = s.kRing := by
  unfold State.arise
  dsimp only
  (repeat' split) <;> simp [hf]

@[simp] theorem State.bridgeRetry_kRing (s : State) : (State.bridgeRetry s).kRing = s.kRing := by
  unfold State.bridgeRetry
  try dsimp only
  (repeat' split) <;> first | rfl | simp

@[simp] theorem State.busWrite_kRing (s : State) (w : BusWrite) : (State.busWrite s w).kRing = s.kRing := by
  unfold State.busWrite
  try dsimp only
  (repeat' split) <;> first | rfl | simp

@[simp] theorem State.busTimeout_kRing (s : State) (w : BusWrite) (crossing : Nat) (isLoad : Bool) : (State.busTimeout s w crossing isLoad).kRing = s.kRing := by
  unfold State.busTimeout
  try dsimp only
  (repeat' split) <;> first | rfl | simp

@[simp] theorem State.holdDrain_kRing (s : State) (crossing : Nat) : (State.holdDrain s crossing).kRing = s.kRing := by
  unfold State.holdDrain
  try dsimp only
  (repeat' split) <;> first | rfl | simp

@[simp] theorem State.cdcOverrun_kRing (s : State) (src : Nat) : (State.cdcOverrun s src).kRing = s.kRing := by
  unfold State.cdcOverrun
  try dsimp only
  (repeat' split) <;> first | rfl | simp

@[simp] theorem State.patrol_kRing (s : State) (dram : Bool) : (State.patrol s dram).kRing = s.kRing := by
  unfold State.patrol
  try dsimp only
  (repeat' split) <;> first | rfl | simp

@[simp] theorem State.poisonRead_kRing (s : State) (p addr : Nat) : (State.poisonRead s p addr).kRing = s.kRing := by
  unfold State.poisonRead
  try dsimp only
  (repeat' split) <;> first | rfl | simp

@[simp] theorem State.faultReport_kRing (s : State) : (State.faultReport s).kRing = s.kRing := by
  unfold State.faultReport
  try dsimp only
  (repeat' split) <;> first | rfl | simp

@[simp] theorem State.logTick_kRing (s : State) : (State.logTick s).kRing = s.kRing := by
  unfold State.logTick
  try dsimp only
  (repeat' split) <;> first | rfl | simp

@[simp] theorem State.lowRead_kRing (s : State) (p a : Nat) : (State.lowRead s p a).kRing = s.kRing := by
  unfold State.lowRead
  try dsimp only
  (repeat' split) <;> first | rfl | simp

@[simp] theorem State.windowStore_kRing (s : State) (w : BusWrite) : (State.windowStore s w).kRing = s.kRing := by
  unfold State.windowStore
  try dsimp only
  (repeat' split) <;> first | rfl | simp

@[simp] theorem State.authFail_kRing (s : State) (code : Nat) (pk : Packet) (replay : Bool) : (State.authFail s code pk replay).kRing = s.kRing := by
  unfold State.authFail
  try dsimp only
  (repeat' split) <;> first | rfl | simp

end Sys2Proof.Machine
end

