-- ==== Sys2Proof/Laws/Tables.lean ====
section
/-!
SUPPORT. Sys2Proof/Laws/Tables.lean: reading after writing, for the sparse tables and for memory, and that every memory operation
keeps the canonical form.
-/

namespace Sys2Proof

@[simp] theorem Tab.val_put_same {α : Type} [DecidableEq α] (d : α) (t : Tab α) (k : Nat) (v : α) :
    (t.put d k v).val d k = v := by
  induction t with
  | nil => by_cases h : v = d <;> simp [Tab.put, Tab.val, h]
  | cons e t ih =>
    obtain ⟨j, x⟩ := e
    unfold Tab.put
    by_cases h : v = d
    · by_cases c : j = k <;> simp [h, c, Tab.val] <;> simpa [h] using ih
    · by_cases c : k < j
      · simp [h, c, Tab.val]
      · by_cases e : k = j
        · simp [h, e, Tab.val]
        · simp [h, c, e, Tab.val, Ne.symm e, ih]

@[simp] theorem Tab.val_put_ne {α : Type} [DecidableEq α] (d : α) (t : Tab α) (k m : Nat) (v : α) (h : m ≠ k) :
    (t.put d k v).val d m = t.val d m := by
  induction t with
  | nil => by_cases c : v = d <;> simp [Tab.put, Tab.val, c, Ne.symm h]
  | cons e t ih =>
    obtain ⟨j, x⟩ := e
    unfold Tab.put
    by_cases c : v = d
    · by_cases e : j = k
      · subst e; simp [c, Tab.val, Ne.symm h]; simpa [c] using ih
      · simp only [c, if_true, e, if_false, Tab.val]
        rw [show Tab.val d (Tab.put d t k d) m = Tab.val d t m by simpa [c] using ih]
    · by_cases l : k < j
      · simp [c, l, Tab.val, Ne.symm h]
      · by_cases e : k = j
        · subst e; simp [c, Tab.val, Ne.symm h]
        · simp [c, l, e, Tab.val, ih]

@[simp] theorem Tab.val_nil {α : Type} (d : α) (k : Nat) : Tab.val d ([] : Tab α) k = d := rfl

/-- A change of every listed entry that leaves the default alone, read back. -/
theorem Tab.val_mapV {α : Type} (d : α) (f : Nat → α → α) (t : Tab α) (k : Nat) (h : f k d = d) :
    (t.mapV f).val d k = f k (t.val d k) := by
  induction t with
  | nil => simp [Tab.mapV, Tab.val, h]
  | cons e t ih =>
    obtain ⟨j, x⟩ := e
    simp only [Tab.mapV, Tab.val]
    split
    · rename_i q; subst q; rfl
    · exact ih

end Sys2Proof

namespace Sys2Proof.Machine

@[simp] theorem memGet_memSet_same (m : List Host.Cell) (a : Nat) (b : Byte) : memGet (memSet m a b) a = b := by
  induction m with
  | nil => by_cases h : b = memDefault <;> simp [memSet, memGet, h]
  | cons e t ih =>
    obtain ⟨j, x⟩ := e
    unfold memSet
    by_cases h : b = memDefault
    · by_cases c : j = a <;> simp [h, c, memGet] <;> simpa [h] using ih
    · by_cases c : a < j
      · simp [h, c, memGet]
      · by_cases e : a = j
        · simp [h, e, memGet]
        · simp [h, c, e, memGet, Ne.symm e, ih]

@[simp] theorem memGet_memSet_ne (m : List Host.Cell) (a c : Nat) (b : Byte) (h : c ≠ a) : memGet (memSet m a b) c = memGet m c := by
  induction m with
  | nil => by_cases e : b = memDefault <;> simp [memSet, memGet, e, Ne.symm h]
  | cons e t ih =>
    obtain ⟨j, x⟩ := e
    unfold memSet
    by_cases d : b = memDefault
    · by_cases e : j = a
      · subst e; simp [d, memGet, Ne.symm h]; simpa [d] using ih
      · simp only [d, if_true, e, if_false, memGet]
        rw [show memGet (memSet t a memDefault) c = memGet t c by simpa [d] using ih]
    · by_cases l : a < j
      · simp [d, l, memGet, Ne.symm h]
      · by_cases e : a = j
        · subst e; simp [d, memGet, Ne.symm h]
        · simp [d, l, e, memGet, ih]

/-- A write leaves every byte outside it alone. -/
theorem memGet_memWrite_outside (bs : List Byte) : ∀ (m : List Host.Cell) (a c : Nat), c < a ∨ a + bs.length ≤ c →
    memGet (memWrite m a bs) c = memGet m c := by
  induction bs with
  | nil => intros; rfl
  | cons b bs ih =>
    intro m a c h
    simp only [List.length_cons] at h
    unfold memWrite
    rw [ih _ _ _ (by omega), memGet_memSet_ne _ _ _ _ (by omega)]

/-- A read of what was written gives it back. -/
theorem memRead_memWrite (bs : List Byte) : ∀ (m : List Host.Cell) (a : Nat), memRead (memWrite m a bs) a bs.length = bs := by
  induction bs with
  | nil => intros; rfl
  | cons b bs ih =>
    intro m a
    unfold memWrite
    simp only [List.length_cons, memRead]
    rw [ih, memGet_memWrite_outside _ _ _ _ (.inl (Nat.lt_succ_self a)), memGet_memSet_same]

theorem memWfFrom_mono {lo lo' : Nat} (h : lo' ≤ lo) : ∀ {m : List Host.Cell}, memWfFrom lo m = true → memWfFrom lo' m = true
  | [], _ => rfl
  | (j, x) :: t, k => by
    simp only [memWfFrom, Bool.and_eq_true, decide_eq_true_eq] at k ⊢
    exact ⟨⟨by omega, k.1.2⟩, k.2⟩

theorem memSet_wfFrom (a : Nat) (b : Byte) : ∀ (m : List Host.Cell) (lo : Nat), lo ≤ a → memWfFrom lo m = true →
    memWfFrom lo (memSet m a b) = true
  | [], lo, h, _ => by
    unfold memSet
    by_cases c : b = memDefault <;> simp [c, memWfFrom, h]
  | (j, x) :: t, lo, h, k => by
    simp only [memWfFrom, Bool.and_eq_true, decide_eq_true_eq] at k
    obtain ⟨⟨h1, h2⟩, h3⟩ := k
    unfold memSet
    by_cases c : b = memDefault
    · by_cases e : j = a
      · subst e
        rw [if_pos c, if_pos rfl]
        have : memWfFrom (lo) t = true := memWfFrom_mono (by omega) h3
        exact memSet_wfFrom _ _ t lo h this
      · rw [if_pos c, if_neg e]
        simp only [memWfFrom, Bool.and_eq_true, decide_eq_true_eq]
        refine ⟨⟨h1, h2⟩, ?_⟩
        by_cases l : j + 1 ≤ a
        · exact memSet_wfFrom a b t (j + 1) l h3
        · rw [c]; exact memErase_wfFrom a t (j + 1) h3
    · rw [if_neg c]
      by_cases l : a < j
      · rw [if_pos l]
        simp only [memWfFrom, Bool.and_eq_true, decide_eq_true_eq]
        exact ⟨⟨h, c⟩, ⟨⟨by omega, h2⟩, h3⟩⟩
      · rw [if_neg l]
        by_cases e : a = j
        · rw [if_pos e]; subst e
          simp only [memWfFrom, Bool.and_eq_true, decide_eq_true_eq]
          exact ⟨⟨h, c⟩, h3⟩
        · rw [if_neg e]
          simp only [memWfFrom, Bool.and_eq_true, decide_eq_true_eq]
          exact ⟨⟨h1, h2⟩, memSet_wfFrom a b t (j + 1) (by omega) h3⟩
where
  memErase_wfFrom (a : Nat) : ∀ (m : List Host.Cell) (lo : Nat), memWfFrom lo m = true → memWfFrom lo (memSet m a memDefault) = true
    | [], lo, _ => by simp [memSet, memWfFrom]
    | (j, x) :: t, lo, k => by
      simp only [memWfFrom, Bool.and_eq_true, decide_eq_true_eq] at k
      unfold memSet
      rw [if_pos rfl]
      by_cases e : j = a
      · rw [if_pos e]
        exact memErase_wfFrom a t lo (memWfFrom_mono (by omega) k.2)
      · rw [if_neg e]
        simp only [memWfFrom, Bool.and_eq_true, decide_eq_true_eq]
        exact ⟨k.1, memErase_wfFrom a t (j + 1) k.2⟩

/-- Every write keeps the canonical form. -/
theorem memSet_wf (m : List Host.Cell) (a : Nat) (b : Byte) (h : memWf m = true) : memWf (memSet m a b) = true :=
  memSet_wfFrom a b m 0 (Nat.zero_le _) h

theorem memWrite_wf (bs : List Byte) : ∀ (m : List Host.Cell) (a : Nat), memWf m = true → memWf (memWrite m a bs) = true := by
  induction bs with
  | nil => intro m a h; exact h
  | cons b bs ih => intro m a h; exact ih _ _ (memSet_wf m a b h)

theorem State.store_wf (s : State) (a : Nat) (bs : List Byte) (h : memWf s.mem = true) : memWf (s.store a bs).mem = true :=
  memWrite_wf bs s.mem a h

theorem State.reset_mem_wf : memWf State.reset.mem = true := rfl

end Sys2Proof.Machine
end

