-- ==== Sys2Proof/Laws/State.lean ====
section
/-!
SUPPORT. Sys2Proof/Laws/State.lean: one lemma per field per update of a named entry: what the update leaves alone, and what the entry
reads as afterwards.
-/

namespace Sys2Proof.Machine

@[simp] theorem State.setPart_pending (s : State) (p : Nat) (x : Part) : (s.setPart p x).pending = s.pending := rfl
@[simp] theorem State.setPart_et (s : State) (p : Nat) (x : Part) : (s.setPart p x).et = s.et := rfl
@[simp] theorem State.setPart_rtcNs (s : State) (p : Nat) (x : Part) : (s.setPart p x).rtcNs = s.rtcNs := rfl
@[simp] theorem State.setPart_free (s : State) (p : Nat) (x : Part) : (s.setPart p x).free = s.free := rfl
@[simp] theorem State.setPart_mem (s : State) (p : Nat) (x : Part) : (s.setPart p x).mem = s.mem := rfl
@[simp] theorem State.setPart_evq (s : State) (p : Nat) (x : Part) : (s.setPart p x).evq = s.evq := rfl
@[simp] theorem State.setPart_lastEv (s : State) (p : Nat) (x : Part) : (s.setPart p x).lastEv = s.lastEv := rfl
@[simp] theorem State.setPart_dev (s : State) (p : Nat) (x : Part) : (s.setPart p x).dev = s.dev := rfl
@[simp] theorem State.setPart_cmd (s : State) (p : Nat) (x : Part) : (s.setPart p x).cmd = s.cmd := rfl
@[simp] theorem State.setPart_time (s : State) (p : Nat) (x : Part) : (s.setPart p x).time = s.time := rfl
@[simp] theorem State.setPart_easel (s : State) (p : Nat) (x : Part) : (s.setPart p x).easel = s.easel := rfl
@[simp] theorem State.setPart_gw (s : State) (p : Nat) (x : Part) : (s.setPart p x).gw = s.gw := rfl
@[simp] theorem State.setPart_lsw (s : State) (p : Nat) (x : Part) : (s.setPart p x).lsw = s.lsw := rfl
@[simp] theorem State.setPart_pwr (s : State) (p : Nat) (x : Part) : (s.setPart p x).pwr = s.pwr := rfl
@[simp] theorem State.setPart_dio (s : State) (p : Nat) (x : Part) : (s.setPart p x).dio = s.dio := rfl
@[simp] theorem State.setPart_wake (s : State) (p : Nat) (x : Part) : (s.setPart p x).wake = s.wake := rfl
@[simp] theorem State.setPart_flt (s : State) (p : Nat) (x : Part) : (s.setPart p x).flt = s.flt := rfl
@[simp] theorem State.setPart_swc (s : State) (p : Nat) (x : Part) : (s.setPart p x).swc = s.swc := rfl
@[simp] theorem State.setPart_prt (s : State) (p : Nat) (x : Part) : (s.setPart p x).prt = s.prt := rfl
@[simp] theorem State.setPart_can (s : State) (p : Nat) (x : Part) : (s.setPart p x).can = s.can := rfl
@[simp] theorem State.setPart_fry (s : State) (p : Nat) (x : Part) : (s.setPart p x).fry = s.fry := rfl
@[simp] theorem State.setPart_lin (s : State) (p : Nat) (x : Part) : (s.setPart p x).lin = s.lin := rfl
@[simp] theorem State.setPart_bam (s : State) (p : Nat) (x : Part) : (s.setPart p x).bam = s.bam := rfl
@[simp] theorem State.setPart_upd (s : State) (p : Nat) (x : Part) : (s.setPart p x).upd = s.upd := rfl
@[simp] theorem State.setPart_part (s : State) (p : Nat) (x : Part) : (s.setPart p x).part p = x :=
  Tab.val_put_same _ _ _ _
theorem State.setPart_part_ne (s : State) (p m : Nat) (x : Part) (h : m ≠ p) : (s.setPart p x).part m = s.part m :=
  Tab.val_put_ne _ _ _ _ _ h
@[simp] theorem State.setPart_pair (s : State) (p m : Nat) (x : Part) : (s.setPart p x).pair m = s.pair m := rfl
@[simp] theorem State.setPart_ring (s : State) (p m : Nat) (x : Part) : (s.setPart p x).ring m = s.ring m := rfl

@[simp] theorem State.setPair_pending (s : State) (p : Nat) (x : Pair) : (s.setPair p x).pending = s.pending := rfl
@[simp] theorem State.setPair_et (s : State) (p : Nat) (x : Pair) : (s.setPair p x).et = s.et := rfl
@[simp] theorem State.setPair_rtcNs (s : State) (p : Nat) (x : Pair) : (s.setPair p x).rtcNs = s.rtcNs := rfl
@[simp] theorem State.setPair_free (s : State) (p : Nat) (x : Pair) : (s.setPair p x).free = s.free := rfl
@[simp] theorem State.setPair_mem (s : State) (p : Nat) (x : Pair) : (s.setPair p x).mem = s.mem := rfl
@[simp] theorem State.setPair_evq (s : State) (p : Nat) (x : Pair) : (s.setPair p x).evq = s.evq := rfl
@[simp] theorem State.setPair_lastEv (s : State) (p : Nat) (x : Pair) : (s.setPair p x).lastEv = s.lastEv := rfl
@[simp] theorem State.setPair_dev (s : State) (p : Nat) (x : Pair) : (s.setPair p x).dev = s.dev := rfl
@[simp] theorem State.setPair_cmd (s : State) (p : Nat) (x : Pair) : (s.setPair p x).cmd = s.cmd := rfl
@[simp] theorem State.setPair_time (s : State) (p : Nat) (x : Pair) : (s.setPair p x).time = s.time := rfl
@[simp] theorem State.setPair_easel (s : State) (p : Nat) (x : Pair) : (s.setPair p x).easel = s.easel := rfl
@[simp] theorem State.setPair_gw (s : State) (p : Nat) (x : Pair) : (s.setPair p x).gw = s.gw := rfl
@[simp] theorem State.setPair_lsw (s : State) (p : Nat) (x : Pair) : (s.setPair p x).lsw = s.lsw := rfl
@[simp] theorem State.setPair_pwr (s : State) (p : Nat) (x : Pair) : (s.setPair p x).pwr = s.pwr := rfl
@[simp] theorem State.setPair_dio (s : State) (p : Nat) (x : Pair) : (s.setPair p x).dio = s.dio := rfl
@[simp] theorem State.setPair_wake (s : State) (p : Nat) (x : Pair) : (s.setPair p x).wake = s.wake := rfl
@[simp] theorem State.setPair_flt (s : State) (p : Nat) (x : Pair) : (s.setPair p x).flt = s.flt := rfl
@[simp] theorem State.setPair_swc (s : State) (p : Nat) (x : Pair) : (s.setPair p x).swc = s.swc := rfl
@[simp] theorem State.setPair_prt (s : State) (p : Nat) (x : Pair) : (s.setPair p x).prt = s.prt := rfl
@[simp] theorem State.setPair_can (s : State) (p : Nat) (x : Pair) : (s.setPair p x).can = s.can := rfl
@[simp] theorem State.setPair_fry (s : State) (p : Nat) (x : Pair) : (s.setPair p x).fry = s.fry := rfl
@[simp] theorem State.setPair_lin (s : State) (p : Nat) (x : Pair) : (s.setPair p x).lin = s.lin := rfl
@[simp] theorem State.setPair_bam (s : State) (p : Nat) (x : Pair) : (s.setPair p x).bam = s.bam := rfl
@[simp] theorem State.setPair_upd (s : State) (p : Nat) (x : Pair) : (s.setPair p x).upd = s.upd := rfl
@[simp] theorem State.setPair_pair (s : State) (p : Nat) (x : Pair) : (s.setPair p x).pair p = x :=
  Tab.val_put_same _ _ _ _
theorem State.setPair_pair_ne (s : State) (p m : Nat) (x : Pair) (h : m ≠ p) : (s.setPair p x).pair m = s.pair m :=
  Tab.val_put_ne _ _ _ _ _ h
@[simp] theorem State.setPair_part (s : State) (p m : Nat) (x : Pair) : (s.setPair p x).part m = s.part m := rfl
@[simp] theorem State.setPair_ring (s : State) (p m : Nat) (x : Pair) : (s.setPair p x).ring m = s.ring m := rfl

@[simp] theorem State.setRing_pending (s : State) (n : Nat) (x : Ring) : (s.setRing n x).pending = s.pending := rfl
@[simp] theorem State.setRing_et (s : State) (n : Nat) (x : Ring) : (s.setRing n x).et = s.et := rfl
@[simp] theorem State.setRing_rtcNs (s : State) (n : Nat) (x : Ring) : (s.setRing n x).rtcNs = s.rtcNs := rfl
@[simp] theorem State.setRing_free (s : State) (n : Nat) (x : Ring) : (s.setRing n x).free = s.free := rfl
@[simp] theorem State.setRing_mem (s : State) (n : Nat) (x : Ring) : (s.setRing n x).mem = s.mem := rfl
@[simp] theorem State.setRing_evq (s : State) (n : Nat) (x : Ring) : (s.setRing n x).evq = s.evq := rfl
@[simp] theorem State.setRing_lastEv (s : State) (n : Nat) (x : Ring) : (s.setRing n x).lastEv = s.lastEv := rfl
@[simp] theorem State.setRing_dev (s : State) (n : Nat) (x : Ring) : (s.setRing n x).dev = s.dev := rfl
@[simp] theorem State.setRing_cmd (s : State) (n : Nat) (x : Ring) : (s.setRing n x).cmd = s.cmd := rfl
@[simp] theorem State.setRing_time (s : State) (n : Nat) (x : Ring) : (s.setRing n x).time = s.time := rfl
@[simp] theorem State.setRing_easel (s : State) (n : Nat) (x : Ring) : (s.setRing n x).easel = s.easel := rfl
@[simp] theorem State.setRing_gw (s : State) (n : Nat) (x : Ring) : (s.setRing n x).gw = s.gw := rfl
@[simp] theorem State.setRing_lsw (s : State) (n : Nat) (x : Ring) : (s.setRing n x).lsw = s.lsw := rfl
@[simp] theorem State.setRing_pwr (s : State) (n : Nat) (x : Ring) : (s.setRing n x).pwr = s.pwr := rfl
@[simp] theorem State.setRing_dio (s : State) (n : Nat) (x : Ring) : (s.setRing n x).dio = s.dio := rfl
@[simp] theorem State.setRing_wake (s : State) (n : Nat) (x : Ring) : (s.setRing n x).wake = s.wake := rfl
@[simp] theorem State.setRing_flt (s : State) (n : Nat) (x : Ring) : (s.setRing n x).flt = s.flt := rfl
@[simp] theorem State.setRing_swc (s : State) (n : Nat) (x : Ring) : (s.setRing n x).swc = s.swc := rfl
@[simp] theorem State.setRing_prt (s : State) (n : Nat) (x : Ring) : (s.setRing n x).prt = s.prt := rfl
@[simp] theorem State.setRing_can (s : State) (n : Nat) (x : Ring) : (s.setRing n x).can = s.can := rfl
@[simp] theorem State.setRing_fry (s : State) (n : Nat) (x : Ring) : (s.setRing n x).fry = s.fry := rfl
@[simp] theorem State.setRing_lin (s : State) (n : Nat) (x : Ring) : (s.setRing n x).lin = s.lin := rfl
@[simp] theorem State.setRing_bam (s : State) (n : Nat) (x : Ring) : (s.setRing n x).bam = s.bam := rfl
@[simp] theorem State.setRing_upd (s : State) (n : Nat) (x : Ring) : (s.setRing n x).upd = s.upd := rfl
@[simp] theorem State.setRing_ring (s : State) (n : Nat) (x : Ring) : (s.setRing n x).ring n = x :=
  Tab.val_put_same _ _ _ _
theorem State.setRing_ring_ne (s : State) (n m : Nat) (x : Ring) (h : m ≠ n) : (s.setRing n x).ring m = s.ring m :=
  Tab.val_put_ne _ _ _ _ _ h
@[simp] theorem State.setRing_part (s : State) (n m : Nat) (x : Ring) : (s.setRing n x).part m = s.part m := rfl
@[simp] theorem State.setRing_pair (s : State) (n m : Nat) (x : Ring) : (s.setRing n x).pair m = s.pair m := rfl

@[simp] theorem State.setStat_pending (s : State) (p : Nat) (x : CmdStat) : (s.setStat p x).pending = s.pending := rfl
@[simp] theorem State.setStat_et (s : State) (p : Nat) (x : CmdStat) : (s.setStat p x).et = s.et := rfl
@[simp] theorem State.setStat_rtcNs (s : State) (p : Nat) (x : CmdStat) : (s.setStat p x).rtcNs = s.rtcNs := rfl
@[simp] theorem State.setStat_free (s : State) (p : Nat) (x : CmdStat) : (s.setStat p x).free = s.free := rfl
@[simp] theorem State.setStat_mem (s : State) (p : Nat) (x : CmdStat) : (s.setStat p x).mem = s.mem := rfl
@[simp] theorem State.setStat_evq (s : State) (p : Nat) (x : CmdStat) : (s.setStat p x).evq = s.evq := rfl
@[simp] theorem State.setStat_lastEv (s : State) (p : Nat) (x : CmdStat) : (s.setStat p x).lastEv = s.lastEv := rfl
@[simp] theorem State.setStat_dev (s : State) (p : Nat) (x : CmdStat) : (s.setStat p x).dev = s.dev := rfl
@[simp] theorem State.setStat_time (s : State) (p : Nat) (x : CmdStat) : (s.setStat p x).time = s.time := rfl
@[simp] theorem State.setStat_easel (s : State) (p : Nat) (x : CmdStat) : (s.setStat p x).easel = s.easel := rfl
@[simp] theorem State.setStat_gw (s : State) (p : Nat) (x : CmdStat) : (s.setStat p x).gw = s.gw := rfl
@[simp] theorem State.setStat_lsw (s : State) (p : Nat) (x : CmdStat) : (s.setStat p x).lsw = s.lsw := rfl
@[simp] theorem State.setStat_pwr (s : State) (p : Nat) (x : CmdStat) : (s.setStat p x).pwr = s.pwr := rfl
@[simp] theorem State.setStat_dio (s : State) (p : Nat) (x : CmdStat) : (s.setStat p x).dio = s.dio := rfl
@[simp] theorem State.setStat_par (s : State) (p : Nat) (x : CmdStat) : (s.setStat p x).par = s.par := rfl
@[simp] theorem State.setStat_wake (s : State) (p : Nat) (x : CmdStat) : (s.setStat p x).wake = s.wake := rfl
@[simp] theorem State.setStat_flt (s : State) (p : Nat) (x : CmdStat) : (s.setStat p x).flt = s.flt := rfl
@[simp] theorem State.setStat_swc (s : State) (p : Nat) (x : CmdStat) : (s.setStat p x).swc = s.swc := rfl
@[simp] theorem State.setStat_prt (s : State) (p : Nat) (x : CmdStat) : (s.setStat p x).prt = s.prt := rfl
@[simp] theorem State.setStat_can (s : State) (p : Nat) (x : CmdStat) : (s.setStat p x).can = s.can := rfl
@[simp] theorem State.setStat_fry (s : State) (p : Nat) (x : CmdStat) : (s.setStat p x).fry = s.fry := rfl
@[simp] theorem State.setStat_lin (s : State) (p : Nat) (x : CmdStat) : (s.setStat p x).lin = s.lin := rfl
@[simp] theorem State.setStat_bam (s : State) (p : Nat) (x : CmdStat) : (s.setStat p x).bam = s.bam := rfl
@[simp] theorem State.setStat_upd (s : State) (p : Nat) (x : CmdStat) : (s.setStat p x).upd = s.upd := rfl
@[simp] theorem State.setStat_stat (s : State) (p : Nat) (x : CmdStat) : (s.setStat p x).stat p = x :=
  Tab.val_put_same _ _ _ _
theorem State.setStat_stat_ne (s : State) (p m : Nat) (x : CmdStat) (h : m ≠ p) : (s.setStat p x).stat m = s.stat m :=
  Tab.val_put_ne _ _ _ _ _ h
@[simp] theorem State.setStat_queueOf (s : State) (p m : Nat) (x : CmdStat) : (s.setStat p x).queueOf m = s.queueOf m := rfl

@[simp] theorem State.setQueue_pending (s : State) (c : Nat) (x : List Queued) : (s.setQueue c x).pending = s.pending := rfl
@[simp] theorem State.setQueue_et (s : State) (c : Nat) (x : List Queued) : (s.setQueue c x).et = s.et := rfl
@[simp] theorem State.setQueue_rtcNs (s : State) (c : Nat) (x : List Queued) : (s.setQueue c x).rtcNs = s.rtcNs := rfl
@[simp] theorem State.setQueue_free (s : State) (c : Nat) (x : List Queued) : (s.setQueue c x).free = s.free := rfl
@[simp] theorem State.setQueue_mem (s : State) (c : Nat) (x : List Queued) : (s.setQueue c x).mem = s.mem := rfl
@[simp] theorem State.setQueue_evq (s : State) (c : Nat) (x : List Queued) : (s.setQueue c x).evq = s.evq := rfl
@[simp] theorem State.setQueue_lastEv (s : State) (c : Nat) (x : List Queued) : (s.setQueue c x).lastEv = s.lastEv := rfl
@[simp] theorem State.setQueue_dev (s : State) (c : Nat) (x : List Queued) : (s.setQueue c x).dev = s.dev := rfl
@[simp] theorem State.setQueue_time (s : State) (c : Nat) (x : List Queued) : (s.setQueue c x).time = s.time := rfl
@[simp] theorem State.setQueue_easel (s : State) (c : Nat) (x : List Queued) : (s.setQueue c x).easel = s.easel := rfl
@[simp] theorem State.setQueue_gw (s : State) (c : Nat) (x : List Queued) : (s.setQueue c x).gw = s.gw := rfl
@[simp] theorem State.setQueue_lsw (s : State) (c : Nat) (x : List Queued) : (s.setQueue c x).lsw = s.lsw := rfl
@[simp] theorem State.setQueue_pwr (s : State) (c : Nat) (x : List Queued) : (s.setQueue c x).pwr = s.pwr := rfl
@[simp] theorem State.setQueue_dio (s : State) (c : Nat) (x : List Queued) : (s.setQueue c x).dio = s.dio := rfl
@[simp] theorem State.setQueue_par (s : State) (c : Nat) (x : List Queued) : (s.setQueue c x).par = s.par := rfl
@[simp] theorem State.setQueue_wake (s : State) (c : Nat) (x : List Queued) : (s.setQueue c x).wake = s.wake := rfl
@[simp] theorem State.setQueue_flt (s : State) (c : Nat) (x : List Queued) : (s.setQueue c x).flt = s.flt := rfl
@[simp] theorem State.setQueue_swc (s : State) (c : Nat) (x : List Queued) : (s.setQueue c x).swc = s.swc := rfl
@[simp] theorem State.setQueue_prt (s : State) (c : Nat) (x : List Queued) : (s.setQueue c x).prt = s.prt := rfl
@[simp] theorem State.setQueue_can (s : State) (c : Nat) (x : List Queued) : (s.setQueue c x).can = s.can := rfl
@[simp] theorem State.setQueue_fry (s : State) (c : Nat) (x : List Queued) : (s.setQueue c x).fry = s.fry := rfl
@[simp] theorem State.setQueue_lin (s : State) (c : Nat) (x : List Queued) : (s.setQueue c x).lin = s.lin := rfl
@[simp] theorem State.setQueue_bam (s : State) (c : Nat) (x : List Queued) : (s.setQueue c x).bam = s.bam := rfl
@[simp] theorem State.setQueue_upd (s : State) (c : Nat) (x : List Queued) : (s.setQueue c x).upd = s.upd := rfl
@[simp] theorem State.setQueue_queueOf (s : State) (c : Nat) (x : List Queued) : (s.setQueue c x).queueOf c = x :=
  Tab.val_put_same _ _ _ _
theorem State.setQueue_queueOf_ne (s : State) (c m : Nat) (x : List Queued) (h : m ≠ c) : (s.setQueue c x).queueOf m = s.queueOf m :=
  Tab.val_put_ne _ _ _ _ _ h
@[simp] theorem State.setQueue_stat (s : State) (c m : Nat) (x : List Queued) : (s.setQueue c x).stat m = s.stat m := rfl

@[simp] theorem State.setFltPart_pending (s : State) (p : Nat) (x : FltPart) : (s.setFltPart p x).pending = s.pending := rfl
@[simp] theorem State.setFltPart_et (s : State) (p : Nat) (x : FltPart) : (s.setFltPart p x).et = s.et := rfl
@[simp] theorem State.setFltPart_rtcNs (s : State) (p : Nat) (x : FltPart) : (s.setFltPart p x).rtcNs = s.rtcNs := rfl
@[simp] theorem State.setFltPart_free (s : State) (p : Nat) (x : FltPart) : (s.setFltPart p x).free = s.free := rfl
@[simp] theorem State.setFltPart_mem (s : State) (p : Nat) (x : FltPart) : (s.setFltPart p x).mem = s.mem := rfl
@[simp] theorem State.setFltPart_evq (s : State) (p : Nat) (x : FltPart) : (s.setFltPart p x).evq = s.evq := rfl
@[simp] theorem State.setFltPart_lastEv (s : State) (p : Nat) (x : FltPart) : (s.setFltPart p x).lastEv = s.lastEv := rfl
@[simp] theorem State.setFltPart_dev (s : State) (p : Nat) (x : FltPart) : (s.setFltPart p x).dev = s.dev := rfl
@[simp] theorem State.setFltPart_cmd (s : State) (p : Nat) (x : FltPart) : (s.setFltPart p x).cmd = s.cmd := rfl
@[simp] theorem State.setFltPart_time (s : State) (p : Nat) (x : FltPart) : (s.setFltPart p x).time = s.time := rfl
@[simp] theorem State.setFltPart_easel (s : State) (p : Nat) (x : FltPart) : (s.setFltPart p x).easel = s.easel := rfl
@[simp] theorem State.setFltPart_gw (s : State) (p : Nat) (x : FltPart) : (s.setFltPart p x).gw = s.gw := rfl
@[simp] theorem State.setFltPart_lsw (s : State) (p : Nat) (x : FltPart) : (s.setFltPart p x).lsw = s.lsw := rfl
@[simp] theorem State.setFltPart_pwr (s : State) (p : Nat) (x : FltPart) : (s.setFltPart p x).pwr = s.pwr := rfl
@[simp] theorem State.setFltPart_dio (s : State) (p : Nat) (x : FltPart) : (s.setFltPart p x).dio = s.dio := rfl
@[simp] theorem State.setFltPart_par (s : State) (p : Nat) (x : FltPart) : (s.setFltPart p x).par = s.par := rfl
@[simp] theorem State.setFltPart_wake (s : State) (p : Nat) (x : FltPart) : (s.setFltPart p x).wake = s.wake := rfl
@[simp] theorem State.setFltPart_swc (s : State) (p : Nat) (x : FltPart) : (s.setFltPart p x).swc = s.swc := rfl
@[simp] theorem State.setFltPart_prt (s : State) (p : Nat) (x : FltPart) : (s.setFltPart p x).prt = s.prt := rfl
@[simp] theorem State.setFltPart_can (s : State) (p : Nat) (x : FltPart) : (s.setFltPart p x).can = s.can := rfl
@[simp] theorem State.setFltPart_fry (s : State) (p : Nat) (x : FltPart) : (s.setFltPart p x).fry = s.fry := rfl
@[simp] theorem State.setFltPart_lin (s : State) (p : Nat) (x : FltPart) : (s.setFltPart p x).lin = s.lin := rfl
@[simp] theorem State.setFltPart_bam (s : State) (p : Nat) (x : FltPart) : (s.setFltPart p x).bam = s.bam := rfl
@[simp] theorem State.setFltPart_upd (s : State) (p : Nat) (x : FltPart) : (s.setFltPart p x).upd = s.upd := rfl
@[simp] theorem State.setFltPart_fltPart (s : State) (p : Nat) (x : FltPart) : (s.setFltPart p x).fltPart p = x :=
  Tab.val_put_same _ _ _ _
theorem State.setFltPart_fltPart_ne (s : State) (p m : Nat) (x : FltPart) (h : m ≠ p) : (s.setFltPart p x).fltPart m = s.fltPart m :=
  Tab.val_put_ne _ _ _ _ _ h

@[simp] theorem State.setChan_pending (s : State) (i : Nat) (x : Chan) : (s.setChan i x).pending = s.pending := rfl
@[simp] theorem State.setChan_et (s : State) (i : Nat) (x : Chan) : (s.setChan i x).et = s.et := rfl
@[simp] theorem State.setChan_rtcNs (s : State) (i : Nat) (x : Chan) : (s.setChan i x).rtcNs = s.rtcNs := rfl
@[simp] theorem State.setChan_free (s : State) (i : Nat) (x : Chan) : (s.setChan i x).free = s.free := rfl
@[simp] theorem State.setChan_mem (s : State) (i : Nat) (x : Chan) : (s.setChan i x).mem = s.mem := rfl
@[simp] theorem State.setChan_evq (s : State) (i : Nat) (x : Chan) : (s.setChan i x).evq = s.evq := rfl
@[simp] theorem State.setChan_lastEv (s : State) (i : Nat) (x : Chan) : (s.setChan i x).lastEv = s.lastEv := rfl
@[simp] theorem State.setChan_dev (s : State) (i : Nat) (x : Chan) : (s.setChan i x).dev = s.dev := rfl
@[simp] theorem State.setChan_cmd (s : State) (i : Nat) (x : Chan) : (s.setChan i x).cmd = s.cmd := rfl
@[simp] theorem State.setChan_time (s : State) (i : Nat) (x : Chan) : (s.setChan i x).time = s.time := rfl
@[simp] theorem State.setChan_easel (s : State) (i : Nat) (x : Chan) : (s.setChan i x).easel = s.easel := rfl
@[simp] theorem State.setChan_gw (s : State) (i : Nat) (x : Chan) : (s.setChan i x).gw = s.gw := rfl
@[simp] theorem State.setChan_pwr (s : State) (i : Nat) (x : Chan) : (s.setChan i x).pwr = s.pwr := rfl
@[simp] theorem State.setChan_dio (s : State) (i : Nat) (x : Chan) : (s.setChan i x).dio = s.dio := rfl
@[simp] theorem State.setChan_par (s : State) (i : Nat) (x : Chan) : (s.setChan i x).par = s.par := rfl
@[simp] theorem State.setChan_wake (s : State) (i : Nat) (x : Chan) : (s.setChan i x).wake = s.wake := rfl
@[simp] theorem State.setChan_flt (s : State) (i : Nat) (x : Chan) : (s.setChan i x).flt = s.flt := rfl
@[simp] theorem State.setChan_swc (s : State) (i : Nat) (x : Chan) : (s.setChan i x).swc = s.swc := rfl
@[simp] theorem State.setChan_prt (s : State) (i : Nat) (x : Chan) : (s.setChan i x).prt = s.prt := rfl
@[simp] theorem State.setChan_can (s : State) (i : Nat) (x : Chan) : (s.setChan i x).can = s.can := rfl
@[simp] theorem State.setChan_fry (s : State) (i : Nat) (x : Chan) : (s.setChan i x).fry = s.fry := rfl
@[simp] theorem State.setChan_lin (s : State) (i : Nat) (x : Chan) : (s.setChan i x).lin = s.lin := rfl
@[simp] theorem State.setChan_bam (s : State) (i : Nat) (x : Chan) : (s.setChan i x).bam = s.bam := rfl
@[simp] theorem State.setChan_upd (s : State) (i : Nat) (x : Chan) : (s.setChan i x).upd = s.upd := rfl
@[simp] theorem State.setChan_chan (s : State) (i : Nat) (x : Chan) : (s.setChan i x).chan i = x :=
  Tab.val_put_same _ _ _ _
theorem State.setChan_chan_ne (s : State) (i m : Nat) (x : Chan) (h : m ≠ i) : (s.setChan i x).chan m = s.chan m :=
  Tab.val_put_ne _ _ _ _ _ h
@[simp] theorem State.setChan_bridge (s : State) (i m : Nat) (x : Chan) : (s.setChan i x).bridge m = s.bridge m := rfl
@[simp] theorem State.setChan_prot (s : State) (i m : Nat) (x : Chan) : (s.setChan i x).prot m = s.prot m := rfl

@[simp] theorem State.setBridge_pending (s : State) (b : Nat) (x : Bridge) : (s.setBridge b x).pending = s.pending := rfl
@[simp] theorem State.setBridge_et (s : State) (b : Nat) (x : Bridge) : (s.setBridge b x).et = s.et := rfl
@[simp] theorem State.setBridge_rtcNs (s : State) (b : Nat) (x : Bridge) : (s.setBridge b x).rtcNs = s.rtcNs := rfl
@[simp] theorem State.setBridge_free (s : State) (b : Nat) (x : Bridge) : (s.setBridge b x).free = s.free := rfl
@[simp] theorem State.setBridge_mem (s : State) (b : Nat) (x : Bridge) : (s.setBridge b x).mem = s.mem := rfl
@[simp] theorem State.setBridge_evq (s : State) (b : Nat) (x : Bridge) : (s.setBridge b x).evq = s.evq := rfl
@[simp] theorem State.setBridge_lastEv (s : State) (b : Nat) (x : Bridge) : (s.setBridge b x).lastEv = s.lastEv := rfl
@[simp] theorem State.setBridge_dev (s : State) (b : Nat) (x : Bridge) : (s.setBridge b x).dev = s.dev := rfl
@[simp] theorem State.setBridge_cmd (s : State) (b : Nat) (x : Bridge) : (s.setBridge b x).cmd = s.cmd := rfl
@[simp] theorem State.setBridge_time (s : State) (b : Nat) (x : Bridge) : (s.setBridge b x).time = s.time := rfl
@[simp] theorem State.setBridge_easel (s : State) (b : Nat) (x : Bridge) : (s.setBridge b x).easel = s.easel := rfl
@[simp] theorem State.setBridge_gw (s : State) (b : Nat) (x : Bridge) : (s.setBridge b x).gw = s.gw := rfl
@[simp] theorem State.setBridge_pwr (s : State) (b : Nat) (x : Bridge) : (s.setBridge b x).pwr = s.pwr := rfl
@[simp] theorem State.setBridge_dio (s : State) (b : Nat) (x : Bridge) : (s.setBridge b x).dio = s.dio := rfl
@[simp] theorem State.setBridge_par (s : State) (b : Nat) (x : Bridge) : (s.setBridge b x).par = s.par := rfl
@[simp] theorem State.setBridge_wake (s : State) (b : Nat) (x : Bridge) : (s.setBridge b x).wake = s.wake := rfl
@[simp] theorem State.setBridge_flt (s : State) (b : Nat) (x : Bridge) : (s.setBridge b x).flt = s.flt := rfl
@[simp] theorem State.setBridge_swc (s : State) (b : Nat) (x : Bridge) : (s.setBridge b x).swc = s.swc := rfl
@[simp] theorem State.setBridge_prt (s : State) (b : Nat) (x : Bridge) : (s.setBridge b x).prt = s.prt := rfl
@[simp] theorem State.setBridge_can (s : State) (b : Nat) (x : Bridge) : (s.setBridge b x).can = s.can := rfl
@[simp] theorem State.setBridge_fry (s : State) (b : Nat) (x : Bridge) : (s.setBridge b x).fry = s.fry := rfl
@[simp] theorem State.setBridge_lin (s : State) (b : Nat) (x : Bridge) : (s.setBridge b x).lin = s.lin := rfl
@[simp] theorem State.setBridge_bam (s : State) (b : Nat) (x : Bridge) : (s.setBridge b x).bam = s.bam := rfl
@[simp] theorem State.setBridge_upd (s : State) (b : Nat) (x : Bridge) : (s.setBridge b x).upd = s.upd := rfl
@[simp] theorem State.setBridge_bridge (s : State) (b : Nat) (x : Bridge) : (s.setBridge b x).bridge b = x :=
  Tab.val_put_same _ _ _ _
theorem State.setBridge_bridge_ne (s : State) (b m : Nat) (x : Bridge) (h : m ≠ b) : (s.setBridge b x).bridge m = s.bridge m :=
  Tab.val_put_ne _ _ _ _ _ h
@[simp] theorem State.setBridge_chan (s : State) (b m : Nat) (x : Bridge) : (s.setBridge b x).chan m = s.chan m := rfl
@[simp] theorem State.setBridge_prot (s : State) (b m : Nat) (x : Bridge) : (s.setBridge b x).prot m = s.prot m := rfl

@[simp] theorem State.setProt_pending (s : State) (i : Nat) (x : Prot) : (s.setProt i x).pending = s.pending := rfl
@[simp] theorem State.setProt_et (s : State) (i : Nat) (x : Prot) : (s.setProt i x).et = s.et := rfl
@[simp] theorem State.setProt_rtcNs (s : State) (i : Nat) (x : Prot) : (s.setProt i x).rtcNs = s.rtcNs := rfl
@[simp] theorem State.setProt_free (s : State) (i : Nat) (x : Prot) : (s.setProt i x).free = s.free := rfl
@[simp] theorem State.setProt_mem (s : State) (i : Nat) (x : Prot) : (s.setProt i x).mem = s.mem := rfl
@[simp] theorem State.setProt_evq (s : State) (i : Nat) (x : Prot) : (s.setProt i x).evq = s.evq := rfl
@[simp] theorem State.setProt_lastEv (s : State) (i : Nat) (x : Prot) : (s.setProt i x).lastEv = s.lastEv := rfl
@[simp] theorem State.setProt_dev (s : State) (i : Nat) (x : Prot) : (s.setProt i x).dev = s.dev := rfl
@[simp] theorem State.setProt_cmd (s : State) (i : Nat) (x : Prot) : (s.setProt i x).cmd = s.cmd := rfl
@[simp] theorem State.setProt_time (s : State) (i : Nat) (x : Prot) : (s.setProt i x).time = s.time := rfl
@[simp] theorem State.setProt_easel (s : State) (i : Nat) (x : Prot) : (s.setProt i x).easel = s.easel := rfl
@[simp] theorem State.setProt_gw (s : State) (i : Nat) (x : Prot) : (s.setProt i x).gw = s.gw := rfl
@[simp] theorem State.setProt_pwr (s : State) (i : Nat) (x : Prot) : (s.setProt i x).pwr = s.pwr := rfl
@[simp] theorem State.setProt_dio (s : State) (i : Nat) (x : Prot) : (s.setProt i x).dio = s.dio := rfl
@[simp] theorem State.setProt_par (s : State) (i : Nat) (x : Prot) : (s.setProt i x).par = s.par := rfl
@[simp] theorem State.setProt_wake (s : State) (i : Nat) (x : Prot) : (s.setProt i x).wake = s.wake := rfl
@[simp] theorem State.setProt_flt (s : State) (i : Nat) (x : Prot) : (s.setProt i x).flt = s.flt := rfl
@[simp] theorem State.setProt_swc (s : State) (i : Nat) (x : Prot) : (s.setProt i x).swc = s.swc := rfl
@[simp] theorem State.setProt_prt (s : State) (i : Nat) (x : Prot) : (s.setProt i x).prt = s.prt := rfl
@[simp] theorem State.setProt_can (s : State) (i : Nat) (x : Prot) : (s.setProt i x).can = s.can := rfl
@[simp] theorem State.setProt_fry (s : State) (i : Nat) (x : Prot) : (s.setProt i x).fry = s.fry := rfl
@[simp] theorem State.setProt_lin (s : State) (i : Nat) (x : Prot) : (s.setProt i x).lin = s.lin := rfl
@[simp] theorem State.setProt_bam (s : State) (i : Nat) (x : Prot) : (s.setProt i x).bam = s.bam := rfl
@[simp] theorem State.setProt_upd (s : State) (i : Nat) (x : Prot) : (s.setProt i x).upd = s.upd := rfl
@[simp] theorem State.setProt_prot (s : State) (i : Nat) (x : Prot) : (s.setProt i x).prot i = x :=
  Tab.val_put_same _ _ _ _
theorem State.setProt_prot_ne (s : State) (i m : Nat) (x : Prot) (h : m ≠ i) : (s.setProt i x).prot m = s.prot m :=
  Tab.val_put_ne _ _ _ _ _ h
@[simp] theorem State.setProt_chan (s : State) (i m : Nat) (x : Prot) : (s.setProt i x).chan m = s.chan m := rfl
@[simp] theorem State.setProt_bridge (s : State) (i m : Nat) (x : Prot) : (s.setProt i x).bridge m = s.bridge m := rfl

@[simp] theorem State.setFeed_pending (s : State) (f : Nat) (x : Feed) : (s.setFeed f x).pending = s.pending := rfl
@[simp] theorem State.setFeed_et (s : State) (f : Nat) (x : Feed) : (s.setFeed f x).et = s.et := rfl
@[simp] theorem State.setFeed_rtcNs (s : State) (f : Nat) (x : Feed) : (s.setFeed f x).rtcNs = s.rtcNs := rfl
@[simp] theorem State.setFeed_free (s : State) (f : Nat) (x : Feed) : (s.setFeed f x).free = s.free := rfl
@[simp] theorem State.setFeed_mem (s : State) (f : Nat) (x : Feed) : (s.setFeed f x).mem = s.mem := rfl
@[simp] theorem State.setFeed_evq (s : State) (f : Nat) (x : Feed) : (s.setFeed f x).evq = s.evq := rfl
@[simp] theorem State.setFeed_lastEv (s : State) (f : Nat) (x : Feed) : (s.setFeed f x).lastEv = s.lastEv := rfl
@[simp] theorem State.setFeed_dev (s : State) (f : Nat) (x : Feed) : (s.setFeed f x).dev = s.dev := rfl
@[simp] theorem State.setFeed_cmd (s : State) (f : Nat) (x : Feed) : (s.setFeed f x).cmd = s.cmd := rfl
@[simp] theorem State.setFeed_time (s : State) (f : Nat) (x : Feed) : (s.setFeed f x).time = s.time := rfl
@[simp] theorem State.setFeed_easel (s : State) (f : Nat) (x : Feed) : (s.setFeed f x).easel = s.easel := rfl
@[simp] theorem State.setFeed_gw (s : State) (f : Nat) (x : Feed) : (s.setFeed f x).gw = s.gw := rfl
@[simp] theorem State.setFeed_lsw (s : State) (f : Nat) (x : Feed) : (s.setFeed f x).lsw = s.lsw := rfl
@[simp] theorem State.setFeed_dio (s : State) (f : Nat) (x : Feed) : (s.setFeed f x).dio = s.dio := rfl
@[simp] theorem State.setFeed_par (s : State) (f : Nat) (x : Feed) : (s.setFeed f x).par = s.par := rfl
@[simp] theorem State.setFeed_wake (s : State) (f : Nat) (x : Feed) : (s.setFeed f x).wake = s.wake := rfl
@[simp] theorem State.setFeed_flt (s : State) (f : Nat) (x : Feed) : (s.setFeed f x).flt = s.flt := rfl
@[simp] theorem State.setFeed_swc (s : State) (f : Nat) (x : Feed) : (s.setFeed f x).swc = s.swc := rfl
@[simp] theorem State.setFeed_prt (s : State) (f : Nat) (x : Feed) : (s.setFeed f x).prt = s.prt := rfl
@[simp] theorem State.setFeed_can (s : State) (f : Nat) (x : Feed) : (s.setFeed f x).can = s.can := rfl
@[simp] theorem State.setFeed_fry (s : State) (f : Nat) (x : Feed) : (s.setFeed f x).fry = s.fry := rfl
@[simp] theorem State.setFeed_lin (s : State) (f : Nat) (x : Feed) : (s.setFeed f x).lin = s.lin := rfl
@[simp] theorem State.setFeed_bam (s : State) (f : Nat) (x : Feed) : (s.setFeed f x).bam = s.bam := rfl
@[simp] theorem State.setFeed_upd (s : State) (f : Nat) (x : Feed) : (s.setFeed f x).upd = s.upd := rfl
@[simp] theorem State.setFeed_feed (s : State) (f : Nat) (x : Feed) : (s.setFeed f x).feed f = x :=
  Tab.val_put_same _ _ _ _
theorem State.setFeed_feed_ne (s : State) (f m : Nat) (x : Feed) (h : m ≠ f) : (s.setFeed f x).feed m = s.feed m :=
  Tab.val_put_ne _ _ _ _ _ h

@[simp] theorem State.setCan_pending (s : State) (n : Nat) (x : Can) : (s.setCan n x).pending = s.pending := rfl
@[simp] theorem State.setCan_et (s : State) (n : Nat) (x : Can) : (s.setCan n x).et = s.et := rfl
@[simp] theorem State.setCan_rtcNs (s : State) (n : Nat) (x : Can) : (s.setCan n x).rtcNs = s.rtcNs := rfl
@[simp] theorem State.setCan_free (s : State) (n : Nat) (x : Can) : (s.setCan n x).free = s.free := rfl
@[simp] theorem State.setCan_mem (s : State) (n : Nat) (x : Can) : (s.setCan n x).mem = s.mem := rfl
@[simp] theorem State.setCan_evq (s : State) (n : Nat) (x : Can) : (s.setCan n x).evq = s.evq := rfl
@[simp] theorem State.setCan_lastEv (s : State) (n : Nat) (x : Can) : (s.setCan n x).lastEv = s.lastEv := rfl
@[simp] theorem State.setCan_dev (s : State) (n : Nat) (x : Can) : (s.setCan n x).dev = s.dev := rfl
@[simp] theorem State.setCan_cmd (s : State) (n : Nat) (x : Can) : (s.setCan n x).cmd = s.cmd := rfl
@[simp] theorem State.setCan_time (s : State) (n : Nat) (x : Can) : (s.setCan n x).time = s.time := rfl
@[simp] theorem State.setCan_easel (s : State) (n : Nat) (x : Can) : (s.setCan n x).easel = s.easel := rfl
@[simp] theorem State.setCan_gw (s : State) (n : Nat) (x : Can) : (s.setCan n x).gw = s.gw := rfl
@[simp] theorem State.setCan_lsw (s : State) (n : Nat) (x : Can) : (s.setCan n x).lsw = s.lsw := rfl
@[simp] theorem State.setCan_pwr (s : State) (n : Nat) (x : Can) : (s.setCan n x).pwr = s.pwr := rfl
@[simp] theorem State.setCan_dio (s : State) (n : Nat) (x : Can) : (s.setCan n x).dio = s.dio := rfl
@[simp] theorem State.setCan_par (s : State) (n : Nat) (x : Can) : (s.setCan n x).par = s.par := rfl
@[simp] theorem State.setCan_wake (s : State) (n : Nat) (x : Can) : (s.setCan n x).wake = s.wake := rfl
@[simp] theorem State.setCan_flt (s : State) (n : Nat) (x : Can) : (s.setCan n x).flt = s.flt := rfl
@[simp] theorem State.setCan_swc (s : State) (n : Nat) (x : Can) : (s.setCan n x).swc = s.swc := rfl
@[simp] theorem State.setCan_prt (s : State) (n : Nat) (x : Can) : (s.setCan n x).prt = s.prt := rfl
@[simp] theorem State.setCan_fry (s : State) (n : Nat) (x : Can) : (s.setCan n x).fry = s.fry := rfl
@[simp] theorem State.setCan_lin (s : State) (n : Nat) (x : Can) : (s.setCan n x).lin = s.lin := rfl
@[simp] theorem State.setCan_bam (s : State) (n : Nat) (x : Can) : (s.setCan n x).bam = s.bam := rfl
@[simp] theorem State.setCan_upd (s : State) (n : Nat) (x : Can) : (s.setCan n x).upd = s.upd := rfl
@[simp] theorem State.setCan_canOf (s : State) (n : Nat) (x : Can) : (s.setCan n x).canOf n = x :=
  Tab.val_put_same _ _ _ _
theorem State.setCan_canOf_ne (s : State) (n m : Nat) (x : Can) (h : m ≠ n) : (s.setCan n x).canOf m = s.canOf m :=
  Tab.val_put_ne _ _ _ _ _ h

@[simp] theorem State.setLin_pending (s : State) (n : Nat) (x : Lin) : (s.setLin n x).pending = s.pending := rfl
@[simp] theorem State.setLin_et (s : State) (n : Nat) (x : Lin) : (s.setLin n x).et = s.et := rfl
@[simp] theorem State.setLin_rtcNs (s : State) (n : Nat) (x : Lin) : (s.setLin n x).rtcNs = s.rtcNs := rfl
@[simp] theorem State.setLin_free (s : State) (n : Nat) (x : Lin) : (s.setLin n x).free = s.free := rfl
@[simp] theorem State.setLin_mem (s : State) (n : Nat) (x : Lin) : (s.setLin n x).mem = s.mem := rfl
@[simp] theorem State.setLin_evq (s : State) (n : Nat) (x : Lin) : (s.setLin n x).evq = s.evq := rfl
@[simp] theorem State.setLin_lastEv (s : State) (n : Nat) (x : Lin) : (s.setLin n x).lastEv = s.lastEv := rfl
@[simp] theorem State.setLin_dev (s : State) (n : Nat) (x : Lin) : (s.setLin n x).dev = s.dev := rfl
@[simp] theorem State.setLin_cmd (s : State) (n : Nat) (x : Lin) : (s.setLin n x).cmd = s.cmd := rfl
@[simp] theorem State.setLin_time (s : State) (n : Nat) (x : Lin) : (s.setLin n x).time = s.time := rfl
@[simp] theorem State.setLin_easel (s : State) (n : Nat) (x : Lin) : (s.setLin n x).easel = s.easel := rfl
@[simp] theorem State.setLin_gw (s : State) (n : Nat) (x : Lin) : (s.setLin n x).gw = s.gw := rfl
@[simp] theorem State.setLin_lsw (s : State) (n : Nat) (x : Lin) : (s.setLin n x).lsw = s.lsw := rfl
@[simp] theorem State.setLin_pwr (s : State) (n : Nat) (x : Lin) : (s.setLin n x).pwr = s.pwr := rfl
@[simp] theorem State.setLin_dio (s : State) (n : Nat) (x : Lin) : (s.setLin n x).dio = s.dio := rfl
@[simp] theorem State.setLin_par (s : State) (n : Nat) (x : Lin) : (s.setLin n x).par = s.par := rfl
@[simp] theorem State.setLin_wake (s : State) (n : Nat) (x : Lin) : (s.setLin n x).wake = s.wake := rfl
@[simp] theorem State.setLin_flt (s : State) (n : Nat) (x : Lin) : (s.setLin n x).flt = s.flt := rfl
@[simp] theorem State.setLin_swc (s : State) (n : Nat) (x : Lin) : (s.setLin n x).swc = s.swc := rfl
@[simp] theorem State.setLin_prt (s : State) (n : Nat) (x : Lin) : (s.setLin n x).prt = s.prt := rfl
@[simp] theorem State.setLin_can (s : State) (n : Nat) (x : Lin) : (s.setLin n x).can = s.can := rfl
@[simp] theorem State.setLin_fry (s : State) (n : Nat) (x : Lin) : (s.setLin n x).fry = s.fry := rfl
@[simp] theorem State.setLin_bam (s : State) (n : Nat) (x : Lin) : (s.setLin n x).bam = s.bam := rfl
@[simp] theorem State.setLin_upd (s : State) (n : Nat) (x : Lin) : (s.setLin n x).upd = s.upd := rfl
@[simp] theorem State.setLin_linOf (s : State) (n : Nat) (x : Lin) : (s.setLin n x).linOf n = x :=
  Tab.val_put_same _ _ _ _
theorem State.setLin_linOf_ne (s : State) (n m : Nat) (x : Lin) (h : m ≠ n) : (s.setLin n x).linOf m = s.linOf m :=
  Tab.val_put_ne _ _ _ _ _ h

@[simp] theorem State.setPrt_pending (s : State) (p : Nat) (x : Prt) : (s.setPrt p x).pending = s.pending := rfl
@[simp] theorem State.setPrt_et (s : State) (p : Nat) (x : Prt) : (s.setPrt p x).et = s.et := rfl
@[simp] theorem State.setPrt_rtcNs (s : State) (p : Nat) (x : Prt) : (s.setPrt p x).rtcNs = s.rtcNs := rfl
@[simp] theorem State.setPrt_free (s : State) (p : Nat) (x : Prt) : (s.setPrt p x).free = s.free := rfl
@[simp] theorem State.setPrt_mem (s : State) (p : Nat) (x : Prt) : (s.setPrt p x).mem = s.mem := rfl
@[simp] theorem State.setPrt_evq (s : State) (p : Nat) (x : Prt) : (s.setPrt p x).evq = s.evq := rfl
@[simp] theorem State.setPrt_lastEv (s : State) (p : Nat) (x : Prt) : (s.setPrt p x).lastEv = s.lastEv := rfl
@[simp] theorem State.setPrt_dev (s : State) (p : Nat) (x : Prt) : (s.setPrt p x).dev = s.dev := rfl
@[simp] theorem State.setPrt_cmd (s : State) (p : Nat) (x : Prt) : (s.setPrt p x).cmd = s.cmd := rfl
@[simp] theorem State.setPrt_time (s : State) (p : Nat) (x : Prt) : (s.setPrt p x).time = s.time := rfl
@[simp] theorem State.setPrt_easel (s : State) (p : Nat) (x : Prt) : (s.setPrt p x).easel = s.easel := rfl
@[simp] theorem State.setPrt_gw (s : State) (p : Nat) (x : Prt) : (s.setPrt p x).gw = s.gw := rfl
@[simp] theorem State.setPrt_lsw (s : State) (p : Nat) (x : Prt) : (s.setPrt p x).lsw = s.lsw := rfl
@[simp] theorem State.setPrt_pwr (s : State) (p : Nat) (x : Prt) : (s.setPrt p x).pwr = s.pwr := rfl
@[simp] theorem State.setPrt_dio (s : State) (p : Nat) (x : Prt) : (s.setPrt p x).dio = s.dio := rfl
@[simp] theorem State.setPrt_par (s : State) (p : Nat) (x : Prt) : (s.setPrt p x).par = s.par := rfl
@[simp] theorem State.setPrt_wake (s : State) (p : Nat) (x : Prt) : (s.setPrt p x).wake = s.wake := rfl
@[simp] theorem State.setPrt_flt (s : State) (p : Nat) (x : Prt) : (s.setPrt p x).flt = s.flt := rfl
@[simp] theorem State.setPrt_swc (s : State) (p : Nat) (x : Prt) : (s.setPrt p x).swc = s.swc := rfl
@[simp] theorem State.setPrt_can (s : State) (p : Nat) (x : Prt) : (s.setPrt p x).can = s.can := rfl
@[simp] theorem State.setPrt_fry (s : State) (p : Nat) (x : Prt) : (s.setPrt p x).fry = s.fry := rfl
@[simp] theorem State.setPrt_lin (s : State) (p : Nat) (x : Prt) : (s.setPrt p x).lin = s.lin := rfl
@[simp] theorem State.setPrt_bam (s : State) (p : Nat) (x : Prt) : (s.setPrt p x).bam = s.bam := rfl
@[simp] theorem State.setPrt_upd (s : State) (p : Nat) (x : Prt) : (s.setPrt p x).upd = s.upd := rfl
@[simp] theorem State.setPrt_prtOf (s : State) (p : Nat) (x : Prt) : (s.setPrt p x).prtOf p = x :=
  Tab.val_put_same _ _ _ _
theorem State.setPrt_prtOf_ne (s : State) (p m : Nat) (x : Prt) (h : m ≠ p) : (s.setPrt p x).prtOf m = s.prtOf m :=
  Tab.val_put_ne _ _ _ _ _ h

@[simp] theorem State.setSwPort_pending (s : State) (p : Nat) (x : SwPort) : (s.setSwPort p x).pending = s.pending := rfl
@[simp] theorem State.setSwPort_et (s : State) (p : Nat) (x : SwPort) : (s.setSwPort p x).et = s.et := rfl
@[simp] theorem State.setSwPort_rtcNs (s : State) (p : Nat) (x : SwPort) : (s.setSwPort p x).rtcNs = s.rtcNs := rfl
@[simp] theorem State.setSwPort_free (s : State) (p : Nat) (x : SwPort) : (s.setSwPort p x).free = s.free := rfl
@[simp] theorem State.setSwPort_mem (s : State) (p : Nat) (x : SwPort) : (s.setSwPort p x).mem = s.mem := rfl
@[simp] theorem State.setSwPort_evq (s : State) (p : Nat) (x : SwPort) : (s.setSwPort p x).evq = s.evq := rfl
@[simp] theorem State.setSwPort_lastEv (s : State) (p : Nat) (x : SwPort) : (s.setSwPort p x).lastEv = s.lastEv := rfl
@[simp] theorem State.setSwPort_dev (s : State) (p : Nat) (x : SwPort) : (s.setSwPort p x).dev = s.dev := rfl
@[simp] theorem State.setSwPort_cmd (s : State) (p : Nat) (x : SwPort) : (s.setSwPort p x).cmd = s.cmd := rfl
@[simp] theorem State.setSwPort_time (s : State) (p : Nat) (x : SwPort) : (s.setSwPort p x).time = s.time := rfl
@[simp] theorem State.setSwPort_easel (s : State) (p : Nat) (x : SwPort) : (s.setSwPort p x).easel = s.easel := rfl
@[simp] theorem State.setSwPort_gw (s : State) (p : Nat) (x : SwPort) : (s.setSwPort p x).gw = s.gw := rfl
@[simp] theorem State.setSwPort_lsw (s : State) (p : Nat) (x : SwPort) : (s.setSwPort p x).lsw = s.lsw := rfl
@[simp] theorem State.setSwPort_pwr (s : State) (p : Nat) (x : SwPort) : (s.setSwPort p x).pwr = s.pwr := rfl
@[simp] theorem State.setSwPort_dio (s : State) (p : Nat) (x : SwPort) : (s.setSwPort p x).dio = s.dio := rfl
@[simp] theorem State.setSwPort_par (s : State) (p : Nat) (x : SwPort) : (s.setSwPort p x).par = s.par := rfl
@[simp] theorem State.setSwPort_wake (s : State) (p : Nat) (x : SwPort) : (s.setSwPort p x).wake = s.wake := rfl
@[simp] theorem State.setSwPort_flt (s : State) (p : Nat) (x : SwPort) : (s.setSwPort p x).flt = s.flt := rfl
@[simp] theorem State.setSwPort_prt (s : State) (p : Nat) (x : SwPort) : (s.setSwPort p x).prt = s.prt := rfl
@[simp] theorem State.setSwPort_can (s : State) (p : Nat) (x : SwPort) : (s.setSwPort p x).can = s.can := rfl
@[simp] theorem State.setSwPort_fry (s : State) (p : Nat) (x : SwPort) : (s.setSwPort p x).fry = s.fry := rfl
@[simp] theorem State.setSwPort_lin (s : State) (p : Nat) (x : SwPort) : (s.setSwPort p x).lin = s.lin := rfl
@[simp] theorem State.setSwPort_bam (s : State) (p : Nat) (x : SwPort) : (s.setSwPort p x).bam = s.bam := rfl
@[simp] theorem State.setSwPort_upd (s : State) (p : Nat) (x : SwPort) : (s.setSwPort p x).upd = s.upd := rfl
@[simp] theorem State.setSwPort_swPort (s : State) (p : Nat) (x : SwPort) : (s.setSwPort p x).swPort p = x :=
  Tab.val_put_same _ _ _ _
theorem State.setSwPort_swPort_ne (s : State) (p m : Nat) (x : SwPort) (h : m ≠ p) : (s.setSwPort p x).swPort m = s.swPort m :=
  Tab.val_put_ne _ _ _ _ _ h

@[simp] theorem State.setDin_pending (s : State) (n : Nat) (x : Din) : (s.setDin n x).pending = s.pending := rfl
@[simp] theorem State.setDin_et (s : State) (n : Nat) (x : Din) : (s.setDin n x).et = s.et := rfl
@[simp] theorem State.setDin_rtcNs (s : State) (n : Nat) (x : Din) : (s.setDin n x).rtcNs = s.rtcNs := rfl
@[simp] theorem State.setDin_free (s : State) (n : Nat) (x : Din) : (s.setDin n x).free = s.free := rfl
@[simp] theorem State.setDin_mem (s : State) (n : Nat) (x : Din) : (s.setDin n x).mem = s.mem := rfl
@[simp] theorem State.setDin_evq (s : State) (n : Nat) (x : Din) : (s.setDin n x).evq = s.evq := rfl
@[simp] theorem State.setDin_lastEv (s : State) (n : Nat) (x : Din) : (s.setDin n x).lastEv = s.lastEv := rfl
@[simp] theorem State.setDin_dev (s : State) (n : Nat) (x : Din) : (s.setDin n x).dev = s.dev := rfl
@[simp] theorem State.setDin_cmd (s : State) (n : Nat) (x : Din) : (s.setDin n x).cmd = s.cmd := rfl
@[simp] theorem State.setDin_time (s : State) (n : Nat) (x : Din) : (s.setDin n x).time = s.time := rfl
@[simp] theorem State.setDin_easel (s : State) (n : Nat) (x : Din) : (s.setDin n x).easel = s.easel := rfl
@[simp] theorem State.setDin_gw (s : State) (n : Nat) (x : Din) : (s.setDin n x).gw = s.gw := rfl
@[simp] theorem State.setDin_lsw (s : State) (n : Nat) (x : Din) : (s.setDin n x).lsw = s.lsw := rfl
@[simp] theorem State.setDin_pwr (s : State) (n : Nat) (x : Din) : (s.setDin n x).pwr = s.pwr := rfl
@[simp] theorem State.setDin_par (s : State) (n : Nat) (x : Din) : (s.setDin n x).par = s.par := rfl
@[simp] theorem State.setDin_wake (s : State) (n : Nat) (x : Din) : (s.setDin n x).wake = s.wake := rfl
@[simp] theorem State.setDin_flt (s : State) (n : Nat) (x : Din) : (s.setDin n x).flt = s.flt := rfl
@[simp] theorem State.setDin_swc (s : State) (n : Nat) (x : Din) : (s.setDin n x).swc = s.swc := rfl
@[simp] theorem State.setDin_prt (s : State) (n : Nat) (x : Din) : (s.setDin n x).prt = s.prt := rfl
@[simp] theorem State.setDin_can (s : State) (n : Nat) (x : Din) : (s.setDin n x).can = s.can := rfl
@[simp] theorem State.setDin_fry (s : State) (n : Nat) (x : Din) : (s.setDin n x).fry = s.fry := rfl
@[simp] theorem State.setDin_lin (s : State) (n : Nat) (x : Din) : (s.setDin n x).lin = s.lin := rfl
@[simp] theorem State.setDin_bam (s : State) (n : Nat) (x : Din) : (s.setDin n x).bam = s.bam := rfl
@[simp] theorem State.setDin_upd (s : State) (n : Nat) (x : Din) : (s.setDin n x).upd = s.upd := rfl
@[simp] theorem State.setDin_din (s : State) (n : Nat) (x : Din) : (s.setDin n x).din n = x :=
  Tab.val_put_same _ _ _ _
theorem State.setDin_din_ne (s : State) (n m : Nat) (x : Din) (h : m ≠ n) : (s.setDin n x).din m = s.din m :=
  Tab.val_put_ne _ _ _ _ _ h
@[simp] theorem State.setDin_xo (s : State) (n m : Nat) (x : Din) : (s.setDin n x).xo m = s.xo m := rfl

@[simp] theorem State.setXo_pending (s : State) (n : Nat) (x : Xo) : (s.setXo n x).pending = s.pending := rfl
@[simp] theorem State.setXo_et (s : State) (n : Nat) (x : Xo) : (s.setXo n x).et = s.et := rfl
@[simp] theorem State.setXo_rtcNs (s : State) (n : Nat) (x : Xo) : (s.setXo n x).rtcNs = s.rtcNs := rfl
@[simp] theorem State.setXo_free (s : State) (n : Nat) (x : Xo) : (s.setXo n x).free = s.free := rfl
@[simp] theorem State.setXo_mem (s : State) (n : Nat) (x : Xo) : (s.setXo n x).mem = s.mem := rfl
@[simp] theorem State.setXo_evq (s : State) (n : Nat) (x : Xo) : (s.setXo n x).evq = s.evq := rfl
@[simp] theorem State.setXo_lastEv (s : State) (n : Nat) (x : Xo) : (s.setXo n x).lastEv = s.lastEv := rfl
@[simp] theorem State.setXo_dev (s : State) (n : Nat) (x : Xo) : (s.setXo n x).dev = s.dev := rfl
@[simp] theorem State.setXo_cmd (s : State) (n : Nat) (x : Xo) : (s.setXo n x).cmd = s.cmd := rfl
@[simp] theorem State.setXo_time (s : State) (n : Nat) (x : Xo) : (s.setXo n x).time = s.time := rfl
@[simp] theorem State.setXo_easel (s : State) (n : Nat) (x : Xo) : (s.setXo n x).easel = s.easel := rfl
@[simp] theorem State.setXo_gw (s : State) (n : Nat) (x : Xo) : (s.setXo n x).gw = s.gw := rfl
@[simp] theorem State.setXo_lsw (s : State) (n : Nat) (x : Xo) : (s.setXo n x).lsw = s.lsw := rfl
@[simp] theorem State.setXo_pwr (s : State) (n : Nat) (x : Xo) : (s.setXo n x).pwr = s.pwr := rfl
@[simp] theorem State.setXo_par (s : State) (n : Nat) (x : Xo) : (s.setXo n x).par = s.par := rfl
@[simp] theorem State.setXo_wake (s : State) (n : Nat) (x : Xo) : (s.setXo n x).wake = s.wake := rfl
@[simp] theorem State.setXo_flt (s : State) (n : Nat) (x : Xo) : (s.setXo n x).flt = s.flt := rfl
@[simp] theorem State.setXo_swc (s : State) (n : Nat) (x : Xo) : (s.setXo n x).swc = s.swc := rfl
@[simp] theorem State.setXo_prt (s : State) (n : Nat) (x : Xo) : (s.setXo n x).prt = s.prt := rfl
@[simp] theorem State.setXo_can (s : State) (n : Nat) (x : Xo) : (s.setXo n x).can = s.can := rfl
@[simp] theorem State.setXo_fry (s : State) (n : Nat) (x : Xo) : (s.setXo n x).fry = s.fry := rfl
@[simp] theorem State.setXo_lin (s : State) (n : Nat) (x : Xo) : (s.setXo n x).lin = s.lin := rfl
@[simp] theorem State.setXo_bam (s : State) (n : Nat) (x : Xo) : (s.setXo n x).bam = s.bam := rfl
@[simp] theorem State.setXo_upd (s : State) (n : Nat) (x : Xo) : (s.setXo n x).upd = s.upd := rfl
@[simp] theorem State.setXo_xo (s : State) (n : Nat) (x : Xo) : (s.setXo n x).xo n = x :=
  Tab.val_put_same _ _ _ _
theorem State.setXo_xo_ne (s : State) (n m : Nat) (x : Xo) (h : m ≠ n) : (s.setXo n x).xo m = s.xo m :=
  Tab.val_put_ne _ _ _ _ _ h
@[simp] theorem State.setXo_din (s : State) (n m : Nat) (x : Xo) : (s.setXo n x).din m = s.din m := rfl

@[simp] theorem State.setSlot_pending (s : State) (n : Nat) (x : PalSlot) : (s.setSlot n x).pending = s.pending := rfl
@[simp] theorem State.setSlot_et (s : State) (n : Nat) (x : PalSlot) : (s.setSlot n x).et = s.et := rfl
@[simp] theorem State.setSlot_rtcNs (s : State) (n : Nat) (x : PalSlot) : (s.setSlot n x).rtcNs = s.rtcNs := rfl
@[simp] theorem State.setSlot_free (s : State) (n : Nat) (x : PalSlot) : (s.setSlot n x).free = s.free := rfl
@[simp] theorem State.setSlot_mem (s : State) (n : Nat) (x : PalSlot) : (s.setSlot n x).mem = s.mem := rfl
@[simp] theorem State.setSlot_evq (s : State) (n : Nat) (x : PalSlot) : (s.setSlot n x).evq = s.evq := rfl
@[simp] theorem State.setSlot_lastEv (s : State) (n : Nat) (x : PalSlot) : (s.setSlot n x).lastEv = s.lastEv := rfl
@[simp] theorem State.setSlot_dev (s : State) (n : Nat) (x : PalSlot) : (s.setSlot n x).dev = s.dev := rfl
@[simp] theorem State.setSlot_cmd (s : State) (n : Nat) (x : PalSlot) : (s.setSlot n x).cmd = s.cmd := rfl
@[simp] theorem State.setSlot_time (s : State) (n : Nat) (x : PalSlot) : (s.setSlot n x).time = s.time := rfl
@[simp] theorem State.setSlot_gw (s : State) (n : Nat) (x : PalSlot) : (s.setSlot n x).gw = s.gw := rfl
@[simp] theorem State.setSlot_lsw (s : State) (n : Nat) (x : PalSlot) : (s.setSlot n x).lsw = s.lsw := rfl
@[simp] theorem State.setSlot_pwr (s : State) (n : Nat) (x : PalSlot) : (s.setSlot n x).pwr = s.pwr := rfl
@[simp] theorem State.setSlot_dio (s : State) (n : Nat) (x : PalSlot) : (s.setSlot n x).dio = s.dio := rfl
@[simp] theorem State.setSlot_par (s : State) (n : Nat) (x : PalSlot) : (s.setSlot n x).par = s.par := rfl
@[simp] theorem State.setSlot_wake (s : State) (n : Nat) (x : PalSlot) : (s.setSlot n x).wake = s.wake := rfl
@[simp] theorem State.setSlot_flt (s : State) (n : Nat) (x : PalSlot) : (s.setSlot n x).flt = s.flt := rfl
@[simp] theorem State.setSlot_swc (s : State) (n : Nat) (x : PalSlot) : (s.setSlot n x).swc = s.swc := rfl
@[simp] theorem State.setSlot_prt (s : State) (n : Nat) (x : PalSlot) : (s.setSlot n x).prt = s.prt := rfl
@[simp] theorem State.setSlot_can (s : State) (n : Nat) (x : PalSlot) : (s.setSlot n x).can = s.can := rfl
@[simp] theorem State.setSlot_fry (s : State) (n : Nat) (x : PalSlot) : (s.setSlot n x).fry = s.fry := rfl
@[simp] theorem State.setSlot_lin (s : State) (n : Nat) (x : PalSlot) : (s.setSlot n x).lin = s.lin := rfl
@[simp] theorem State.setSlot_bam (s : State) (n : Nat) (x : PalSlot) : (s.setSlot n x).bam = s.bam := rfl
@[simp] theorem State.setSlot_upd (s : State) (n : Nat) (x : PalSlot) : (s.setSlot n x).upd = s.upd := rfl
@[simp] theorem State.setSlot_slot (s : State) (n : Nat) (x : PalSlot) : (s.setSlot n x).slot n = x :=
  Tab.val_put_same _ _ _ _
theorem State.setSlot_slot_ne (s : State) (n m : Nat) (x : PalSlot) (h : m ≠ n) : (s.setSlot n x).slot m = s.slot m :=
  Tab.val_put_ne _ _ _ _ _ h
@[simp] theorem State.setSlot_lane (s : State) (n m : Nat) (x : PalSlot) : (s.setSlot n x).lane m = s.lane m := rfl
@[simp] theorem State.setSlot_partOvr (s : State) (n m : Nat) (x : PalSlot) : (s.setSlot n x).partOvr m = s.partOvr m := rfl

@[simp] theorem State.setLane_pending (s : State) (l : Nat) (x : Lane) : (s.setLane l x).pending = s.pending := rfl
@[simp] theorem State.setLane_et (s : State) (l : Nat) (x : Lane) : (s.setLane l x).et = s.et := rfl
@[simp] theorem State.setLane_rtcNs (s : State) (l : Nat) (x : Lane) : (s.setLane l x).rtcNs = s.rtcNs := rfl
@[simp] theorem State.setLane_free (s : State) (l : Nat) (x : Lane) : (s.setLane l x).free = s.free := rfl
@[simp] theorem State.setLane_mem (s : State) (l : Nat) (x : Lane) : (s.setLane l x).mem = s.mem := rfl
@[simp] theorem State.setLane_evq (s : State) (l : Nat) (x : Lane) : (s.setLane l x).evq = s.evq := rfl
@[simp] theorem State.setLane_lastEv (s : State) (l : Nat) (x : Lane) : (s.setLane l x).lastEv = s.lastEv := rfl
@[simp] theorem State.setLane_dev (s : State) (l : Nat) (x : Lane) : (s.setLane l x).dev = s.dev := rfl
@[simp] theorem State.setLane_cmd (s : State) (l : Nat) (x : Lane) : (s.setLane l x).cmd = s.cmd := rfl
@[simp] theorem State.setLane_time (s : State) (l : Nat) (x : Lane) : (s.setLane l x).time = s.time := rfl
@[simp] theorem State.setLane_gw (s : State) (l : Nat) (x : Lane) : (s.setLane l x).gw = s.gw := rfl
@[simp] theorem State.setLane_lsw (s : State) (l : Nat) (x : Lane) : (s.setLane l x).lsw = s.lsw := rfl
@[simp] theorem State.setLane_pwr (s : State) (l : Nat) (x : Lane) : (s.setLane l x).pwr = s.pwr := rfl
@[simp] theorem State.setLane_dio (s : State) (l : Nat) (x : Lane) : (s.setLane l x).dio = s.dio := rfl
@[simp] theorem State.setLane_par (s : State) (l : Nat) (x : Lane) : (s.setLane l x).par = s.par := rfl
@[simp] theorem State.setLane_wake (s : State) (l : Nat) (x : Lane) : (s.setLane l x).wake = s.wake := rfl
@[simp] theorem State.setLane_flt (s : State) (l : Nat) (x : Lane) : (s.setLane l x).flt = s.flt := rfl
@[simp] theorem State.setLane_swc (s : State) (l : Nat) (x : Lane) : (s.setLane l x).swc = s.swc := rfl
@[simp] theorem State.setLane_prt (s : State) (l : Nat) (x : Lane) : (s.setLane l x).prt = s.prt := rfl
@[simp] theorem State.setLane_can (s : State) (l : Nat) (x : Lane) : (s.setLane l x).can = s.can := rfl
@[simp] theorem State.setLane_fry (s : State) (l : Nat) (x : Lane) : (s.setLane l x).fry = s.fry := rfl
@[simp] theorem State.setLane_lin (s : State) (l : Nat) (x : Lane) : (s.setLane l x).lin = s.lin := rfl
@[simp] theorem State.setLane_bam (s : State) (l : Nat) (x : Lane) : (s.setLane l x).bam = s.bam := rfl
@[simp] theorem State.setLane_upd (s : State) (l : Nat) (x : Lane) : (s.setLane l x).upd = s.upd := rfl
@[simp] theorem State.setLane_lane (s : State) (l : Nat) (x : Lane) : (s.setLane l x).lane l = x :=
  Tab.val_put_same _ _ _ _
theorem State.setLane_lane_ne (s : State) (l m : Nat) (x : Lane) (h : m ≠ l) : (s.setLane l x).lane m = s.lane m :=
  Tab.val_put_ne _ _ _ _ _ h
@[simp] theorem State.setLane_slot (s : State) (l m : Nat) (x : Lane) : (s.setLane l x).slot m = s.slot m := rfl
@[simp] theorem State.setLane_partOvr (s : State) (l m : Nat) (x : Lane) : (s.setLane l x).partOvr m = s.partOvr m := rfl

@[simp] theorem State.setPartOvr_pending (s : State) (p : Nat) (x : PartOvr) : (s.setPartOvr p x).pending = s.pending := rfl
@[simp] theorem State.setPartOvr_et (s : State) (p : Nat) (x : PartOvr) : (s.setPartOvr p x).et = s.et := rfl
@[simp] theorem State.setPartOvr_rtcNs (s : State) (p : Nat) (x : PartOvr) : (s.setPartOvr p x).rtcNs = s.rtcNs := rfl
@[simp] theorem State.setPartOvr_free (s : State) (p : Nat) (x : PartOvr) : (s.setPartOvr p x).free = s.free := rfl
@[simp] theorem State.setPartOvr_mem (s : State) (p : Nat) (x : PartOvr) : (s.setPartOvr p x).mem = s.mem := rfl
@[simp] theorem State.setPartOvr_evq (s : State) (p : Nat) (x : PartOvr) : (s.setPartOvr p x).evq = s.evq := rfl
@[simp] theorem State.setPartOvr_lastEv (s : State) (p : Nat) (x : PartOvr) : (s.setPartOvr p x).lastEv = s.lastEv := rfl
@[simp] theorem State.setPartOvr_dev (s : State) (p : Nat) (x : PartOvr) : (s.setPartOvr p x).dev = s.dev := rfl
@[simp] theorem State.setPartOvr_cmd (s : State) (p : Nat) (x : PartOvr) : (s.setPartOvr p x).cmd = s.cmd := rfl
@[simp] theorem State.setPartOvr_time (s : State) (p : Nat) (x : PartOvr) : (s.setPartOvr p x).time = s.time := rfl
@[simp] theorem State.setPartOvr_gw (s : State) (p : Nat) (x : PartOvr) : (s.setPartOvr p x).gw = s.gw := rfl
@[simp] theorem State.setPartOvr_lsw (s : State) (p : Nat) (x : PartOvr) : (s.setPartOvr p x).lsw = s.lsw := rfl
@[simp] theorem State.setPartOvr_pwr (s : State) (p : Nat) (x : PartOvr) : (s.setPartOvr p x).pwr = s.pwr := rfl
@[simp] theorem State.setPartOvr_dio (s : State) (p : Nat) (x : PartOvr) : (s.setPartOvr p x).dio = s.dio := rfl
@[simp] theorem State.setPartOvr_par (s : State) (p : Nat) (x : PartOvr) : (s.setPartOvr p x).par = s.par := rfl
@[simp] theorem State.setPartOvr_wake (s : State) (p : Nat) (x : PartOvr) : (s.setPartOvr p x).wake = s.wake := rfl
@[simp] theorem State.setPartOvr_flt (s : State) (p : Nat) (x : PartOvr) : (s.setPartOvr p x).flt = s.flt := rfl
@[simp] theorem State.setPartOvr_swc (s : State) (p : Nat) (x : PartOvr) : (s.setPartOvr p x).swc = s.swc := rfl
@[simp] theorem State.setPartOvr_prt (s : State) (p : Nat) (x : PartOvr) : (s.setPartOvr p x).prt = s.prt := rfl
@[simp] theorem State.setPartOvr_can (s : State) (p : Nat) (x : PartOvr) : (s.setPartOvr p x).can = s.can := rfl
@[simp] theorem State.setPartOvr_fry (s : State) (p : Nat) (x : PartOvr) : (s.setPartOvr p x).fry = s.fry := rfl
@[simp] theorem State.setPartOvr_lin (s : State) (p : Nat) (x : PartOvr) : (s.setPartOvr p x).lin = s.lin := rfl
@[simp] theorem State.setPartOvr_bam (s : State) (p : Nat) (x : PartOvr) : (s.setPartOvr p x).bam = s.bam := rfl
@[simp] theorem State.setPartOvr_upd (s : State) (p : Nat) (x : PartOvr) : (s.setPartOvr p x).upd = s.upd := rfl
@[simp] theorem State.setPartOvr_partOvr (s : State) (p : Nat) (x : PartOvr) : (s.setPartOvr p x).partOvr p = x :=
  Tab.val_put_same _ _ _ _
theorem State.setPartOvr_partOvr_ne (s : State) (p m : Nat) (x : PartOvr) (h : m ≠ p) : (s.setPartOvr p x).partOvr m = s.partOvr m :=
  Tab.val_put_ne _ _ _ _ _ h
@[simp] theorem State.setPartOvr_slot (s : State) (p m : Nat) (x : PartOvr) : (s.setPartOvr p x).slot m = s.slot m := rfl
@[simp] theorem State.setPartOvr_lane (s : State) (p m : Nat) (x : PartOvr) : (s.setPartOvr p x).lane m = s.lane m := rfl

@[simp] theorem State.setCluster_pending (s : State) (c : Nat) (x : FryCluster) : (s.setCluster c x).pending = s.pending := rfl
@[simp] theorem State.setCluster_et (s : State) (c : Nat) (x : FryCluster) : (s.setCluster c x).et = s.et := rfl
@[simp] theorem State.setCluster_rtcNs (s : State) (c : Nat) (x : FryCluster) : (s.setCluster c x).rtcNs = s.rtcNs := rfl
@[simp] theorem State.setCluster_free (s : State) (c : Nat) (x : FryCluster) : (s.setCluster c x).free = s.free := rfl
@[simp] theorem State.setCluster_mem (s : State) (c : Nat) (x : FryCluster) : (s.setCluster c x).mem = s.mem := rfl
@[simp] theorem State.setCluster_evq (s : State) (c : Nat) (x : FryCluster) : (s.setCluster c x).evq = s.evq := rfl
@[simp] theorem State.setCluster_lastEv (s : State) (c : Nat) (x : FryCluster) : (s.setCluster c x).lastEv = s.lastEv := rfl
@[simp] theorem State.setCluster_dev (s : State) (c : Nat) (x : FryCluster) : (s.setCluster c x).dev = s.dev := rfl
@[simp] theorem State.setCluster_cmd (s : State) (c : Nat) (x : FryCluster) : (s.setCluster c x).cmd = s.cmd := rfl
@[simp] theorem State.setCluster_time (s : State) (c : Nat) (x : FryCluster) : (s.setCluster c x).time = s.time := rfl
@[simp] theorem State.setCluster_easel (s : State) (c : Nat) (x : FryCluster) : (s.setCluster c x).easel = s.easel := rfl
@[simp] theorem State.setCluster_gw (s : State) (c : Nat) (x : FryCluster) : (s.setCluster c x).gw = s.gw := rfl
@[simp] theorem State.setCluster_lsw (s : State) (c : Nat) (x : FryCluster) : (s.setCluster c x).lsw = s.lsw := rfl
@[simp] theorem State.setCluster_pwr (s : State) (c : Nat) (x : FryCluster) : (s.setCluster c x).pwr = s.pwr := rfl
@[simp] theorem State.setCluster_dio (s : State) (c : Nat) (x : FryCluster) : (s.setCluster c x).dio = s.dio := rfl
@[simp] theorem State.setCluster_par (s : State) (c : Nat) (x : FryCluster) : (s.setCluster c x).par = s.par := rfl
@[simp] theorem State.setCluster_wake (s : State) (c : Nat) (x : FryCluster) : (s.setCluster c x).wake = s.wake := rfl
@[simp] theorem State.setCluster_flt (s : State) (c : Nat) (x : FryCluster) : (s.setCluster c x).flt = s.flt := rfl
@[simp] theorem State.setCluster_swc (s : State) (c : Nat) (x : FryCluster) : (s.setCluster c x).swc = s.swc := rfl
@[simp] theorem State.setCluster_prt (s : State) (c : Nat) (x : FryCluster) : (s.setCluster c x).prt = s.prt := rfl
@[simp] theorem State.setCluster_can (s : State) (c : Nat) (x : FryCluster) : (s.setCluster c x).can = s.can := rfl
@[simp] theorem State.setCluster_lin (s : State) (c : Nat) (x : FryCluster) : (s.setCluster c x).lin = s.lin := rfl
@[simp] theorem State.setCluster_bam (s : State) (c : Nat) (x : FryCluster) : (s.setCluster c x).bam = s.bam := rfl
@[simp] theorem State.setCluster_upd (s : State) (c : Nat) (x : FryCluster) : (s.setCluster c x).upd = s.upd := rfl
@[simp] theorem State.setCluster_cluster (s : State) (c : Nat) (x : FryCluster) : (s.setCluster c x).cluster c = x :=
  Tab.val_put_same _ _ _ _
theorem State.setCluster_cluster_ne (s : State) (c m : Nat) (x : FryCluster) (h : m ≠ c) : (s.setCluster c x).cluster m = s.cluster m :=
  Tab.val_put_ne _ _ _ _ _ h
@[simp] theorem State.setCluster_fryTx (s : State) (c m : Nat) (x : FryCluster) : (s.setCluster c x).fryTx m = s.fryTx m := rfl
@[simp] theorem State.setCluster_fryCh (s : State) (c m : Nat) (x : FryCluster) : (s.setCluster c x).fryCh m = s.fryCh m := rfl

@[simp] theorem State.setFryTx_pending (s : State) (j : Nat) (x : FryTx) : (s.setFryTx j x).pending = s.pending := rfl
@[simp] theorem State.setFryTx_et (s : State) (j : Nat) (x : FryTx) : (s.setFryTx j x).et = s.et := rfl
@[simp] theorem State.setFryTx_rtcNs (s : State) (j : Nat) (x : FryTx) : (s.setFryTx j x).rtcNs = s.rtcNs := rfl
@[simp] theorem State.setFryTx_free (s : State) (j : Nat) (x : FryTx) : (s.setFryTx j x).free = s.free := rfl
@[simp] theorem State.setFryTx_mem (s : State) (j : Nat) (x : FryTx) : (s.setFryTx j x).mem = s.mem := rfl
@[simp] theorem State.setFryTx_evq (s : State) (j : Nat) (x : FryTx) : (s.setFryTx j x).evq = s.evq := rfl
@[simp] theorem State.setFryTx_lastEv (s : State) (j : Nat) (x : FryTx) : (s.setFryTx j x).lastEv = s.lastEv := rfl
@[simp] theorem State.setFryTx_dev (s : State) (j : Nat) (x : FryTx) : (s.setFryTx j x).dev = s.dev := rfl
@[simp] theorem State.setFryTx_cmd (s : State) (j : Nat) (x : FryTx) : (s.setFryTx j x).cmd = s.cmd := rfl
@[simp] theorem State.setFryTx_time (s : State) (j : Nat) (x : FryTx) : (s.setFryTx j x).time = s.time := rfl
@[simp] theorem State.setFryTx_easel (s : State) (j : Nat) (x : FryTx) : (s.setFryTx j x).easel = s.easel := rfl
@[simp] theorem State.setFryTx_gw (s : State) (j : Nat) (x : FryTx) : (s.setFryTx j x).gw = s.gw := rfl
@[simp] theorem State.setFryTx_lsw (s : State) (j : Nat) (x : FryTx) : (s.setFryTx j x).lsw = s.lsw := rfl
@[simp] theorem State.setFryTx_pwr (s : State) (j : Nat) (x : FryTx) : (s.setFryTx j x).pwr = s.pwr := rfl
@[simp] theorem State.setFryTx_dio (s : State) (j : Nat) (x : FryTx) : (s.setFryTx j x).dio = s.dio := rfl
@[simp] theorem State.setFryTx_par (s : State) (j : Nat) (x : FryTx) : (s.setFryTx j x).par = s.par := rfl
@[simp] theorem State.setFryTx_wake (s : State) (j : Nat) (x : FryTx) : (s.setFryTx j x).wake = s.wake := rfl
@[simp] theorem State.setFryTx_flt (s : State) (j : Nat) (x : FryTx) : (s.setFryTx j x).flt = s.flt := rfl
@[simp] theorem State.setFryTx_swc (s : State) (j : Nat) (x : FryTx) : (s.setFryTx j x).swc = s.swc := rfl
@[simp] theorem State.setFryTx_prt (s : State) (j : Nat) (x : FryTx) : (s.setFryTx j x).prt = s.prt := rfl
@[simp] theorem State.setFryTx_can (s : State) (j : Nat) (x : FryTx) : (s.setFryTx j x).can = s.can := rfl
@[simp] theorem State.setFryTx_lin (s : State) (j : Nat) (x : FryTx) : (s.setFryTx j x).lin = s.lin := rfl
@[simp] theorem State.setFryTx_bam (s : State) (j : Nat) (x : FryTx) : (s.setFryTx j x).bam = s.bam := rfl
@[simp] theorem State.setFryTx_upd (s : State) (j : Nat) (x : FryTx) : (s.setFryTx j x).upd = s.upd := rfl
@[simp] theorem State.setFryTx_fryTx (s : State) (j : Nat) (x : FryTx) : (s.setFryTx j x).fryTx j = x :=
  Tab.val_put_same _ _ _ _
theorem State.setFryTx_fryTx_ne (s : State) (j m : Nat) (x : FryTx) (h : m ≠ j) : (s.setFryTx j x).fryTx m = s.fryTx m :=
  Tab.val_put_ne _ _ _ _ _ h
@[simp] theorem State.setFryTx_cluster (s : State) (j m : Nat) (x : FryTx) : (s.setFryTx j x).cluster m = s.cluster m := rfl
@[simp] theorem State.setFryTx_fryCh (s : State) (j m : Nat) (x : FryTx) : (s.setFryTx j x).fryCh m = s.fryCh m := rfl

@[simp] theorem State.setFryCh_pending (s : State) (k : Nat) (x : FryChan) : (s.setFryCh k x).pending = s.pending := rfl
@[simp] theorem State.setFryCh_et (s : State) (k : Nat) (x : FryChan) : (s.setFryCh k x).et = s.et := rfl
@[simp] theorem State.setFryCh_rtcNs (s : State) (k : Nat) (x : FryChan) : (s.setFryCh k x).rtcNs = s.rtcNs := rfl
@[simp] theorem State.setFryCh_free (s : State) (k : Nat) (x : FryChan) : (s.setFryCh k x).free = s.free := rfl
@[simp] theorem State.setFryCh_mem (s : State) (k : Nat) (x : FryChan) : (s.setFryCh k x).mem = s.mem := rfl
@[simp] theorem State.setFryCh_evq (s : State) (k : Nat) (x : FryChan) : (s.setFryCh k x).evq = s.evq := rfl
@[simp] theorem State.setFryCh_lastEv (s : State) (k : Nat) (x : FryChan) : (s.setFryCh k x).lastEv = s.lastEv := rfl
@[simp] theorem State.setFryCh_dev (s : State) (k : Nat) (x : FryChan) : (s.setFryCh k x).dev = s.dev := rfl
@[simp] theorem State.setFryCh_cmd (s : State) (k : Nat) (x : FryChan) : (s.setFryCh k x).cmd = s.cmd := rfl
@[simp] theorem State.setFryCh_time (s : State) (k : Nat) (x : FryChan) : (s.setFryCh k x).time = s.time := rfl
@[simp] theorem State.setFryCh_easel (s : State) (k : Nat) (x : FryChan) : (s.setFryCh k x).easel = s.easel := rfl
@[simp] theorem State.setFryCh_gw (s : State) (k : Nat) (x : FryChan) : (s.setFryCh k x).gw = s.gw := rfl
@[simp] theorem State.setFryCh_lsw (s : State) (k : Nat) (x : FryChan) : (s.setFryCh k x).lsw = s.lsw := rfl
@[simp] theorem State.setFryCh_pwr (s : State) (k : Nat) (x : FryChan) : (s.setFryCh k x).pwr = s.pwr := rfl
@[simp] theorem State.setFryCh_dio (s : State) (k : Nat) (x : FryChan) : (s.setFryCh k x).dio = s.dio := rfl
@[simp] theorem State.setFryCh_par (s : State) (k : Nat) (x : FryChan) : (s.setFryCh k x).par = s.par := rfl
@[simp] theorem State.setFryCh_wake (s : State) (k : Nat) (x : FryChan) : (s.setFryCh k x).wake = s.wake := rfl
@[simp] theorem State.setFryCh_flt (s : State) (k : Nat) (x : FryChan) : (s.setFryCh k x).flt = s.flt := rfl
@[simp] theorem State.setFryCh_swc (s : State) (k : Nat) (x : FryChan) : (s.setFryCh k x).swc = s.swc := rfl
@[simp] theorem State.setFryCh_prt (s : State) (k : Nat) (x : FryChan) : (s.setFryCh k x).prt = s.prt := rfl
@[simp] theorem State.setFryCh_can (s : State) (k : Nat) (x : FryChan) : (s.setFryCh k x).can = s.can := rfl
@[simp] theorem State.setFryCh_lin (s : State) (k : Nat) (x : FryChan) : (s.setFryCh k x).lin = s.lin := rfl
@[simp] theorem State.setFryCh_bam (s : State) (k : Nat) (x : FryChan) : (s.setFryCh k x).bam = s.bam := rfl
@[simp] theorem State.setFryCh_upd (s : State) (k : Nat) (x : FryChan) : (s.setFryCh k x).upd = s.upd := rfl
@[simp] theorem State.setFryCh_fryCh (s : State) (k : Nat) (x : FryChan) : (s.setFryCh k x).fryCh k = x :=
  Tab.val_put_same _ _ _ _
theorem State.setFryCh_fryCh_ne (s : State) (k m : Nat) (x : FryChan) (h : m ≠ k) : (s.setFryCh k x).fryCh m = s.fryCh m :=
  Tab.val_put_ne _ _ _ _ _ h
@[simp] theorem State.setFryCh_cluster (s : State) (k m : Nat) (x : FryChan) : (s.setFryCh k x).cluster m = s.cluster m := rfl
@[simp] theorem State.setFryCh_fryTx (s : State) (k m : Nat) (x : FryChan) : (s.setFryCh k x).fryTx m = s.fryTx m := rfl

@[simp] theorem State.setPipe_pending (s : State) (p : Nat) (x : Pipe) : (s.setPipe p x).pending = s.pending := rfl
@[simp] theorem State.setPipe_et (s : State) (p : Nat) (x : Pipe) : (s.setPipe p x).et = s.et := rfl
@[simp] theorem State.setPipe_rtcNs (s : State) (p : Nat) (x : Pipe) : (s.setPipe p x).rtcNs = s.rtcNs := rfl
@[simp] theorem State.setPipe_free (s : State) (p : Nat) (x : Pipe) : (s.setPipe p x).free = s.free := rfl
@[simp] theorem State.setPipe_mem (s : State) (p : Nat) (x : Pipe) : (s.setPipe p x).mem = s.mem := rfl
@[simp] theorem State.setPipe_evq (s : State) (p : Nat) (x : Pipe) : (s.setPipe p x).evq = s.evq := rfl
@[simp] theorem State.setPipe_lastEv (s : State) (p : Nat) (x : Pipe) : (s.setPipe p x).lastEv = s.lastEv := rfl
@[simp] theorem State.setPipe_dev (s : State) (p : Nat) (x : Pipe) : (s.setPipe p x).dev = s.dev := rfl
@[simp] theorem State.setPipe_cmd (s : State) (p : Nat) (x : Pipe) : (s.setPipe p x).cmd = s.cmd := rfl
@[simp] theorem State.setPipe_time (s : State) (p : Nat) (x : Pipe) : (s.setPipe p x).time = s.time := rfl
@[simp] theorem State.setPipe_easel (s : State) (p : Nat) (x : Pipe) : (s.setPipe p x).easel = s.easel := rfl
@[simp] theorem State.setPipe_lsw (s : State) (p : Nat) (x : Pipe) : (s.setPipe p x).lsw = s.lsw := rfl
@[simp] theorem State.setPipe_pwr (s : State) (p : Nat) (x : Pipe) : (s.setPipe p x).pwr = s.pwr := rfl
@[simp] theorem State.setPipe_dio (s : State) (p : Nat) (x : Pipe) : (s.setPipe p x).dio = s.dio := rfl
@[simp] theorem State.setPipe_par (s : State) (p : Nat) (x : Pipe) : (s.setPipe p x).par = s.par := rfl
@[simp] theorem State.setPipe_wake (s : State) (p : Nat) (x : Pipe) : (s.setPipe p x).wake = s.wake := rfl
@[simp] theorem State.setPipe_flt (s : State) (p : Nat) (x : Pipe) : (s.setPipe p x).flt = s.flt := rfl
@[simp] theorem State.setPipe_swc (s : State) (p : Nat) (x : Pipe) : (s.setPipe p x).swc = s.swc := rfl
@[simp] theorem State.setPipe_prt (s : State) (p : Nat) (x : Pipe) : (s.setPipe p x).prt = s.prt := rfl
@[simp] theorem State.setPipe_can (s : State) (p : Nat) (x : Pipe) : (s.setPipe p x).can = s.can := rfl
@[simp] theorem State.setPipe_fry (s : State) (p : Nat) (x : Pipe) : (s.setPipe p x).fry = s.fry := rfl
@[simp] theorem State.setPipe_lin (s : State) (p : Nat) (x : Pipe) : (s.setPipe p x).lin = s.lin := rfl
@[simp] theorem State.setPipe_bam (s : State) (p : Nat) (x : Pipe) : (s.setPipe p x).bam = s.bam := rfl
@[simp] theorem State.setPipe_upd (s : State) (p : Nat) (x : Pipe) : (s.setPipe p x).upd = s.upd := rfl
@[simp] theorem State.setPipe_pipe (s : State) (p : Nat) (x : Pipe) : (s.setPipe p x).pipe p = x :=
  Tab.val_put_same _ _ _ _
theorem State.setPipe_pipe_ne (s : State) (p m : Nat) (x : Pipe) (h : m ≠ p) : (s.setPipe p x).pipe m = s.pipe m :=
  Tab.val_put_ne _ _ _ _ _ h

@[simp] theorem State.setTimeSrc_pending (s : State) (c : Nat) (x : TimeSrc) : (s.setTimeSrc c x).pending = s.pending := rfl
@[simp] theorem State.setTimeSrc_et (s : State) (c : Nat) (x : TimeSrc) : (s.setTimeSrc c x).et = s.et := rfl
@[simp] theorem State.setTimeSrc_rtcNs (s : State) (c : Nat) (x : TimeSrc) : (s.setTimeSrc c x).rtcNs = s.rtcNs := rfl
@[simp] theorem State.setTimeSrc_free (s : State) (c : Nat) (x : TimeSrc) : (s.setTimeSrc c x).free = s.free := rfl
@[simp] theorem State.setTimeSrc_mem (s : State) (c : Nat) (x : TimeSrc) : (s.setTimeSrc c x).mem = s.mem := rfl
@[simp] theorem State.setTimeSrc_evq (s : State) (c : Nat) (x : TimeSrc) : (s.setTimeSrc c x).evq = s.evq := rfl
@[simp] theorem State.setTimeSrc_lastEv (s : State) (c : Nat) (x : TimeSrc) : (s.setTimeSrc c x).lastEv = s.lastEv := rfl
@[simp] theorem State.setTimeSrc_dev (s : State) (c : Nat) (x : TimeSrc) : (s.setTimeSrc c x).dev = s.dev := rfl
@[simp] theorem State.setTimeSrc_cmd (s : State) (c : Nat) (x : TimeSrc) : (s.setTimeSrc c x).cmd = s.cmd := rfl
@[simp] theorem State.setTimeSrc_easel (s : State) (c : Nat) (x : TimeSrc) : (s.setTimeSrc c x).easel = s.easel := rfl
@[simp] theorem State.setTimeSrc_gw (s : State) (c : Nat) (x : TimeSrc) : (s.setTimeSrc c x).gw = s.gw := rfl
@[simp] theorem State.setTimeSrc_lsw (s : State) (c : Nat) (x : TimeSrc) : (s.setTimeSrc c x).lsw = s.lsw := rfl
@[simp] theorem State.setTimeSrc_pwr (s : State) (c : Nat) (x : TimeSrc) : (s.setTimeSrc c x).pwr = s.pwr := rfl
@[simp] theorem State.setTimeSrc_dio (s : State) (c : Nat) (x : TimeSrc) : (s.setTimeSrc c x).dio = s.dio := rfl
@[simp] theorem State.setTimeSrc_par (s : State) (c : Nat) (x : TimeSrc) : (s.setTimeSrc c x).par = s.par := rfl
@[simp] theorem State.setTimeSrc_wake (s : State) (c : Nat) (x : TimeSrc) : (s.setTimeSrc c x).wake = s.wake := rfl
@[simp] theorem State.setTimeSrc_flt (s : State) (c : Nat) (x : TimeSrc) : (s.setTimeSrc c x).flt = s.flt := rfl
@[simp] theorem State.setTimeSrc_swc (s : State) (c : Nat) (x : TimeSrc) : (s.setTimeSrc c x).swc = s.swc := rfl
@[simp] theorem State.setTimeSrc_prt (s : State) (c : Nat) (x : TimeSrc) : (s.setTimeSrc c x).prt = s.prt := rfl
@[simp] theorem State.setTimeSrc_can (s : State) (c : Nat) (x : TimeSrc) : (s.setTimeSrc c x).can = s.can := rfl
@[simp] theorem State.setTimeSrc_fry (s : State) (c : Nat) (x : TimeSrc) : (s.setTimeSrc c x).fry = s.fry := rfl
@[simp] theorem State.setTimeSrc_lin (s : State) (c : Nat) (x : TimeSrc) : (s.setTimeSrc c x).lin = s.lin := rfl
@[simp] theorem State.setTimeSrc_bam (s : State) (c : Nat) (x : TimeSrc) : (s.setTimeSrc c x).bam = s.bam := rfl
@[simp] theorem State.setTimeSrc_upd (s : State) (c : Nat) (x : TimeSrc) : (s.setTimeSrc c x).upd = s.upd := rfl
@[simp] theorem State.setTimeSrc_timeSrc (s : State) (c : Nat) (x : TimeSrc) : (s.setTimeSrc c x).timeSrc c = x :=
  Tab.val_put_same _ _ _ _
theorem State.setTimeSrc_timeSrc_ne (s : State) (c m : Nat) (x : TimeSrc) (h : m ≠ c) : (s.setTimeSrc c x).timeSrc m = s.timeSrc m :=
  Tab.val_put_ne _ _ _ _ _ h
@[simp] theorem State.setTimeSrc_pg (s : State) (c m : Nat) (x : TimeSrc) : (s.setTimeSrc c x).pg m = s.pg m := rfl

@[simp] theorem State.setPg_pending (s : State) (n : Nat) (x : PulseGen) : (s.setPg n x).pending = s.pending := rfl
@[simp] theorem State.setPg_et (s : State) (n : Nat) (x : PulseGen) : (s.setPg n x).et = s.et := rfl
@[simp] theorem State.setPg_rtcNs (s : State) (n : Nat) (x : PulseGen) : (s.setPg n x).rtcNs = s.rtcNs := rfl
@[simp] theorem State.setPg_free (s : State) (n : Nat) (x : PulseGen) : (s.setPg n x).free = s.free := rfl
@[simp] theorem State.setPg_mem (s : State) (n : Nat) (x : PulseGen) : (s.setPg n x).mem = s.mem := rfl
@[simp] theorem State.setPg_evq (s : State) (n : Nat) (x : PulseGen) : (s.setPg n x).evq = s.evq := rfl
@[simp] theorem State.setPg_lastEv (s : State) (n : Nat) (x : PulseGen) : (s.setPg n x).lastEv = s.lastEv := rfl
@[simp] theorem State.setPg_dev (s : State) (n : Nat) (x : PulseGen) : (s.setPg n x).dev = s.dev := rfl
@[simp] theorem State.setPg_cmd (s : State) (n : Nat) (x : PulseGen) : (s.setPg n x).cmd = s.cmd := rfl
@[simp] theorem State.setPg_easel (s : State) (n : Nat) (x : PulseGen) : (s.setPg n x).easel = s.easel := rfl
@[simp] theorem State.setPg_gw (s : State) (n : Nat) (x : PulseGen) : (s.setPg n x).gw = s.gw := rfl
@[simp] theorem State.setPg_lsw (s : State) (n : Nat) (x : PulseGen) : (s.setPg n x).lsw = s.lsw := rfl
@[simp] theorem State.setPg_pwr (s : State) (n : Nat) (x : PulseGen) : (s.setPg n x).pwr = s.pwr := rfl
@[simp] theorem State.setPg_dio (s : State) (n : Nat) (x : PulseGen) : (s.setPg n x).dio = s.dio := rfl
@[simp] theorem State.setPg_par (s : State) (n : Nat) (x : PulseGen) : (s.setPg n x).par = s.par := rfl
@[simp] theorem State.setPg_wake (s : State) (n : Nat) (x : PulseGen) : (s.setPg n x).wake = s.wake := rfl
@[simp] theorem State.setPg_flt (s : State) (n : Nat) (x : PulseGen) : (s.setPg n x).flt = s.flt := rfl
@[simp] theorem State.setPg_swc (s : State) (n : Nat) (x : PulseGen) : (s.setPg n x).swc = s.swc := rfl
@[simp] theorem State.setPg_prt (s : State) (n : Nat) (x : PulseGen) : (s.setPg n x).prt = s.prt := rfl
@[simp] theorem State.setPg_can (s : State) (n : Nat) (x : PulseGen) : (s.setPg n x).can = s.can := rfl
@[simp] theorem State.setPg_fry (s : State) (n : Nat) (x : PulseGen) : (s.setPg n x).fry = s.fry := rfl
@[simp] theorem State.setPg_lin (s : State) (n : Nat) (x : PulseGen) : (s.setPg n x).lin = s.lin := rfl
@[simp] theorem State.setPg_bam (s : State) (n : Nat) (x : PulseGen) : (s.setPg n x).bam = s.bam := rfl
@[simp] theorem State.setPg_upd (s : State) (n : Nat) (x : PulseGen) : (s.setPg n x).upd = s.upd := rfl
@[simp] theorem State.setPg_pg (s : State) (n : Nat) (x : PulseGen) : (s.setPg n x).pg n = x :=
  Tab.val_put_same _ _ _ _
theorem State.setPg_pg_ne (s : State) (n m : Nat) (x : PulseGen) (h : m ≠ n) : (s.setPg n x).pg m = s.pg m :=
  Tab.val_put_ne _ _ _ _ _ h
@[simp] theorem State.setPg_timeSrc (s : State) (n m : Nat) (x : PulseGen) : (s.setPg n x).timeSrc m = s.timeSrc m := rfl

end Sys2Proof.Machine
end

