-- ==== Sys2Proof/Laws/Shared.lean ====
section
/-!
SUPPORT. Sys2Proof/Laws/Shared.lean: what the shared operations of Ops.lean and Engine.lean leave alone, one lemma per operation
and field of the state, so that a proof about a command need not unfold them.
-/

namespace Sys2Proof.Machine

@[simp] theorem State.store_pending (s : State) (a : Nat) (bs : List Byte) : (s.store a bs).pending = s.pending := congrArg KRing.pending (State.store_kRing s a bs)
@[simp] theorem State.store_et (s : State) (a : Nat) (bs : List Byte) : (s.store a bs).et = s.et := congrArg KRing.et (State.store_kRing s a bs)
@[simp] theorem State.store_rtcNs (s : State) (a : Nat) (bs : List Byte) : (s.store a bs).rtcNs = s.rtcNs := congrArg KRing.rtcNs (State.store_kRing s a bs)
@[simp] theorem State.store_free (s : State) (a : Nat) (bs : List Byte) : (s.store a bs).free = s.free := congrArg KRing.free (State.store_kRing s a bs)
@[simp] theorem State.store_time (s : State) (a : Nat) (bs : List Byte) : (s.store a bs).time = s.time := congrArg KRing.time (State.store_kRing s a bs)
@[simp] theorem State.store_easel (s : State) (a : Nat) (bs : List Byte) : (s.store a bs).easel = s.easel := congrArg KRing.easel (State.store_kRing s a bs)
@[simp] theorem State.store_gw (s : State) (a : Nat) (bs : List Byte) : (s.store a bs).gw = s.gw := congrArg KRing.gw (State.store_kRing s a bs)
@[simp] theorem State.store_lsw (s : State) (a : Nat) (bs : List Byte) : (s.store a bs).lsw = s.lsw := congrArg KRing.lsw (State.store_kRing s a bs)
@[simp] theorem State.store_pwr (s : State) (a : Nat) (bs : List Byte) : (s.store a bs).pwr = s.pwr := congrArg KRing.pwr (State.store_kRing s a bs)
@[simp] theorem State.store_dio (s : State) (a : Nat) (bs : List Byte) : (s.store a bs).dio = s.dio := congrArg KRing.dio (State.store_kRing s a bs)
@[simp] theorem State.store_wake (s : State) (a : Nat) (bs : List Byte) : (s.store a bs).wake = s.wake := congrArg KRing.wake (State.store_kRing s a bs)
@[simp] theorem State.store_swc (s : State) (a : Nat) (bs : List Byte) : (s.store a bs).swc = s.swc := congrArg KRing.swc (State.store_kRing s a bs)
@[simp] theorem State.store_prt (s : State) (a : Nat) (bs : List Byte) : (s.store a bs).prt = s.prt := congrArg KRing.prt (State.store_kRing s a bs)
@[simp] theorem State.store_can (s : State) (a : Nat) (bs : List Byte) : (s.store a bs).can = s.can := congrArg KRing.can (State.store_kRing s a bs)
@[simp] theorem State.store_fry (s : State) (a : Nat) (bs : List Byte) : (s.store a bs).fry = s.fry := congrArg KRing.fry (State.store_kRing s a bs)
@[simp] theorem State.store_lin (s : State) (a : Nat) (bs : List Byte) : (s.store a bs).lin = s.lin := congrArg KRing.lin (State.store_kRing s a bs)
@[simp] theorem State.store_bam (s : State) (a : Nat) (bs : List Byte) : (s.store a bs).bam = s.bam := congrArg KRing.bam (State.store_kRing s a bs)
@[simp] theorem State.store_upd (s : State) (a : Nat) (bs : List Byte) : (s.store a bs).upd = s.upd := congrArg KRing.upd (State.store_kRing s a bs)

@[simp] theorem State.deliver_pending (s : State) (ev : EventRec) (p : Nat) : (s.deliver ev p).pending = s.pending := congrArg KRing.pending (State.deliver_kRing s ev p)
@[simp] theorem State.deliver_et (s : State) (ev : EventRec) (p : Nat) : (s.deliver ev p).et = s.et := congrArg KRing.et (State.deliver_kRing s ev p)
@[simp] theorem State.deliver_rtcNs (s : State) (ev : EventRec) (p : Nat) : (s.deliver ev p).rtcNs = s.rtcNs := congrArg KRing.rtcNs (State.deliver_kRing s ev p)
@[simp] theorem State.deliver_free (s : State) (ev : EventRec) (p : Nat) : (s.deliver ev p).free = s.free := congrArg KRing.free (State.deliver_kRing s ev p)
@[simp] theorem State.deliver_time (s : State) (ev : EventRec) (p : Nat) : (s.deliver ev p).time = s.time := congrArg KRing.time (State.deliver_kRing s ev p)
@[simp] theorem State.deliver_easel (s : State) (ev : EventRec) (p : Nat) : (s.deliver ev p).easel = s.easel := congrArg KRing.easel (State.deliver_kRing s ev p)
@[simp] theorem State.deliver_gw (s : State) (ev : EventRec) (p : Nat) : (s.deliver ev p).gw = s.gw := congrArg KRing.gw (State.deliver_kRing s ev p)
@[simp] theorem State.deliver_lsw (s : State) (ev : EventRec) (p : Nat) : (s.deliver ev p).lsw = s.lsw := congrArg KRing.lsw (State.deliver_kRing s ev p)
@[simp] theorem State.deliver_pwr (s : State) (ev : EventRec) (p : Nat) : (s.deliver ev p).pwr = s.pwr := congrArg KRing.pwr (State.deliver_kRing s ev p)
@[simp] theorem State.deliver_dio (s : State) (ev : EventRec) (p : Nat) : (s.deliver ev p).dio = s.dio := congrArg KRing.dio (State.deliver_kRing s ev p)
@[simp] theorem State.deliver_wake (s : State) (ev : EventRec) (p : Nat) : (s.deliver ev p).wake = s.wake := congrArg KRing.wake (State.deliver_kRing s ev p)
@[simp] theorem State.deliver_swc (s : State) (ev : EventRec) (p : Nat) : (s.deliver ev p).swc = s.swc := congrArg KRing.swc (State.deliver_kRing s ev p)
@[simp] theorem State.deliver_prt (s : State) (ev : EventRec) (p : Nat) : (s.deliver ev p).prt = s.prt := congrArg KRing.prt (State.deliver_kRing s ev p)
@[simp] theorem State.deliver_can (s : State) (ev : EventRec) (p : Nat) : (s.deliver ev p).can = s.can := congrArg KRing.can (State.deliver_kRing s ev p)
@[simp] theorem State.deliver_fry (s : State) (ev : EventRec) (p : Nat) : (s.deliver ev p).fry = s.fry := congrArg KRing.fry (State.deliver_kRing s ev p)
@[simp] theorem State.deliver_lin (s : State) (ev : EventRec) (p : Nat) : (s.deliver ev p).lin = s.lin := congrArg KRing.lin (State.deliver_kRing s ev p)
@[simp] theorem State.deliver_bam (s : State) (ev : EventRec) (p : Nat) : (s.deliver ev p).bam = s.bam := congrArg KRing.bam (State.deliver_kRing s ev p)
@[simp] theorem State.deliver_upd (s : State) (ev : EventRec) (p : Nat) : (s.deliver ev p).upd = s.upd := congrArg KRing.upd (State.deliver_kRing s ev p)

@[simp] theorem State.raiseAt_pending (s : State) (et : Nat) (tos : List Nat) (src kind data : Nat) : (s.raiseAt et tos src kind data).pending = s.pending := congrArg KRing.pending (State.raiseAt_kRing s et tos src kind data)
@[simp] theorem State.raiseAt_et (s : State) (et : Nat) (tos : List Nat) (src kind data : Nat) : (s.raiseAt et tos src kind data).et = s.et := congrArg KRing.et (State.raiseAt_kRing s et tos src kind data)
@[simp] theorem State.raiseAt_rtcNs (s : State) (et : Nat) (tos : List Nat) (src kind data : Nat) : (s.raiseAt et tos src kind data).rtcNs = s.rtcNs := congrArg KRing.rtcNs (State.raiseAt_kRing s et tos src kind data)
@[simp] theorem State.raiseAt_free (s : State) (et : Nat) (tos : List Nat) (src kind data : Nat) : (s.raiseAt et tos src kind data).free = s.free := congrArg KRing.free (State.raiseAt_kRing s et tos src kind data)
@[simp] theorem State.raiseAt_time (s : State) (et : Nat) (tos : List Nat) (src kind data : Nat) : (s.raiseAt et tos src kind data).time = s.time := congrArg KRing.time (State.raiseAt_kRing s et tos src kind data)
@[simp] theorem State.raiseAt_easel (s : State) (et : Nat) (tos : List Nat) (src kind data : Nat) : (s.raiseAt et tos src kind data).easel = s.easel := congrArg KRing.easel (State.raiseAt_kRing s et tos src kind data)
@[simp] theorem State.raiseAt_gw (s : State) (et : Nat) (tos : List Nat) (src kind data : Nat) : (s.raiseAt et tos src kind data).gw = s.gw := congrArg KRing.gw (State.raiseAt_kRing s et tos src kind data)
@[simp] theorem State.raiseAt_lsw (s : State) (et : Nat) (tos : List Nat) (src kind data : Nat) : (s.raiseAt et tos src kind data).lsw = s.lsw := congrArg KRing.lsw (State.raiseAt_kRing s et tos src kind data)
@[simp] theorem State.raiseAt_pwr (s : State) (et : Nat) (tos : List Nat) (src kind data : Nat) : (s.raiseAt et tos src kind data).pwr = s.pwr := congrArg KRing.pwr (State.raiseAt_kRing s et tos src kind data)
@[simp] theorem State.raiseAt_dio (s : State) (et : Nat) (tos : List Nat) (src kind data : Nat) : (s.raiseAt et tos src kind data).dio = s.dio := congrArg KRing.dio (State.raiseAt_kRing s et tos src kind data)
@[simp] theorem State.raiseAt_wake (s : State) (et : Nat) (tos : List Nat) (src kind data : Nat) : (s.raiseAt et tos src kind data).wake = s.wake := congrArg KRing.wake (State.raiseAt_kRing s et tos src kind data)
@[simp] theorem State.raiseAt_swc (s : State) (et : Nat) (tos : List Nat) (src kind data : Nat) : (s.raiseAt et tos src kind data).swc = s.swc := congrArg KRing.swc (State.raiseAt_kRing s et tos src kind data)
@[simp] theorem State.raiseAt_prt (s : State) (et : Nat) (tos : List Nat) (src kind data : Nat) : (s.raiseAt et tos src kind data).prt = s.prt := congrArg KRing.prt (State.raiseAt_kRing s et tos src kind data)
@[simp] theorem State.raiseAt_can (s : State) (et : Nat) (tos : List Nat) (src kind data : Nat) : (s.raiseAt et tos src kind data).can = s.can := congrArg KRing.can (State.raiseAt_kRing s et tos src kind data)
@[simp] theorem State.raiseAt_fry (s : State) (et : Nat) (tos : List Nat) (src kind data : Nat) : (s.raiseAt et tos src kind data).fry = s.fry := congrArg KRing.fry (State.raiseAt_kRing s et tos src kind data)
@[simp] theorem State.raiseAt_lin (s : State) (et : Nat) (tos : List Nat) (src kind data : Nat) : (s.raiseAt et tos src kind data).lin = s.lin := congrArg KRing.lin (State.raiseAt_kRing s et tos src kind data)
@[simp] theorem State.raiseAt_bam (s : State) (et : Nat) (tos : List Nat) (src kind data : Nat) : (s.raiseAt et tos src kind data).bam = s.bam := congrArg KRing.bam (State.raiseAt_kRing s et tos src kind data)
@[simp] theorem State.raiseAt_upd (s : State) (et : Nat) (tos : List Nat) (src kind data : Nat) : (s.raiseAt et tos src kind data).upd = s.upd := congrArg KRing.upd (State.raiseAt_kRing s et tos src kind data)

@[simp] theorem State.raise_pending (s : State) (tos : List Nat) (src kind data : Nat) : (s.raise tos src kind data).pending = s.pending := congrArg KRing.pending (State.raise_kRing s tos src kind data)
@[simp] theorem State.raise_et (s : State) (tos : List Nat) (src kind data : Nat) : (s.raise tos src kind data).et = s.et := congrArg KRing.et (State.raise_kRing s tos src kind data)
@[simp] theorem State.raise_rtcNs (s : State) (tos : List Nat) (src kind data : Nat) : (s.raise tos src kind data).rtcNs = s.rtcNs := congrArg KRing.rtcNs (State.raise_kRing s tos src kind data)
@[simp] theorem State.raise_free (s : State) (tos : List Nat) (src kind data : Nat) : (s.raise tos src kind data).free = s.free := congrArg KRing.free (State.raise_kRing s tos src kind data)
@[simp] theorem State.raise_time (s : State) (tos : List Nat) (src kind data : Nat) : (s.raise tos src kind data).time = s.time := congrArg KRing.time (State.raise_kRing s tos src kind data)
@[simp] theorem State.raise_easel (s : State) (tos : List Nat) (src kind data : Nat) : (s.raise tos src kind data).easel = s.easel := congrArg KRing.easel (State.raise_kRing s tos src kind data)
@[simp] theorem State.raise_gw (s : State) (tos : List Nat) (src kind data : Nat) : (s.raise tos src kind data).gw = s.gw := congrArg KRing.gw (State.raise_kRing s tos src kind data)
@[simp] theorem State.raise_lsw (s : State) (tos : List Nat) (src kind data : Nat) : (s.raise tos src kind data).lsw = s.lsw := congrArg KRing.lsw (State.raise_kRing s tos src kind data)
@[simp] theorem State.raise_pwr (s : State) (tos : List Nat) (src kind data : Nat) : (s.raise tos src kind data).pwr = s.pwr := congrArg KRing.pwr (State.raise_kRing s tos src kind data)
@[simp] theorem State.raise_dio (s : State) (tos : List Nat) (src kind data : Nat) : (s.raise tos src kind data).dio = s.dio := congrArg KRing.dio (State.raise_kRing s tos src kind data)
@[simp] theorem State.raise_wake (s : State) (tos : List Nat) (src kind data : Nat) : (s.raise tos src kind data).wake = s.wake := congrArg KRing.wake (State.raise_kRing s tos src kind data)
@[simp] theorem State.raise_swc (s : State) (tos : List Nat) (src kind data : Nat) : (s.raise tos src kind data).swc = s.swc := congrArg KRing.swc (State.raise_kRing s tos src kind data)
@[simp] theorem State.raise_prt (s : State) (tos : List Nat) (src kind data : Nat) : (s.raise tos src kind data).prt = s.prt := congrArg KRing.prt (State.raise_kRing s tos src kind data)
@[simp] theorem State.raise_can (s : State) (tos : List Nat) (src kind data : Nat) : (s.raise tos src kind data).can = s.can := congrArg KRing.can (State.raise_kRing s tos src kind data)
@[simp] theorem State.raise_fry (s : State) (tos : List Nat) (src kind data : Nat) : (s.raise tos src kind data).fry = s.fry := congrArg KRing.fry (State.raise_kRing s tos src kind data)
@[simp] theorem State.raise_lin (s : State) (tos : List Nat) (src kind data : Nat) : (s.raise tos src kind data).lin = s.lin := congrArg KRing.lin (State.raise_kRing s tos src kind data)
@[simp] theorem State.raise_bam (s : State) (tos : List Nat) (src kind data : Nat) : (s.raise tos src kind data).bam = s.bam := congrArg KRing.bam (State.raise_kRing s tos src kind data)
@[simp] theorem State.raise_upd (s : State) (tos : List Nat) (src kind data : Nat) : (s.raise tos src kind data).upd = s.upd := congrArg KRing.upd (State.raise_kRing s tos src kind data)

@[simp] theorem State.raiseOnce_pending (s : State) (tos : List Nat) (src kind data : Nat) : (s.raiseOnce tos src kind data).pending = s.pending := congrArg KRing.pending (State.raiseOnce_kRing s tos src kind data)
@[simp] theorem State.raiseOnce_et (s : State) (tos : List Nat) (src kind data : Nat) : (s.raiseOnce tos src kind data).et = s.et := congrArg KRing.et (State.raiseOnce_kRing s tos src kind data)
@[simp] theorem State.raiseOnce_rtcNs (s : State) (tos : List Nat) (src kind data : Nat) : (s.raiseOnce tos src kind data).rtcNs = s.rtcNs := congrArg KRing.rtcNs (State.raiseOnce_kRing s tos src kind data)
@[simp] theorem State.raiseOnce_free (s : State) (tos : List Nat) (src kind data : Nat) : (s.raiseOnce tos src kind data).free = s.free := congrArg KRing.free (State.raiseOnce_kRing s tos src kind data)
@[simp] theorem State.raiseOnce_time (s : State) (tos : List Nat) (src kind data : Nat) : (s.raiseOnce tos src kind data).time = s.time := congrArg KRing.time (State.raiseOnce_kRing s tos src kind data)
@[simp] theorem State.raiseOnce_easel (s : State) (tos : List Nat) (src kind data : Nat) : (s.raiseOnce tos src kind data).easel = s.easel := congrArg KRing.easel (State.raiseOnce_kRing s tos src kind data)
@[simp] theorem State.raiseOnce_gw (s : State) (tos : List Nat) (src kind data : Nat) : (s.raiseOnce tos src kind data).gw = s.gw := congrArg KRing.gw (State.raiseOnce_kRing s tos src kind data)
@[simp] theorem State.raiseOnce_lsw (s : State) (tos : List Nat) (src kind data : Nat) : (s.raiseOnce tos src kind data).lsw = s.lsw := congrArg KRing.lsw (State.raiseOnce_kRing s tos src kind data)
@[simp] theorem State.raiseOnce_pwr (s : State) (tos : List Nat) (src kind data : Nat) : (s.raiseOnce tos src kind data).pwr = s.pwr := congrArg KRing.pwr (State.raiseOnce_kRing s tos src kind data)
@[simp] theorem State.raiseOnce_dio (s : State) (tos : List Nat) (src kind data : Nat) : (s.raiseOnce tos src kind data).dio = s.dio := congrArg KRing.dio (State.raiseOnce_kRing s tos src kind data)
@[simp] theorem State.raiseOnce_wake (s : State) (tos : List Nat) (src kind data : Nat) : (s.raiseOnce tos src kind data).wake = s.wake := congrArg KRing.wake (State.raiseOnce_kRing s tos src kind data)
@[simp] theorem State.raiseOnce_swc (s : State) (tos : List Nat) (src kind data : Nat) : (s.raiseOnce tos src kind data).swc = s.swc := congrArg KRing.swc (State.raiseOnce_kRing s tos src kind data)
@[simp] theorem State.raiseOnce_prt (s : State) (tos : List Nat) (src kind data : Nat) : (s.raiseOnce tos src kind data).prt = s.prt := congrArg KRing.prt (State.raiseOnce_kRing s tos src kind data)
@[simp] theorem State.raiseOnce_can (s : State) (tos : List Nat) (src kind data : Nat) : (s.raiseOnce tos src kind data).can = s.can := congrArg KRing.can (State.raiseOnce_kRing s tos src kind data)
@[simp] theorem State.raiseOnce_fry (s : State) (tos : List Nat) (src kind data : Nat) : (s.raiseOnce tos src kind data).fry = s.fry := congrArg KRing.fry (State.raiseOnce_kRing s tos src kind data)
@[simp] theorem State.raiseOnce_lin (s : State) (tos : List Nat) (src kind data : Nat) : (s.raiseOnce tos src kind data).lin = s.lin := congrArg KRing.lin (State.raiseOnce_kRing s tos src kind data)
@[simp] theorem State.raiseOnce_bam (s : State) (tos : List Nat) (src kind data : Nat) : (s.raiseOnce tos src kind data).bam = s.bam := congrArg KRing.bam (State.raiseOnce_kRing s tos src kind data)
@[simp] theorem State.raiseOnce_upd (s : State) (tos : List Nat) (src kind data : Nat) : (s.raiseOnce tos src kind data).upd = s.upd := congrArg KRing.upd (State.raiseOnce_kRing s tos src kind data)

@[simp] theorem State.ringDiscard_pending (s : State) (n : Nat) : (s.ringDiscard n).pending = s.pending := congrArg KRing.pending (State.ringDiscard_kRing s n)
@[simp] theorem State.ringDiscard_et (s : State) (n : Nat) : (s.ringDiscard n).et = s.et := congrArg KRing.et (State.ringDiscard_kRing s n)
@[simp] theorem State.ringDiscard_rtcNs (s : State) (n : Nat) : (s.ringDiscard n).rtcNs = s.rtcNs := congrArg KRing.rtcNs (State.ringDiscard_kRing s n)
@[simp] theorem State.ringDiscard_free (s : State) (n : Nat) : (s.ringDiscard n).free = s.free := congrArg KRing.free (State.ringDiscard_kRing s n)
@[simp] theorem State.ringDiscard_time (s : State) (n : Nat) : (s.ringDiscard n).time = s.time := congrArg KRing.time (State.ringDiscard_kRing s n)
@[simp] theorem State.ringDiscard_easel (s : State) (n : Nat) : (s.ringDiscard n).easel = s.easel := congrArg KRing.easel (State.ringDiscard_kRing s n)
@[simp] theorem State.ringDiscard_gw (s : State) (n : Nat) : (s.ringDiscard n).gw = s.gw := congrArg KRing.gw (State.ringDiscard_kRing s n)
@[simp] theorem State.ringDiscard_lsw (s : State) (n : Nat) : (s.ringDiscard n).lsw = s.lsw := congrArg KRing.lsw (State.ringDiscard_kRing s n)
@[simp] theorem State.ringDiscard_pwr (s : State) (n : Nat) : (s.ringDiscard n).pwr = s.pwr := congrArg KRing.pwr (State.ringDiscard_kRing s n)
@[simp] theorem State.ringDiscard_dio (s : State) (n : Nat) : (s.ringDiscard n).dio = s.dio := congrArg KRing.dio (State.ringDiscard_kRing s n)
@[simp] theorem State.ringDiscard_wake (s : State) (n : Nat) : (s.ringDiscard n).wake = s.wake := congrArg KRing.wake (State.ringDiscard_kRing s n)
@[simp] theorem State.ringDiscard_swc (s : State) (n : Nat) : (s.ringDiscard n).swc = s.swc := congrArg KRing.swc (State.ringDiscard_kRing s n)
@[simp] theorem State.ringDiscard_prt (s : State) (n : Nat) : (s.ringDiscard n).prt = s.prt := congrArg KRing.prt (State.ringDiscard_kRing s n)
@[simp] theorem State.ringDiscard_can (s : State) (n : Nat) : (s.ringDiscard n).can = s.can := congrArg KRing.can (State.ringDiscard_kRing s n)
@[simp] theorem State.ringDiscard_fry (s : State) (n : Nat) : (s.ringDiscard n).fry = s.fry := congrArg KRing.fry (State.ringDiscard_kRing s n)
@[simp] theorem State.ringDiscard_lin (s : State) (n : Nat) : (s.ringDiscard n).lin = s.lin := congrArg KRing.lin (State.ringDiscard_kRing s n)
@[simp] theorem State.ringDiscard_bam (s : State) (n : Nat) : (s.ringDiscard n).bam = s.bam := congrArg KRing.bam (State.ringDiscard_kRing s n)
@[simp] theorem State.ringDiscard_upd (s : State) (n : Nat) : (s.ringDiscard n).upd = s.upd := congrArg KRing.upd (State.ringDiscard_kRing s n)

@[simp] theorem State.raiseVi_pending (s : State) (n : Nat) : (s.raiseVi n).pending = s.pending := congrArg KRing.pending (State.raiseVi_kRing s n)
@[simp] theorem State.raiseVi_et (s : State) (n : Nat) : (s.raiseVi n).et = s.et := congrArg KRing.et (State.raiseVi_kRing s n)
@[simp] theorem State.raiseVi_rtcNs (s : State) (n : Nat) : (s.raiseVi n).rtcNs = s.rtcNs := congrArg KRing.rtcNs (State.raiseVi_kRing s n)
@[simp] theorem State.raiseVi_free (s : State) (n : Nat) : (s.raiseVi n).free = s.free := congrArg KRing.free (State.raiseVi_kRing s n)
@[simp] theorem State.raiseVi_time (s : State) (n : Nat) : (s.raiseVi n).time = s.time := congrArg KRing.time (State.raiseVi_kRing s n)
@[simp] theorem State.raiseVi_easel (s : State) (n : Nat) : (s.raiseVi n).easel = s.easel := congrArg KRing.easel (State.raiseVi_kRing s n)
@[simp] theorem State.raiseVi_gw (s : State) (n : Nat) : (s.raiseVi n).gw = s.gw := congrArg KRing.gw (State.raiseVi_kRing s n)
@[simp] theorem State.raiseVi_lsw (s : State) (n : Nat) : (s.raiseVi n).lsw = s.lsw := congrArg KRing.lsw (State.raiseVi_kRing s n)
@[simp] theorem State.raiseVi_pwr (s : State) (n : Nat) : (s.raiseVi n).pwr = s.pwr := congrArg KRing.pwr (State.raiseVi_kRing s n)
@[simp] theorem State.raiseVi_dio (s : State) (n : Nat) : (s.raiseVi n).dio = s.dio := congrArg KRing.dio (State.raiseVi_kRing s n)
@[simp] theorem State.raiseVi_wake (s : State) (n : Nat) : (s.raiseVi n).wake = s.wake := congrArg KRing.wake (State.raiseVi_kRing s n)
@[simp] theorem State.raiseVi_swc (s : State) (n : Nat) : (s.raiseVi n).swc = s.swc := congrArg KRing.swc (State.raiseVi_kRing s n)
@[simp] theorem State.raiseVi_prt (s : State) (n : Nat) : (s.raiseVi n).prt = s.prt := congrArg KRing.prt (State.raiseVi_kRing s n)
@[simp] theorem State.raiseVi_can (s : State) (n : Nat) : (s.raiseVi n).can = s.can := congrArg KRing.can (State.raiseVi_kRing s n)
@[simp] theorem State.raiseVi_fry (s : State) (n : Nat) : (s.raiseVi n).fry = s.fry := congrArg KRing.fry (State.raiseVi_kRing s n)
@[simp] theorem State.raiseVi_lin (s : State) (n : Nat) : (s.raiseVi n).lin = s.lin := congrArg KRing.lin (State.raiseVi_kRing s n)
@[simp] theorem State.raiseVi_bam (s : State) (n : Nat) : (s.raiseVi n).bam = s.bam := congrArg KRing.bam (State.raiseVi_kRing s n)
@[simp] theorem State.raiseVi_upd (s : State) (n : Nat) : (s.raiseVi n).upd = s.upd := congrArg KRing.upd (State.raiseVi_kRing s n)

@[simp] theorem State.ringIrq_pending (s : State) (n : Nat) : (s.ringIrq n).pending = s.pending := congrArg KRing.pending (State.ringIrq_kRing s n)
@[simp] theorem State.ringIrq_et (s : State) (n : Nat) : (s.ringIrq n).et = s.et := congrArg KRing.et (State.ringIrq_kRing s n)
@[simp] theorem State.ringIrq_rtcNs (s : State) (n : Nat) : (s.ringIrq n).rtcNs = s.rtcNs := congrArg KRing.rtcNs (State.ringIrq_kRing s n)
@[simp] theorem State.ringIrq_free (s : State) (n : Nat) : (s.ringIrq n).free = s.free := congrArg KRing.free (State.ringIrq_kRing s n)
@[simp] theorem State.ringIrq_time (s : State) (n : Nat) : (s.ringIrq n).time = s.time := congrArg KRing.time (State.ringIrq_kRing s n)
@[simp] theorem State.ringIrq_easel (s : State) (n : Nat) : (s.ringIrq n).easel = s.easel := congrArg KRing.easel (State.ringIrq_kRing s n)
@[simp] theorem State.ringIrq_gw (s : State) (n : Nat) : (s.ringIrq n).gw = s.gw := congrArg KRing.gw (State.ringIrq_kRing s n)
@[simp] theorem State.ringIrq_lsw (s : State) (n : Nat) : (s.ringIrq n).lsw = s.lsw := congrArg KRing.lsw (State.ringIrq_kRing s n)
@[simp] theorem State.ringIrq_pwr (s : State) (n : Nat) : (s.ringIrq n).pwr = s.pwr := congrArg KRing.pwr (State.ringIrq_kRing s n)
@[simp] theorem State.ringIrq_dio (s : State) (n : Nat) : (s.ringIrq n).dio = s.dio := congrArg KRing.dio (State.ringIrq_kRing s n)
@[simp] theorem State.ringIrq_wake (s : State) (n : Nat) : (s.ringIrq n).wake = s.wake := congrArg KRing.wake (State.ringIrq_kRing s n)
@[simp] theorem State.ringIrq_swc (s : State) (n : Nat) : (s.ringIrq n).swc = s.swc := congrArg KRing.swc (State.ringIrq_kRing s n)
@[simp] theorem State.ringIrq_prt (s : State) (n : Nat) : (s.ringIrq n).prt = s.prt := congrArg KRing.prt (State.ringIrq_kRing s n)
@[simp] theorem State.ringIrq_can (s : State) (n : Nat) : (s.ringIrq n).can = s.can := congrArg KRing.can (State.ringIrq_kRing s n)
@[simp] theorem State.ringIrq_fry (s : State) (n : Nat) : (s.ringIrq n).fry = s.fry := congrArg KRing.fry (State.ringIrq_kRing s n)
@[simp] theorem State.ringIrq_lin (s : State) (n : Nat) : (s.ringIrq n).lin = s.lin := congrArg KRing.lin (State.ringIrq_kRing s n)
@[simp] theorem State.ringIrq_bam (s : State) (n : Nat) : (s.ringIrq n).bam = s.bam := congrArg KRing.bam (State.ringIrq_kRing s n)
@[simp] theorem State.ringIrq_upd (s : State) (n : Nat) : (s.ringIrq n).upd = s.upd := congrArg KRing.upd (State.ringIrq_kRing s n)

@[simp] theorem State.chargeDram_pending (s : State) (n bytes : Nat) : (s.chargeDram n bytes).pending = s.pending := congrArg KRing.pending (State.chargeDram_kRing s n bytes)
@[simp] theorem State.chargeDram_et (s : State) (n bytes : Nat) : (s.chargeDram n bytes).et = s.et := congrArg KRing.et (State.chargeDram_kRing s n bytes)
@[simp] theorem State.chargeDram_rtcNs (s : State) (n bytes : Nat) : (s.chargeDram n bytes).rtcNs = s.rtcNs := congrArg KRing.rtcNs (State.chargeDram_kRing s n bytes)
@[simp] theorem State.chargeDram_free (s : State) (n bytes : Nat) : (s.chargeDram n bytes).free = s.free := congrArg KRing.free (State.chargeDram_kRing s n bytes)
@[simp] theorem State.chargeDram_time (s : State) (n bytes : Nat) : (s.chargeDram n bytes).time = s.time := congrArg KRing.time (State.chargeDram_kRing s n bytes)
@[simp] theorem State.chargeDram_easel (s : State) (n bytes : Nat) : (s.chargeDram n bytes).easel = s.easel := congrArg KRing.easel (State.chargeDram_kRing s n bytes)
@[simp] theorem State.chargeDram_gw (s : State) (n bytes : Nat) : (s.chargeDram n bytes).gw = s.gw := congrArg KRing.gw (State.chargeDram_kRing s n bytes)
@[simp] theorem State.chargeDram_lsw (s : State) (n bytes : Nat) : (s.chargeDram n bytes).lsw = s.lsw := congrArg KRing.lsw (State.chargeDram_kRing s n bytes)
@[simp] theorem State.chargeDram_pwr (s : State) (n bytes : Nat) : (s.chargeDram n bytes).pwr = s.pwr := congrArg KRing.pwr (State.chargeDram_kRing s n bytes)
@[simp] theorem State.chargeDram_dio (s : State) (n bytes : Nat) : (s.chargeDram n bytes).dio = s.dio := congrArg KRing.dio (State.chargeDram_kRing s n bytes)
@[simp] theorem State.chargeDram_wake (s : State) (n bytes : Nat) : (s.chargeDram n bytes).wake = s.wake := congrArg KRing.wake (State.chargeDram_kRing s n bytes)
@[simp] theorem State.chargeDram_swc (s : State) (n bytes : Nat) : (s.chargeDram n bytes).swc = s.swc := congrArg KRing.swc (State.chargeDram_kRing s n bytes)
@[simp] theorem State.chargeDram_prt (s : State) (n bytes : Nat) : (s.chargeDram n bytes).prt = s.prt := congrArg KRing.prt (State.chargeDram_kRing s n bytes)
@[simp] theorem State.chargeDram_can (s : State) (n bytes : Nat) : (s.chargeDram n bytes).can = s.can := congrArg KRing.can (State.chargeDram_kRing s n bytes)
@[simp] theorem State.chargeDram_fry (s : State) (n bytes : Nat) : (s.chargeDram n bytes).fry = s.fry := congrArg KRing.fry (State.chargeDram_kRing s n bytes)
@[simp] theorem State.chargeDram_lin (s : State) (n bytes : Nat) : (s.chargeDram n bytes).lin = s.lin := congrArg KRing.lin (State.chargeDram_kRing s n bytes)
@[simp] theorem State.chargeDram_bam (s : State) (n bytes : Nat) : (s.chargeDram n bytes).bam = s.bam := congrArg KRing.bam (State.chargeDram_kRing s n bytes)
@[simp] theorem State.chargeDram_upd (s : State) (n bytes : Nat) : (s.chargeDram n bytes).upd = s.upd := congrArg KRing.upd (State.chargeDram_kRing s n bytes)

@[simp] theorem State.ringPush_pending (s : State) (n : Nat) (bs : List Byte) : (s.ringPush n bs).pending = s.pending := congrArg KRing.pending (State.ringPush_kRing s n bs)
@[simp] theorem State.ringPush_et (s : State) (n : Nat) (bs : List Byte) : (s.ringPush n bs).et = s.et := congrArg KRing.et (State.ringPush_kRing s n bs)
@[simp] theorem State.ringPush_rtcNs (s : State) (n : Nat) (bs : List Byte) : (s.ringPush n bs).rtcNs = s.rtcNs := congrArg KRing.rtcNs (State.ringPush_kRing s n bs)
@[simp] theorem State.ringPush_free (s : State) (n : Nat) (bs : List Byte) : (s.ringPush n bs).free = s.free := congrArg KRing.free (State.ringPush_kRing s n bs)
@[simp] theorem State.ringPush_time (s : State) (n : Nat) (bs : List Byte) : (s.ringPush n bs).time = s.time := congrArg KRing.time (State.ringPush_kRing s n bs)
@[simp] theorem State.ringPush_easel (s : State) (n : Nat) (bs : List Byte) : (s.ringPush n bs).easel = s.easel := congrArg KRing.easel (State.ringPush_kRing s n bs)
@[simp] theorem State.ringPush_gw (s : State) (n : Nat) (bs : List Byte) : (s.ringPush n bs).gw = s.gw := congrArg KRing.gw (State.ringPush_kRing s n bs)
@[simp] theorem State.ringPush_lsw (s : State) (n : Nat) (bs : List Byte) : (s.ringPush n bs).lsw = s.lsw := congrArg KRing.lsw (State.ringPush_kRing s n bs)
@[simp] theorem State.ringPush_pwr (s : State) (n : Nat) (bs : List Byte) : (s.ringPush n bs).pwr = s.pwr := congrArg KRing.pwr (State.ringPush_kRing s n bs)
@[simp] theorem State.ringPush_dio (s : State) (n : Nat) (bs : List Byte) : (s.ringPush n bs).dio = s.dio := congrArg KRing.dio (State.ringPush_kRing s n bs)
@[simp] theorem State.ringPush_wake (s : State) (n : Nat) (bs : List Byte) : (s.ringPush n bs).wake = s.wake := congrArg KRing.wake (State.ringPush_kRing s n bs)
@[simp] theorem State.ringPush_swc (s : State) (n : Nat) (bs : List Byte) : (s.ringPush n bs).swc = s.swc := congrArg KRing.swc (State.ringPush_kRing s n bs)
@[simp] theorem State.ringPush_prt (s : State) (n : Nat) (bs : List Byte) : (s.ringPush n bs).prt = s.prt := congrArg KRing.prt (State.ringPush_kRing s n bs)
@[simp] theorem State.ringPush_can (s : State) (n : Nat) (bs : List Byte) : (s.ringPush n bs).can = s.can := congrArg KRing.can (State.ringPush_kRing s n bs)
@[simp] theorem State.ringPush_fry (s : State) (n : Nat) (bs : List Byte) : (s.ringPush n bs).fry = s.fry := congrArg KRing.fry (State.ringPush_kRing s n bs)
@[simp] theorem State.ringPush_lin (s : State) (n : Nat) (bs : List Byte) : (s.ringPush n bs).lin = s.lin := congrArg KRing.lin (State.ringPush_kRing s n bs)
@[simp] theorem State.ringPush_bam (s : State) (n : Nat) (bs : List Byte) : (s.ringPush n bs).bam = s.bam := congrArg KRing.bam (State.ringPush_kRing s n bs)
@[simp] theorem State.ringPush_upd (s : State) (n : Nat) (bs : List Byte) : (s.ringPush n bs).upd = s.upd := congrArg KRing.upd (State.ringPush_kRing s n bs)

@[simp] theorem State.ringPop_pending (s : State) (n : Nat) : (s.ringPop n).pending = s.pending := congrArg KRing.pending (State.ringPop_kRing s n)
@[simp] theorem State.ringPop_et (s : State) (n : Nat) : (s.ringPop n).et = s.et := congrArg KRing.et (State.ringPop_kRing s n)
@[simp] theorem State.ringPop_rtcNs (s : State) (n : Nat) : (s.ringPop n).rtcNs = s.rtcNs := congrArg KRing.rtcNs (State.ringPop_kRing s n)
@[simp] theorem State.ringPop_free (s : State) (n : Nat) : (s.ringPop n).free = s.free := congrArg KRing.free (State.ringPop_kRing s n)
@[simp] theorem State.ringPop_time (s : State) (n : Nat) : (s.ringPop n).time = s.time := congrArg KRing.time (State.ringPop_kRing s n)
@[simp] theorem State.ringPop_easel (s : State) (n : Nat) : (s.ringPop n).easel = s.easel := congrArg KRing.easel (State.ringPop_kRing s n)
@[simp] theorem State.ringPop_gw (s : State) (n : Nat) : (s.ringPop n).gw = s.gw := congrArg KRing.gw (State.ringPop_kRing s n)
@[simp] theorem State.ringPop_lsw (s : State) (n : Nat) : (s.ringPop n).lsw = s.lsw := congrArg KRing.lsw (State.ringPop_kRing s n)
@[simp] theorem State.ringPop_pwr (s : State) (n : Nat) : (s.ringPop n).pwr = s.pwr := congrArg KRing.pwr (State.ringPop_kRing s n)
@[simp] theorem State.ringPop_dio (s : State) (n : Nat) : (s.ringPop n).dio = s.dio := congrArg KRing.dio (State.ringPop_kRing s n)
@[simp] theorem State.ringPop_wake (s : State) (n : Nat) : (s.ringPop n).wake = s.wake := congrArg KRing.wake (State.ringPop_kRing s n)
@[simp] theorem State.ringPop_swc (s : State) (n : Nat) : (s.ringPop n).swc = s.swc := congrArg KRing.swc (State.ringPop_kRing s n)
@[simp] theorem State.ringPop_prt (s : State) (n : Nat) : (s.ringPop n).prt = s.prt := congrArg KRing.prt (State.ringPop_kRing s n)
@[simp] theorem State.ringPop_can (s : State) (n : Nat) : (s.ringPop n).can = s.can := congrArg KRing.can (State.ringPop_kRing s n)
@[simp] theorem State.ringPop_fry (s : State) (n : Nat) : (s.ringPop n).fry = s.fry := congrArg KRing.fry (State.ringPop_kRing s n)
@[simp] theorem State.ringPop_lin (s : State) (n : Nat) : (s.ringPop n).lin = s.lin := congrArg KRing.lin (State.ringPop_kRing s n)
@[simp] theorem State.ringPop_bam (s : State) (n : Nat) : (s.ringPop n).bam = s.bam := congrArg KRing.bam (State.ringPop_kRing s n)
@[simp] theorem State.ringPop_upd (s : State) (n : Nat) : (s.ringPop n).upd = s.upd := congrArg KRing.upd (State.ringPop_kRing s n)

@[simp] theorem State.ringRecord_pending (s : State) (n et : Nat) (bs : List Byte) : (s.ringRecord n et bs).pending = s.pending := congrArg KRing.pending (State.ringRecord_kRing s n et bs)
@[simp] theorem State.ringRecord_et (s : State) (n et : Nat) (bs : List Byte) : (s.ringRecord n et bs).et = s.et := congrArg KRing.et (State.ringRecord_kRing s n et bs)
@[simp] theorem State.ringRecord_rtcNs (s : State) (n et : Nat) (bs : List Byte) : (s.ringRecord n et bs).rtcNs = s.rtcNs := congrArg KRing.rtcNs (State.ringRecord_kRing s n et bs)
@[simp] theorem State.ringRecord_free (s : State) (n et : Nat) (bs : List Byte) : (s.ringRecord n et bs).free = s.free := congrArg KRing.free (State.ringRecord_kRing s n et bs)
@[simp] theorem State.ringRecord_time (s : State) (n et : Nat) (bs : List Byte) : (s.ringRecord n et bs).time = s.time := congrArg KRing.time (State.ringRecord_kRing s n et bs)
@[simp] theorem State.ringRecord_easel (s : State) (n et : Nat) (bs : List Byte) : (s.ringRecord n et bs).easel = s.easel := congrArg KRing.easel (State.ringRecord_kRing s n et bs)
@[simp] theorem State.ringRecord_gw (s : State) (n et : Nat) (bs : List Byte) : (s.ringRecord n et bs).gw = s.gw := congrArg KRing.gw (State.ringRecord_kRing s n et bs)
@[simp] theorem State.ringRecord_lsw (s : State) (n et : Nat) (bs : List Byte) : (s.ringRecord n et bs).lsw = s.lsw := congrArg KRing.lsw (State.ringRecord_kRing s n et bs)
@[simp] theorem State.ringRecord_pwr (s : State) (n et : Nat) (bs : List Byte) : (s.ringRecord n et bs).pwr = s.pwr := congrArg KRing.pwr (State.ringRecord_kRing s n et bs)
@[simp] theorem State.ringRecord_dio (s : State) (n et : Nat) (bs : List Byte) : (s.ringRecord n et bs).dio = s.dio := congrArg KRing.dio (State.ringRecord_kRing s n et bs)
@[simp] theorem State.ringRecord_wake (s : State) (n et : Nat) (bs : List Byte) : (s.ringRecord n et bs).wake = s.wake := congrArg KRing.wake (State.ringRecord_kRing s n et bs)
@[simp] theorem State.ringRecord_swc (s : State) (n et : Nat) (bs : List Byte) : (s.ringRecord n et bs).swc = s.swc := congrArg KRing.swc (State.ringRecord_kRing s n et bs)
@[simp] theorem State.ringRecord_prt (s : State) (n et : Nat) (bs : List Byte) : (s.ringRecord n et bs).prt = s.prt := congrArg KRing.prt (State.ringRecord_kRing s n et bs)
@[simp] theorem State.ringRecord_can (s : State) (n et : Nat) (bs : List Byte) : (s.ringRecord n et bs).can = s.can := congrArg KRing.can (State.ringRecord_kRing s n et bs)
@[simp] theorem State.ringRecord_fry (s : State) (n et : Nat) (bs : List Byte) : (s.ringRecord n et bs).fry = s.fry := congrArg KRing.fry (State.ringRecord_kRing s n et bs)
@[simp] theorem State.ringRecord_lin (s : State) (n et : Nat) (bs : List Byte) : (s.ringRecord n et bs).lin = s.lin := congrArg KRing.lin (State.ringRecord_kRing s n et bs)
@[simp] theorem State.ringRecord_bam (s : State) (n et : Nat) (bs : List Byte) : (s.ringRecord n et bs).bam = s.bam := congrArg KRing.bam (State.ringRecord_kRing s n et bs)
@[simp] theorem State.ringRecord_upd (s : State) (n et : Nat) (bs : List Byte) : (s.ringRecord n et bs).upd = s.upd := congrArg KRing.upd (State.ringRecord_kRing s n et bs)

@[simp] theorem State.ringFreed_pending (s : State) (n : Nat) : (s.ringFreed n).pending = s.pending := congrArg KRing.pending (State.ringFreed_kRing s n)
@[simp] theorem State.ringFreed_et (s : State) (n : Nat) : (s.ringFreed n).et = s.et := congrArg KRing.et (State.ringFreed_kRing s n)
@[simp] theorem State.ringFreed_rtcNs (s : State) (n : Nat) : (s.ringFreed n).rtcNs = s.rtcNs := congrArg KRing.rtcNs (State.ringFreed_kRing s n)
@[simp] theorem State.ringFreed_free (s : State) (n : Nat) : (s.ringFreed n).free = s.free := congrArg KRing.free (State.ringFreed_kRing s n)
@[simp] theorem State.ringFreed_time (s : State) (n : Nat) : (s.ringFreed n).time = s.time := congrArg KRing.time (State.ringFreed_kRing s n)
@[simp] theorem State.ringFreed_easel (s : State) (n : Nat) : (s.ringFreed n).easel = s.easel := congrArg KRing.easel (State.ringFreed_kRing s n)
@[simp] theorem State.ringFreed_gw (s : State) (n : Nat) : (s.ringFreed n).gw = s.gw := congrArg KRing.gw (State.ringFreed_kRing s n)
@[simp] theorem State.ringFreed_lsw (s : State) (n : Nat) : (s.ringFreed n).lsw = s.lsw := congrArg KRing.lsw (State.ringFreed_kRing s n)
@[simp] theorem State.ringFreed_pwr (s : State) (n : Nat) : (s.ringFreed n).pwr = s.pwr := congrArg KRing.pwr (State.ringFreed_kRing s n)
@[simp] theorem State.ringFreed_dio (s : State) (n : Nat) : (s.ringFreed n).dio = s.dio := congrArg KRing.dio (State.ringFreed_kRing s n)
@[simp] theorem State.ringFreed_wake (s : State) (n : Nat) : (s.ringFreed n).wake = s.wake := congrArg KRing.wake (State.ringFreed_kRing s n)
@[simp] theorem State.ringFreed_swc (s : State) (n : Nat) : (s.ringFreed n).swc = s.swc := congrArg KRing.swc (State.ringFreed_kRing s n)
@[simp] theorem State.ringFreed_prt (s : State) (n : Nat) : (s.ringFreed n).prt = s.prt := congrArg KRing.prt (State.ringFreed_kRing s n)
@[simp] theorem State.ringFreed_can (s : State) (n : Nat) : (s.ringFreed n).can = s.can := congrArg KRing.can (State.ringFreed_kRing s n)
@[simp] theorem State.ringFreed_fry (s : State) (n : Nat) : (s.ringFreed n).fry = s.fry := congrArg KRing.fry (State.ringFreed_kRing s n)
@[simp] theorem State.ringFreed_lin (s : State) (n : Nat) : (s.ringFreed n).lin = s.lin := congrArg KRing.lin (State.ringFreed_kRing s n)
@[simp] theorem State.ringFreed_bam (s : State) (n : Nat) : (s.ringFreed n).bam = s.bam := congrArg KRing.bam (State.ringFreed_kRing s n)
@[simp] theorem State.ringFreed_upd (s : State) (n : Nat) : (s.ringFreed n).upd = s.upd := congrArg KRing.upd (State.ringFreed_kRing s n)

@[simp] theorem State.logRec_pending (s : State) (r : LogRec) : (s.logRec r).pending = s.pending := congrArg KRing.pending (State.logRec_kRing s r)
@[simp] theorem State.logRec_et (s : State) (r : LogRec) : (s.logRec r).et = s.et := congrArg KRing.et (State.logRec_kRing s r)
@[simp] theorem State.logRec_rtcNs (s : State) (r : LogRec) : (s.logRec r).rtcNs = s.rtcNs := congrArg KRing.rtcNs (State.logRec_kRing s r)
@[simp] theorem State.logRec_free (s : State) (r : LogRec) : (s.logRec r).free = s.free := congrArg KRing.free (State.logRec_kRing s r)
@[simp] theorem State.logRec_time (s : State) (r : LogRec) : (s.logRec r).time = s.time := congrArg KRing.time (State.logRec_kRing s r)
@[simp] theorem State.logRec_easel (s : State) (r : LogRec) : (s.logRec r).easel = s.easel := congrArg KRing.easel (State.logRec_kRing s r)
@[simp] theorem State.logRec_gw (s : State) (r : LogRec) : (s.logRec r).gw = s.gw := congrArg KRing.gw (State.logRec_kRing s r)
@[simp] theorem State.logRec_lsw (s : State) (r : LogRec) : (s.logRec r).lsw = s.lsw := congrArg KRing.lsw (State.logRec_kRing s r)
@[simp] theorem State.logRec_pwr (s : State) (r : LogRec) : (s.logRec r).pwr = s.pwr := congrArg KRing.pwr (State.logRec_kRing s r)
@[simp] theorem State.logRec_dio (s : State) (r : LogRec) : (s.logRec r).dio = s.dio := congrArg KRing.dio (State.logRec_kRing s r)
@[simp] theorem State.logRec_wake (s : State) (r : LogRec) : (s.logRec r).wake = s.wake := congrArg KRing.wake (State.logRec_kRing s r)
@[simp] theorem State.logRec_swc (s : State) (r : LogRec) : (s.logRec r).swc = s.swc := congrArg KRing.swc (State.logRec_kRing s r)
@[simp] theorem State.logRec_prt (s : State) (r : LogRec) : (s.logRec r).prt = s.prt := congrArg KRing.prt (State.logRec_kRing s r)
@[simp] theorem State.logRec_can (s : State) (r : LogRec) : (s.logRec r).can = s.can := congrArg KRing.can (State.logRec_kRing s r)
@[simp] theorem State.logRec_fry (s : State) (r : LogRec) : (s.logRec r).fry = s.fry := congrArg KRing.fry (State.logRec_kRing s r)
@[simp] theorem State.logRec_lin (s : State) (r : LogRec) : (s.logRec r).lin = s.lin := congrArg KRing.lin (State.logRec_kRing s r)
@[simp] theorem State.logRec_bam (s : State) (r : LogRec) : (s.logRec r).bam = s.bam := congrArg KRing.bam (State.logRec_kRing s r)
@[simp] theorem State.logRec_upd (s : State) (r : LogRec) : (s.logRec r).upd = s.upd := congrArg KRing.upd (State.logRec_kRing s r)

@[simp] theorem State.makeReport_pending (s : State) (r : FltReport) : (s.makeReport r).pending = s.pending := congrArg KRing.pending (State.makeReport_kRing s r)
@[simp] theorem State.makeReport_et (s : State) (r : FltReport) : (s.makeReport r).et = s.et := congrArg KRing.et (State.makeReport_kRing s r)
@[simp] theorem State.makeReport_rtcNs (s : State) (r : FltReport) : (s.makeReport r).rtcNs = s.rtcNs := congrArg KRing.rtcNs (State.makeReport_kRing s r)
@[simp] theorem State.makeReport_free (s : State) (r : FltReport) : (s.makeReport r).free = s.free := congrArg KRing.free (State.makeReport_kRing s r)
@[simp] theorem State.makeReport_time (s : State) (r : FltReport) : (s.makeReport r).time = s.time := congrArg KRing.time (State.makeReport_kRing s r)
@[simp] theorem State.makeReport_easel (s : State) (r : FltReport) : (s.makeReport r).easel = s.easel := congrArg KRing.easel (State.makeReport_kRing s r)
@[simp] theorem State.makeReport_gw (s : State) (r : FltReport) : (s.makeReport r).gw = s.gw := congrArg KRing.gw (State.makeReport_kRing s r)
@[simp] theorem State.makeReport_lsw (s : State) (r : FltReport) : (s.makeReport r).lsw = s.lsw := congrArg KRing.lsw (State.makeReport_kRing s r)
@[simp] theorem State.makeReport_pwr (s : State) (r : FltReport) : (s.makeReport r).pwr = s.pwr := congrArg KRing.pwr (State.makeReport_kRing s r)
@[simp] theorem State.makeReport_dio (s : State) (r : FltReport) : (s.makeReport r).dio = s.dio := congrArg KRing.dio (State.makeReport_kRing s r)
@[simp] theorem State.makeReport_wake (s : State) (r : FltReport) : (s.makeReport r).wake = s.wake := congrArg KRing.wake (State.makeReport_kRing s r)
@[simp] theorem State.makeReport_swc (s : State) (r : FltReport) : (s.makeReport r).swc = s.swc := congrArg KRing.swc (State.makeReport_kRing s r)
@[simp] theorem State.makeReport_prt (s : State) (r : FltReport) : (s.makeReport r).prt = s.prt := congrArg KRing.prt (State.makeReport_kRing s r)
@[simp] theorem State.makeReport_can (s : State) (r : FltReport) : (s.makeReport r).can = s.can := congrArg KRing.can (State.makeReport_kRing s r)
@[simp] theorem State.makeReport_fry (s : State) (r : FltReport) : (s.makeReport r).fry = s.fry := congrArg KRing.fry (State.makeReport_kRing s r)
@[simp] theorem State.makeReport_lin (s : State) (r : FltReport) : (s.makeReport r).lin = s.lin := congrArg KRing.lin (State.makeReport_kRing s r)
@[simp] theorem State.makeReport_bam (s : State) (r : FltReport) : (s.makeReport r).bam = s.bam := congrArg KRing.bam (State.makeReport_kRing s r)
@[simp] theorem State.makeReport_upd (s : State) (r : FltReport) : (s.makeReport r).upd = s.upd := congrArg KRing.upd (State.makeReport_kRing s r)

@[simp] theorem State.fault_pending (s : State) (src cls level part kind data attempts hold : Nat) : (s.fault src cls level part kind data attempts hold).pending = s.pending := congrArg KRing.pending (State.fault_kRing s src cls level part kind data attempts hold)
@[simp] theorem State.fault_et (s : State) (src cls level part kind data attempts hold : Nat) : (s.fault src cls level part kind data attempts hold).et = s.et := congrArg KRing.et (State.fault_kRing s src cls level part kind data attempts hold)
@[simp] theorem State.fault_rtcNs (s : State) (src cls level part kind data attempts hold : Nat) : (s.fault src cls level part kind data attempts hold).rtcNs = s.rtcNs := congrArg KRing.rtcNs (State.fault_kRing s src cls level part kind data attempts hold)
@[simp] theorem State.fault_free (s : State) (src cls level part kind data attempts hold : Nat) : (s.fault src cls level part kind data attempts hold).free = s.free := congrArg KRing.free (State.fault_kRing s src cls level part kind data attempts hold)
@[simp] theorem State.fault_time (s : State) (src cls level part kind data attempts hold : Nat) : (s.fault src cls level part kind data attempts hold).time = s.time := congrArg KRing.time (State.fault_kRing s src cls level part kind data attempts hold)
@[simp] theorem State.fault_easel (s : State) (src cls level part kind data attempts hold : Nat) : (s.fault src cls level part kind data attempts hold).easel = s.easel := congrArg KRing.easel (State.fault_kRing s src cls level part kind data attempts hold)
@[simp] theorem State.fault_gw (s : State) (src cls level part kind data attempts hold : Nat) : (s.fault src cls level part kind data attempts hold).gw = s.gw := congrArg KRing.gw (State.fault_kRing s src cls level part kind data attempts hold)
@[simp] theorem State.fault_lsw (s : State) (src cls level part kind data attempts hold : Nat) : (s.fault src cls level part kind data attempts hold).lsw = s.lsw := congrArg KRing.lsw (State.fault_kRing s src cls level part kind data attempts hold)
@[simp] theorem State.fault_pwr (s : State) (src cls level part kind data attempts hold : Nat) : (s.fault src cls level part kind data attempts hold).pwr = s.pwr := congrArg KRing.pwr (State.fault_kRing s src cls level part kind data attempts hold)
@[simp] theorem State.fault_dio (s : State) (src cls level part kind data attempts hold : Nat) : (s.fault src cls level part kind data attempts hold).dio = s.dio := congrArg KRing.dio (State.fault_kRing s src cls level part kind data attempts hold)
@[simp] theorem State.fault_wake (s : State) (src cls level part kind data attempts hold : Nat) : (s.fault src cls level part kind data attempts hold).wake = s.wake := congrArg KRing.wake (State.fault_kRing s src cls level part kind data attempts hold)
@[simp] theorem State.fault_swc (s : State) (src cls level part kind data attempts hold : Nat) : (s.fault src cls level part kind data attempts hold).swc = s.swc := congrArg KRing.swc (State.fault_kRing s src cls level part kind data attempts hold)
@[simp] theorem State.fault_prt (s : State) (src cls level part kind data attempts hold : Nat) : (s.fault src cls level part kind data attempts hold).prt = s.prt := congrArg KRing.prt (State.fault_kRing s src cls level part kind data attempts hold)
@[simp] theorem State.fault_can (s : State) (src cls level part kind data attempts hold : Nat) : (s.fault src cls level part kind data attempts hold).can = s.can := congrArg KRing.can (State.fault_kRing s src cls level part kind data attempts hold)
@[simp] theorem State.fault_fry (s : State) (src cls level part kind data attempts hold : Nat) : (s.fault src cls level part kind data attempts hold).fry = s.fry := congrArg KRing.fry (State.fault_kRing s src cls level part kind data attempts hold)
@[simp] theorem State.fault_lin (s : State) (src cls level part kind data attempts hold : Nat) : (s.fault src cls level part kind data attempts hold).lin = s.lin := congrArg KRing.lin (State.fault_kRing s src cls level part kind data attempts hold)
@[simp] theorem State.fault_bam (s : State) (src cls level part kind data attempts hold : Nat) : (s.fault src cls level part kind data attempts hold).bam = s.bam := congrArg KRing.bam (State.fault_kRing s src cls level part kind data attempts hold)
@[simp] theorem State.fault_upd (s : State) (src cls level part kind data attempts hold : Nat) : (s.fault src cls level part kind data attempts hold).upd = s.upd := congrArg KRing.upd (State.fault_kRing s src cls level part kind data attempts hold)

@[simp] theorem State.postedError_pending (s : State) (r : PostedRec) : (s.postedError r).pending = s.pending := congrArg KRing.pending (State.postedError_kRing s r)
@[simp] theorem State.postedError_et (s : State) (r : PostedRec) : (s.postedError r).et = s.et := congrArg KRing.et (State.postedError_kRing s r)
@[simp] theorem State.postedError_rtcNs (s : State) (r : PostedRec) : (s.postedError r).rtcNs = s.rtcNs := congrArg KRing.rtcNs (State.postedError_kRing s r)
@[simp] theorem State.postedError_free (s : State) (r : PostedRec) : (s.postedError r).free = s.free := congrArg KRing.free (State.postedError_kRing s r)
@[simp] theorem State.postedError_time (s : State) (r : PostedRec) : (s.postedError r).time = s.time := congrArg KRing.time (State.postedError_kRing s r)
@[simp] theorem State.postedError_easel (s : State) (r : PostedRec) : (s.postedError r).easel = s.easel := congrArg KRing.easel (State.postedError_kRing s r)
@[simp] theorem State.postedError_gw (s : State) (r : PostedRec) : (s.postedError r).gw = s.gw := congrArg KRing.gw (State.postedError_kRing s r)
@[simp] theorem State.postedError_lsw (s : State) (r : PostedRec) : (s.postedError r).lsw = s.lsw := congrArg KRing.lsw (State.postedError_kRing s r)
@[simp] theorem State.postedError_pwr (s : State) (r : PostedRec) : (s.postedError r).pwr = s.pwr := congrArg KRing.pwr (State.postedError_kRing s r)
@[simp] theorem State.postedError_dio (s : State) (r : PostedRec) : (s.postedError r).dio = s.dio := congrArg KRing.dio (State.postedError_kRing s r)
@[simp] theorem State.postedError_wake (s : State) (r : PostedRec) : (s.postedError r).wake = s.wake := congrArg KRing.wake (State.postedError_kRing s r)
@[simp] theorem State.postedError_swc (s : State) (r : PostedRec) : (s.postedError r).swc = s.swc := congrArg KRing.swc (State.postedError_kRing s r)
@[simp] theorem State.postedError_prt (s : State) (r : PostedRec) : (s.postedError r).prt = s.prt := congrArg KRing.prt (State.postedError_kRing s r)
@[simp] theorem State.postedError_can (s : State) (r : PostedRec) : (s.postedError r).can = s.can := congrArg KRing.can (State.postedError_kRing s r)
@[simp] theorem State.postedError_fry (s : State) (r : PostedRec) : (s.postedError r).fry = s.fry := congrArg KRing.fry (State.postedError_kRing s r)
@[simp] theorem State.postedError_lin (s : State) (r : PostedRec) : (s.postedError r).lin = s.lin := congrArg KRing.lin (State.postedError_kRing s r)
@[simp] theorem State.postedError_bam (s : State) (r : PostedRec) : (s.postedError r).bam = s.bam := congrArg KRing.bam (State.postedError_kRing s r)
@[simp] theorem State.postedError_upd (s : State) (r : PostedRec) : (s.postedError r).upd = s.upd := congrArg KRing.upd (State.postedError_kRing s r)

@[simp] theorem State.writeReply_pending (s : State) (pk : Packet) (status : Nat) (result : List Byte) : (s.writeReply pk status result).pending = s.pending := congrArg KRing.pending (State.writeReply_kRing s pk status result)
@[simp] theorem State.writeReply_et (s : State) (pk : Packet) (status : Nat) (result : List Byte) : (s.writeReply pk status result).et = s.et := congrArg KRing.et (State.writeReply_kRing s pk status result)
@[simp] theorem State.writeReply_rtcNs (s : State) (pk : Packet) (status : Nat) (result : List Byte) : (s.writeReply pk status result).rtcNs = s.rtcNs := congrArg KRing.rtcNs (State.writeReply_kRing s pk status result)
@[simp] theorem State.writeReply_free (s : State) (pk : Packet) (status : Nat) (result : List Byte) : (s.writeReply pk status result).free = s.free := congrArg KRing.free (State.writeReply_kRing s pk status result)
@[simp] theorem State.writeReply_time (s : State) (pk : Packet) (status : Nat) (result : List Byte) : (s.writeReply pk status result).time = s.time := congrArg KRing.time (State.writeReply_kRing s pk status result)
@[simp] theorem State.writeReply_easel (s : State) (pk : Packet) (status : Nat) (result : List Byte) : (s.writeReply pk status result).easel = s.easel := congrArg KRing.easel (State.writeReply_kRing s pk status result)
@[simp] theorem State.writeReply_gw (s : State) (pk : Packet) (status : Nat) (result : List Byte) : (s.writeReply pk status result).gw = s.gw := congrArg KRing.gw (State.writeReply_kRing s pk status result)
@[simp] theorem State.writeReply_lsw (s : State) (pk : Packet) (status : Nat) (result : List Byte) : (s.writeReply pk status result).lsw = s.lsw := congrArg KRing.lsw (State.writeReply_kRing s pk status result)
@[simp] theorem State.writeReply_pwr (s : State) (pk : Packet) (status : Nat) (result : List Byte) : (s.writeReply pk status result).pwr = s.pwr := congrArg KRing.pwr (State.writeReply_kRing s pk status result)
@[simp] theorem State.writeReply_dio (s : State) (pk : Packet) (status : Nat) (result : List Byte) : (s.writeReply pk status result).dio = s.dio := congrArg KRing.dio (State.writeReply_kRing s pk status result)
@[simp] theorem State.writeReply_wake (s : State) (pk : Packet) (status : Nat) (result : List Byte) : (s.writeReply pk status result).wake = s.wake := congrArg KRing.wake (State.writeReply_kRing s pk status result)
@[simp] theorem State.writeReply_swc (s : State) (pk : Packet) (status : Nat) (result : List Byte) : (s.writeReply pk status result).swc = s.swc := congrArg KRing.swc (State.writeReply_kRing s pk status result)
@[simp] theorem State.writeReply_prt (s : State) (pk : Packet) (status : Nat) (result : List Byte) : (s.writeReply pk status result).prt = s.prt := congrArg KRing.prt (State.writeReply_kRing s pk status result)
@[simp] theorem State.writeReply_can (s : State) (pk : Packet) (status : Nat) (result : List Byte) : (s.writeReply pk status result).can = s.can := congrArg KRing.can (State.writeReply_kRing s pk status result)
@[simp] theorem State.writeReply_fry (s : State) (pk : Packet) (status : Nat) (result : List Byte) : (s.writeReply pk status result).fry = s.fry := congrArg KRing.fry (State.writeReply_kRing s pk status result)
@[simp] theorem State.writeReply_lin (s : State) (pk : Packet) (status : Nat) (result : List Byte) : (s.writeReply pk status result).lin = s.lin := congrArg KRing.lin (State.writeReply_kRing s pk status result)
@[simp] theorem State.writeReply_bam (s : State) (pk : Packet) (status : Nat) (result : List Byte) : (s.writeReply pk status result).bam = s.bam := congrArg KRing.bam (State.writeReply_kRing s pk status result)
@[simp] theorem State.writeReply_upd (s : State) (pk : Packet) (status : Nat) (result : List Byte) : (s.writeReply pk status result).upd = s.upd := congrArg KRing.upd (State.writeReply_kRing s pk status result)

@[simp] theorem State.finalReply_pending (s : State) (code : Nat) (pk : Packet) (status : Nat) (result : List Byte) : (s.finalReply code pk status result).pending = s.pending := congrArg KRing.pending (State.finalReply_kRing s code pk status result)
@[simp] theorem State.finalReply_et (s : State) (code : Nat) (pk : Packet) (status : Nat) (result : List Byte) : (s.finalReply code pk status result).et = s.et := congrArg KRing.et (State.finalReply_kRing s code pk status result)
@[simp] theorem State.finalReply_rtcNs (s : State) (code : Nat) (pk : Packet) (status : Nat) (result : List Byte) : (s.finalReply code pk status result).rtcNs = s.rtcNs := congrArg KRing.rtcNs (State.finalReply_kRing s code pk status result)
@[simp] theorem State.finalReply_free (s : State) (code : Nat) (pk : Packet) (status : Nat) (result : List Byte) : (s.finalReply code pk status result).free = s.free := congrArg KRing.free (State.finalReply_kRing s code pk status result)
@[simp] theorem State.finalReply_time (s : State) (code : Nat) (pk : Packet) (status : Nat) (result : List Byte) : (s.finalReply code pk status result).time = s.time := congrArg KRing.time (State.finalReply_kRing s code pk status result)
@[simp] theorem State.finalReply_easel (s : State) (code : Nat) (pk : Packet) (status : Nat) (result : List Byte) : (s.finalReply code pk status result).easel = s.easel := congrArg KRing.easel (State.finalReply_kRing s code pk status result)
@[simp] theorem State.finalReply_gw (s : State) (code : Nat) (pk : Packet) (status : Nat) (result : List Byte) : (s.finalReply code pk status result).gw = s.gw := congrArg KRing.gw (State.finalReply_kRing s code pk status result)
@[simp] theorem State.finalReply_lsw (s : State) (code : Nat) (pk : Packet) (status : Nat) (result : List Byte) : (s.finalReply code pk status result).lsw = s.lsw := congrArg KRing.lsw (State.finalReply_kRing s code pk status result)
@[simp] theorem State.finalReply_pwr (s : State) (code : Nat) (pk : Packet) (status : Nat) (result : List Byte) : (s.finalReply code pk status result).pwr = s.pwr := congrArg KRing.pwr (State.finalReply_kRing s code pk status result)
@[simp] theorem State.finalReply_dio (s : State) (code : Nat) (pk : Packet) (status : Nat) (result : List Byte) : (s.finalReply code pk status result).dio = s.dio := congrArg KRing.dio (State.finalReply_kRing s code pk status result)
@[simp] theorem State.finalReply_wake (s : State) (code : Nat) (pk : Packet) (status : Nat) (result : List Byte) : (s.finalReply code pk status result).wake = s.wake := congrArg KRing.wake (State.finalReply_kRing s code pk status result)
@[simp] theorem State.finalReply_swc (s : State) (code : Nat) (pk : Packet) (status : Nat) (result : List Byte) : (s.finalReply code pk status result).swc = s.swc := congrArg KRing.swc (State.finalReply_kRing s code pk status result)
@[simp] theorem State.finalReply_prt (s : State) (code : Nat) (pk : Packet) (status : Nat) (result : List Byte) : (s.finalReply code pk status result).prt = s.prt := congrArg KRing.prt (State.finalReply_kRing s code pk status result)
@[simp] theorem State.finalReply_can (s : State) (code : Nat) (pk : Packet) (status : Nat) (result : List Byte) : (s.finalReply code pk status result).can = s.can := congrArg KRing.can (State.finalReply_kRing s code pk status result)
@[simp] theorem State.finalReply_fry (s : State) (code : Nat) (pk : Packet) (status : Nat) (result : List Byte) : (s.finalReply code pk status result).fry = s.fry := congrArg KRing.fry (State.finalReply_kRing s code pk status result)
@[simp] theorem State.finalReply_lin (s : State) (code : Nat) (pk : Packet) (status : Nat) (result : List Byte) : (s.finalReply code pk status result).lin = s.lin := congrArg KRing.lin (State.finalReply_kRing s code pk status result)
@[simp] theorem State.finalReply_bam (s : State) (code : Nat) (pk : Packet) (status : Nat) (result : List Byte) : (s.finalReply code pk status result).bam = s.bam := congrArg KRing.bam (State.finalReply_kRing s code pk status result)
@[simp] theorem State.finalReply_upd (s : State) (code : Nat) (pk : Packet) (status : Nat) (result : List Byte) : (s.finalReply code pk status result).upd = s.upd := congrArg KRing.upd (State.finalReply_kRing s code pk status result)

@[simp] theorem State.acceptReply_pending (s : State) (pk : Packet) : (s.acceptReply pk).pending = s.pending := congrArg KRing.pending (State.acceptReply_kRing s pk)
@[simp] theorem State.acceptReply_et (s : State) (pk : Packet) : (s.acceptReply pk).et = s.et := congrArg KRing.et (State.acceptReply_kRing s pk)
@[simp] theorem State.acceptReply_rtcNs (s : State) (pk : Packet) : (s.acceptReply pk).rtcNs = s.rtcNs := congrArg KRing.rtcNs (State.acceptReply_kRing s pk)
@[simp] theorem State.acceptReply_free (s : State) (pk : Packet) : (s.acceptReply pk).free = s.free := congrArg KRing.free (State.acceptReply_kRing s pk)
@[simp] theorem State.acceptReply_time (s : State) (pk : Packet) : (s.acceptReply pk).time = s.time := congrArg KRing.time (State.acceptReply_kRing s pk)
@[simp] theorem State.acceptReply_easel (s : State) (pk : Packet) : (s.acceptReply pk).easel = s.easel := congrArg KRing.easel (State.acceptReply_kRing s pk)
@[simp] theorem State.acceptReply_gw (s : State) (pk : Packet) : (s.acceptReply pk).gw = s.gw := congrArg KRing.gw (State.acceptReply_kRing s pk)
@[simp] theorem State.acceptReply_lsw (s : State) (pk : Packet) : (s.acceptReply pk).lsw = s.lsw := congrArg KRing.lsw (State.acceptReply_kRing s pk)
@[simp] theorem State.acceptReply_pwr (s : State) (pk : Packet) : (s.acceptReply pk).pwr = s.pwr := congrArg KRing.pwr (State.acceptReply_kRing s pk)
@[simp] theorem State.acceptReply_dio (s : State) (pk : Packet) : (s.acceptReply pk).dio = s.dio := congrArg KRing.dio (State.acceptReply_kRing s pk)
@[simp] theorem State.acceptReply_wake (s : State) (pk : Packet) : (s.acceptReply pk).wake = s.wake := congrArg KRing.wake (State.acceptReply_kRing s pk)
@[simp] theorem State.acceptReply_swc (s : State) (pk : Packet) : (s.acceptReply pk).swc = s.swc := congrArg KRing.swc (State.acceptReply_kRing s pk)
@[simp] theorem State.acceptReply_prt (s : State) (pk : Packet) : (s.acceptReply pk).prt = s.prt := congrArg KRing.prt (State.acceptReply_kRing s pk)
@[simp] theorem State.acceptReply_can (s : State) (pk : Packet) : (s.acceptReply pk).can = s.can := congrArg KRing.can (State.acceptReply_kRing s pk)
@[simp] theorem State.acceptReply_fry (s : State) (pk : Packet) : (s.acceptReply pk).fry = s.fry := congrArg KRing.fry (State.acceptReply_kRing s pk)
@[simp] theorem State.acceptReply_lin (s : State) (pk : Packet) : (s.acceptReply pk).lin = s.lin := congrArg KRing.lin (State.acceptReply_kRing s pk)
@[simp] theorem State.acceptReply_bam (s : State) (pk : Packet) : (s.acceptReply pk).bam = s.bam := congrArg KRing.bam (State.acceptReply_kRing s pk)
@[simp] theorem State.acceptReply_upd (s : State) (pk : Packet) : (s.acceptReply pk).upd = s.upd := congrArg KRing.upd (State.acceptReply_kRing s pk)

@[simp] theorem State.finishAsync_pending (s : State) (o : Outst) (status : Nat) (result : List Byte) : (s.finishAsync o status result).pending = s.pending := congrArg KRing.pending (State.finishAsync_kRing s o status result)
@[simp] theorem State.finishAsync_et (s : State) (o : Outst) (status : Nat) (result : List Byte) : (s.finishAsync o status result).et = s.et := congrArg KRing.et (State.finishAsync_kRing s o status result)
@[simp] theorem State.finishAsync_rtcNs (s : State) (o : Outst) (status : Nat) (result : List Byte) : (s.finishAsync o status result).rtcNs = s.rtcNs := congrArg KRing.rtcNs (State.finishAsync_kRing s o status result)
@[simp] theorem State.finishAsync_free (s : State) (o : Outst) (status : Nat) (result : List Byte) : (s.finishAsync o status result).free = s.free := congrArg KRing.free (State.finishAsync_kRing s o status result)
@[simp] theorem State.finishAsync_time (s : State) (o : Outst) (status : Nat) (result : List Byte) : (s.finishAsync o status result).time = s.time := congrArg KRing.time (State.finishAsync_kRing s o status result)
@[simp] theorem State.finishAsync_easel (s : State) (o : Outst) (status : Nat) (result : List Byte) : (s.finishAsync o status result).easel = s.easel := congrArg KRing.easel (State.finishAsync_kRing s o status result)
@[simp] theorem State.finishAsync_gw (s : State) (o : Outst) (status : Nat) (result : List Byte) : (s.finishAsync o status result).gw = s.gw := congrArg KRing.gw (State.finishAsync_kRing s o status result)
@[simp] theorem State.finishAsync_lsw (s : State) (o : Outst) (status : Nat) (result : List Byte) : (s.finishAsync o status result).lsw = s.lsw := congrArg KRing.lsw (State.finishAsync_kRing s o status result)
@[simp] theorem State.finishAsync_pwr (s : State) (o : Outst) (status : Nat) (result : List Byte) : (s.finishAsync o status result).pwr = s.pwr := congrArg KRing.pwr (State.finishAsync_kRing s o status result)
@[simp] theorem State.finishAsync_dio (s : State) (o : Outst) (status : Nat) (result : List Byte) : (s.finishAsync o status result).dio = s.dio := congrArg KRing.dio (State.finishAsync_kRing s o status result)
@[simp] theorem State.finishAsync_wake (s : State) (o : Outst) (status : Nat) (result : List Byte) : (s.finishAsync o status result).wake = s.wake := congrArg KRing.wake (State.finishAsync_kRing s o status result)
@[simp] theorem State.finishAsync_swc (s : State) (o : Outst) (status : Nat) (result : List Byte) : (s.finishAsync o status result).swc = s.swc := congrArg KRing.swc (State.finishAsync_kRing s o status result)
@[simp] theorem State.finishAsync_prt (s : State) (o : Outst) (status : Nat) (result : List Byte) : (s.finishAsync o status result).prt = s.prt := congrArg KRing.prt (State.finishAsync_kRing s o status result)
@[simp] theorem State.finishAsync_can (s : State) (o : Outst) (status : Nat) (result : List Byte) : (s.finishAsync o status result).can = s.can := congrArg KRing.can (State.finishAsync_kRing s o status result)
@[simp] theorem State.finishAsync_fry (s : State) (o : Outst) (status : Nat) (result : List Byte) : (s.finishAsync o status result).fry = s.fry := congrArg KRing.fry (State.finishAsync_kRing s o status result)
@[simp] theorem State.finishAsync_lin (s : State) (o : Outst) (status : Nat) (result : List Byte) : (s.finishAsync o status result).lin = s.lin := congrArg KRing.lin (State.finishAsync_kRing s o status result)
@[simp] theorem State.finishAsync_bam (s : State) (o : Outst) (status : Nat) (result : List Byte) : (s.finishAsync o status result).bam = s.bam := congrArg KRing.bam (State.finishAsync_kRing s o status result)
@[simp] theorem State.finishAsync_upd (s : State) (o : Outst) (status : Nat) (result : List Byte) : (s.finishAsync o status result).upd = s.upd := congrArg KRing.upd (State.finishAsync_kRing s o status result)

@[simp] theorem State.finishWhere_pending (s : State) (f : Outst → Bool) (status : Nat) (result : List Byte) : (s.finishWhere f status result).pending = s.pending := congrArg KRing.pending (State.finishWhere_kRing s f status result)
@[simp] theorem State.finishWhere_et (s : State) (f : Outst → Bool) (status : Nat) (result : List Byte) : (s.finishWhere f status result).et = s.et := congrArg KRing.et (State.finishWhere_kRing s f status result)
@[simp] theorem State.finishWhere_rtcNs (s : State) (f : Outst → Bool) (status : Nat) (result : List Byte) : (s.finishWhere f status result).rtcNs = s.rtcNs := congrArg KRing.rtcNs (State.finishWhere_kRing s f status result)
@[simp] theorem State.finishWhere_free (s : State) (f : Outst → Bool) (status : Nat) (result : List Byte) : (s.finishWhere f status result).free = s.free := congrArg KRing.free (State.finishWhere_kRing s f status result)
@[simp] theorem State.finishWhere_time (s : State) (f : Outst → Bool) (status : Nat) (result : List Byte) : (s.finishWhere f status result).time = s.time := congrArg KRing.time (State.finishWhere_kRing s f status result)
@[simp] theorem State.finishWhere_easel (s : State) (f : Outst → Bool) (status : Nat) (result : List Byte) : (s.finishWhere f status result).easel = s.easel := congrArg KRing.easel (State.finishWhere_kRing s f status result)
@[simp] theorem State.finishWhere_gw (s : State) (f : Outst → Bool) (status : Nat) (result : List Byte) : (s.finishWhere f status result).gw = s.gw := congrArg KRing.gw (State.finishWhere_kRing s f status result)
@[simp] theorem State.finishWhere_lsw (s : State) (f : Outst → Bool) (status : Nat) (result : List Byte) : (s.finishWhere f status result).lsw = s.lsw := congrArg KRing.lsw (State.finishWhere_kRing s f status result)
@[simp] theorem State.finishWhere_pwr (s : State) (f : Outst → Bool) (status : Nat) (result : List Byte) : (s.finishWhere f status result).pwr = s.pwr := congrArg KRing.pwr (State.finishWhere_kRing s f status result)
@[simp] theorem State.finishWhere_dio (s : State) (f : Outst → Bool) (status : Nat) (result : List Byte) : (s.finishWhere f status result).dio = s.dio := congrArg KRing.dio (State.finishWhere_kRing s f status result)
@[simp] theorem State.finishWhere_wake (s : State) (f : Outst → Bool) (status : Nat) (result : List Byte) : (s.finishWhere f status result).wake = s.wake := congrArg KRing.wake (State.finishWhere_kRing s f status result)
@[simp] theorem State.finishWhere_swc (s : State) (f : Outst → Bool) (status : Nat) (result : List Byte) : (s.finishWhere f status result).swc = s.swc := congrArg KRing.swc (State.finishWhere_kRing s f status result)
@[simp] theorem State.finishWhere_prt (s : State) (f : Outst → Bool) (status : Nat) (result : List Byte) : (s.finishWhere f status result).prt = s.prt := congrArg KRing.prt (State.finishWhere_kRing s f status result)
@[simp] theorem State.finishWhere_can (s : State) (f : Outst → Bool) (status : Nat) (result : List Byte) : (s.finishWhere f status result).can = s.can := congrArg KRing.can (State.finishWhere_kRing s f status result)
@[simp] theorem State.finishWhere_fry (s : State) (f : Outst → Bool) (status : Nat) (result : List Byte) : (s.finishWhere f status result).fry = s.fry := congrArg KRing.fry (State.finishWhere_kRing s f status result)
@[simp] theorem State.finishWhere_lin (s : State) (f : Outst → Bool) (status : Nat) (result : List Byte) : (s.finishWhere f status result).lin = s.lin := congrArg KRing.lin (State.finishWhere_kRing s f status result)
@[simp] theorem State.finishWhere_bam (s : State) (f : Outst → Bool) (status : Nat) (result : List Byte) : (s.finishWhere f status result).bam = s.bam := congrArg KRing.bam (State.finishWhere_kRing s f status result)
@[simp] theorem State.finishWhere_upd (s : State) (f : Outst → Bool) (status : Nat) (result : List Byte) : (s.finishWhere f status result).upd = s.upd := congrArg KRing.upd (State.finishWhere_kRing s f status result)

@[simp] theorem State.store_chan (s : State) (a : Nat) (bs : List Byte) (idx : Nat) : (s.store a bs).chan idx = s.chan idx := by unfold State.chan; rw [State.store_lsw]
@[simp] theorem State.store_bridge (s : State) (a : Nat) (bs : List Byte) (idx : Nat) : (s.store a bs).bridge idx = s.bridge idx := by unfold State.bridge; rw [State.store_lsw]
@[simp] theorem State.store_prot (s : State) (a : Nat) (bs : List Byte) (idx : Nat) : (s.store a bs).prot idx = s.prot idx := by unfold State.prot; rw [State.store_lsw]
@[simp] theorem State.store_feed (s : State) (a : Nat) (bs : List Byte) (idx : Nat) : (s.store a bs).feed idx = s.feed idx := by unfold State.feed; rw [State.store_pwr]
@[simp] theorem State.store_din (s : State) (a : Nat) (bs : List Byte) (idx : Nat) : (s.store a bs).din idx = s.din idx := by unfold State.din; rw [State.store_dio]
@[simp] theorem State.store_xo (s : State) (a : Nat) (bs : List Byte) (idx : Nat) : (s.store a bs).xo idx = s.xo idx := by unfold State.xo; rw [State.store_dio]
@[simp] theorem State.store_slot (s : State) (a : Nat) (bs : List Byte) (idx : Nat) : (s.store a bs).slot idx = s.slot idx := by unfold State.slot; rw [State.store_easel]
@[simp] theorem State.store_lane (s : State) (a : Nat) (bs : List Byte) (idx : Nat) : (s.store a bs).lane idx = s.lane idx := by unfold State.lane; rw [State.store_easel]
@[simp] theorem State.store_partOvr (s : State) (a : Nat) (bs : List Byte) (idx : Nat) : (s.store a bs).partOvr idx = s.partOvr idx := by unfold State.partOvr; rw [State.store_easel]
@[simp] theorem State.store_cluster (s : State) (a : Nat) (bs : List Byte) (idx : Nat) : (s.store a bs).cluster idx = s.cluster idx := by unfold State.cluster; rw [State.store_fry]
@[simp] theorem State.store_fryTx (s : State) (a : Nat) (bs : List Byte) (idx : Nat) : (s.store a bs).fryTx idx = s.fryTx idx := by unfold State.fryTx; rw [State.store_fry]
@[simp] theorem State.store_fryCh (s : State) (a : Nat) (bs : List Byte) (idx : Nat) : (s.store a bs).fryCh idx = s.fryCh idx := by unfold State.fryCh; rw [State.store_fry]
@[simp] theorem State.store_sigStat (s : State) (a : Nat) (bs : List Byte) (idx : Nat) : (s.store a bs).sigStat idx = s.sigStat idx := by unfold State.sigStat; rw [State.store_gw]
@[simp] theorem State.store_pipe (s : State) (a : Nat) (bs : List Byte) (idx : Nat) : (s.store a bs).pipe idx = s.pipe idx := by unfold State.pipe; rw [State.store_gw]
@[simp] theorem State.store_actRec (s : State) (a : Nat) (bs : List Byte) (idx : Nat) : (s.store a bs).actRec idx = s.actRec idx := by unfold State.actRec; rw [State.store_gw]
@[simp] theorem State.store_canOf (s : State) (a : Nat) (bs : List Byte) (idx : Nat) : (s.store a bs).canOf idx = s.canOf idx := by unfold State.canOf; rw [State.store_can]
@[simp] theorem State.store_linOf (s : State) (a : Nat) (bs : List Byte) (idx : Nat) : (s.store a bs).linOf idx = s.linOf idx := by unfold State.linOf; rw [State.store_lin]
@[simp] theorem State.store_swPort (s : State) (a : Nat) (bs : List Byte) (idx : Nat) : (s.store a bs).swPort idx = s.swPort idx := by unfold State.swPort; rw [State.store_swc]
@[simp] theorem State.store_prtOf (s : State) (a : Nat) (bs : List Byte) (idx : Nat) : (s.store a bs).prtOf idx = s.prtOf idx := by unfold State.prtOf; rw [State.store_prt]
@[simp] theorem State.store_timeSrc (s : State) (a : Nat) (bs : List Byte) (idx : Nat) : (s.store a bs).timeSrc idx = s.timeSrc idx := by unfold State.timeSrc; rw [State.store_time]
@[simp] theorem State.store_pg (s : State) (a : Nat) (bs : List Byte) (idx : Nat) : (s.store a bs).pg idx = s.pg idx := by unfold State.pg; rw [State.store_time]

@[simp] theorem State.raiseAt_chan (s : State) (et : Nat) (tos : List Nat) (src kind data : Nat) (idx : Nat) : (s.raiseAt et tos src kind data).chan idx = s.chan idx := by unfold State.chan; rw [State.raiseAt_lsw]
@[simp] theorem State.raiseAt_bridge (s : State) (et : Nat) (tos : List Nat) (src kind data : Nat) (idx : Nat) : (s.raiseAt et tos src kind data).bridge idx = s.bridge idx := by unfold State.bridge; rw [State.raiseAt_lsw]
@[simp] theorem State.raiseAt_prot (s : State) (et : Nat) (tos : List Nat) (src kind data : Nat) (idx : Nat) : (s.raiseAt et tos src kind data).prot idx = s.prot idx := by unfold State.prot; rw [State.raiseAt_lsw]
@[simp] theorem State.raiseAt_feed (s : State) (et : Nat) (tos : List Nat) (src kind data : Nat) (idx : Nat) : (s.raiseAt et tos src kind data).feed idx = s.feed idx := by unfold State.feed; rw [State.raiseAt_pwr]
@[simp] theorem State.raiseAt_din (s : State) (et : Nat) (tos : List Nat) (src kind data : Nat) (idx : Nat) : (s.raiseAt et tos src kind data).din idx = s.din idx := by unfold State.din; rw [State.raiseAt_dio]
@[simp] theorem State.raiseAt_xo (s : State) (et : Nat) (tos : List Nat) (src kind data : Nat) (idx : Nat) : (s.raiseAt et tos src kind data).xo idx = s.xo idx := by unfold State.xo; rw [State.raiseAt_dio]
@[simp] theorem State.raiseAt_slot (s : State) (et : Nat) (tos : List Nat) (src kind data : Nat) (idx : Nat) : (s.raiseAt et tos src kind data).slot idx = s.slot idx := by unfold State.slot; rw [State.raiseAt_easel]
@[simp] theorem State.raiseAt_lane (s : State) (et : Nat) (tos : List Nat) (src kind data : Nat) (idx : Nat) : (s.raiseAt et tos src kind data).lane idx = s.lane idx := by unfold State.lane; rw [State.raiseAt_easel]
@[simp] theorem State.raiseAt_partOvr (s : State) (et : Nat) (tos : List Nat) (src kind data : Nat) (idx : Nat) : (s.raiseAt et tos src kind data).partOvr idx = s.partOvr idx := by unfold State.partOvr; rw [State.raiseAt_easel]
@[simp] theorem State.raiseAt_cluster (s : State) (et : Nat) (tos : List Nat) (src kind data : Nat) (idx : Nat) : (s.raiseAt et tos src kind data).cluster idx = s.cluster idx := by unfold State.cluster; rw [State.raiseAt_fry]
@[simp] theorem State.raiseAt_fryTx (s : State) (et : Nat) (tos : List Nat) (src kind data : Nat) (idx : Nat) : (s.raiseAt et tos src kind data).fryTx idx = s.fryTx idx := by unfold State.fryTx; rw [State.raiseAt_fry]
@[simp] theorem State.raiseAt_fryCh (s : State) (et : Nat) (tos : List Nat) (src kind data : Nat) (idx : Nat) : (s.raiseAt et tos src kind data).fryCh idx = s.fryCh idx := by unfold State.fryCh; rw [State.raiseAt_fry]
@[simp] theorem State.raiseAt_sigStat (s : State) (et : Nat) (tos : List Nat) (src kind data : Nat) (idx : Nat) : (s.raiseAt et tos src kind data).sigStat idx = s.sigStat idx := by unfold State.sigStat; rw [State.raiseAt_gw]
@[simp] theorem State.raiseAt_pipe (s : State) (et : Nat) (tos : List Nat) (src kind data : Nat) (idx : Nat) : (s.raiseAt et tos src kind data).pipe idx = s.pipe idx := by unfold State.pipe; rw [State.raiseAt_gw]
@[simp] theorem State.raiseAt_actRec (s : State) (et : Nat) (tos : List Nat) (src kind data : Nat) (idx : Nat) : (s.raiseAt et tos src kind data).actRec idx = s.actRec idx := by unfold State.actRec; rw [State.raiseAt_gw]
@[simp] theorem State.raiseAt_canOf (s : State) (et : Nat) (tos : List Nat) (src kind data : Nat) (idx : Nat) : (s.raiseAt et tos src kind data).canOf idx = s.canOf idx := by unfold State.canOf; rw [State.raiseAt_can]
@[simp] theorem State.raiseAt_linOf (s : State) (et : Nat) (tos : List Nat) (src kind data : Nat) (idx : Nat) : (s.raiseAt et tos src kind data).linOf idx = s.linOf idx := by unfold State.linOf; rw [State.raiseAt_lin]
@[simp] theorem State.raiseAt_swPort (s : State) (et : Nat) (tos : List Nat) (src kind data : Nat) (idx : Nat) : (s.raiseAt et tos src kind data).swPort idx = s.swPort idx := by unfold State.swPort; rw [State.raiseAt_swc]
@[simp] theorem State.raiseAt_prtOf (s : State) (et : Nat) (tos : List Nat) (src kind data : Nat) (idx : Nat) : (s.raiseAt et tos src kind data).prtOf idx = s.prtOf idx := by unfold State.prtOf; rw [State.raiseAt_prt]
@[simp] theorem State.raiseAt_timeSrc (s : State) (et : Nat) (tos : List Nat) (src kind data : Nat) (idx : Nat) : (s.raiseAt et tos src kind data).timeSrc idx = s.timeSrc idx := by unfold State.timeSrc; rw [State.raiseAt_time]
@[simp] theorem State.raiseAt_pg (s : State) (et : Nat) (tos : List Nat) (src kind data : Nat) (idx : Nat) : (s.raiseAt et tos src kind data).pg idx = s.pg idx := by unfold State.pg; rw [State.raiseAt_time]

@[simp] theorem State.raise_chan (s : State) (tos : List Nat) (src kind data : Nat) (idx : Nat) : (s.raise tos src kind data).chan idx = s.chan idx := by unfold State.chan; rw [State.raise_lsw]
@[simp] theorem State.raise_bridge (s : State) (tos : List Nat) (src kind data : Nat) (idx : Nat) : (s.raise tos src kind data).bridge idx = s.bridge idx := by unfold State.bridge; rw [State.raise_lsw]
@[simp] theorem State.raise_prot (s : State) (tos : List Nat) (src kind data : Nat) (idx : Nat) : (s.raise tos src kind data).prot idx = s.prot idx := by unfold State.prot; rw [State.raise_lsw]
@[simp] theorem State.raise_feed (s : State) (tos : List Nat) (src kind data : Nat) (idx : Nat) : (s.raise tos src kind data).feed idx = s.feed idx := by unfold State.feed; rw [State.raise_pwr]
@[simp] theorem State.raise_din (s : State) (tos : List Nat) (src kind data : Nat) (idx : Nat) : (s.raise tos src kind data).din idx = s.din idx := by unfold State.din; rw [State.raise_dio]
@[simp] theorem State.raise_xo (s : State) (tos : List Nat) (src kind data : Nat) (idx : Nat) : (s.raise tos src kind data).xo idx = s.xo idx := by unfold State.xo; rw [State.raise_dio]
@[simp] theorem State.raise_slot (s : State) (tos : List Nat) (src kind data : Nat) (idx : Nat) : (s.raise tos src kind data).slot idx = s.slot idx := by unfold State.slot; rw [State.raise_easel]
@[simp] theorem State.raise_lane (s : State) (tos : List Nat) (src kind data : Nat) (idx : Nat) : (s.raise tos src kind data).lane idx = s.lane idx := by unfold State.lane; rw [State.raise_easel]
@[simp] theorem State.raise_partOvr (s : State) (tos : List Nat) (src kind data : Nat) (idx : Nat) : (s.raise tos src kind data).partOvr idx = s.partOvr idx := by unfold State.partOvr; rw [State.raise_easel]
@[simp] theorem State.raise_cluster (s : State) (tos : List Nat) (src kind data : Nat) (idx : Nat) : (s.raise tos src kind data).cluster idx = s.cluster idx := by unfold State.cluster; rw [State.raise_fry]
@[simp] theorem State.raise_fryTx (s : State) (tos : List Nat) (src kind data : Nat) (idx : Nat) : (s.raise tos src kind data).fryTx idx = s.fryTx idx := by unfold State.fryTx; rw [State.raise_fry]
@[simp] theorem State.raise_fryCh (s : State) (tos : List Nat) (src kind data : Nat) (idx : Nat) : (s.raise tos src kind data).fryCh idx = s.fryCh idx := by unfold State.fryCh; rw [State.raise_fry]
@[simp] theorem State.raise_sigStat (s : State) (tos : List Nat) (src kind data : Nat) (idx : Nat) : (s.raise tos src kind data).sigStat idx = s.sigStat idx := by unfold State.sigStat; rw [State.raise_gw]
@[simp] theorem State.raise_pipe (s : State) (tos : List Nat) (src kind data : Nat) (idx : Nat) : (s.raise tos src kind data).pipe idx = s.pipe idx := by unfold State.pipe; rw [State.raise_gw]
@[simp] theorem State.raise_actRec (s : State) (tos : List Nat) (src kind data : Nat) (idx : Nat) : (s.raise tos src kind data).actRec idx = s.actRec idx := by unfold State.actRec; rw [State.raise_gw]
@[simp] theorem State.raise_canOf (s : State) (tos : List Nat) (src kind data : Nat) (idx : Nat) : (s.raise tos src kind data).canOf idx = s.canOf idx := by unfold State.canOf; rw [State.raise_can]
@[simp] theorem State.raise_linOf (s : State) (tos : List Nat) (src kind data : Nat) (idx : Nat) : (s.raise tos src kind data).linOf idx = s.linOf idx := by unfold State.linOf; rw [State.raise_lin]
@[simp] theorem State.raise_swPort (s : State) (tos : List Nat) (src kind data : Nat) (idx : Nat) : (s.raise tos src kind data).swPort idx = s.swPort idx := by unfold State.swPort; rw [State.raise_swc]
@[simp] theorem State.raise_prtOf (s : State) (tos : List Nat) (src kind data : Nat) (idx : Nat) : (s.raise tos src kind data).prtOf idx = s.prtOf idx := by unfold State.prtOf; rw [State.raise_prt]
@[simp] theorem State.raise_timeSrc (s : State) (tos : List Nat) (src kind data : Nat) (idx : Nat) : (s.raise tos src kind data).timeSrc idx = s.timeSrc idx := by unfold State.timeSrc; rw [State.raise_time]
@[simp] theorem State.raise_pg (s : State) (tos : List Nat) (src kind data : Nat) (idx : Nat) : (s.raise tos src kind data).pg idx = s.pg idx := by unfold State.pg; rw [State.raise_time]

@[simp] theorem State.raiseOnce_chan (s : State) (tos : List Nat) (src kind data : Nat) (idx : Nat) : (s.raiseOnce tos src kind data).chan idx = s.chan idx := by unfold State.chan; rw [State.raiseOnce_lsw]
@[simp] theorem State.raiseOnce_bridge (s : State) (tos : List Nat) (src kind data : Nat) (idx : Nat) : (s.raiseOnce tos src kind data).bridge idx = s.bridge idx := by unfold State.bridge; rw [State.raiseOnce_lsw]
@[simp] theorem State.raiseOnce_prot (s : State) (tos : List Nat) (src kind data : Nat) (idx : Nat) : (s.raiseOnce tos src kind data).prot idx = s.prot idx := by unfold State.prot; rw [State.raiseOnce_lsw]
@[simp] theorem State.raiseOnce_feed (s : State) (tos : List Nat) (src kind data : Nat) (idx : Nat) : (s.raiseOnce tos src kind data).feed idx = s.feed idx := by unfold State.feed; rw [State.raiseOnce_pwr]
@[simp] theorem State.raiseOnce_din (s : State) (tos : List Nat) (src kind data : Nat) (idx : Nat) : (s.raiseOnce tos src kind data).din idx = s.din idx := by unfold State.din; rw [State.raiseOnce_dio]
@[simp] theorem State.raiseOnce_xo (s : State) (tos : List Nat) (src kind data : Nat) (idx : Nat) : (s.raiseOnce tos src kind data).xo idx = s.xo idx := by unfold State.xo; rw [State.raiseOnce_dio]
@[simp] theorem State.raiseOnce_slot (s : State) (tos : List Nat) (src kind data : Nat) (idx : Nat) : (s.raiseOnce tos src kind data).slot idx = s.slot idx := by unfold State.slot; rw [State.raiseOnce_easel]
@[simp] theorem State.raiseOnce_lane (s : State) (tos : List Nat) (src kind data : Nat) (idx : Nat) : (s.raiseOnce tos src kind data).lane idx = s.lane idx := by unfold State.lane; rw [State.raiseOnce_easel]
@[simp] theorem State.raiseOnce_partOvr (s : State) (tos : List Nat) (src kind data : Nat) (idx : Nat) : (s.raiseOnce tos src kind data).partOvr idx = s.partOvr idx := by unfold State.partOvr; rw [State.raiseOnce_easel]
@[simp] theorem State.raiseOnce_cluster (s : State) (tos : List Nat) (src kind data : Nat) (idx : Nat) : (s.raiseOnce tos src kind data).cluster idx = s.cluster idx := by unfold State.cluster; rw [State.raiseOnce_fry]
@[simp] theorem State.raiseOnce_fryTx (s : State) (tos : List Nat) (src kind data : Nat) (idx : Nat) : (s.raiseOnce tos src kind data).fryTx idx = s.fryTx idx := by unfold State.fryTx; rw [State.raiseOnce_fry]
@[simp] theorem State.raiseOnce_fryCh (s : State) (tos : List Nat) (src kind data : Nat) (idx : Nat) : (s.raiseOnce tos src kind data).fryCh idx = s.fryCh idx := by unfold State.fryCh; rw [State.raiseOnce_fry]
@[simp] theorem State.raiseOnce_sigStat (s : State) (tos : List Nat) (src kind data : Nat) (idx : Nat) : (s.raiseOnce tos src kind data).sigStat idx = s.sigStat idx := by unfold State.sigStat; rw [State.raiseOnce_gw]
@[simp] theorem State.raiseOnce_pipe (s : State) (tos : List Nat) (src kind data : Nat) (idx : Nat) : (s.raiseOnce tos src kind data).pipe idx = s.pipe idx := by unfold State.pipe; rw [State.raiseOnce_gw]
@[simp] theorem State.raiseOnce_actRec (s : State) (tos : List Nat) (src kind data : Nat) (idx : Nat) : (s.raiseOnce tos src kind data).actRec idx = s.actRec idx := by unfold State.actRec; rw [State.raiseOnce_gw]
@[simp] theorem State.raiseOnce_canOf (s : State) (tos : List Nat) (src kind data : Nat) (idx : Nat) : (s.raiseOnce tos src kind data).canOf idx = s.canOf idx := by unfold State.canOf; rw [State.raiseOnce_can]
@[simp] theorem State.raiseOnce_linOf (s : State) (tos : List Nat) (src kind data : Nat) (idx : Nat) : (s.raiseOnce tos src kind data).linOf idx = s.linOf idx := by unfold State.linOf; rw [State.raiseOnce_lin]
@[simp] theorem State.raiseOnce_swPort (s : State) (tos : List Nat) (src kind data : Nat) (idx : Nat) : (s.raiseOnce tos src kind data).swPort idx = s.swPort idx := by unfold State.swPort; rw [State.raiseOnce_swc]
@[simp] theorem State.raiseOnce_prtOf (s : State) (tos : List Nat) (src kind data : Nat) (idx : Nat) : (s.raiseOnce tos src kind data).prtOf idx = s.prtOf idx := by unfold State.prtOf; rw [State.raiseOnce_prt]
@[simp] theorem State.raiseOnce_timeSrc (s : State) (tos : List Nat) (src kind data : Nat) (idx : Nat) : (s.raiseOnce tos src kind data).timeSrc idx = s.timeSrc idx := by unfold State.timeSrc; rw [State.raiseOnce_time]
@[simp] theorem State.raiseOnce_pg (s : State) (tos : List Nat) (src kind data : Nat) (idx : Nat) : (s.raiseOnce tos src kind data).pg idx = s.pg idx := by unfold State.pg; rw [State.raiseOnce_time]

@[simp] theorem State.makeReport_chan (s : State) (r : FltReport) (idx : Nat) : (s.makeReport r).chan idx = s.chan idx := by unfold State.chan; rw [State.makeReport_lsw]
@[simp] theorem State.makeReport_bridge (s : State) (r : FltReport) (idx : Nat) : (s.makeReport r).bridge idx = s.bridge idx := by unfold State.bridge; rw [State.makeReport_lsw]
@[simp] theorem State.makeReport_prot (s : State) (r : FltReport) (idx : Nat) : (s.makeReport r).prot idx = s.prot idx := by unfold State.prot; rw [State.makeReport_lsw]
@[simp] theorem State.makeReport_feed (s : State) (r : FltReport) (idx : Nat) : (s.makeReport r).feed idx = s.feed idx := by unfold State.feed; rw [State.makeReport_pwr]
@[simp] theorem State.makeReport_din (s : State) (r : FltReport) (idx : Nat) : (s.makeReport r).din idx = s.din idx := by unfold State.din; rw [State.makeReport_dio]
@[simp] theorem State.makeReport_xo (s : State) (r : FltReport) (idx : Nat) : (s.makeReport r).xo idx = s.xo idx := by unfold State.xo; rw [State.makeReport_dio]
@[simp] theorem State.makeReport_slot (s : State) (r : FltReport) (idx : Nat) : (s.makeReport r).slot idx = s.slot idx := by unfold State.slot; rw [State.makeReport_easel]
@[simp] theorem State.makeReport_lane (s : State) (r : FltReport) (idx : Nat) : (s.makeReport r).lane idx = s.lane idx := by unfold State.lane; rw [State.makeReport_easel]
@[simp] theorem State.makeReport_partOvr (s : State) (r : FltReport) (idx : Nat) : (s.makeReport r).partOvr idx = s.partOvr idx := by unfold State.partOvr; rw [State.makeReport_easel]
@[simp] theorem State.makeReport_cluster (s : State) (r : FltReport) (idx : Nat) : (s.makeReport r).cluster idx = s.cluster idx := by unfold State.cluster; rw [State.makeReport_fry]
@[simp] theorem State.makeReport_fryTx (s : State) (r : FltReport) (idx : Nat) : (s.makeReport r).fryTx idx = s.fryTx idx := by unfold State.fryTx; rw [State.makeReport_fry]
@[simp] theorem State.makeReport_fryCh (s : State) (r : FltReport) (idx : Nat) : (s.makeReport r).fryCh idx = s.fryCh idx := by unfold State.fryCh; rw [State.makeReport_fry]
@[simp] theorem State.makeReport_sigStat (s : State) (r : FltReport) (idx : Nat) : (s.makeReport r).sigStat idx = s.sigStat idx := by unfold State.sigStat; rw [State.makeReport_gw]
@[simp] theorem State.makeReport_pipe (s : State) (r : FltReport) (idx : Nat) : (s.makeReport r).pipe idx = s.pipe idx := by unfold State.pipe; rw [State.makeReport_gw]
@[simp] theorem State.makeReport_actRec (s : State) (r : FltReport) (idx : Nat) : (s.makeReport r).actRec idx = s.actRec idx := by unfold State.actRec; rw [State.makeReport_gw]
@[simp] theorem State.makeReport_canOf (s : State) (r : FltReport) (idx : Nat) : (s.makeReport r).canOf idx = s.canOf idx := by unfold State.canOf; rw [State.makeReport_can]
@[simp] theorem State.makeReport_linOf (s : State) (r : FltReport) (idx : Nat) : (s.makeReport r).linOf idx = s.linOf idx := by unfold State.linOf; rw [State.makeReport_lin]
@[simp] theorem State.makeReport_swPort (s : State) (r : FltReport) (idx : Nat) : (s.makeReport r).swPort idx = s.swPort idx := by unfold State.swPort; rw [State.makeReport_swc]
@[simp] theorem State.makeReport_prtOf (s : State) (r : FltReport) (idx : Nat) : (s.makeReport r).prtOf idx = s.prtOf idx := by unfold State.prtOf; rw [State.makeReport_prt]
@[simp] theorem State.makeReport_timeSrc (s : State) (r : FltReport) (idx : Nat) : (s.makeReport r).timeSrc idx = s.timeSrc idx := by unfold State.timeSrc; rw [State.makeReport_time]
@[simp] theorem State.makeReport_pg (s : State) (r : FltReport) (idx : Nat) : (s.makeReport r).pg idx = s.pg idx := by unfold State.pg; rw [State.makeReport_time]

@[simp] theorem State.fault_chan (s : State) (src cls level part kind data attempts hold : Nat) (idx : Nat) : (s.fault src cls level part kind data attempts hold).chan idx = s.chan idx := by unfold State.chan; rw [State.fault_lsw]
@[simp] theorem State.fault_bridge (s : State) (src cls level part kind data attempts hold : Nat) (idx : Nat) : (s.fault src cls level part kind data attempts hold).bridge idx = s.bridge idx := by unfold State.bridge; rw [State.fault_lsw]
@[simp] theorem State.fault_prot (s : State) (src cls level part kind data attempts hold : Nat) (idx : Nat) : (s.fault src cls level part kind data attempts hold).prot idx = s.prot idx := by unfold State.prot; rw [State.fault_lsw]
@[simp] theorem State.fault_feed (s : State) (src cls level part kind data attempts hold : Nat) (idx : Nat) : (s.fault src cls level part kind data attempts hold).feed idx = s.feed idx := by unfold State.feed; rw [State.fault_pwr]
@[simp] theorem State.fault_din (s : State) (src cls level part kind data attempts hold : Nat) (idx : Nat) : (s.fault src cls level part kind data attempts hold).din idx = s.din idx := by unfold State.din; rw [State.fault_dio]
@[simp] theorem State.fault_xo (s : State) (src cls level part kind data attempts hold : Nat) (idx : Nat) : (s.fault src cls level part kind data attempts hold).xo idx = s.xo idx := by unfold State.xo; rw [State.fault_dio]
@[simp] theorem State.fault_slot (s : State) (src cls level part kind data attempts hold : Nat) (idx : Nat) : (s.fault src cls level part kind data attempts hold).slot idx = s.slot idx := by unfold State.slot; rw [State.fault_easel]
@[simp] theorem State.fault_lane (s : State) (src cls level part kind data attempts hold : Nat) (idx : Nat) : (s.fault src cls level part kind data attempts hold).lane idx = s.lane idx := by unfold State.lane; rw [State.fault_easel]
@[simp] theorem State.fault_partOvr (s : State) (src cls level part kind data attempts hold : Nat) (idx : Nat) : (s.fault src cls level part kind data attempts hold).partOvr idx = s.partOvr idx := by unfold State.partOvr; rw [State.fault_easel]
@[simp] theorem State.fault_cluster (s : State) (src cls level part kind data attempts hold : Nat) (idx : Nat) : (s.fault src cls level part kind data attempts hold).cluster idx = s.cluster idx := by unfold State.cluster; rw [State.fault_fry]
@[simp] theorem State.fault_fryTx (s : State) (src cls level part kind data attempts hold : Nat) (idx : Nat) : (s.fault src cls level part kind data attempts hold).fryTx idx = s.fryTx idx := by unfold State.fryTx; rw [State.fault_fry]
@[simp] theorem State.fault_fryCh (s : State) (src cls level part kind data attempts hold : Nat) (idx : Nat) : (s.fault src cls level part kind data attempts hold).fryCh idx = s.fryCh idx := by unfold State.fryCh; rw [State.fault_fry]
@[simp] theorem State.fault_sigStat (s : State) (src cls level part kind data attempts hold : Nat) (idx : Nat) : (s.fault src cls level part kind data attempts hold).sigStat idx = s.sigStat idx := by unfold State.sigStat; rw [State.fault_gw]
@[simp] theorem State.fault_pipe (s : State) (src cls level part kind data attempts hold : Nat) (idx : Nat) : (s.fault src cls level part kind data attempts hold).pipe idx = s.pipe idx := by unfold State.pipe; rw [State.fault_gw]
@[simp] theorem State.fault_actRec (s : State) (src cls level part kind data attempts hold : Nat) (idx : Nat) : (s.fault src cls level part kind data attempts hold).actRec idx = s.actRec idx := by unfold State.actRec; rw [State.fault_gw]
@[simp] theorem State.fault_canOf (s : State) (src cls level part kind data attempts hold : Nat) (idx : Nat) : (s.fault src cls level part kind data attempts hold).canOf idx = s.canOf idx := by unfold State.canOf; rw [State.fault_can]
@[simp] theorem State.fault_linOf (s : State) (src cls level part kind data attempts hold : Nat) (idx : Nat) : (s.fault src cls level part kind data attempts hold).linOf idx = s.linOf idx := by unfold State.linOf; rw [State.fault_lin]
@[simp] theorem State.fault_swPort (s : State) (src cls level part kind data attempts hold : Nat) (idx : Nat) : (s.fault src cls level part kind data attempts hold).swPort idx = s.swPort idx := by unfold State.swPort; rw [State.fault_swc]
@[simp] theorem State.fault_prtOf (s : State) (src cls level part kind data attempts hold : Nat) (idx : Nat) : (s.fault src cls level part kind data attempts hold).prtOf idx = s.prtOf idx := by unfold State.prtOf; rw [State.fault_prt]
@[simp] theorem State.fault_timeSrc (s : State) (src cls level part kind data attempts hold : Nat) (idx : Nat) : (s.fault src cls level part kind data attempts hold).timeSrc idx = s.timeSrc idx := by unfold State.timeSrc; rw [State.fault_time]
@[simp] theorem State.fault_pg (s : State) (src cls level part kind data attempts hold : Nat) (idx : Nat) : (s.fault src cls level part kind data attempts hold).pg idx = s.pg idx := by unfold State.pg; rw [State.fault_time]

@[simp] theorem State.postedError_chan (s : State) (r : PostedRec) (idx : Nat) : (s.postedError r).chan idx = s.chan idx := by unfold State.chan; rw [State.postedError_lsw]
@[simp] theorem State.postedError_bridge (s : State) (r : PostedRec) (idx : Nat) : (s.postedError r).bridge idx = s.bridge idx := by unfold State.bridge; rw [State.postedError_lsw]
@[simp] theorem State.postedError_prot (s : State) (r : PostedRec) (idx : Nat) : (s.postedError r).prot idx = s.prot idx := by unfold State.prot; rw [State.postedError_lsw]
@[simp] theorem State.postedError_feed (s : State) (r : PostedRec) (idx : Nat) : (s.postedError r).feed idx = s.feed idx := by unfold State.feed; rw [State.postedError_pwr]
@[simp] theorem State.postedError_din (s : State) (r : PostedRec) (idx : Nat) : (s.postedError r).din idx = s.din idx := by unfold State.din; rw [State.postedError_dio]
@[simp] theorem State.postedError_xo (s : State) (r : PostedRec) (idx : Nat) : (s.postedError r).xo idx = s.xo idx := by unfold State.xo; rw [State.postedError_dio]
@[simp] theorem State.postedError_slot (s : State) (r : PostedRec) (idx : Nat) : (s.postedError r).slot idx = s.slot idx := by unfold State.slot; rw [State.postedError_easel]
@[simp] theorem State.postedError_lane (s : State) (r : PostedRec) (idx : Nat) : (s.postedError r).lane idx = s.lane idx := by unfold State.lane; rw [State.postedError_easel]
@[simp] theorem State.postedError_partOvr (s : State) (r : PostedRec) (idx : Nat) : (s.postedError r).partOvr idx = s.partOvr idx := by unfold State.partOvr; rw [State.postedError_easel]
@[simp] theorem State.postedError_cluster (s : State) (r : PostedRec) (idx : Nat) : (s.postedError r).cluster idx = s.cluster idx := by unfold State.cluster; rw [State.postedError_fry]
@[simp] theorem State.postedError_fryTx (s : State) (r : PostedRec) (idx : Nat) : (s.postedError r).fryTx idx = s.fryTx idx := by unfold State.fryTx; rw [State.postedError_fry]
@[simp] theorem State.postedError_fryCh (s : State) (r : PostedRec) (idx : Nat) : (s.postedError r).fryCh idx = s.fryCh idx := by unfold State.fryCh; rw [State.postedError_fry]
@[simp] theorem State.postedError_sigStat (s : State) (r : PostedRec) (idx : Nat) : (s.postedError r).sigStat idx = s.sigStat idx := by unfold State.sigStat; rw [State.postedError_gw]
@[simp] theorem State.postedError_pipe (s : State) (r : PostedRec) (idx : Nat) : (s.postedError r).pipe idx = s.pipe idx := by unfold State.pipe; rw [State.postedError_gw]
@[simp] theorem State.postedError_actRec (s : State) (r : PostedRec) (idx : Nat) : (s.postedError r).actRec idx = s.actRec idx := by unfold State.actRec; rw [State.postedError_gw]
@[simp] theorem State.postedError_canOf (s : State) (r : PostedRec) (idx : Nat) : (s.postedError r).canOf idx = s.canOf idx := by unfold State.canOf; rw [State.postedError_can]
@[simp] theorem State.postedError_linOf (s : State) (r : PostedRec) (idx : Nat) : (s.postedError r).linOf idx = s.linOf idx := by unfold State.linOf; rw [State.postedError_lin]
@[simp] theorem State.postedError_swPort (s : State) (r : PostedRec) (idx : Nat) : (s.postedError r).swPort idx = s.swPort idx := by unfold State.swPort; rw [State.postedError_swc]
@[simp] theorem State.postedError_prtOf (s : State) (r : PostedRec) (idx : Nat) : (s.postedError r).prtOf idx = s.prtOf idx := by unfold State.prtOf; rw [State.postedError_prt]
@[simp] theorem State.postedError_timeSrc (s : State) (r : PostedRec) (idx : Nat) : (s.postedError r).timeSrc idx = s.timeSrc idx := by unfold State.timeSrc; rw [State.postedError_time]
@[simp] theorem State.postedError_pg (s : State) (r : PostedRec) (idx : Nat) : (s.postedError r).pg idx = s.pg idx := by unfold State.pg; rw [State.postedError_time]

@[simp] theorem State.finalReply_chan (s : State) (code : Nat) (pk : Packet) (status : Nat) (result : List Byte) (idx : Nat) : (s.finalReply code pk status result).chan idx = s.chan idx := by unfold State.chan; rw [State.finalReply_lsw]
@[simp] theorem State.finalReply_bridge (s : State) (code : Nat) (pk : Packet) (status : Nat) (result : List Byte) (idx : Nat) : (s.finalReply code pk status result).bridge idx = s.bridge idx := by unfold State.bridge; rw [State.finalReply_lsw]
@[simp] theorem State.finalReply_prot (s : State) (code : Nat) (pk : Packet) (status : Nat) (result : List Byte) (idx : Nat) : (s.finalReply code pk status result).prot idx = s.prot idx := by unfold State.prot; rw [State.finalReply_lsw]
@[simp] theorem State.finalReply_feed (s : State) (code : Nat) (pk : Packet) (status : Nat) (result : List Byte) (idx : Nat) : (s.finalReply code pk status result).feed idx = s.feed idx := by unfold State.feed; rw [State.finalReply_pwr]
@[simp] theorem State.finalReply_din (s : State) (code : Nat) (pk : Packet) (status : Nat) (result : List Byte) (idx : Nat) : (s.finalReply code pk status result).din idx = s.din idx := by unfold State.din; rw [State.finalReply_dio]
@[simp] theorem State.finalReply_xo (s : State) (code : Nat) (pk : Packet) (status : Nat) (result : List Byte) (idx : Nat) : (s.finalReply code pk status result).xo idx = s.xo idx := by unfold State.xo; rw [State.finalReply_dio]
@[simp] theorem State.finalReply_slot (s : State) (code : Nat) (pk : Packet) (status : Nat) (result : List Byte) (idx : Nat) : (s.finalReply code pk status result).slot idx = s.slot idx := by unfold State.slot; rw [State.finalReply_easel]
@[simp] theorem State.finalReply_lane (s : State) (code : Nat) (pk : Packet) (status : Nat) (result : List Byte) (idx : Nat) : (s.finalReply code pk status result).lane idx = s.lane idx := by unfold State.lane; rw [State.finalReply_easel]
@[simp] theorem State.finalReply_partOvr (s : State) (code : Nat) (pk : Packet) (status : Nat) (result : List Byte) (idx : Nat) : (s.finalReply code pk status result).partOvr idx = s.partOvr idx := by unfold State.partOvr; rw [State.finalReply_easel]
@[simp] theorem State.finalReply_cluster (s : State) (code : Nat) (pk : Packet) (status : Nat) (result : List Byte) (idx : Nat) : (s.finalReply code pk status result).cluster idx = s.cluster idx := by unfold State.cluster; rw [State.finalReply_fry]
@[simp] theorem State.finalReply_fryTx (s : State) (code : Nat) (pk : Packet) (status : Nat) (result : List Byte) (idx : Nat) : (s.finalReply code pk status result).fryTx idx = s.fryTx idx := by unfold State.fryTx; rw [State.finalReply_fry]
@[simp] theorem State.finalReply_fryCh (s : State) (code : Nat) (pk : Packet) (status : Nat) (result : List Byte) (idx : Nat) : (s.finalReply code pk status result).fryCh idx = s.fryCh idx := by unfold State.fryCh; rw [State.finalReply_fry]
@[simp] theorem State.finalReply_sigStat (s : State) (code : Nat) (pk : Packet) (status : Nat) (result : List Byte) (idx : Nat) : (s.finalReply code pk status result).sigStat idx = s.sigStat idx := by unfold State.sigStat; rw [State.finalReply_gw]
@[simp] theorem State.finalReply_pipe (s : State) (code : Nat) (pk : Packet) (status : Nat) (result : List Byte) (idx : Nat) : (s.finalReply code pk status result).pipe idx = s.pipe idx := by unfold State.pipe; rw [State.finalReply_gw]
@[simp] theorem State.finalReply_actRec (s : State) (code : Nat) (pk : Packet) (status : Nat) (result : List Byte) (idx : Nat) : (s.finalReply code pk status result).actRec idx = s.actRec idx := by unfold State.actRec; rw [State.finalReply_gw]
@[simp] theorem State.finalReply_canOf (s : State) (code : Nat) (pk : Packet) (status : Nat) (result : List Byte) (idx : Nat) : (s.finalReply code pk status result).canOf idx = s.canOf idx := by unfold State.canOf; rw [State.finalReply_can]
@[simp] theorem State.finalReply_linOf (s : State) (code : Nat) (pk : Packet) (status : Nat) (result : List Byte) (idx : Nat) : (s.finalReply code pk status result).linOf idx = s.linOf idx := by unfold State.linOf; rw [State.finalReply_lin]
@[simp] theorem State.finalReply_swPort (s : State) (code : Nat) (pk : Packet) (status : Nat) (result : List Byte) (idx : Nat) : (s.finalReply code pk status result).swPort idx = s.swPort idx := by unfold State.swPort; rw [State.finalReply_swc]
@[simp] theorem State.finalReply_prtOf (s : State) (code : Nat) (pk : Packet) (status : Nat) (result : List Byte) (idx : Nat) : (s.finalReply code pk status result).prtOf idx = s.prtOf idx := by unfold State.prtOf; rw [State.finalReply_prt]
@[simp] theorem State.finalReply_timeSrc (s : State) (code : Nat) (pk : Packet) (status : Nat) (result : List Byte) (idx : Nat) : (s.finalReply code pk status result).timeSrc idx = s.timeSrc idx := by unfold State.timeSrc; rw [State.finalReply_time]
@[simp] theorem State.finalReply_pg (s : State) (code : Nat) (pk : Packet) (status : Nat) (result : List Byte) (idx : Nat) : (s.finalReply code pk status result).pg idx = s.pg idx := by unfold State.pg; rw [State.finalReply_time]

@[simp] theorem State.finishWhere_chan (s : State) (f : Outst → Bool) (status : Nat) (result : List Byte) (idx : Nat) : (s.finishWhere f status result).chan idx = s.chan idx := by unfold State.chan; rw [State.finishWhere_lsw]
@[simp] theorem State.finishWhere_bridge (s : State) (f : Outst → Bool) (status : Nat) (result : List Byte) (idx : Nat) : (s.finishWhere f status result).bridge idx = s.bridge idx := by unfold State.bridge; rw [State.finishWhere_lsw]
@[simp] theorem State.finishWhere_prot (s : State) (f : Outst → Bool) (status : Nat) (result : List Byte) (idx : Nat) : (s.finishWhere f status result).prot idx = s.prot idx := by unfold State.prot; rw [State.finishWhere_lsw]
@[simp] theorem State.finishWhere_feed (s : State) (f : Outst → Bool) (status : Nat) (result : List Byte) (idx : Nat) : (s.finishWhere f status result).feed idx = s.feed idx := by unfold State.feed; rw [State.finishWhere_pwr]
@[simp] theorem State.finishWhere_din (s : State) (f : Outst → Bool) (status : Nat) (result : List Byte) (idx : Nat) : (s.finishWhere f status result).din idx = s.din idx := by unfold State.din; rw [State.finishWhere_dio]
@[simp] theorem State.finishWhere_xo (s : State) (f : Outst → Bool) (status : Nat) (result : List Byte) (idx : Nat) : (s.finishWhere f status result).xo idx = s.xo idx := by unfold State.xo; rw [State.finishWhere_dio]
@[simp] theorem State.finishWhere_slot (s : State) (f : Outst → Bool) (status : Nat) (result : List Byte) (idx : Nat) : (s.finishWhere f status result).slot idx = s.slot idx := by unfold State.slot; rw [State.finishWhere_easel]
@[simp] theorem State.finishWhere_lane (s : State) (f : Outst → Bool) (status : Nat) (result : List Byte) (idx : Nat) : (s.finishWhere f status result).lane idx = s.lane idx := by unfold State.lane; rw [State.finishWhere_easel]
@[simp] theorem State.finishWhere_partOvr (s : State) (f : Outst → Bool) (status : Nat) (result : List Byte) (idx : Nat) : (s.finishWhere f status result).partOvr idx = s.partOvr idx := by unfold State.partOvr; rw [State.finishWhere_easel]
@[simp] theorem State.finishWhere_cluster (s : State) (f : Outst → Bool) (status : Nat) (result : List Byte) (idx : Nat) : (s.finishWhere f status result).cluster idx = s.cluster idx := by unfold State.cluster; rw [State.finishWhere_fry]
@[simp] theorem State.finishWhere_fryTx (s : State) (f : Outst → Bool) (status : Nat) (result : List Byte) (idx : Nat) : (s.finishWhere f status result).fryTx idx = s.fryTx idx := by unfold State.fryTx; rw [State.finishWhere_fry]
@[simp] theorem State.finishWhere_fryCh (s : State) (f : Outst → Bool) (status : Nat) (result : List Byte) (idx : Nat) : (s.finishWhere f status result).fryCh idx = s.fryCh idx := by unfold State.fryCh; rw [State.finishWhere_fry]
@[simp] theorem State.finishWhere_sigStat (s : State) (f : Outst → Bool) (status : Nat) (result : List Byte) (idx : Nat) : (s.finishWhere f status result).sigStat idx = s.sigStat idx := by unfold State.sigStat; rw [State.finishWhere_gw]
@[simp] theorem State.finishWhere_pipe (s : State) (f : Outst → Bool) (status : Nat) (result : List Byte) (idx : Nat) : (s.finishWhere f status result).pipe idx = s.pipe idx := by unfold State.pipe; rw [State.finishWhere_gw]
@[simp] theorem State.finishWhere_actRec (s : State) (f : Outst → Bool) (status : Nat) (result : List Byte) (idx : Nat) : (s.finishWhere f status result).actRec idx = s.actRec idx := by unfold State.actRec; rw [State.finishWhere_gw]
@[simp] theorem State.finishWhere_canOf (s : State) (f : Outst → Bool) (status : Nat) (result : List Byte) (idx : Nat) : (s.finishWhere f status result).canOf idx = s.canOf idx := by unfold State.canOf; rw [State.finishWhere_can]
@[simp] theorem State.finishWhere_linOf (s : State) (f : Outst → Bool) (status : Nat) (result : List Byte) (idx : Nat) : (s.finishWhere f status result).linOf idx = s.linOf idx := by unfold State.linOf; rw [State.finishWhere_lin]
@[simp] theorem State.finishWhere_swPort (s : State) (f : Outst → Bool) (status : Nat) (result : List Byte) (idx : Nat) : (s.finishWhere f status result).swPort idx = s.swPort idx := by unfold State.swPort; rw [State.finishWhere_swc]
@[simp] theorem State.finishWhere_prtOf (s : State) (f : Outst → Bool) (status : Nat) (result : List Byte) (idx : Nat) : (s.finishWhere f status result).prtOf idx = s.prtOf idx := by unfold State.prtOf; rw [State.finishWhere_prt]
@[simp] theorem State.finishWhere_timeSrc (s : State) (f : Outst → Bool) (status : Nat) (result : List Byte) (idx : Nat) : (s.finishWhere f status result).timeSrc idx = s.timeSrc idx := by unfold State.timeSrc; rw [State.finishWhere_time]
@[simp] theorem State.finishWhere_pg (s : State) (f : Outst → Bool) (status : Nat) (result : List Byte) (idx : Nat) : (s.finishWhere f status result).pg idx = s.pg idx := by unfold State.pg; rw [State.finishWhere_time]

@[simp] theorem State.finishAsync_chan (s : State) (o : Outst) (status : Nat) (result : List Byte) (idx : Nat) : (s.finishAsync o status result).chan idx = s.chan idx := by unfold State.chan; rw [State.finishAsync_lsw]
@[simp] theorem State.finishAsync_bridge (s : State) (o : Outst) (status : Nat) (result : List Byte) (idx : Nat) : (s.finishAsync o status result).bridge idx = s.bridge idx := by unfold State.bridge; rw [State.finishAsync_lsw]
@[simp] theorem State.finishAsync_prot (s : State) (o : Outst) (status : Nat) (result : List Byte) (idx : Nat) : (s.finishAsync o status result).prot idx = s.prot idx := by unfold State.prot; rw [State.finishAsync_lsw]
@[simp] theorem State.finishAsync_feed (s : State) (o : Outst) (status : Nat) (result : List Byte) (idx : Nat) : (s.finishAsync o status result).feed idx = s.feed idx := by unfold State.feed; rw [State.finishAsync_pwr]
@[simp] theorem State.finishAsync_din (s : State) (o : Outst) (status : Nat) (result : List Byte) (idx : Nat) : (s.finishAsync o status result).din idx = s.din idx := by unfold State.din; rw [State.finishAsync_dio]
@[simp] theorem State.finishAsync_xo (s : State) (o : Outst) (status : Nat) (result : List Byte) (idx : Nat) : (s.finishAsync o status result).xo idx = s.xo idx := by unfold State.xo; rw [State.finishAsync_dio]
@[simp] theorem State.finishAsync_slot (s : State) (o : Outst) (status : Nat) (result : List Byte) (idx : Nat) : (s.finishAsync o status result).slot idx = s.slot idx := by unfold State.slot; rw [State.finishAsync_easel]
@[simp] theorem State.finishAsync_lane (s : State) (o : Outst) (status : Nat) (result : List Byte) (idx : Nat) : (s.finishAsync o status result).lane idx = s.lane idx := by unfold State.lane; rw [State.finishAsync_easel]
@[simp] theorem State.finishAsync_partOvr (s : State) (o : Outst) (status : Nat) (result : List Byte) (idx : Nat) : (s.finishAsync o status result).partOvr idx = s.partOvr idx := by unfold State.partOvr; rw [State.finishAsync_easel]
@[simp] theorem State.finishAsync_cluster (s : State) (o : Outst) (status : Nat) (result : List Byte) (idx : Nat) : (s.finishAsync o status result).cluster idx = s.cluster idx := by unfold State.cluster; rw [State.finishAsync_fry]
@[simp] theorem State.finishAsync_fryTx (s : State) (o : Outst) (status : Nat) (result : List Byte) (idx : Nat) : (s.finishAsync o status result).fryTx idx = s.fryTx idx := by unfold State.fryTx; rw [State.finishAsync_fry]
@[simp] theorem State.finishAsync_fryCh (s : State) (o : Outst) (status : Nat) (result : List Byte) (idx : Nat) : (s.finishAsync o status result).fryCh idx = s.fryCh idx := by unfold State.fryCh; rw [State.finishAsync_fry]
@[simp] theorem State.finishAsync_sigStat (s : State) (o : Outst) (status : Nat) (result : List Byte) (idx : Nat) : (s.finishAsync o status result).sigStat idx = s.sigStat idx := by unfold State.sigStat; rw [State.finishAsync_gw]
@[simp] theorem State.finishAsync_pipe (s : State) (o : Outst) (status : Nat) (result : List Byte) (idx : Nat) : (s.finishAsync o status result).pipe idx = s.pipe idx := by unfold State.pipe; rw [State.finishAsync_gw]
@[simp] theorem State.finishAsync_actRec (s : State) (o : Outst) (status : Nat) (result : List Byte) (idx : Nat) : (s.finishAsync o status result).actRec idx = s.actRec idx := by unfold State.actRec; rw [State.finishAsync_gw]
@[simp] theorem State.finishAsync_canOf (s : State) (o : Outst) (status : Nat) (result : List Byte) (idx : Nat) : (s.finishAsync o status result).canOf idx = s.canOf idx := by unfold State.canOf; rw [State.finishAsync_can]
@[simp] theorem State.finishAsync_linOf (s : State) (o : Outst) (status : Nat) (result : List Byte) (idx : Nat) : (s.finishAsync o status result).linOf idx = s.linOf idx := by unfold State.linOf; rw [State.finishAsync_lin]
@[simp] theorem State.finishAsync_swPort (s : State) (o : Outst) (status : Nat) (result : List Byte) (idx : Nat) : (s.finishAsync o status result).swPort idx = s.swPort idx := by unfold State.swPort; rw [State.finishAsync_swc]
@[simp] theorem State.finishAsync_prtOf (s : State) (o : Outst) (status : Nat) (result : List Byte) (idx : Nat) : (s.finishAsync o status result).prtOf idx = s.prtOf idx := by unfold State.prtOf; rw [State.finishAsync_prt]
@[simp] theorem State.finishAsync_timeSrc (s : State) (o : Outst) (status : Nat) (result : List Byte) (idx : Nat) : (s.finishAsync o status result).timeSrc idx = s.timeSrc idx := by unfold State.timeSrc; rw [State.finishAsync_time]
@[simp] theorem State.finishAsync_pg (s : State) (o : Outst) (status : Nat) (result : List Byte) (idx : Nat) : (s.finishAsync o status result).pg idx = s.pg idx := by unfold State.pg; rw [State.finishAsync_time]

@[simp] theorem State.ringPush_chan (s : State) (n : Nat) (bs : List Byte) (idx : Nat) : (s.ringPush n bs).chan idx = s.chan idx := by unfold State.chan; rw [State.ringPush_lsw]
@[simp] theorem State.ringPush_bridge (s : State) (n : Nat) (bs : List Byte) (idx : Nat) : (s.ringPush n bs).bridge idx = s.bridge idx := by unfold State.bridge; rw [State.ringPush_lsw]
@[simp] theorem State.ringPush_prot (s : State) (n : Nat) (bs : List Byte) (idx : Nat) : (s.ringPush n bs).prot idx = s.prot idx := by unfold State.prot; rw [State.ringPush_lsw]
@[simp] theorem State.ringPush_feed (s : State) (n : Nat) (bs : List Byte) (idx : Nat) : (s.ringPush n bs).feed idx = s.feed idx := by unfold State.feed; rw [State.ringPush_pwr]
@[simp] theorem State.ringPush_din (s : State) (n : Nat) (bs : List Byte) (idx : Nat) : (s.ringPush n bs).din idx = s.din idx := by unfold State.din; rw [State.ringPush_dio]
@[simp] theorem State.ringPush_xo (s : State) (n : Nat) (bs : List Byte) (idx : Nat) : (s.ringPush n bs).xo idx = s.xo idx := by unfold State.xo; rw [State.ringPush_dio]
@[simp] theorem State.ringPush_slot (s : State) (n : Nat) (bs : List Byte) (idx : Nat) : (s.ringPush n bs).slot idx = s.slot idx := by unfold State.slot; rw [State.ringPush_easel]
@[simp] theorem State.ringPush_lane (s : State) (n : Nat) (bs : List Byte) (idx : Nat) : (s.ringPush n bs).lane idx = s.lane idx := by unfold State.lane; rw [State.ringPush_easel]
@[simp] theorem State.ringPush_partOvr (s : State) (n : Nat) (bs : List Byte) (idx : Nat) : (s.ringPush n bs).partOvr idx = s.partOvr idx := by unfold State.partOvr; rw [State.ringPush_easel]
@[simp] theorem State.ringPush_cluster (s : State) (n : Nat) (bs : List Byte) (idx : Nat) : (s.ringPush n bs).cluster idx = s.cluster idx := by unfold State.cluster; rw [State.ringPush_fry]
@[simp] theorem State.ringPush_fryTx (s : State) (n : Nat) (bs : List Byte) (idx : Nat) : (s.ringPush n bs).fryTx idx = s.fryTx idx := by unfold State.fryTx; rw [State.ringPush_fry]
@[simp] theorem State.ringPush_fryCh (s : State) (n : Nat) (bs : List Byte) (idx : Nat) : (s.ringPush n bs).fryCh idx = s.fryCh idx := by unfold State.fryCh; rw [State.ringPush_fry]
@[simp] theorem State.ringPush_sigStat (s : State) (n : Nat) (bs : List Byte) (idx : Nat) : (s.ringPush n bs).sigStat idx = s.sigStat idx := by unfold State.sigStat; rw [State.ringPush_gw]
@[simp] theorem State.ringPush_pipe (s : State) (n : Nat) (bs : List Byte) (idx : Nat) : (s.ringPush n bs).pipe idx = s.pipe idx := by unfold State.pipe; rw [State.ringPush_gw]
@[simp] theorem State.ringPush_actRec (s : State) (n : Nat) (bs : List Byte) (idx : Nat) : (s.ringPush n bs).actRec idx = s.actRec idx := by unfold State.actRec; rw [State.ringPush_gw]
@[simp] theorem State.ringPush_canOf (s : State) (n : Nat) (bs : List Byte) (idx : Nat) : (s.ringPush n bs).canOf idx = s.canOf idx := by unfold State.canOf; rw [State.ringPush_can]
@[simp] theorem State.ringPush_linOf (s : State) (n : Nat) (bs : List Byte) (idx : Nat) : (s.ringPush n bs).linOf idx = s.linOf idx := by unfold State.linOf; rw [State.ringPush_lin]
@[simp] theorem State.ringPush_swPort (s : State) (n : Nat) (bs : List Byte) (idx : Nat) : (s.ringPush n bs).swPort idx = s.swPort idx := by unfold State.swPort; rw [State.ringPush_swc]
@[simp] theorem State.ringPush_prtOf (s : State) (n : Nat) (bs : List Byte) (idx : Nat) : (s.ringPush n bs).prtOf idx = s.prtOf idx := by unfold State.prtOf; rw [State.ringPush_prt]
@[simp] theorem State.ringPush_timeSrc (s : State) (n : Nat) (bs : List Byte) (idx : Nat) : (s.ringPush n bs).timeSrc idx = s.timeSrc idx := by unfold State.timeSrc; rw [State.ringPush_time]
@[simp] theorem State.ringPush_pg (s : State) (n : Nat) (bs : List Byte) (idx : Nat) : (s.ringPush n bs).pg idx = s.pg idx := by unfold State.pg; rw [State.ringPush_time]

@[simp] theorem State.ringRecord_chan (s : State) (n et : Nat) (bs : List Byte) (idx : Nat) : (s.ringRecord n et bs).chan idx = s.chan idx := by unfold State.chan; rw [State.ringRecord_lsw]
@[simp] theorem State.ringRecord_bridge (s : State) (n et : Nat) (bs : List Byte) (idx : Nat) : (s.ringRecord n et bs).bridge idx = s.bridge idx := by unfold State.bridge; rw [State.ringRecord_lsw]
@[simp] theorem State.ringRecord_prot (s : State) (n et : Nat) (bs : List Byte) (idx : Nat) : (s.ringRecord n et bs).prot idx = s.prot idx := by unfold State.prot; rw [State.ringRecord_lsw]
@[simp] theorem State.ringRecord_feed (s : State) (n et : Nat) (bs : List Byte) (idx : Nat) : (s.ringRecord n et bs).feed idx = s.feed idx := by unfold State.feed; rw [State.ringRecord_pwr]
@[simp] theorem State.ringRecord_din (s : State) (n et : Nat) (bs : List Byte) (idx : Nat) : (s.ringRecord n et bs).din idx = s.din idx := by unfold State.din; rw [State.ringRecord_dio]
@[simp] theorem State.ringRecord_xo (s : State) (n et : Nat) (bs : List Byte) (idx : Nat) : (s.ringRecord n et bs).xo idx = s.xo idx := by unfold State.xo; rw [State.ringRecord_dio]
@[simp] theorem State.ringRecord_slot (s : State) (n et : Nat) (bs : List Byte) (idx : Nat) : (s.ringRecord n et bs).slot idx = s.slot idx := by unfold State.slot; rw [State.ringRecord_easel]
@[simp] theorem State.ringRecord_lane (s : State) (n et : Nat) (bs : List Byte) (idx : Nat) : (s.ringRecord n et bs).lane idx = s.lane idx := by unfold State.lane; rw [State.ringRecord_easel]
@[simp] theorem State.ringRecord_partOvr (s : State) (n et : Nat) (bs : List Byte) (idx : Nat) : (s.ringRecord n et bs).partOvr idx = s.partOvr idx := by unfold State.partOvr; rw [State.ringRecord_easel]
@[simp] theorem State.ringRecord_cluster (s : State) (n et : Nat) (bs : List Byte) (idx : Nat) : (s.ringRecord n et bs).cluster idx = s.cluster idx := by unfold State.cluster; rw [State.ringRecord_fry]
@[simp] theorem State.ringRecord_fryTx (s : State) (n et : Nat) (bs : List Byte) (idx : Nat) : (s.ringRecord n et bs).fryTx idx = s.fryTx idx := by unfold State.fryTx; rw [State.ringRecord_fry]
@[simp] theorem State.ringRecord_fryCh (s : State) (n et : Nat) (bs : List Byte) (idx : Nat) : (s.ringRecord n et bs).fryCh idx = s.fryCh idx := by unfold State.fryCh; rw [State.ringRecord_fry]
@[simp] theorem State.ringRecord_sigStat (s : State) (n et : Nat) (bs : List Byte) (idx : Nat) : (s.ringRecord n et bs).sigStat idx = s.sigStat idx := by unfold State.sigStat; rw [State.ringRecord_gw]
@[simp] theorem State.ringRecord_pipe (s : State) (n et : Nat) (bs : List Byte) (idx : Nat) : (s.ringRecord n et bs).pipe idx = s.pipe idx := by unfold State.pipe; rw [State.ringRecord_gw]
@[simp] theorem State.ringRecord_actRec (s : State) (n et : Nat) (bs : List Byte) (idx : Nat) : (s.ringRecord n et bs).actRec idx = s.actRec idx := by unfold State.actRec; rw [State.ringRecord_gw]
@[simp] theorem State.ringRecord_canOf (s : State) (n et : Nat) (bs : List Byte) (idx : Nat) : (s.ringRecord n et bs).canOf idx = s.canOf idx := by unfold State.canOf; rw [State.ringRecord_can]
@[simp] theorem State.ringRecord_linOf (s : State) (n et : Nat) (bs : List Byte) (idx : Nat) : (s.ringRecord n et bs).linOf idx = s.linOf idx := by unfold State.linOf; rw [State.ringRecord_lin]
@[simp] theorem State.ringRecord_swPort (s : State) (n et : Nat) (bs : List Byte) (idx : Nat) : (s.ringRecord n et bs).swPort idx = s.swPort idx := by unfold State.swPort; rw [State.ringRecord_swc]
@[simp] theorem State.ringRecord_prtOf (s : State) (n et : Nat) (bs : List Byte) (idx : Nat) : (s.ringRecord n et bs).prtOf idx = s.prtOf idx := by unfold State.prtOf; rw [State.ringRecord_prt]
@[simp] theorem State.ringRecord_timeSrc (s : State) (n et : Nat) (bs : List Byte) (idx : Nat) : (s.ringRecord n et bs).timeSrc idx = s.timeSrc idx := by unfold State.timeSrc; rw [State.ringRecord_time]
@[simp] theorem State.ringRecord_pg (s : State) (n et : Nat) (bs : List Byte) (idx : Nat) : (s.ringRecord n et bs).pg idx = s.pg idx := by unfold State.pg; rw [State.ringRecord_time]

@[simp] theorem State.logRec_chan (s : State) (r : LogRec) (idx : Nat) : (s.logRec r).chan idx = s.chan idx := by unfold State.chan; rw [State.logRec_lsw]
@[simp] theorem State.logRec_bridge (s : State) (r : LogRec) (idx : Nat) : (s.logRec r).bridge idx = s.bridge idx := by unfold State.bridge; rw [State.logRec_lsw]
@[simp] theorem State.logRec_prot (s : State) (r : LogRec) (idx : Nat) : (s.logRec r).prot idx = s.prot idx := by unfold State.prot; rw [State.logRec_lsw]
@[simp] theorem State.logRec_feed (s : State) (r : LogRec) (idx : Nat) : (s.logRec r).feed idx = s.feed idx := by unfold State.feed; rw [State.logRec_pwr]
@[simp] theorem State.logRec_din (s : State) (r : LogRec) (idx : Nat) : (s.logRec r).din idx = s.din idx := by unfold State.din; rw [State.logRec_dio]
@[simp] theorem State.logRec_xo (s : State) (r : LogRec) (idx : Nat) : (s.logRec r).xo idx = s.xo idx := by unfold State.xo; rw [State.logRec_dio]
@[simp] theorem State.logRec_slot (s : State) (r : LogRec) (idx : Nat) : (s.logRec r).slot idx = s.slot idx := by unfold State.slot; rw [State.logRec_easel]
@[simp] theorem State.logRec_lane (s : State) (r : LogRec) (idx : Nat) : (s.logRec r).lane idx = s.lane idx := by unfold State.lane; rw [State.logRec_easel]
@[simp] theorem State.logRec_partOvr (s : State) (r : LogRec) (idx : Nat) : (s.logRec r).partOvr idx = s.partOvr idx := by unfold State.partOvr; rw [State.logRec_easel]
@[simp] theorem State.logRec_cluster (s : State) (r : LogRec) (idx : Nat) : (s.logRec r).cluster idx = s.cluster idx := by unfold State.cluster; rw [State.logRec_fry]
@[simp] theorem State.logRec_fryTx (s : State) (r : LogRec) (idx : Nat) : (s.logRec r).fryTx idx = s.fryTx idx := by unfold State.fryTx; rw [State.logRec_fry]
@[simp] theorem State.logRec_fryCh (s : State) (r : LogRec) (idx : Nat) : (s.logRec r).fryCh idx = s.fryCh idx := by unfold State.fryCh; rw [State.logRec_fry]
@[simp] theorem State.logRec_sigStat (s : State) (r : LogRec) (idx : Nat) : (s.logRec r).sigStat idx = s.sigStat idx := by unfold State.sigStat; rw [State.logRec_gw]
@[simp] theorem State.logRec_pipe (s : State) (r : LogRec) (idx : Nat) : (s.logRec r).pipe idx = s.pipe idx := by unfold State.pipe; rw [State.logRec_gw]
@[simp] theorem State.logRec_actRec (s : State) (r : LogRec) (idx : Nat) : (s.logRec r).actRec idx = s.actRec idx := by unfold State.actRec; rw [State.logRec_gw]
@[simp] theorem State.logRec_canOf (s : State) (r : LogRec) (idx : Nat) : (s.logRec r).canOf idx = s.canOf idx := by unfold State.canOf; rw [State.logRec_can]
@[simp] theorem State.logRec_linOf (s : State) (r : LogRec) (idx : Nat) : (s.logRec r).linOf idx = s.linOf idx := by unfold State.linOf; rw [State.logRec_lin]
@[simp] theorem State.logRec_swPort (s : State) (r : LogRec) (idx : Nat) : (s.logRec r).swPort idx = s.swPort idx := by unfold State.swPort; rw [State.logRec_swc]
@[simp] theorem State.logRec_prtOf (s : State) (r : LogRec) (idx : Nat) : (s.logRec r).prtOf idx = s.prtOf idx := by unfold State.prtOf; rw [State.logRec_prt]
@[simp] theorem State.logRec_timeSrc (s : State) (r : LogRec) (idx : Nat) : (s.logRec r).timeSrc idx = s.timeSrc idx := by unfold State.timeSrc; rw [State.logRec_time]
@[simp] theorem State.logRec_pg (s : State) (r : LogRec) (idx : Nat) : (s.logRec r).pg idx = s.pg idx := by unfold State.pg; rw [State.logRec_time]

@[simp] theorem State.deliver_mem (s : State) (ev : EventRec) (p : Nat) : (s.deliver ev p).mem = s.mem := congrArg KOut.mem (State.deliver_kOut s ev p)
@[simp] theorem State.deliver_cmd (s : State) (ev : EventRec) (p : Nat) : (s.deliver ev p).cmd = s.cmd := congrArg KOut.cmd (State.deliver_kOut s ev p)

@[simp] theorem State.raiseAt_mem (s : State) (et : Nat) (tos : List Nat) (src kind data : Nat) : (s.raiseAt et tos src kind data).mem = s.mem := congrArg KOut.mem (State.raiseAt_kOut s et tos src kind data)
@[simp] theorem State.raiseAt_cmd (s : State) (et : Nat) (tos : List Nat) (src kind data : Nat) : (s.raiseAt et tos src kind data).cmd = s.cmd := congrArg KOut.cmd (State.raiseAt_kOut s et tos src kind data)

@[simp] theorem State.raise_mem (s : State) (tos : List Nat) (src kind data : Nat) : (s.raise tos src kind data).mem = s.mem := congrArg KOut.mem (State.raise_kOut s tos src kind data)
@[simp] theorem State.raise_cmd (s : State) (tos : List Nat) (src kind data : Nat) : (s.raise tos src kind data).cmd = s.cmd := congrArg KOut.cmd (State.raise_kOut s tos src kind data)

@[simp] theorem State.raiseOnce_mem (s : State) (tos : List Nat) (src kind data : Nat) : (s.raiseOnce tos src kind data).mem = s.mem := congrArg KOut.mem (State.raiseOnce_kOut s tos src kind data)
@[simp] theorem State.raiseOnce_cmd (s : State) (tos : List Nat) (src kind data : Nat) : (s.raiseOnce tos src kind data).cmd = s.cmd := congrArg KOut.cmd (State.raiseOnce_kOut s tos src kind data)

@[simp] theorem State.raiseVi_mem (s : State) (n : Nat) : (s.raiseVi n).mem = s.mem := congrArg KOut.mem (State.raiseVi_kOut s n)
@[simp] theorem State.raiseVi_cmd (s : State) (n : Nat) : (s.raiseVi n).cmd = s.cmd := congrArg KOut.cmd (State.raiseVi_kOut s n)

@[simp] theorem State.ringIrq_mem (s : State) (n : Nat) : (s.ringIrq n).mem = s.mem := congrArg KOut.mem (State.ringIrq_kOut s n)
@[simp] theorem State.ringIrq_cmd (s : State) (n : Nat) : (s.ringIrq n).cmd = s.cmd := congrArg KOut.cmd (State.ringIrq_kOut s n)

@[simp] theorem State.logRec_mem (s : State) (r : LogRec) : (s.logRec r).mem = s.mem := congrArg KOut.mem (State.logRec_kOut s r)
@[simp] theorem State.logRec_cmd (s : State) (r : LogRec) : (s.logRec r).cmd = s.cmd := congrArg KOut.cmd (State.logRec_kOut s r)

@[simp] theorem State.makeReport_mem (s : State) (r : FltReport) : (s.makeReport r).mem = s.mem := congrArg KOut.mem (State.makeReport_kOut s r)
@[simp] theorem State.makeReport_cmd (s : State) (r : FltReport) : (s.makeReport r).cmd = s.cmd := congrArg KOut.cmd (State.makeReport_kOut s r)

@[simp] theorem State.fault_mem (s : State) (src cls level part kind data attempts hold : Nat) : (s.fault src cls level part kind data attempts hold).mem = s.mem := congrArg KOut.mem (State.fault_kOut s src cls level part kind data attempts hold)
@[simp] theorem State.fault_cmd (s : State) (src cls level part kind data attempts hold : Nat) : (s.fault src cls level part kind data attempts hold).cmd = s.cmd := congrArg KOut.cmd (State.fault_kOut s src cls level part kind data attempts hold)

/-! ### Rings, pairs and owners under events -/

@[simp] theorem State.deliver_rings (s : State) (ev : EventRec) (p : Nat) : (s.deliver ev p).par.rings = s.par.rings ∧
    (s.deliver ev p).par.pairs = s.par.pairs ∧ (s.deliver ev p).par.owner = s.par.owner := by
  unfold State.deliver
  (repeat' split) <;> exact ⟨rfl, rfl, rfl⟩

theorem foldl_rings {α : Type} (f : State → α → State)
    (h : ∀ s a, (f s a).par.rings = s.par.rings ∧ (f s a).par.pairs = s.par.pairs ∧ (f s a).par.owner = s.par.owner)
    (l : List α) (s : State) : (l.foldl f s).par.rings = s.par.rings ∧ (l.foldl f s).par.pairs = s.par.pairs ∧
      (l.foldl f s).par.owner = s.par.owner := by
  induction l generalizing s with
  | nil => exact ⟨rfl, rfl, rfl⟩
  | cons a l ih =>
    obtain ⟨x, y, z⟩ := ih (f s a)
    obtain ⟨u, v, w⟩ := h s a
    exact ⟨x.trans u, y.trans v, z.trans w⟩

@[simp] theorem State.raiseAt_rings (s : State) (et : Nat) (tos : List Nat) (src kind data : Nat) :
    (s.raiseAt et tos src kind data).par.rings = s.par.rings ∧ (s.raiseAt et tos src kind data).par.pairs = s.par.pairs ∧
      (s.raiseAt et tos src kind data).par.owner = s.par.owner := by
  unfold State.raiseAt
  dsimp only
  exact foldl_rings _ (fun s p => State.deliver_rings s _ p) _ _

@[simp] theorem State.raise_rings (s : State) (tos : List Nat) (src kind data : Nat) :
    (s.raise tos src kind data).par.rings = s.par.rings ∧ (s.raise tos src kind data).par.pairs = s.par.pairs ∧
      (s.raise tos src kind data).par.owner = s.par.owner := State.raiseAt_rings s s.et tos src kind data

@[simp] theorem State.raiseOnce_rings (s : State) (tos : List Nat) (src kind data : Nat) :
    (s.raiseOnce tos src kind data).par.rings = s.par.rings ∧ (s.raiseOnce tos src kind data).par.pairs = s.par.pairs ∧
      (s.raiseOnce tos src kind data).par.owner = s.par.owner := by
  unfold State.raiseOnce
  split
  · exact ⟨rfl, rfl, rfl⟩
  · exact State.raise_rings _ _ _ _ _

@[simp] theorem State.makeReport_rings (s : State) (r : FltReport) : (s.makeReport r).par.rings = s.par.rings ∧
    (s.makeReport r).par.pairs = s.par.pairs ∧ (s.makeReport r).par.owner = s.par.owner := by
  unfold State.makeReport
  dsimp only
  obtain ⟨a, b, c⟩ := State.raise_rings (s := s) [] 0 0 0
  split
  · simp only [State.raise_rings]; exact ⟨rfl, rfl, rfl⟩
  · simp only [State.raise_rings]; exact ⟨rfl, rfl, rfl⟩

@[simp] theorem State.fault_rings (s : State) (src cls level part kind data attempts hold : Nat) :
    (s.fault src cls level part kind data attempts hold).par.rings = s.par.rings ∧
      (s.fault src cls level part kind data attempts hold).par.pairs = s.par.pairs ∧
      (s.fault src cls level part kind data attempts hold).par.owner = s.par.owner := by
  unfold State.fault
  dsimp only [State.nextFault]
  split
  · simp [State.makeReport_rings]
  · exact ⟨rfl, rfl, rfl⟩

theorem State.ring_congr {s t : State} (h : t.par.rings = s.par.rings) (n : Nat) : t.ring n = s.ring n := by
  unfold State.ring; rw [h]



@[simp] theorem State.setStat_ring (s : State) (p n : Nat) (x : CmdStat) : (s.setStat p x).ring n = s.ring n := rfl

/-- A raise of a ring's interrupt touches that ring only. -/
theorem State.raiseVi_ring_ne (s : State) {m n : Nat} (h : m ≠ n) : (s.raiseVi n).ring m = s.ring m := by
  unfold State.raiseVi
  dsimp only
  split
  · rfl
  · split
    · rfl
    · rw [State.ring_congr (State.raiseOnce_rings _ _ _ _ _).1, State.setRing_ring_ne _ _ _ _ h, State.setPart_ring]

theorem State.ringIrq_ring_ne (s : State) {m n : Nat} (h : m ≠ n) : (s.ringIrq n).ring m = s.ring m := by
  unfold State.ringIrq
  split
  · rw [State.raiseVi_ring_ne _ h, State.setRing_ring_ne _ _ _ _ h]
  · rfl

@[simp] theorem State.chargeDram_ring (s : State) (n bytes m : Nat) : (s.chargeDram n bytes).ring m = s.ring m := by
  unfold State.chargeDram
  dsimp only
  split <;> rfl

/-- Consuming or producing a slot touches that ring only. -/
theorem State.ringPop_ring_ne (s : State) {m n : Nat} (h : m ≠ n) : (s.ringPop n).ring m = s.ring m := by
  unfold State.ringPop
  dsimp only
  rw [State.ringIrq_ring_ne _ h, State.chargeDram_ring, State.setRing_ring_ne _ _ _ _ h]

@[simp] theorem State.chargeDram_mem (s : State) (n bytes : Nat) : (s.chargeDram n bytes).mem = s.mem := by
  unfold State.chargeDram
  dsimp only
  split <;> rfl

@[simp] theorem State.ringPop_mem (s : State) (n : Nat) : (s.ringPop n).mem = s.mem := by
  unfold State.ringPop
  dsimp only
  rw [State.ringIrq_mem, State.chargeDram_mem, State.setRing_mem]

/-- A record goes into the next slot, or nowhere where a poisoned unit reaches into it. -/
theorem State.ringPush_mem (s : State) (n : Nat) (bs : List Byte) :
    (s.ringPush n bs).mem = if s.poisonLeft (s.ring n).nextSlot bs.length then s.mem
      else memWrite s.mem (s.ring n).nextSlot bs := by
  unfold State.ringPush
  dsimp only
  rw [State.ringIrq_mem, State.chargeDram_mem, State.setRing_mem]
  split <;> rfl


@[simp] theorem State.chargeDram_dev (s : State) (n bytes : Nat) : (s.chargeDram n bytes).dev = s.dev := by
  unfold State.chargeDram
  dsimp only
  split <;> rfl

/-! ### Commands and rings -/

@[simp] theorem State.store_cmd (s : State) (a : Nat) (bs : List Byte) : (s.store a bs).cmd = s.cmd := rfl

@[simp] theorem State.chargeDram_cmd (s : State) (n bytes : Nat) : (s.chargeDram n bytes).cmd = s.cmd := by
  unfold State.chargeDram
  dsimp only
  split <;> rfl

@[simp] theorem State.ringPop_cmd (s : State) (n : Nat) : (s.ringPop n).cmd = s.cmd := by
  unfold State.ringPop
  dsimp only
  rw [State.ringIrq_cmd, State.chargeDram_cmd, State.setRing_cmd]

@[simp] theorem State.ringPush_cmd (s : State) (n : Nat) (bs : List Byte) : (s.ringPush n bs).cmd = s.cmd := by
  unfold State.ringPush
  dsimp only
  rw [State.ringIrq_cmd, State.chargeDram_cmd, State.setRing_cmd]
  split <;> rfl

@[simp] theorem State.ringDiscard_cmd (s : State) (n : Nat) : (s.ringDiscard n).cmd = s.cmd := rfl

/-- Taking a packet touches its statistics alone among the command registers. -/
theorem State.taken_cmd (s : State) (pk : Packet) : (s.taken pk).cmd.queues = s.cmd.queues ∧
    (s.taken pk).cmd.async = s.cmd.async ∧ (s.taken pk).cmd.held = s.cmd.held ∧ (s.taken pk).cmd.replies = s.cmd.replies ∧
    (s.taken pk).cmd.sessions = s.cmd.sessions := by
  unfold State.taken
  split
  · simp [State.setStat]
  · exact ⟨rfl, rfl, rfl, rfl, rfl⟩

/-- The newest reply after one is written. -/
theorem State.writeReply_replies (s : State) (pk : Packet) (c : Nat) (r : List Byte) :
    (s.writeReply pk c r).cmd.replies = ⟨pk.src, c, pk.tag, pk.seq, s.et, r, pk.mac, pk.pcp⟩ :: s.cmd.replies := by
  unfold State.writeReply
  dsimp only
  split
  · split <;> simp
  · rfl

/-- Writing a reply adds to the replies alone among the command registers. -/
theorem State.writeReply_cmd (s : State) (pk : Packet) (c : Nat) (r : List Byte) :
    (s.writeReply pk c r).cmd = { s.cmd with replies := ⟨pk.src, c, pk.tag, pk.seq, s.et, r, pk.mac, pk.pcp⟩ :: s.cmd.replies } := by
  unfold State.writeReply
  dsimp only
  split
  · split <;> simp
  · rfl

/-! ### The device registers -/

@[simp] theorem State.logRec_dev (s : State) (r : LogRec) : (s.logRec r).dev = s.dev := rfl
@[simp] theorem State.store_dev (s : State) (a : Nat) (bs : List Byte) : (s.store a bs).dev = s.dev := rfl

@[simp] theorem State.deliver_dev (s : State) (ev : EventRec) (p : Nat) : (s.deliver ev p).dev = s.dev := by
  unfold State.deliver
  (repeat' split) <;> rfl

theorem foldl_dev {α : Type} (f : State → α → State) (h : ∀ s a, (f s a).dev = s.dev) (l : List α) (s : State) :
    (l.foldl f s).dev = s.dev := by
  induction l generalizing s with
  | nil => rfl
  | cons a l ih => simp [List.foldl, ih, h]

@[simp] theorem State.raiseAt_dev (s : State) (et : Nat) (tos : List Nat) (src kind data : Nat) :
    (s.raiseAt et tos src kind data).dev = s.dev := by
  unfold State.raiseAt
  dsimp only
  rw [foldl_dev _ (fun s p => State.deliver_dev s _ p)]

@[simp] theorem State.raise_dev (s : State) (tos : List Nat) (src kind data : Nat) : (s.raise tos src kind data).dev = s.dev :=
  State.raiseAt_dev s s.et tos src kind data

@[simp] theorem State.makeReport_dev (s : State) (r : FltReport) : (s.makeReport r).dev = s.dev := by
  unfold State.makeReport
  dsimp only
  rw [State.raise_dev]
  split <;> rfl

@[simp] theorem State.fault_dev (s : State) (src cls level part kind data attempts hold : Nat) :
    (s.fault src cls level part kind data attempts hold).dev = s.dev := by
  unfold State.fault
  dsimp only [State.nextFault]
  split
  · rw [State.makeReport_dev]
  · rfl

@[simp] theorem State.raiseOnce_devState (s : State) (tos : List Nat) (src kind data : Nat) :
    (s.raiseOnce tos src kind data).dev.state = s.dev.state := by
  unfold State.raiseOnce
  split <;> simp

@[simp] theorem State.raiseOnce_armed (s : State) (tos : List Nat) (src kind data : Nat) :
    (s.raiseOnce tos src kind data).dev.armed = s.dev.armed := by
  unfold State.raiseOnce
  split <;> simp

@[simp] theorem State.raiseVi_devState (s : State) (n : Nat) : (s.raiseVi n).dev.state = s.dev.state ∧ (s.raiseVi n).dev.armed = s.dev.armed := by
  unfold State.raiseVi
  dsimp only
  split
  · exact ⟨rfl, rfl⟩
  · split
    · exact ⟨rfl, rfl⟩
    · rw [State.raiseOnce_devState, State.raiseOnce_armed]; exact ⟨rfl, rfl⟩

@[simp] theorem State.ringIrq_devState (s : State) (n : Nat) : (s.ringIrq n).dev.state = s.dev.state ∧ (s.ringIrq n).dev.armed = s.dev.armed := by
  unfold State.ringIrq
  split
  · simp only [State.raiseVi_devState]; exact ⟨rfl, rfl⟩
  · exact ⟨rfl, rfl⟩

@[simp] theorem State.ringPop_devState (s : State) (n : Nat) : (s.ringPop n).dev.state = s.dev.state ∧ (s.ringPop n).dev.armed = s.dev.armed := by
  unfold State.ringPop
  dsimp only
  simp

@[simp] theorem State.ringPush_devState (s : State) (n : Nat) (bs : List Byte) : (s.ringPush n bs).dev.state = s.dev.state ∧ (s.ringPush n bs).dev.armed = s.dev.armed := by
  unfold State.ringPush
  dsimp only
  split <;> simp

end Sys2Proof.Machine
end

