-- ==== Sys2Proof/Laws/Outlets.lean ====
section
/-!
SUPPORT. Sys2Proof/Laws/Outlets.lean: what the operations on an outlet (Ledger.lean) do to its channel or bridge and to the
protection machines behind it.
-/

namespace Sys2Proof.Machine

theorem outletOf_lt {i : Nat} (h : i < 68) : outletOf i < 62 := by
  unfold outletOf
  split <;> omega

theorem mem_machines {i : Nat} (h : i < 68) : i ∈ machines (outletOf i) := by
  unfold outletOf machines
  split
  · simp [*]
  · rw [if_neg (by omega)]
    simp
    omega

/-! ### ET -/

@[simp] theorem State.setOutlet_et (s : State) (k : Nat) (o : Outlet) : (s.setOutlet k o).et = s.et := congrArg KOut.et (State.setOutlet_kOut s k o)
@[simp] theorem State.markOk_et (s : State) (k : Nat) (t : Option Nat) : (s.markOk k t).et = s.et := congrArg KOut.et (State.markOk_kOut s k t)
@[simp] theorem State.outOff_et (s : State) (k : Nat) : (s.outOff k).et = s.et := congrArg KOut.et (State.outOff_kOut s k)
@[simp] theorem State.outRelease_et (s : State) (k : Nat) : (s.outRelease k).et = s.et := congrArg KOut.et (State.outRelease_kOut s k)
@[simp] theorem State.outArm_et (s : State) (k : Nat) (acct : Option Nat) (pour retry : Bool) : (s.outArm k acct pour retry).et = s.et := congrArg KOut.et (State.outArm_kOut s k acct pour retry)
@[simp] theorem State.outGo_et (s : State) (k : Nat) : (s.outGo k).et = s.et := congrArg KOut.et (State.outGo_kOut s k)
@[simp] theorem State.outOn_et (s : State) (k : Nat) (acct : Option Nat) (pour retry : Bool) : (s.outOn k acct pour retry).et = s.et := congrArg KOut.et (State.outOn_kOut s k acct pour retry)
@[simp] theorem State.outBack_et (s : State) (k : Nat) (pour : Bool) : (s.outBack k pour).et = s.et := congrArg KOut.et (State.outBack_kOut s k pour)
@[simp] theorem State.restoreOut_et (s : State) (k : Nat) : (s.restoreOut k).et = s.et := congrArg KOut.et (State.restoreOut_kOut s k)
@[simp] theorem State.refused_et (s : State) (k a origin amount : Nat) : (s.refused k a origin amount).et = s.et := congrArg KOut.et (State.refused_kOut s k a origin amount)
@[simp] theorem State.refusedQuiet_et (s : State) (k : Nat) : (s.refusedQuiet k).et = s.et := congrArg KOut.et (State.refusedQuiet_kOut s k)

/-- How a retry is admitted does not depend on the machines. -/
@[simp] theorem State.setProt_retryVerdict (s : State) (i : Nat) (x : Prot) (k start : Nat) (nb : Bool) :
    (s.setProt i x).retryVerdict k start nb = s.retryVerdict k start nb := rfl

@[simp] theorem State.setProt_wanted (s : State) (i : Nat) (x : Prot) (k : Nat) : (s.setProt i x).wanted k = s.wanted k := rfl

/-! ### An outlet's entry -/

@[simp] theorem State.setOutlet_outlet (s : State) (k : Nat) (o : Outlet) : (s.setOutlet k o).outlet k = o := by
  unfold State.setOutlet State.outlet
  split <;> simp

@[simp] theorem State.setOutlet_prot (s : State) (k : Nat) (o : Outlet) (i : Nat) : (s.setOutlet k o).prot i = s.prot i := by
  unfold State.setOutlet
  split <;> simp

@[simp] theorem State.setOutlet_feed (s : State) (k : Nat) (o : Outlet) (f : Nat) : (s.setOutlet k o).feed f = s.feed f := by
  unfold State.setOutlet
  split <;> rfl

/-- Setting an outlet changes its entry only. -/
theorem State.setOutlet_chan (s : State) (k : Nat) (o : Outlet) (i : Nat) :
    (s.setOutlet k o).chan i = if k < 56 ∧ i = k then { s.chan i with o := o } else s.chan i := by
  unfold State.setOutlet
  by_cases h : k < 56
  · by_cases e : i = k
    · subst e; simp [h]
    · simp [h, e, State.setChan_chan_ne _ _ _ _ e]
  · simp [h]

theorem State.setOutlet_bridge (s : State) (k : Nat) (o : Outlet) (b : Nat) :
    (s.setOutlet k o).bridge b = if 56 ≤ k ∧ b = k - 56 then { s.bridge b with o := o } else s.bridge b := by
  unfold State.setOutlet
  by_cases h : k < 56
  · rw [if_pos h, if_neg (by omega)]; simp
  · by_cases e : b = k - 56
    · subst e; rw [if_neg h, if_pos ⟨by omega, rfl⟩]; simp
    · rw [if_neg h, if_neg (by omega), State.setBridge_bridge_ne _ _ _ _ e]

/-! ### The machines behind it -/

theorem State.markOk_eq (s : State) (k : Nat) (t : Option Nat) : ∃ q, s.markOk k t = { s with lsw := { s.lsw with prot := q } } := by
  unfold State.markOk machines
  split
  · exact ⟨_, rfl⟩
  · exact ⟨_, rfl⟩

@[simp] theorem State.markOk_chan (s : State) (k : Nat) (t : Option Nat) (i : Nat) : (s.markOk k t).chan i = s.chan i := by
  obtain ⟨q, h⟩ := State.markOk_eq s k t
  rw [h]; rfl

@[simp] theorem State.markOk_bridge (s : State) (k : Nat) (t : Option Nat) (b : Nat) : (s.markOk k t).bridge b = s.bridge b := by
  obtain ⟨q, h⟩ := State.markOk_eq s k t
  rw [h]; rfl

@[simp] theorem State.markOk_outlet (s : State) (k : Nat) (t : Option Nat) (j : Nat) : (s.markOk k t).outlet j = s.outlet j := by
  obtain ⟨q, h⟩ := State.markOk_eq s k t
  rw [h]; rfl

/-- The machines of an outlet mark since when it is on; no other machine changes. -/
theorem State.markOk_prot (s : State) (k : Nat) (t : Option Nat) (i : Nat) :
    (s.markOk k t).prot i = if i ∈ machines k then { s.prot i with okSince := t } else s.prot i := by
  unfold State.markOk machines
  split
  · by_cases e : i = k
    · subst e; simp
    · simp [e, State.setProt_prot_ne _ _ _ _ e]
  · simp only [List.foldl, List.mem_cons, List.not_mem_nil, or_false]
    by_cases e : i = 57 + 2 * (k - 56)
    · subst e
      have : (57 + 2 * (k - 56)) ≠ 56 + 2 * (k - 56) := by omega
      simp [State.setProt_prot_ne _ _ _ _ this]
    · rw [State.setProt_prot_ne _ _ _ _ e]
      by_cases e' : i = 56 + 2 * (k - 56)
      · subst e'; simp
      · simp [State.setProt_prot_ne _ _ _ _ e', e, e']

/-- An outlet goes off: off, no pour, its machines no longer counting to recovery. -/
@[simp] theorem State.outOff_outlet (s : State) (k : Nat) :
    (s.outOff k).outlet k = { s.outlet k with on := false, pend := false, step := 0, retry := false } := by
  unfold State.outOff
  dsimp only
  rw [State.markOk_outlet]
  split
  · simp
  · rename_i h
    unfold State.outlet
    rw [if_neg h, State.setBridge_bridge, State.setOutlet_bridge, if_pos ⟨by omega, rfl⟩, if_neg h]

theorem State.outOff_prot (s : State) (k i : Nat) :
    (s.outOff k).prot i = if i ∈ machines k then { s.prot i with okSince := none } else s.prot i := by
  unfold State.outOff
  dsimp only
  rw [State.markOk_prot]
  split <;> (split <;> simp)

/-- Going off leaves the commanded states alone. -/
theorem State.outOff_chan (s : State) (k i : Nat) :
    (s.outOff k).chan i = if k < 56 ∧ i = k then
      { s.chan i with o := { s.outlet k with on := false, pend := false, step := 0, retry := false } } else s.chan i := by
  unfold State.outOff
  dsimp only
  rw [State.markOk_chan]
  split
  · rw [State.setOutlet_chan]
  · simp [State.setOutlet_chan]

theorem State.outOff_bridge (s : State) (k b : Nat) :
    (s.outOff k).bridge b = if 56 ≤ k ∧ b = k - 56 then
      { s.bridge b with o := { s.outlet k with on := false, pend := false, step := 0, retry := false }, out := 0 }
      else s.bridge b := by
  unfold State.outOff
  dsimp only
  rw [State.markOk_bridge]
  split
  · rename_i h
    rw [if_neg (by omega), State.setOutlet_bridge, if_neg (by omega)]
  · rename_i h
    by_cases e : b = k - 56
    · subst e
      rw [if_pos ⟨by omega, rfl⟩, State.setBridge_bridge, State.setOutlet_bridge, if_pos ⟨by omega, rfl⟩]
    · rw [if_neg (by omega), State.setBridge_bridge_ne _ _ _ _ e, State.setOutlet_bridge, if_neg (by omega)]

@[simp] theorem State.setFeed_outlet (s : State) (f : Nat) (x : Feed) (k : Nat) : (s.setFeed f x).outlet k = s.outlet k := rfl
@[simp] theorem State.setFeed_chan (s : State) (f : Nat) (x : Feed) (i : Nat) : (s.setFeed f x).chan i = s.chan i := rfl
@[simp] theorem State.setFeed_bridge (s : State) (f : Nat) (x : Feed) (b : Nat) : (s.setFeed f x).bridge b = s.bridge b := rfl
@[simp] theorem State.setFeed_prot (s : State) (f : Nat) (x : Feed) (i : Nat) : (s.setFeed f x).prot i = s.prot i := rfl
@[simp] theorem State.setProt_outlet (s : State) (i : Nat) (x : Prot) (k : Nat) : (s.setProt i x).outlet k = s.outlet k := rfl

@[simp] theorem State.raise_outlet (s : State) (tos : List Nat) (src kind data k : Nat) :
    (s.raise tos src kind data).outlet k = s.outlet k := by
  unfold State.outlet
  simp

@[simp] theorem State.fault_outlet (s : State) (src cls level part kind data attempts hold k : Nat) :
    (s.fault src cls level part kind data attempts hold).outlet k = s.outlet k := by
  unfold State.outlet
  simp

/-- Releasing an outlet's envelope leaves the machines alone. -/
@[simp] theorem State.outRelease_prot (s : State) (k i : Nat) : (s.outRelease k).prot i = s.prot i := by
  unfold State.outRelease
  simp

theorem State.outRelease_outlet (s : State) (k : Nat) :
    (s.outRelease k).outlet k = { s.outlet k with acct := none, shed := false } := by
  unfold State.outRelease
  simp

theorem State.outRelease_chan (s : State) (k i : Nat) :
    (s.outRelease k).chan i = if k < 56 ∧ i = k then { s.chan i with o := { s.outlet k with acct := none, shed := false } } else s.chan i := by
  unfold State.outRelease
  simp [State.setOutlet_chan]

theorem State.outRelease_bridge (s : State) (k b : Nat) :
    (s.outRelease k).bridge b =
      if 56 ≤ k ∧ b = k - 56 then { s.bridge b with o := { s.outlet k with acct := none, shed := false } } else s.bridge b := by
  unfold State.outRelease
  simp [State.setOutlet_bridge]

/-- Turning an outlet on leaves its machines' states alone but for the time it is on since. -/
theorem State.outArm_prot (s : State) (k i : Nat) (a : Option Nat) (p r : Bool) : (s.outArm k a p r).prot i = s.prot i := by
  unfold State.outArm
  simp

theorem State.outGo_prot (s : State) (k i : Nat) : ∃ t, (s.outGo k).prot i = { s.prot i with okSince := t } := by
  unfold State.outGo
  dsimp only
  rw [State.markOk_prot, State.setOutlet_prot]
  split
  · exact ⟨_, rfl⟩
  · exact ⟨_, rfl⟩

theorem State.outOn_prot (s : State) (k i : Nat) (a : Option Nat) (p r : Bool) :
    ∃ t, (s.outOn k a p r).prot i = { s.prot i with okSince := t } := by
  unfold State.outOn
  obtain ⟨t, h⟩ := State.outGo_prot (s.outArm k a p r) k i
  exact ⟨t, by rw [h, State.outArm_prot]⟩

/-- What comes back after a retry leaves every machine as it is, but for the time it is on since. -/
theorem State.outBack_prot (s : State) (k i : Nat) (pour : Bool) : ∃ t, (s.outBack k pour).prot i = { s.prot i with okSince := t } := by
  unfold State.outBack
  dsimp only
  split
  · exact ⟨_, rfl⟩
  · split
    · split
      · rw [State.outArm_prot]; exact ⟨_, rfl⟩
      · exact State.outOn_prot _ _ _ _ _ _
    · split
      · exact ⟨_, rfl⟩
      · obtain ⟨t, h⟩ := State.outOn_prot s k i (s.outlet k).acct pour true
        exact ⟨t, by rw [State.setBridge_prot]; exact h⟩

theorem State.restoreOut_prot (s : State) (k i : Nat) : (s.restoreOut k).prot i = s.prot i := by
  unfold State.restoreOut
  dsimp only
  split
  · rfl
  · split <;> rfl

end Sys2Proof.Machine
end

