-- ==== Sys2Proof/Laws/Feeds.lean ====
section
/-!
SUPPORT. Sys2Proof/Laws/Feeds.lean: shedding and inert outputs leave the feeds' machines and the device registers alone, but for
the resume list; what `degrade` does.
-/

namespace Sys2Proof.Machine

/-- A feed without what shedding and the ledger keep in it. -/
def State.feedCore (s : State) (f : Nat) : Feed := { s.feed f with resume := [], resumeAt := 0, refusals := 0 }

/-- Feeds (but for their resume lists and refusals), derating step and device registers are the same. -/
structure FeedSame (s t : State) : Prop where
  core : ∀ f, t.feedCore f = s.feedCore f
  dev : t.dev = s.dev
  step : t.pwr.step = s.pwr.step
  rails : t.pwr.railFaults = s.pwr.railFaults
  et : t.et = s.et

theorem FeedSame.rfl' (s : State) : FeedSame s s := ⟨fun _ => rfl, rfl, rfl, rfl, rfl⟩

theorem FeedSame.tr {s t u : State} (a : FeedSame s t) (b : FeedSame t u) : FeedSame s u :=
  ⟨fun f => (b.core f).trans (a.core f), b.dev.trans a.dev, b.step.trans a.step, b.rails.trans a.rails, b.et.trans a.et⟩

theorem FeedSame.pwr {s t : State} (h : t.pwr = s.pwr) (d : t.dev = s.dev) (e : t.et = s.et) : FeedSame s t :=
  ⟨fun f => by simp [State.feedCore, State.feed, h], d, by rw [h], by rw [h], e⟩

theorem State.raise_feedSame (s : State) (tos : List Nat) (src kind data : Nat) : FeedSame s (s.raise tos src kind data) :=
  .pwr (by simp) (by simp) (by simp)

theorem State.setOutlet_feedSame (s : State) (k : Nat) (o : Outlet) : FeedSame s (s.setOutlet k o) := by
  unfold State.setOutlet
  split <;> exact .pwr rfl rfl rfl

theorem State.markOk_feedSame (s : State) (k : Nat) (t : Option Nat) : FeedSame s (s.markOk k t) := by
  obtain ⟨q, h⟩ := State.markOk_eq s k t
  rw [h]
  exact .pwr rfl rfl rfl

theorem State.outOff_feedSame (s : State) (k : Nat) : FeedSame s (s.outOff k) := by
  unfold State.outOff
  refine .tr ?_ (State.markOk_feedSame _ _ _)
  dsimp only
  split
  · exact State.setOutlet_feedSame _ _ _
  · exact .tr (State.setOutlet_feedSame _ _ _) (.pwr rfl rfl rfl)

theorem State.setFeed_feedSame (s : State) (f : Nat) (x : Feed)
    (h : { x with resume := [], resumeAt := 0, refusals := 0 } = s.feedCore f) : FeedSame s (s.setFeed f x) := by
  refine ⟨fun g => ?_, rfl, rfl, rfl, rfl⟩
  by_cases e : g = f
  · subst e; unfold State.feedCore at *; simpa using h
  · unfold State.feedCore
    rw [State.setFeed_feed_ne s f g x e]

theorem State.outRelease_feedSame (s : State) (k : Nat) : FeedSame s (s.outRelease k) := by
  unfold State.outRelease
  exact .tr (State.setOutlet_feedSame _ _ _) (State.setFeed_feedSame _ _ _ rfl)

theorem State.shedOut_feedSame (s : State) (k : Nat) : FeedSame s (s.shedOut k) := by
  unfold State.shedOut
  split
  · exact .rfl' s
  · exact .tr (State.outOff_feedSame _ _) (State.setOutlet_feedSame _ _ _)

theorem foldl_feedSame {α : Type} (f : State → α → State) (h : ∀ s a, FeedSame s (f s a)) (l : List α) (s : State) :
    FeedSame s (l.foldl f s) := by
  induction l generalizing s with
  | nil => exact .rfl' s
  | cons a l ih => exact .tr (h s a) (ih _)

theorem State.shedStart_feedSame (s : State) (f c cause : Nat) : FeedSame s (s.shedStart f c cause) := by
  unfold State.shedStart
  refine .tr (foldl_feedSame State.shedOut (fun s k => s.shedOut_feedSame k) (s.classOuts f c) s) ?_
  dsimp only
  refine .tr (t := State.setFeed _ f _) (State.setFeed_feedSame _ f _ ?_) (State.raise_feedSame _ _ _ _ _)
  rfl

theorem State.shedStop_feedSame (s : State) (f c cause : Nat) : FeedSame s (s.shedStop f c cause) := by
  unfold State.shedStop
  refine .tr (t := State.setFeed _ f _) (State.setFeed_feedSame _ f _ ?_) (State.raise_feedSame _ _ _ _ _)
  rfl

theorem State.reshed_feedSame (s old : State) (f cause : Nat) : FeedSame s (s.reshed old f cause) := by
  unfold State.reshed
  refine foldl_feedSame _ (fun t c => ?_) _ _
  split
  · exact t.shedStart_feedSame f c cause
  · split
    · exact t.shedStop_feedSame f c cause
    · exact .rfl' t

theorem State.inertOne_feedSame (s : State) (k : Nat) : FeedSame s (s.inertOne k) := by
  unfold State.inertOne
  refine .tr (State.outOff_feedSame s k) (.tr (State.outRelease_feedSame _ k) ?_)
  dsimp only
  split <;> exact .pwr rfl rfl rfl

theorem State.inertWhere_feedSame (s : State) (f : Nat → Bool) : FeedSame s (s.inertWhere f) :=
  foldl_feedSame _ (fun t k => t.inertOne_feedSame k) _ _

theorem State.allInert_feedSame (s : State) : FeedSame s s.allInert := by
  unfold State.allInert
  exact .tr (State.inertWhere_feedSame s _) (.pwr rfl rfl rfl)

/-- A UV latch: its feed's latch is set; everything else of the feeds stays but what the latch counts. -/
theorem State.uvSet_facts (s : State) (f : Nat) : ((s.uvSet f).feed f).uv = true ∧ (s.uvSet f).dev = s.dev ∧
    (s.uvSet f).pwr.railFaults = s.pwr.railFaults := by
  unfold State.uvSet
  dsimp only
  split
  · rename_i q; exact ⟨q, rfl, rfl⟩
  · generalize e : ((s.setFeed f _).raise _ f 5 0 : State) = w
    have k : (w.feed f).uv = true ∧ w.dev = s.dev ∧ w.pwr.railFaults = s.pwr.railFaults := by
      subst e; simp [State.feed, State.setFeed]
    generalize er : (if (f == 0) = true then w.allInert else w.inertWhere fun k => feedOf k == 1) = r
    have : FeedSame w r := by
      subst er
      split
      · exact w.allInert_feedSame
      · exact w.inertWhere_feedSame _
    have c := this.core f
    simp only [State.feedCore, Feed.mk.injEq] at c
    exact ⟨by simp [c, k], this.dev.trans k.2.1, this.rails.trans k.2.2⟩

/-- `degrade` moves between RUN and DEGRADED only. -/
theorem State.degrade_eq (s : State) : ∃ d, s.degrade = { s with dev := { s.dev with state := d } } := by
  unfold State.degrade
  dsimp only
  repeat' split
  · exact ⟨_, rfl⟩
  · exact ⟨_, rfl⟩
  · exact ⟨s.dev.state, rfl⟩

@[simp] theorem State.degrade_feed (s : State) (f : Nat) : s.degrade.feed f = s.feed f := by
  obtain ⟨d, h⟩ := s.degrade_eq; rw [h]; rfl

@[simp] theorem State.degrade_pwr (s : State) : s.degrade.pwr = s.pwr := by
  obtain ⟨d, h⟩ := s.degrade_eq; rw [h]

@[simp] theorem State.degrade_causes (s : State) : s.degrade.dev.causeSag = s.dev.causeSag ∧
    s.degrade.dev.causeCrank = s.dev.causeCrank ∧ s.degrade.dev.causeTemp = s.dev.causeTemp := by
  obtain ⟨d, h⟩ := s.degrade_eq; rw [h]; exact ⟨rfl, rfl, rfl⟩

/-- A field of a feed that shedding leaves alone. -/
theorem FeedSame.feed {s t : State} (h : FeedSame s t) (f : Nat) : (t.feed f).sag = (s.feed f).sag ∧
    (t.feed f).sagAt = (s.feed f).sagAt ∧ (t.feed f).crank = (s.feed f).crank ∧ (t.feed f).crankAt = (s.feed f).crankAt ∧
    (t.feed f).uv = (s.feed f).uv ∧ (t.feed f).uvNow = (s.feed f).uvNow ∧ (t.feed f).overload = (s.feed f).overload ∧
    (t.feed f).overload2 = (s.feed f).overload2 ∧ (t.feed f).overAt = (s.feed f).overAt ∧
    (t.feed f).overvolt = (s.feed f).overvolt ∧ (t.feed f).v = (s.feed f).v ∧ (t.feed f).i = (s.feed f).i ∧
    (t.feed f).sagTh = (s.feed f).sagTh ∧ (t.feed f).crankTh = (s.feed f).crankTh ∧ (t.feed f).sagCount = (s.feed f).sagCount := by
  have c := h.core f
  simp only [State.feedCore, Feed.mk.injEq] at c
  simp [c]

end Sys2Proof.Machine
end

