-- ==== Sys2Proof/Laws/ViewAct.lean ====
section
/-!
SUPPORT. Sys2Proof/Laws/ViewAct.lean: the view of the queue, clocks, time, Easel, the gateway, inputs and outputs, the switch, FlexRay, Bamlys and the update manager.
-/

namespace Sys2Proof.Machine

/-- The view. -/
structure KAct where
  pending : List Instr
  et : Nat
  rtcNs : Nat
  free : Nat
  time : Time
  easel : Easel
  gw : Gw
  dio : Dio
  swc : Swc
  fry : Fry
  bam : Bam
  upd : Upd

def State.kAct (s : State) : KAct := ⟨s.pending, s.et, s.rtcNs, s.free, s.time, s.easel, s.gw, s.dio, s.swc, s.fry, s.bam, s.upd⟩

@[simp] theorem State.kAct_mk (a0 a1 a2 a3 a4 a5 a6 a7 a8 a9 a10 a11 a12 a13 a14 a15 a16 a17 a18 a19 a20 a21 a22 a23 a24) :
    (State.mk a0 a1 a2 a3 a4 a5 a6 a7 a8 a9 a10 a11 a12 a13 a14 a15 a16 a17 a18 a19 a20 a21 a22 a23 a24).kAct = ⟨a0, a1, a2, a3, a9, a10, a11, a14, a18, a21, a23, a24⟩ := rfl

@[simp] theorem State.kAct_eta (s : State) : (⟨s.pending, s.et, s.rtcNs, s.free, s.time, s.easel, s.gw, s.dio, s.swc, s.fry, s.bam, s.upd⟩ : KAct) = s.kAct := rfl

theorem State.kAct_ext {s t : State} (h : t.kAct = s.kAct) :
    t.pending = s.pending ∧ t.et = s.et ∧ t.rtcNs = s.rtcNs ∧ t.free = s.free ∧ t.time = s.time ∧ t.easel = s.easel ∧ t.gw = s.gw ∧ t.dio = s.dio ∧ t.swc = s.swc ∧ t.fry = s.fry ∧ t.bam = s.bam ∧ t.upd = s.upd := by
  simp only [State.kAct, KAct.mk.injEq] at h
  exact h

@[simp] theorem foldl_kAct {α : Type} (f : State → α → State) (h : ∀ s a, (f s a).kAct = s.kAct) (l : List α) (s : State) :
    (l.foldl f s).kAct = s.kAct := by
  induction l generalizing s with
  | nil => rfl
  | cons a l ih => simp [List.foldl, ih, h]

@[simp] theorem foldl_fst_kAct {α β : Type} (f : State × β → α → State × β) (h : ∀ a x, (f a x).1.kAct = a.1.kAct)
    (l : List α) (a : State × β) : (l.foldl f a).1.kAct = a.1.kAct := by
  induction l generalizing a with
  | nil => rfl
  | cons x l ih => simp [List.foldl, ih, h]

@[simp] theorem onlyIf_kAct (c : Bool) (s t : State) (h : t.kAct = s.kAct) : (onlyIf c s t).kAct = s.kAct := by
  cases c <;> simp [onlyIf, h]

@[simp] theorem State.kAct_ite (c : Prop) [Decidable c] (a b : State) :
    (if c then a else b).kAct = if c then a.kAct else b.kAct := apply_ite _ _ _ _

@[simp] theorem State.kAct_fst_ite {α : Type} (c : Prop) [Decidable c] (a b : State × α) :
    (if c then a else b).1.kAct = if c then a.1.kAct else b.1.kAct := by
  split <;> rfl

end Sys2Proof.Machine
end

