-- ==== Sys2Proof/Laws/KeepAct.lean ====
section
/-!
SUPPORT. Sys2Proof/Laws/KeepAct.lean: the operations that leave the view `State.kAct` alone.
-/

namespace Sys2Proof.Machine

@[simp] theorem State.store_kAct (s : State) (a : Nat) (bs : List Byte) : (State.store s a bs).kAct = s.kAct := by
  unfold State.store
  try dsimp only
  (repeat' split) <;> first | rfl | simp

@[simp] theorem State.setPart_kAct (s : State) (p : Nat) (x : Part) : (State.setPart s p x).kAct = s.kAct := by
  unfold State.setPart
  try dsimp only
  (repeat' split) <;> first | rfl | simp

@[simp] theorem State.setRing_kAct (s : State) (n : Nat) (x : Ring) : (State.setRing s n x).kAct = s.kAct := by
  unfold State.setRing
  try dsimp only
  (repeat' split) <;> first | rfl | simp

@[simp] theorem State.deliver_kAct (s : State) (ev : EventRec) (p : Nat) : (State.deliver s ev p).kAct = s.kAct := by
  unfold State.deliver
  try dsimp only
  (repeat' split) <;> first | rfl | simp

@[simp] theorem State.raiseAt_kAct (s : State) (et : Nat) (tos : List Nat) (src kind data : Nat) : (State.raiseAt s et tos src kind data).kAct = s.kAct := by
  unfold State.raiseAt
  try dsimp only
  (repeat' split) <;> first | rfl | simp

@[simp] theorem State.raise_kAct (s : State) (tos : List Nat) (src kind data : Nat) : (State.raise s tos src kind data).kAct = s.kAct := by
  unfold State.raise
  try dsimp only
  (repeat' split) <;> first | rfl | simp

@[simp] theorem State.raiseOnce_kAct (s : State) (tos : List Nat) (src kind data : Nat) : (State.raiseOnce s tos src kind data).kAct = s.kAct := by
  unfold State.raiseOnce
  try dsimp only
  (repeat' split) <;> first | rfl | simp

@[simp] theorem State.raiseVi_kAct (s : State) (n : Nat) : (State.raiseVi s n).kAct = s.kAct := by
  unfold State.raiseVi
  try dsimp only
  (repeat' split) <;> first | rfl | simp

@[simp] theorem State.ringIrq_kAct (s : State) (n : Nat) : (State.ringIrq s n).kAct = s.kAct := by
  unfold State.ringIrq
  try dsimp only
  (repeat' split) <;> first | rfl | simp

@[simp] theorem State.chargeDram_kAct (s : State) (n bytes : Nat) : (State.chargeDram s n bytes).kAct = s.kAct := by
  unfold State.chargeDram
  try dsimp only
  (repeat' split) <;> first | rfl | simp

@[simp] theorem State.ringPush_kAct (s : State) (n : Nat) (bs : List Byte) : (State.ringPush s n bs).kAct = s.kAct := by
  unfold State.ringPush
  try dsimp only
  (repeat' split) <;> first | rfl | simp

@[simp] theorem State.writeReply_kAct (s : State) (pk : Packet) (status : Nat) (result : List Byte) : (State.writeReply s pk status result).kAct = s.kAct := by
  unfold State.writeReply
  try dsimp only
  (repeat' split) <;> first | rfl | simp

@[simp] theorem State.setStat_kAct (s : State) (p : Nat) (x : CmdStat) : (State.setStat s p x).kAct = s.kAct := by
  unfold State.setStat
  try dsimp only
  (repeat' split) <;> first | rfl | simp

@[simp] theorem State.finalReply_kAct (s : State) (code : Nat) (pk : Packet) (status : Nat) (result : List Byte) : (State.finalReply s code pk status result).kAct = s.kAct := by
  unfold State.finalReply
  try dsimp only
  (repeat' split) <;> first | rfl | simp

@[simp] theorem State.finishAsync_kAct (s : State) (o : Outst) (status : Nat) (result : List Byte) : (State.finishAsync s o status result).kAct = s.kAct := by
  unfold State.finishAsync
  try dsimp only
  (repeat' split) <;> first | rfl | simp

@[simp] theorem State.finishWhere_kAct (s : State) (f : Outst → Bool) (status : Nat) (result : List Byte) : (State.finishWhere s f status result).kAct = s.kAct := by
  unfold State.finishWhere
  try dsimp only
  (repeat' split) <;> first | rfl | simp

@[simp] theorem State.setChan_kAct (s : State) (i : Nat) (x : Chan) : (State.setChan s i x).kAct = s.kAct := by
  unfold State.setChan
  try dsimp only
  (repeat' split) <;> first | rfl | simp

@[simp] theorem State.setBridge_kAct (s : State) (b : Nat) (x : Bridge) : (State.setBridge s b x).kAct = s.kAct := by
  unfold State.setBridge
  try dsimp only
  (repeat' split) <;> first | rfl | simp

@[simp] theorem State.setProt_kAct (s : State) (i : Nat) (x : Prot) : (State.setProt s i x).kAct = s.kAct := by
  unfold State.setProt
  try dsimp only
  (repeat' split) <;> first | rfl | simp

@[simp] theorem State.setFeed_kAct (s : State) (f : Nat) (x : Feed) : (State.setFeed s f x).kAct = s.kAct := by
  unfold State.setFeed
  try dsimp only
  (repeat' split) <;> first | rfl | simp

@[simp] theorem State.setOutlet_kAct (s : State) (k : Nat) (o : Outlet) : (State.setOutlet s k o).kAct = s.kAct := by
  unfold State.setOutlet
  try dsimp only
  (repeat' split) <;> first | rfl | simp

@[simp] theorem State.refused_kAct (s : State) (k a origin amount : Nat) : (State.refused s k a origin amount).kAct = s.kAct := by
  unfold State.refused
  try dsimp only
  (repeat' split) <;> first | rfl | simp

@[simp] theorem State.markOk_kAct (s : State) (k : Nat) (t : Option Nat) : (State.markOk s k t).kAct = s.kAct := by
  unfold State.markOk
  try dsimp only
  (repeat' split) <;> first | rfl | simp

@[simp] theorem State.outArm_kAct (s : State) (k : Nat) (acct : Option Nat) (pour retry : Bool) : (State.outArm s k acct pour retry).kAct = s.kAct := by
  unfold State.outArm
  try dsimp only
  (repeat' split) <;> first | rfl | simp

@[simp] theorem State.outGo_kAct (s : State) (k : Nat) : (State.outGo s k).kAct = s.kAct := by
  unfold State.outGo
  try dsimp only
  (repeat' split) <;> first | rfl | simp

@[simp] theorem State.outOn_kAct (s : State) (k : Nat) (acct : Option Nat) (pour retry : Bool) : (State.outOn s k acct pour retry).kAct = s.kAct := by
  unfold State.outOn
  try dsimp only
  (repeat' split) <;> first | rfl | simp

@[simp] theorem State.outOff_kAct (s : State) (k : Nat) : (State.outOff s k).kAct = s.kAct := by
  unfold State.outOff
  try dsimp only
  (repeat' split) <;> first | rfl | simp

@[simp] theorem State.outRelease_kAct (s : State) (k : Nat) : (State.outRelease s k).kAct = s.kAct := by
  unfold State.outRelease
  try dsimp only
  (repeat' split) <;> first | rfl | simp

@[simp] theorem State.degrade_kAct (s : State) : (State.degrade s).kAct = s.kAct := by
  unfold State.degrade
  try dsimp only
  (repeat' split) <;> first | rfl | simp

@[simp] theorem State.loadOff_kAct (s : State) (i : Nat) : (State.loadOff s i).kAct = s.kAct := by
  unfold State.loadOff
  try dsimp only
  (repeat' split) <;> first | rfl | simp

@[simp] theorem State.loadOn_kAct (s : State) (i mode duty acct origin : Nat) : (State.loadOn s i mode duty acct origin).1.kAct = s.kAct := by
  unfold State.loadOn
  try dsimp only
  (repeat' split) <;> first | rfl | simp

@[simp] theorem State.loadCommand_kAct (s : State) (i mode duty acct origin : Nat) : (State.loadCommand s i mode duty acct origin).1.kAct = s.kAct := by
  unfold State.loadCommand
  try dsimp only
  (repeat' split) <;> first | rfl | simp

@[simp] theorem State.loadValue_kAct (s : State) (i : Nat) (v : Int) (acct origin : Nat) : (State.loadValue s i v acct origin).kAct = s.kAct := by
  unfold State.loadValue
  try dsimp only
  (repeat' split) <;> first | rfl | simp

@[simp] theorem State.loadSet_kAct (s : State) (i mode duty period : Nat) : (State.loadSet s i mode duty period).kAct = s.kAct := by
  unfold State.loadSet
  try dsimp only
  (repeat' split) <;> first | rfl | simp

@[simp] theorem State.loadApply_kAct (s : State) (i ageLimit fallback : Nat) : (State.loadApply s i ageLimit fallback).kAct = s.kAct := by
  unfold State.loadApply
  try dsimp only
  (repeat' split) <;> first | rfl | simp

@[simp] theorem State.restoreOut_kAct (s : State) (k : Nat) : (State.restoreOut s k).kAct = s.kAct := by
  unfold State.restoreOut
  try dsimp only
  (repeat' split) <;> first | rfl | simp

@[simp] theorem State.unstall_kAct (s : State) (b mode : Nat) : (State.unstall s b mode).kAct = s.kAct := by
  unfold State.unstall
  try dsimp only
  (repeat' split) <;> first | rfl | simp

@[simp] theorem State.bridgeOff_kAct (s : State) (b mode : Nat) : (State.bridgeOff s b mode).kAct = s.kAct := by
  unfold State.bridgeOff
  try dsimp only
  (repeat' split) <;> first | rfl | simp

@[simp] theorem State.bridgeDrive_kAct (s : State) (b mode duty acct origin : Nat) : (State.bridgeDrive s b mode duty acct origin).1.kAct = s.kAct := by
  unfold State.bridgeDrive
  try dsimp only
  (repeat' split) <;> first | rfl | simp

@[simp] theorem State.bridgeCommand_kAct (s : State) (b mode duty acct origin : Nat) : (State.bridgeCommand s b mode duty acct origin).1.kAct = s.kAct := by
  unfold State.bridgeCommand
  try dsimp only
  (repeat' split) <;> first | rfl | simp

@[simp] theorem State.bridgeValue_kAct (s : State) (b : Nat) (v : Int) (acct origin : Nat) : (State.bridgeValue s b v acct origin).kAct = s.kAct := by
  unfold State.bridgeValue
  try dsimp only
  (repeat' split) <;> first | rfl | simp

@[simp] theorem State.bridgeSet_kAct (s : State) (b mode duty period : Nat) : (State.bridgeSet s b mode duty period).kAct = s.kAct := by
  unfold State.bridgeSet
  try dsimp only
  (repeat' split) <;> first | rfl | simp

@[simp] theorem State.bridgeApply_kAct (s : State) (b ageLimit fallback : Nat) : (State.bridgeApply s b ageLimit fallback).kAct = s.kAct := by
  unfold State.bridgeApply
  try dsimp only
  (repeat' split) <;> first | rfl | simp

@[simp] theorem State.setPrt_kAct (s : State) (p : Nat) (x : Prt) : (State.setPrt s p x).kAct = s.kAct := by
  unfold State.setPrt
  try dsimp only
  (repeat' split) <;> first | rfl | simp

@[simp] theorem State.setCan_kAct (s : State) (n : Nat) (x : Can) : (State.setCan s n x).kAct = s.kAct := by
  unfold State.setCan
  try dsimp only
  (repeat' split) <;> first | rfl | simp

@[simp] theorem State.setLin_kAct (s : State) (n : Nat) (x : Lin) : (State.setLin s n x).kAct = s.kAct := by
  unfold State.setLin
  try dsimp only
  (repeat' split) <;> first | rfl | simp

@[simp] theorem State.noteSource_kAct (s : State) (code : Nat) : (State.noteSource s code).kAct = s.kAct := by
  unfold State.noteSource
  try dsimp only
  (repeat' split) <;> first | rfl | simp

@[simp] theorem State.wkoPulse_kAct (s : State) (f : Wko → Bool) : (State.wkoPulse s f).kAct = s.kAct := by
  unfold State.wkoPulse
  try dsimp only
  (repeat' split) <;> first | rfl | simp

@[simp] theorem State.canUp_kAct (s : State) (n : Nat) : (State.canUp s n).kAct = s.kAct := by
  unfold State.canUp
  try dsimp only
  (repeat' split) <;> first | rfl | simp

@[simp] theorem State.linWaking_kAct (s : State) (n : Nat) (sent : Bool) : (State.linWaking s n sent).kAct = s.kAct := by
  unfold State.linWaking
  try dsimp only
  (repeat' split) <;> first | rfl | simp

@[simp] theorem State.portTrain_kAct (s : State) (p : Nat) : (State.portTrain s p).kAct = s.kAct := by
  unfold State.portTrain
  try dsimp only
  (repeat' split) <;> first | rfl | simp

@[simp] theorem State.tc10End_kAct (s : State) (p status : Nat) : (State.tc10End s p status).kAct = s.kAct := by
  unfold State.tc10End
  try dsimp only
  (repeat' split) <;> first | rfl | simp

@[simp] theorem State.portWake_kAct (s : State) (p : Nat) (remote : Bool) : (State.portWake s p remote).kAct = s.kAct := by
  unfold State.portWake
  try dsimp only
  (repeat' split) <;> first | rfl | simp

@[simp] theorem State.sleepEnd_kAct (s : State) (status : Nat) (result : List Byte) : (State.sleepEnd s status result).kAct = s.kAct := by
  unfold State.sleepEnd
  try dsimp only
  (repeat' split) <;> first | rfl | simp

@[simp] theorem State.sleepAbort_kAct (s : State) (code : Nat) (cancel : Bool) : (State.sleepAbort s code cancel).kAct = s.kAct := by
  unfold State.sleepAbort
  try dsimp only
  (repeat' split) <;> first | rfl | simp

@[simp] theorem State.wakeFrom_kAct (s : State) (code : Nat) : (State.wakeFrom s code).kAct = s.kAct := by
  unfold State.wakeFrom
  try dsimp only
  (repeat' split) <;> first | rfl | simp

@[simp] theorem State.wakeRequest_kAct (s : State) (cls idx : Nat) : (State.wakeRequest s cls idx).kAct = s.kAct := by
  unfold State.wakeRequest
  try dsimp only
  (repeat' split) <;> first | rfl | simp

@[simp] theorem State.canPlace_kAct (s : State) (n : Nat) (r : CanReq) : (State.canPlace s n r).kAct = s.kAct := by
  unfold State.canPlace
  try dsimp only
  (repeat' split) <;> first | rfl | simp

@[simp] theorem State.causeTime_kAct (s : State) : (State.causeTime s).kAct = s.kAct := by
  unfold State.causeTime
  try dsimp only
  (repeat' split) <;> first | rfl | simp

end Sys2Proof.Machine
end

