-- ==== Sys2Proof/Laws/ViewFld.lean ====
section
/-!
SUPPORT. Sys2Proof/Laws/ViewFld.lean: the view of everything but events, the device registers, time, feeds, partitions and rings, Easel and the fault collector.
-/

namespace Sys2Proof.Machine

/-- The view. -/
structure KFld where
  pending : List Instr
  et : Nat
  rtcNs : Nat
  free : Nat
  mem : List Host.Cell
  cmd : Cmd
  gw : Gw
  lsw : Lsw
  dio : Dio
  wake : Wake
  swc : Swc
  prt : Tab Prt
  can : Cans
  fry : Fry
  lin : Lins
  bam : Bam
  upd : Upd

def State.kFld (s : State) : KFld := ⟨s.pending, s.et, s.rtcNs, s.free, s.mem, s.cmd, s.gw, s.lsw, s.dio, s.wake, s.swc, s.prt, s.can, s.fry, s.lin, s.bam, s.upd⟩

@[simp] theorem State.kFld_mk (a0 a1 a2 a3 a4 a5 a6 a7 a8 a9 a10 a11 a12 a13 a14 a15 a16 a17 a18 a19 a20 a21 a22 a23 a24) :
    (State.mk a0 a1 a2 a3 a4 a5 a6 a7 a8 a9 a10 a11 a12 a13 a14 a15 a16 a17 a18 a19 a20 a21 a22 a23 a24).kFld = ⟨a0, a1, a2, a3, a4, a8, a11, a12, a14, a16, a18, a19, a20, a21, a22, a23, a24⟩ := rfl

@[simp] theorem State.kFld_eta (s : State) : (⟨s.pending, s.et, s.rtcNs, s.free, s.mem, s.cmd, s.gw, s.lsw, s.dio, s.wake, s.swc, s.prt, s.can, s.fry, s.lin, s.bam, s.upd⟩ : KFld) = s.kFld := rfl

theorem State.kFld_ext {s t : State} (h : t.kFld = s.kFld) :
    t.pending = s.pending ∧ t.et = s.et ∧ t.rtcNs = s.rtcNs ∧ t.free = s.free ∧ t.mem = s.mem ∧ t.cmd = s.cmd ∧ t.gw = s.gw ∧ t.lsw = s.lsw ∧ t.dio = s.dio ∧ t.wake = s.wake ∧ t.swc = s.swc ∧ t.prt = s.prt ∧ t.can = s.can ∧ t.fry = s.fry ∧ t.lin = s.lin ∧ t.bam = s.bam ∧ t.upd = s.upd := by
  simp only [State.kFld, KFld.mk.injEq] at h
  exact h

@[simp] theorem foldl_kFld {α : Type} (f : State → α → State) (h : ∀ s a, (f s a).kFld = s.kFld) (l : List α) (s : State) :
    (l.foldl f s).kFld = s.kFld := by
  induction l generalizing s with
  | nil => rfl
  | cons a l ih => simp [List.foldl, ih, h]

@[simp] theorem foldl_fst_kFld {α β : Type} (f : State × β → α → State × β) (h : ∀ a x, (f a x).1.kFld = a.1.kFld)
    (l : List α) (a : State × β) : (l.foldl f a).1.kFld = a.1.kFld := by
  induction l generalizing a with
  | nil => rfl
  | cons x l ih => simp [List.foldl, ih, h]

@[simp] theorem onlyIf_kFld (c : Bool) (s t : State) (h : t.kFld = s.kFld) : (onlyIf c s t).kFld = s.kFld := by
  cases c <;> simp [onlyIf, h]

@[simp] theorem State.kFld_ite (c : Prop) [Decidable c] (a b : State) :
    (if c then a else b).kFld = if c then a.kFld else b.kFld := apply_ite _ _ _ _

@[simp] theorem State.kFld_fst_ite {α : Type} (c : Prop) [Decidable c] (a b : State × α) :
    (if c then a else b).1.kFld = if c then a.1.kFld else b.1.kFld := by
  split <;> rfl

end Sys2Proof.Machine
end

