-- ==== Sys2Proof/Laws/KeepFld.lean ====
section
/-!
SUPPORT. Sys2Proof/Laws/KeepFld.lean: the operations that leave the view `State.kFld` alone.
-/

namespace Sys2Proof.Machine

@[simp] theorem State.setPart_kFld (s : State) (p : Nat) (x : Part) : (State.setPart s p x).kFld = s.kFld := by
  unfold State.setPart
  try dsimp only
  (repeat' split) <;> first | rfl | simp

@[simp] theorem State.deliver_kFld (s : State) (ev : EventRec) (p : Nat) : (State.deliver s ev p).kFld = s.kFld := by
  unfold State.deliver
  try dsimp only
  (repeat' split) <;> first | rfl | simp

@[simp] theorem State.raiseAt_kFld (s : State) (et : Nat) (tos : List Nat) (src kind data : Nat) : (State.raiseAt s et tos src kind data).kFld = s.kFld := by
  unfold State.raiseAt
  try dsimp only
  (repeat' split) <;> first | rfl | simp

@[simp] theorem State.raise_kFld (s : State) (tos : List Nat) (src kind data : Nat) : (State.raise s tos src kind data).kFld = s.kFld := by
  unfold State.raise
  try dsimp only
  (repeat' split) <;> first | rfl | simp

@[simp] theorem State.setFltPart_kFld (s : State) (p : Nat) (x : FltPart) : (State.setFltPart s p x).kFld = s.kFld := by
  unfold State.setFltPart
  try dsimp only
  (repeat' split) <;> first | rfl | simp

@[simp] theorem State.logRec_kFld (s : State) (r : LogRec) : (State.logRec s r).kFld = s.kFld := by
  unfold State.logRec
  try dsimp only
  (repeat' split) <;> first | rfl | simp

@[simp] theorem State.makeReport_kFld (s : State) (r : FltReport) : (State.makeReport s r).kFld = s.kFld := by
  unfold State.makeReport
  try dsimp only
  (repeat' split) <;> first | rfl | simp

@[simp] theorem State.nextFault_kFld (s : State) : (State.nextFault s).2.kFld = s.kFld := by
  unfold State.nextFault
  try dsimp only
  (repeat' split) <;> first | rfl | simp

@[simp] theorem State.fault_kFld (s : State) (src cls level part kind data attempts hold : Nat) : (State.fault s src cls level part kind data attempts hold).kFld = s.kFld := by
  unfold State.fault
  try dsimp only
  (repeat' split) <;> first | rfl | simp

@[simp] theorem State.setFeed_kFld (s : State) (f : Nat) (x : Feed) : (State.setFeed s f x).kFld = s.kFld := by
  unfold State.setFeed
  try dsimp only
  (repeat' split) <;> first | rfl | simp

@[simp] theorem State.refused_kFld (s : State) (k a origin amount : Nat) : (State.refused s k a origin amount).kFld = s.kFld := by
  unfold State.refused
  try dsimp only
  (repeat' split) <;> first | rfl | simp

@[simp] theorem State.degrade_kFld (s : State) : (State.degrade s).kFld = s.kFld := by
  unfold State.degrade
  try dsimp only
  (repeat' split) <;> first | rfl | simp

@[simp] theorem State.risPush_kFld (s : State) (t src et level : Nat) : (State.risPush s t src et level).kFld = s.kFld := by
  unfold State.risPush
  try dsimp only
  (repeat' split) <;> first | rfl | simp

@[simp] theorem State.triggerWhere_kFld (s : State) (f : Trigger → Bool) (src et level : Nat) : (State.triggerWhere s f src et level).kFld = s.kFld := by
  unfold State.triggerWhere
  try dsimp only
  (repeat' split) <;> first | rfl | simp

@[simp] theorem State.setRate_kFld (s : State) (c : Int) : (State.setRate s c).kFld = s.kFld := by
  unfold State.setRate
  try dsimp only
  (repeat' split) <;> first | rfl | simp

@[simp] theorem State.steer_kFld (s : State) (err : Int) : (State.steer s err).kFld = s.kFld := by
  unfold State.steer
  by_cases h : (err == 0) = true
  · rw [if_pos h]
    simp
  · rw [if_neg h]
    rw [State.kFld_mk, State.kFld_eta, State.setRate_kFld]

@[simp] theorem State.setTimeSrc_kFld (s : State) (c : Nat) (x : TimeSrc) : (State.setTimeSrc s c x).kFld = s.kFld := by
  unfold State.setTimeSrc
  try dsimp only
  (repeat' split) <;> first | rfl | simp

@[simp] theorem State.markRefused_kFld (s : State) (c : Nat) : (State.markRefused s c).kFld = s.kFld := by
  unfold State.markRefused
  try dsimp only
  (repeat' split) <;> first | rfl | simp

@[simp] theorem State.enterAcquire_kFld (s : State) : (State.enterAcquire s).kFld = s.kFld := by
  unfold State.enterAcquire
  try dsimp only
  (repeat' split) <;> first | rfl | simp

@[simp] theorem State.enterLocked_kFld (s : State) : (State.enterLocked s).kFld = s.kFld := by
  unfold State.enterLocked
  try dsimp only
  (repeat' split) <;> first | rfl | simp

@[simp] theorem State.causeTime_kFld (s : State) : (State.causeTime s).kFld = s.kFld := by
  unfold State.causeTime
  try dsimp only
  (repeat' split) <;> first | rfl | simp

@[simp] theorem State.followErr_kFld (s : State) (err : Int) : (State.followErr s err).kFld = s.kFld := by
  unfold State.followErr
  try dsimp only
  (repeat' split) <;> first | rfl | simp

@[simp] theorem State.setSource_kFld (s : State) (c : Nat) : (State.setSource s c).kFld = s.kFld := by
  unfold State.setSource
  try dsimp only
  (repeat' split) <;> first | rfl | simp

@[simp] theorem State.timeFall_kFld (s : State) (lost : Nat) : (State.timeFall s lost).kFld = s.kFld := by
  unfold State.timeFall
  extract_lets st t t1 t2 t3 t4 t5
  by_cases c : t.time.gm = true
  · rw [if_pos c]; simp [t]
  · rw [if_neg c]
    by_cases d : (st == 2) = true
    · rw [if_pos d]; rw [State.raise_kFld, State.kFld_mk, State.kFld_eta]; simp [t2, t]
    · rw [if_neg d]
      rw [State.kFld_mk, State.kFld_eta]
      simp [t4, t]

@[simp] theorem State.pickSource_kFld (l : List Nat) (s : State) : (State.pickSource l s).1.kFld = s.kFld := by
  induction l generalizing s with
  | nil => rfl
  | cons c l ih =>
    unfold State.pickSource
    split
    · exact ih s
    · split
      · simp [ih]
      · rfl

@[simp] theorem State.reselect_kFld (s : State) : (State.reselect s).kFld = s.kFld := by
  unfold State.reselect
  rcases h : s.pickSource s.byRank with ⟨t, best⟩
  have ht : t.kFld = s.kFld := by have := State.pickSource_kFld s.byRank s; rw [h] at this; exact this
  dsimp only
  cases best with
  | none =>
    dsimp only; split
    · exact ht
    · simp [ht]
  | some c =>
    dsimp only; split
    · exact ht
    · simp [ht]

@[simp] theorem State.timeLost_kFld (s : State) (c : Nat) : (State.timeLost s c).kFld = s.kFld := by
  unfold State.timeLost
  try dsimp only
  (repeat' split) <;> first | rfl | simp

@[simp] theorem State.timeGood_kFld (s : State) (c good need : Nat) (err : Int) : (State.timeGood s c good need err).kFld = s.kFld := by
  unfold State.timeGood
  try dsimp only
  (repeat' split) <;> first | rfl | simp

@[simp] theorem State.timeRef_kFld (s : State) (c : Nat) (err : Int) (freq : Option Int) (was : Nat) : (State.timeRef s c err freq was).kFld = s.kFld := by
  unfold State.timeRef
  try dsimp only
  (repeat' split) <;> first | rfl | simp

@[simp] theorem State.frRef_kFld (s : State) (cycleNs cycle : Nat) (e : Int) : (State.frRef s cycleNs cycle e).kFld = s.kFld := by
  unfold State.frRef
  try dsimp only
  (repeat' split) <;> first | rfl | simp

end Sys2Proof.Machine
end

