-- ==== Sys2Proof/Laws/ViewNet.lean ====
section
/-!
SUPPORT. Sys2Proof/Laws/ViewNet.lean: the view of the queue, ET, the RTC, load channels and bridges, inputs and outputs, and the update manager.
-/

namespace Sys2Proof.Machine

/-- The view. -/
structure KNet where
  pending : List Instr
  et : Nat
  rtcNs : Nat
  lsw : Lsw
  dio : Dio
  upd : Upd

def State.kNet (s : State) : KNet := ⟨s.pending, s.et, s.rtcNs, s.lsw, s.dio, s.upd⟩

@[simp] theorem State.kNet_mk (a0 a1 a2 a3 a4 a5 a6 a7 a8 a9 a10 a11 a12 a13 a14 a15 a16 a17 a18 a19 a20 a21 a22 a23 a24) :
    (State.mk a0 a1 a2 a3 a4 a5 a6 a7 a8 a9 a10 a11 a12 a13 a14 a15 a16 a17 a18 a19 a20 a21 a22 a23 a24).kNet = ⟨a0, a1, a2, a12, a14, a24⟩ := rfl

@[simp] theorem State.kNet_eta (s : State) : (⟨s.pending, s.et, s.rtcNs, s.lsw, s.dio, s.upd⟩ : KNet) = s.kNet := rfl

theorem State.kNet_ext {s t : State} (h : t.kNet = s.kNet) :
    t.pending = s.pending ∧ t.et = s.et ∧ t.rtcNs = s.rtcNs ∧ t.lsw = s.lsw ∧ t.dio = s.dio ∧ t.upd = s.upd := by
  simp only [State.kNet, KNet.mk.injEq] at h
  exact h

@[simp] theorem foldl_kNet {α : Type} (f : State → α → State) (h : ∀ s a, (f s a).kNet = s.kNet) (l : List α) (s : State) :
    (l.foldl f s).kNet = s.kNet := by
  induction l generalizing s with
  | nil => rfl
  | cons a l ih => simp [List.foldl, ih, h]

@[simp] theorem foldl_fst_kNet {α β : Type} (f : State × β → α → State × β) (h : ∀ a x, (f a x).1.kNet = a.1.kNet)
    (l : List α) (a : State × β) : (l.foldl f a).1.kNet = a.1.kNet := by
  induction l generalizing a with
  | nil => rfl
  | cons x l ih => simp [List.foldl, ih, h]

@[simp] theorem onlyIf_kNet (c : Bool) (s t : State) (h : t.kNet = s.kNet) : (onlyIf c s t).kNet = s.kNet := by
  cases c <;> simp [onlyIf, h]

@[simp] theorem State.kNet_ite (c : Prop) [Decidable c] (a b : State) :
    (if c then a else b).kNet = if c then a.kNet else b.kNet := apply_ite _ _ _ _

@[simp] theorem State.kNet_fst_ite {α : Type} (c : Prop) [Decidable c] (a b : State × α) :
    (if c then a else b).1.kNet = if c then a.1.kNet else b.1.kNet := by
  split <;> rfl

end Sys2Proof.Machine
end

