-- ==== Sys2Proof/Laws/KeepNet.lean ====
section
/-!
SUPPORT. Sys2Proof/Laws/KeepNet.lean: the operations that leave the view `State.kNet` alone.
-/

namespace Sys2Proof.Machine

@[simp] theorem State.store_kNet (s : State) (a : Nat) (bs : List Byte) : (State.store s a bs).kNet = s.kNet := by
  unfold State.store
  try dsimp only
  (repeat' split) <;> first | rfl | simp

@[simp] theorem State.setPart_kNet (s : State) (p : Nat) (x : Part) : (State.setPart s p x).kNet = s.kNet := by
  unfold State.setPart
  try dsimp only
  (repeat' split) <;> first | rfl | simp

@[simp] theorem State.setPair_kNet (s : State) (k : Nat) (x : Pair) : (State.setPair s k x).kNet = s.kNet := by
  unfold State.setPair
  try dsimp only
  (repeat' split) <;> first | rfl | simp

@[simp] theorem State.setRing_kNet (s : State) (n : Nat) (x : Ring) : (State.setRing s n x).kNet = s.kNet := by
  unfold State.setRing
  try dsimp only
  (repeat' split) <;> first | rfl | simp

@[simp] theorem State.fresh_kNet (s : State) : (State.fresh s).2.kNet = s.kNet := by
  unfold State.fresh
  try dsimp only
  (repeat' split) <;> first | rfl | simp

@[simp] theorem State.deliver_kNet (s : State) (ev : EventRec) (p : Nat) : (State.deliver s ev p).kNet = s.kNet := by
  unfold State.deliver
  try dsimp only
  (repeat' split) <;> first | rfl | simp

@[simp] theorem State.raiseAt_kNet (s : State) (et : Nat) (tos : List Nat) (src kind data : Nat) : (State.raiseAt s et tos src kind data).kNet = s.kNet := by
  unfold State.raiseAt
  try dsimp only
  (repeat' split) <;> first | rfl | simp

@[simp] theorem State.raise_kNet (s : State) (tos : List Nat) (src kind data : Nat) : (State.raise s tos src kind data).kNet = s.kNet := by
  unfold State.raise
  try dsimp only
  (repeat' split) <;> first | rfl | simp

@[simp] theorem State.raiseOnce_kNet (s : State) (tos : List Nat) (src kind data : Nat) : (State.raiseOnce s tos src kind data).kNet = s.kNet := by
  unfold State.raiseOnce
  try dsimp only
  (repeat' split) <;> first | rfl | simp

@[simp] theorem State.ringDiscard_kNet (s : State) (n : Nat) : (State.ringDiscard s n).kNet = s.kNet := by
  unfold State.ringDiscard
  try dsimp only
  (repeat' split) <;> first | rfl | simp

@[simp] theorem State.raiseVi_kNet (s : State) (n : Nat) : (State.raiseVi s n).kNet = s.kNet := by
  unfold State.raiseVi
  try dsimp only
  (repeat' split) <;> first | rfl | simp

@[simp] theorem State.ringIrq_kNet (s : State) (n : Nat) : (State.ringIrq s n).kNet = s.kNet := by
  unfold State.ringIrq
  try dsimp only
  (repeat' split) <;> first | rfl | simp

@[simp] theorem State.chargeDram_kNet (s : State) (n bytes : Nat) : (State.chargeDram s n bytes).kNet = s.kNet := by
  unfold State.chargeDram
  try dsimp only
  (repeat' split) <;> first | rfl | simp

@[simp] theorem State.ringPush_kNet (s : State) (n : Nat) (bs : List Byte) : (State.ringPush s n bs).kNet = s.kNet := by
  unfold State.ringPush
  try dsimp only
  (repeat' split) <;> first | rfl | simp

@[simp] theorem State.ringPop_kNet (s : State) (n : Nat) : (State.ringPop s n).kNet = s.kNet := by
  unfold State.ringPop
  try dsimp only
  (repeat' split) <;> first | rfl | simp

@[simp] theorem State.ringRecord_kNet (s : State) (n et : Nat) (bs : List Byte) : (State.ringRecord s n et bs).kNet = s.kNet := by
  unfold State.ringRecord
  try dsimp only
  (repeat' split) <;> first | rfl | simp

@[simp] theorem State.ringFreed_kNet (s : State) (n : Nat) : (State.ringFreed s n).kNet = s.kNet := by
  unfold State.ringFreed
  try dsimp only
  (repeat' split) <;> first | rfl | simp

@[simp] theorem State.setFltPart_kNet (s : State) (p : Nat) (x : FltPart) : (State.setFltPart s p x).kNet = s.kNet := by
  unfold State.setFltPart
  try dsimp only
  (repeat' split) <;> first | rfl | simp

@[simp] theorem State.logRec_kNet (s : State) (r : LogRec) : (State.logRec s r).kNet = s.kNet := by
  unfold State.logRec
  try dsimp only
  (repeat' split) <;> first | rfl | simp

@[simp] theorem State.makeReport_kNet (s : State) (r : FltReport) : (State.makeReport s r).kNet = s.kNet := by
  unfold State.makeReport
  try dsimp only
  (repeat' split) <;> first | rfl | simp

@[simp] theorem State.nextFault_kNet (s : State) : (State.nextFault s).2.kNet = s.kNet := by
  unfold State.nextFault
  try dsimp only
  (repeat' split) <;> first | rfl | simp

@[simp] theorem State.fault_kNet (s : State) (src cls level part kind data attempts hold : Nat) : (State.fault s src cls level part kind data attempts hold).kNet = s.kNet := by
  unfold State.fault
  try dsimp only
  (repeat' split) <;> first | rfl | simp

@[simp] theorem State.postedError_kNet (s : State) (r : PostedRec) : (State.postedError s r).kNet = s.kNet := by
  unfold State.postedError
  try dsimp only
  (repeat' split) <;> first | rfl | simp

@[simp] theorem State.writeReply_kNet (s : State) (pk : Packet) (status : Nat) (result : List Byte) : (State.writeReply s pk status result).kNet = s.kNet := by
  unfold State.writeReply
  try dsimp only
  (repeat' split) <;> first | rfl | simp

@[simp] theorem State.setStat_kNet (s : State) (p : Nat) (x : CmdStat) : (State.setStat s p x).kNet = s.kNet := by
  unfold State.setStat
  try dsimp only
  (repeat' split) <;> first | rfl | simp

@[simp] theorem State.finalReply_kNet (s : State) (code : Nat) (pk : Packet) (status : Nat) (result : List Byte) : (State.finalReply s code pk status result).kNet = s.kNet := by
  unfold State.finalReply
  try dsimp only
  (repeat' split) <;> first | rfl | simp

@[simp] theorem State.finishAsync_kNet (s : State) (o : Outst) (status : Nat) (result : List Byte) : (State.finishAsync s o status result).kNet = s.kNet := by
  unfold State.finishAsync
  try dsimp only
  (repeat' split) <;> first | rfl | simp

@[simp] theorem State.finishWhere_kNet (s : State) (f : Outst → Bool) (status : Nat) (result : List Byte) : (State.finishWhere s f status result).kNet = s.kNet := by
  unfold State.finishWhere
  try dsimp only
  (repeat' split) <;> first | rfl | simp

@[simp] theorem State.supReport_kNet (s : State) (code : Nat) (pk : Packet) (attempts : Nat) (withdrawn : Bool) : (State.supReport s code pk attempts withdrawn).kNet = s.kNet := by
  unfold State.supReport
  try dsimp only
  (repeat' split) <;> first | rfl | simp

@[simp] theorem State.setFeed_kNet (s : State) (f : Nat) (x : Feed) : (State.setFeed s f x).kNet = s.kNet := by
  unfold State.setFeed
  try dsimp only
  (repeat' split) <;> first | rfl | simp

@[simp] theorem State.refused_kNet (s : State) (k a origin amount : Nat) : (State.refused s k a origin amount).kNet = s.kNet := by
  unfold State.refused
  try dsimp only
  (repeat' split) <;> first | rfl | simp

@[simp] theorem State.degrade_kNet (s : State) : (State.degrade s).kNet = s.kNet := by
  unfold State.degrade
  try dsimp only
  (repeat' split) <;> first | rfl | simp

@[simp] theorem State.setSwPort_kNet (s : State) (p : Nat) (x : SwPort) : (State.setSwPort s p x).kNet = s.kNet := by
  unfold State.setSwPort
  try dsimp only
  (repeat' split) <;> first | rfl | simp

@[simp] theorem State.setPrt_kNet (s : State) (p : Nat) (x : Prt) : (State.setPrt s p x).kNet = s.kNet := by
  unfold State.setPrt
  try dsimp only
  (repeat' split) <;> first | rfl | simp

@[simp] theorem State.onPort_kNet (s : State) (p : Nat) (f : SwPort → SwPort) : (State.onPort s p f).kNet = s.kNet := by
  unfold State.onPort
  try dsimp only
  (repeat' split) <;> first | rfl | simp

@[simp] theorem State.dropCopy_kNet (s : State) (id : Nat) : (State.dropCopy s id).kNet = s.kNet := by
  unfold State.dropCopy
  try dsimp only
  (repeat' split) <;> first | rfl | simp

@[simp] theorem State.touch_kNet (s : State) (p : Nat) : (State.touch s p).kNet = s.kNet := by
  unfold State.touch
  try dsimp only
  (repeat' split) <;> first | rfl | simp

@[simp] theorem State.zeroize_kNet (s : State) (p cause : Nat) : (State.zeroize s p cause).kNet = s.kNet := by
  unfold State.zeroize
  try dsimp only
  (repeat' split) <;> first | rfl | simp

@[simp] theorem State.setFdb_kNet (s : State) (i : Nat) (e : FdbEnt) : (State.setFdb s i e).kNet = s.kNet := by
  unfold State.setFdb
  try dsimp only
  (repeat' split) <;> first | rfl | simp

@[simp] theorem State.learn_kNet (s : State) (p mac fid : Nat) : (State.learn s p mac fid).kNet = s.kNet := by
  unfold State.learn
  try dsimp only
  (repeat' split) <;> first | rfl | simp

@[simp] theorem State.police_kNet (s : State) (f : EthFrame) (i : Nat) (st : Stream) : (State.police s f i st).1.kNet = s.kNet := by
  unfold State.police
  try dsimp only
  (repeat' split) <;> first | rfl | simp

@[simp] theorem State.cbStage_kNet (s : State) (f : EthFrame) (i : Nat) : (State.cbStage s f i).1.kNet = s.kNet := by
  unfold State.cbStage
  try dsimp only
  (repeat' split) <;> first | rfl | simp

@[simp] theorem State.admitCopy_kNet (s : State) (q c cells ingress id dst vid : Nat) (cut : Bool) : (State.admitCopy s q c cells ingress id dst vid cut).1.kNet = s.kNet := by
  unfold State.admitCopy
  try dsimp only
  (repeat' split) <;> first | rfl | simp

@[simp] theorem State.rxDiscard_kNet (s : State) (p : Nat) : (State.rxDiscard s p).kNet = s.kNet := by
  unfold State.rxDiscard
  try dsimp only
  (repeat' split) <;> first | rfl | simp

@[simp] theorem State.egress_kNet (s : State) (f : EthFrame) (b : FrameBuf) (v : VlanRec) (ports : Nat) (cutOk : Bool) : (State.egress s f b v ports cutOk).1.kNet = s.kNet := by
  unfold State.egress
  try dsimp only
  (repeat' split) <;> first | rfl | simp

@[simp] theorem State.forward_kNet (s : State) (f : EthFrame) (w : SwWay) (cb seq : Option Nat) : (State.forward s f w cb seq).1.kNet = s.kNet := by
  unfold State.forward
  try dsimp only
  (repeat' split) <;> first | rfl | simp

@[simp] theorem State.sequence_kNet (s : State) (f : EthFrame) (w : SwWay) : (State.sequence s f w).1.kNet = s.kNet := by
  unfold State.sequence
  try dsimp only
  (repeat' split) <;> first | rfl | simp

@[simp] theorem State.streamStage_kNet (s : State) (f : EthFrame) (w : SwWay) (i : Nat) : (State.streamStage s f w i).1.kNet = s.kNet := by
  unfold State.streamStage
  try dsimp only
  (repeat' split) <;> first | rfl | simp

@[simp] theorem State.vlanStage_kNet (s : State) (f : EthFrame) : (State.vlanStage s f).1.kNet = s.kNet := by
  unfold State.vlanStage
  try dsimp only
  (repeat' split) <;> first | rfl | simp

@[simp] theorem State.classify_kNet (s : State) (f : EthFrame) : (State.classify s f).1.kNet = s.kNet := by
  unfold State.classify
  try dsimp only
  (repeat' split) <;> first | rfl | simp

@[simp] theorem State.spoilFrame_kNet (s : State) (p id : Nat) : (State.spoilFrame s p id).kNet = s.kNet := by
  unfold State.spoilFrame
  refine (foldl_kNet _ ?_ _ _).trans ?_
  · intro s q
    dsimp only
    (repeat' split) <;> simp
  · split <;> simp

@[simp] theorem State.finishRx_kNet (s : State) (p : Nat) (r : SwRx) (good : Bool) : (State.finishRx s p r good).kNet = s.kNet := by
  unfold State.finishRx
  extract_lets t1 y t2 t3
  have h2 : t2.kNet = s.kNet := by
    show (if _ then _ else _ : State).kNet = _
    split <;> simp [t1]
  split
  · have h3 : t3.kNet = s.kNet := by
      show (match r.learn with | some (m, fid) => t2.learn p m fid | none => t2 : State).kNet = _
      split
      · exact (State.learn_kNet _ _ _ _).trans h2
      · exact h2
    split
    · exact h3
    · split
      · exact h3
      · exact h3
  · split
    · exact h2
    · exact (State.spoilFrame_kNet _ _ _).trans h2

@[simp] theorem State.frameIn_kNet (s : State) (f : EthFrame) : (State.frameIn s f).kNet = s.kNet := by
  unfold State.frameIn
  try dsimp only
  (repeat' split) <;> first | rfl | simp

@[simp] theorem State.frameEnd_kNet (s : State) (p : Nat) (good symbol : Bool) : (State.frameEnd s p good symbol).kNet = s.kNet := by
  unfold State.frameEnd
  try dsimp only
  (repeat' split) <;> first | rfl | simp

@[simp] theorem State.gwStore_kNet (s : State) (q : Nat) (b : FrameBuf) : (State.gwStore s q b).kNet = s.kNet := by
  unfold State.gwStore
  try dsimp only
  (repeat' split) <;> first | rfl | simp

@[simp] theorem State.deliverIn_kNet (s : State) (q : Nat) (b : FrameBuf) (t : SwTx) : (State.deliverIn s q b t).kNet = s.kNet := by
  unfold State.deliverIn
  try dsimp only
  (repeat' split) <;> first | rfl | simp

@[simp] theorem State.txDone_kNet (s : State) (p : Nat) : (State.txDone s p).kNet = s.kNet := by
  unfold State.txDone
  try dsimp only
  (repeat' split) <;> first | rfl | simp

@[simp] theorem State.sendCopy_kNet (s : State) (p c : Nat) (copy : Copy) (b : FrameBuf) (x : SwPort) : (State.sendCopy s p c copy b x).kNet = s.kNet := by
  unfold State.sendCopy
  extract_lets v tg rt ln t pn y t1 t2 t3
  have h1 : t1.kNet = s.kNet := State.setSwPort_kNet _ _ _
  have h2 : t2.kNet = s.kNet := by
    show (if _ then _ else _ : State).kNet = _
    split
    · exact (State.raise_kNet _ _ _ _ _).trans h1
    · exact h1
  have h3 : t3.kNet = s.kNet := by
    show (if _ then _ else _ : State).kNet = _
    split
    · exact (State.raise_kNet _ _ _ _ _).trans h2
    · exact h2
  split
  · exact (State.deliverIn_kNet _ _ _ _).trans h3
  · exact h3

@[simp] theorem State.selectTx_kNet (n : Nat) (s : State) (p : Nat) : (State.selectTx n s p).kNet = s.kNet := by
  induction n generalizing s with
  | zero => rfl
  | succ n ih =>
    unfold State.selectTx
    split
    · rfl
    · extract_lets x k
      split
      · rfl
      · extract_lets y
        split
        · rw [ih, State.dropCopy_kNet, State.setSwPort_kNet]
        · split
          · rfl
          · exact State.sendCopy_kNet _ _ _ _ _ _

@[simp] theorem State.transmissionSelect_kNet (s : State) (p : Nat) : (State.transmissionSelect s p).kNet = s.kNet := by
  unfold State.transmissionSelect
  extract_lets w t
  split
  · rfl
  · split
    · exact State.txDone_kNet s p
    · exact (State.selectTx_kNet _ _ _).trans (State.txDone_kNet s p)

@[simp] theorem State.portFlush_kNet (s : State) (p : Nat) : (State.portFlush s p).kNet = s.kNet := by
  unfold State.portFlush
  try dsimp only
  (repeat' split) <;> first | rfl | simp

@[simp] theorem State.fdbAgeing_kNet (s : State) (mac fid : Nat) : (State.fdbAgeing s mac fid).kNet = s.kNet := by
  unfold State.fdbAgeing
  try dsimp only
  (repeat' split) <;> first | rfl | simp

@[simp] theorem State.cbTimeout_kNet (s : State) (i : Nat) : (State.cbTimeout s i).kNet = s.kNet := by
  unfold State.cbTimeout
  try dsimp only
  (repeat' split) <;> first | rfl | simp

@[simp] theorem State.sakInstall_kNet (s : State) (p an scs : Nat) (xpn : Bool) : (State.sakInstall s p an scs xpn).kNet = s.kNet := by
  unfold State.sakInstall
  try dsimp only
  (repeat' split) <;> first | rfl | simp

@[simp] theorem State.setCan_kNet (s : State) (n : Nat) (x : Can) : (State.setCan s n x).kNet = s.kNet := by
  unfold State.setCan
  try dsimp only
  (repeat' split) <;> first | rfl | simp

@[simp] theorem State.setLin_kNet (s : State) (n : Nat) (x : Lin) : (State.setLin s n x).kNet = s.kNet := by
  unfold State.setLin
  try dsimp only
  (repeat' split) <;> first | rfl | simp

@[simp] theorem State.noteSource_kNet (s : State) (code : Nat) : (State.noteSource s code).kNet = s.kNet := by
  unfold State.noteSource
  try dsimp only
  (repeat' split) <;> first | rfl | simp

@[simp] theorem State.wkoPulse_kNet (s : State) (f : Wko → Bool) : (State.wkoPulse s f).kNet = s.kNet := by
  unfold State.wkoPulse
  try dsimp only
  (repeat' split) <;> first | rfl | simp

@[simp] theorem State.canUp_kNet (s : State) (n : Nat) : (State.canUp s n).kNet = s.kNet := by
  unfold State.canUp
  try dsimp only
  (repeat' split) <;> first | rfl | simp

@[simp] theorem State.linWaking_kNet (s : State) (n : Nat) (sent : Bool) : (State.linWaking s n sent).kNet = s.kNet := by
  unfold State.linWaking
  try dsimp only
  (repeat' split) <;> first | rfl | simp

@[simp] theorem State.portTrain_kNet (s : State) (p : Nat) : (State.portTrain s p).kNet = s.kNet := by
  unfold State.portTrain
  try dsimp only
  (repeat' split) <;> first | rfl | simp

@[simp] theorem State.tc10End_kNet (s : State) (p status : Nat) : (State.tc10End s p status).kNet = s.kNet := by
  unfold State.tc10End
  try dsimp only
  (repeat' split) <;> first | rfl | simp

@[simp] theorem State.portWake_kNet (s : State) (p : Nat) (remote : Bool) : (State.portWake s p remote).kNet = s.kNet := by
  unfold State.portWake
  try dsimp only
  (repeat' split) <;> first | rfl | simp

@[simp] theorem State.sleepEnd_kNet (s : State) (status : Nat) (result : List Byte) : (State.sleepEnd s status result).kNet = s.kNet := by
  unfold State.sleepEnd
  try dsimp only
  (repeat' split) <;> first | rfl | simp

@[simp] theorem State.sleepAbort_kNet (s : State) (code : Nat) (cancel : Bool) : (State.sleepAbort s code cancel).kNet = s.kNet := by
  unfold State.sleepAbort
  try dsimp only
  (repeat' split) <;> first | rfl | simp

@[simp] theorem State.wakeFrom_kNet (s : State) (code : Nat) : (State.wakeFrom s code).kNet = s.kNet := by
  unfold State.wakeFrom
  try dsimp only
  (repeat' split) <;> first | rfl | simp

@[simp] theorem State.wakeTransceiver_kNet (s : State) (code : Nat) (tos : List Nat) : (State.wakeTransceiver s code tos).kNet = s.kNet := by
  unfold State.wakeTransceiver
  try dsimp only
  (repeat' split) <;> first | rfl | simp

@[simp] theorem State.wakeRequest_kNet (s : State) (cls idx : Nat) : (State.wakeRequest s cls idx).kNet = s.kNet := by
  unfold State.wakeRequest
  try dsimp only
  (repeat' split) <;> first | rfl | simp

@[simp] theorem State.risPush_kNet (s : State) (t src et level : Nat) : (State.risPush s t src et level).kNet = s.kNet := by
  unfold State.risPush
  try dsimp only
  (repeat' split) <;> first | rfl | simp

@[simp] theorem State.triggerWhere_kNet (s : State) (f : Trigger → Bool) (src et level : Nat) : (State.triggerWhere s f src et level).kNet = s.kNet := by
  unfold State.triggerWhere
  try dsimp only
  (repeat' split) <;> first | rfl | simp

@[simp] theorem State.freshBuf_kNet (s : State) (buf : Nat) (data : List Byte) : (State.freshBuf s buf data).kNet = s.kNet := by
  unfold State.freshBuf
  try dsimp only
  (repeat' split) <;> first | rfl | simp

@[simp] theorem State.txSent_kNet (s : State) (buf : Nat) : (State.txSent s buf).kNet = s.kNet := by
  unfold State.txSent
  try dsimp only
  (repeat' split) <;> first | rfl | simp

@[simp] theorem State.portLeave_kNet (s : State) (p st : Nat) : (State.portLeave s p st).kNet = s.kNet := by
  unfold State.portLeave
  try dsimp only
  (repeat' split) <;> first | rfl | simp

@[simp] theorem State.portSleep_kNet (s : State) (p cause : Nat) : (State.portSleep s p cause).kNet = s.kNet := by
  unfold State.portSleep
  try dsimp only
  (repeat' split) <;> first | rfl | simp

@[simp] theorem State.linkUp_kNet (s : State) (p : Nat) : (State.linkUp s p).kNet = s.kNet := by
  unfold State.linkUp
  try dsimp only
  (repeat' split) <;> first | rfl | simp

@[simp] theorem State.linkDown_kNet (s : State) (p : Nat) (localFault : Bool) : (State.linkDown s p localFault).kNet = s.kNet := by
  unfold State.linkDown
  try dsimp only
  (repeat' split) <;> first | rfl | simp

@[simp] theorem State.trainFail_kNet (s : State) (p : Nat) : (State.trainFail s p).kNet = s.kNet := by
  unfold State.trainFail
  try dsimp only
  (repeat' split) <;> first | rfl | simp

@[simp] theorem State.phyFault_kNet (s : State) (p : Nat) : (State.phyFault s p).kNet = s.kNet := by
  unfold State.phyFault
  split
  · rfl
  · rw [State.fault_kNet, State.portLeave_kNet]

@[simp] theorem State.tc10Asleep_kNet (s : State) (p : Nat) : (State.tc10Asleep s p).kNet = s.kNet := by
  unfold State.tc10Asleep
  split
  · rfl
  · rw [State.tc10End_kNet, State.raise_kNet, State.kNet_mk, State.kNet_eta, State.portSleep_kNet]

@[simp] theorem State.tc10Timeout_kNet (s : State) (p : Nat) : (State.tc10Timeout s p).kNet = s.kNet := by
  unfold State.tc10Timeout
  try dsimp only
  (repeat' split) <;> first | rfl | simp

@[simp] theorem State.tc10Remote_kNet (s : State) (p : Nat) : (State.tc10Remote s p).kNet = s.kNet := by
  unfold State.tc10Remote
  dsimp only
  split
  · rw [State.tc10End_kNet, State.raise_kNet, State.portSleep_kNet]
  · rfl

@[simp] theorem State.tc10Wake_kNet (s : State) (p : Nat) (remote : Bool) : (State.tc10Wake s p remote).kNet = s.kNet := by
  unfold State.tc10Wake
  try dsimp only
  (repeat' split) <;> first | rfl | simp

@[simp] theorem State.beaconLost_kNet (s : State) (p : Nat) : (State.beaconLost s p).kNet = s.kNet := by
  unfold State.beaconLost
  try dsimp only
  (repeat' split) <;> first | rfl | simp

@[simp] theorem State.beaconReceived_kNet (s : State) (p : Nat) : (State.beaconReceived s p).kNet = s.kNet := by
  unfold State.beaconReceived
  try dsimp only
  (repeat' split) <;> first | rfl | simp

@[simp] theorem State.segmentAlone_kNet (s : State) (p : Nat) : (State.segmentAlone s p).kNet = s.kNet := by
  unfold State.segmentAlone
  try dsimp only
  (repeat' split) <;> first | rfl | simp

@[simp] theorem State.diagDone_kNet (s : State) (p result dist : Nat) : (State.diagDone s p result dist).kNet = s.kNet := by
  unfold State.diagDone
  try dsimp only
  (repeat' split) <;> first | rfl | simp

@[simp] theorem State.prtTrainTimeout_kNet (s : State) (p : Nat) : (State.prtTrainTimeout s p).kNet = s.kNet := by
  unfold State.prtTrainTimeout
  try dsimp only
  (repeat' split) <;> first | rfl | simp

@[simp] theorem State.canNoAck_kNet (s : State) (n status : Nat) : (State.canNoAck s n status).kNet = s.kNet := by
  unfold State.canNoAck
  try dsimp only
  (repeat' split) <;> first | rfl | simp

@[simp] theorem State.canEnd_kNet (s : State) (n : Nat) (r : CanReq) (status : Nat) : (State.canEnd s n r status).kNet = s.kNet := by
  unfold State.canEnd
  try dsimp only
  (repeat' split) <;> first | rfl | simp

@[simp] theorem State.cancelEnd_kNet (s : State) (n status : Nat) (r : Option CanReq) : (State.cancelEnd s n status r).kNet = s.kNet := by
  unfold State.cancelEnd
  try dsimp only
  (repeat' split) <;> first | rfl | simp

@[simp] theorem State.canPlace_kNet (s : State) (n : Nat) (r : CanReq) : (State.canPlace s n r).kNet = s.kNet := by
  unfold State.canPlace
  try dsimp only
  (repeat' split) <;> first | rfl | simp

@[simp] theorem State.canNext_kNet (s : State) (n : Nat) : (State.canNext s n).kNet = s.kNet := by
  unfold State.canNext
  try dsimp only
  (repeat' split) <;> first | rfl | simp

@[simp] theorem State.canAllOff_kNet (s : State) (n : Nat) : (State.canAllOff s n).kNet = s.kNet := by
  unfold State.canAllOff
  try dsimp only
  (repeat' split) <;> first | rfl | simp

@[simp] theorem State.canErrState_kNet (s : State) (n : Nat) : (State.canErrState s n).kNet = s.kNet := by
  unfold State.canErrState
  try dsimp only
  (repeat' split) <;> first | rfl | simp

@[simp] theorem State.canReceive_kNet (s : State) (n : Nat) (f : CanFrame) : (State.canReceive s n f).kNet = s.kNet := by
  unfold State.canReceive
  try dsimp only
  (repeat' split) <;> first | rfl | simp

@[simp] theorem State.canValid_kNet (s : State) (n : Nat) : (State.canValid s n).kNet = s.kNet := by
  unfold State.canValid
  try dsimp only
  (repeat' split) <;> first | rfl | simp

@[simp] theorem State.canAttempt_kNet (s : State) (n : Nat) : (State.canAttempt s n).kNet = s.kNet := by
  unfold State.canAttempt
  try dsimp only
  (repeat' split) <;> first | rfl | simp

@[simp] theorem State.canRetry_kNet (s : State) (n status : Nat) (past : Bool) : (State.canRetry s n status past).kNet = s.kNet := by
  unfold State.canRetry
  try dsimp only
  (repeat' split) <;> first | rfl | simp

@[simp] theorem State.canLost_kNet (s : State) (n : Nat) : (State.canLost s n).kNet = s.kNet := by
  unfold State.canLost
  try dsimp only
  (repeat' split) <;> first | rfl | simp

@[simp] theorem State.canError_kNet (s : State) (n kind : Nat) (past more : Bool) : (State.canError s n kind past more).kNet = s.kNet := by
  unfold State.canError
  try dsimp only
  (repeat' split) <;> first | (simp; done) | rfl

@[simp] theorem State.canSuccess_kNet (s : State) (n : Nat) : (State.canSuccess s n).kNet = s.kNet := by
  unfold State.canSuccess
  try dsimp only
  (repeat' split) <;> first | rfl | simp

@[simp] theorem State.canCancel_kNet (s : State) (n : Nat) (src : Source) (tag : Nat) (pk : Option Packet) : (State.canCancel s n src tag pk).1.kNet = s.kNet := by
  unfold State.canCancel
  try dsimp only
  (repeat' split) <;> first | rfl | simp

@[simp] theorem State.canIntegrated_kNet (s : State) (n : Nat) : (State.canIntegrated s n).kNet = s.kNet := by
  unfold State.canIntegrated
  try dsimp only
  (repeat' split) <;> first | rfl | simp

@[simp] theorem State.canRecovered_kNet (s : State) (n : Nat) : (State.canRecovered s n).kNet = s.kNet := by
  unfold State.canRecovered
  try dsimp only
  (repeat' split) <;> first | rfl | simp

@[simp] theorem State.canSleep_kNet (s : State) (n : Nat) : (State.canSleep s n).kNet = s.kNet := by
  unfold State.canSleep
  try dsimp only
  (repeat' split) <;> first | rfl | simp

@[simp] theorem State.canWake_kNet (s : State) (n reason : Nat) : (State.canWake s n reason).kNet = s.kNet := by
  unfold State.canWake
  try dsimp only
  (repeat' split) <;> first | rfl | simp

@[simp] theorem State.setRate_kNet (s : State) (c : Int) : (State.setRate s c).kNet = s.kNet := by
  unfold State.setRate
  try dsimp only
  (repeat' split) <;> first | rfl | simp

@[simp] theorem State.steer_kNet (s : State) (err : Int) : (State.steer s err).kNet = s.kNet := by
  unfold State.steer
  by_cases h : (err == 0) = true
  · rw [if_pos h]
    simp
  · rw [if_neg h]
    rw [State.kNet_mk, State.kNet_eta, State.setRate_kNet]

@[simp] theorem State.setTimeSrc_kNet (s : State) (c : Nat) (x : TimeSrc) : (State.setTimeSrc s c x).kNet = s.kNet := by
  unfold State.setTimeSrc
  try dsimp only
  (repeat' split) <;> first | rfl | simp

@[simp] theorem State.markRefused_kNet (s : State) (c : Nat) : (State.markRefused s c).kNet = s.kNet := by
  unfold State.markRefused
  try dsimp only
  (repeat' split) <;> first | rfl | simp

@[simp] theorem State.enterAcquire_kNet (s : State) : (State.enterAcquire s).kNet = s.kNet := by
  unfold State.enterAcquire
  try dsimp only
  (repeat' split) <;> first | rfl | simp

@[simp] theorem State.enterLocked_kNet (s : State) : (State.enterLocked s).kNet = s.kNet := by
  unfold State.enterLocked
  try dsimp only
  (repeat' split) <;> first | rfl | simp

@[simp] theorem State.causeTime_kNet (s : State) : (State.causeTime s).kNet = s.kNet := by
  unfold State.causeTime
  try dsimp only
  (repeat' split) <;> first | rfl | simp

@[simp] theorem State.followErr_kNet (s : State) (err : Int) : (State.followErr s err).kNet = s.kNet := by
  unfold State.followErr
  try dsimp only
  (repeat' split) <;> first | rfl | simp

@[simp] theorem State.setSource_kNet (s : State) (c : Nat) : (State.setSource s c).kNet = s.kNet := by
  unfold State.setSource
  try dsimp only
  (repeat' split) <;> first | rfl | simp

@[simp] theorem State.timeFall_kNet (s : State) (lost : Nat) : (State.timeFall s lost).kNet = s.kNet := by
  unfold State.timeFall
  extract_lets st t t1 t2 t3 t4 t5
  by_cases c : t.time.gm = true
  · rw [if_pos c]; simp [t]
  · rw [if_neg c]
    by_cases d : (st == 2) = true
    · rw [if_pos d]; rw [State.raise_kNet, State.kNet_mk, State.kNet_eta]; simp [t2, t]
    · rw [if_neg d]
      rw [State.kNet_mk, State.kNet_eta]
      simp [t4, t]

@[simp] theorem State.pickSource_kNet (l : List Nat) (s : State) : (State.pickSource l s).1.kNet = s.kNet := by
  induction l generalizing s with
  | nil => rfl
  | cons c l ih =>
    unfold State.pickSource
    split
    · exact ih s
    · split
      · simp [ih]
      · rfl

@[simp] theorem State.reselect_kNet (s : State) : (State.reselect s).kNet = s.kNet := by
  unfold State.reselect
  rcases h : s.pickSource s.byRank with ⟨t, best⟩
  have ht : t.kNet = s.kNet := by have := State.pickSource_kNet s.byRank s; rw [h] at this; exact this
  dsimp only
  cases best with
  | none =>
    dsimp only; split
    · exact ht
    · simp [ht]
  | some c =>
    dsimp only; split
    · exact ht
    · simp [ht]

@[simp] theorem State.timeLost_kNet (s : State) (c : Nat) : (State.timeLost s c).kNet = s.kNet := by
  unfold State.timeLost
  try dsimp only
  (repeat' split) <;> first | rfl | simp

@[simp] theorem State.timeGood_kNet (s : State) (c good need : Nat) (err : Int) : (State.timeGood s c good need err).kNet = s.kNet := by
  unfold State.timeGood
  try dsimp only
  (repeat' split) <;> first | rfl | simp

@[simp] theorem State.timeRef_kNet (s : State) (c : Nat) (err : Int) (freq : Option Int) (was : Nat) : (State.timeRef s c err freq was).kNet = s.kNet := by
  unfold State.timeRef
  try dsimp only
  (repeat' split) <;> first | rfl | simp

@[simp] theorem State.gptpSync_kNet (s : State) (c : Nat) (err ratePpb : Int) (gm : Nat) : (State.gptpSync s c err ratePpb gm).kNet = s.kNet := by
  unfold State.gptpSync
  try dsimp only
  (repeat' split) <;> first | rfl | simp

@[simp] theorem State.ppsEdge_kNet (s : State) (e : Int) (spacing width : Nat) : (State.ppsEdge s e spacing width).kNet = s.kNet := by
  unfold State.ppsEdge
  try dsimp only
  (repeat' split) <;> first | rfl | simp

@[simp] theorem State.frRef_kNet (s : State) (cycleNs cycle : Nat) (e : Int) : (State.frRef s cycleNs cycle e).kNet = s.kNet := by
  unfold State.frRef
  try dsimp only
  (repeat' split) <;> first | rfl | simp

@[simp] theorem State.waitTimeout_kNet (s : State) : (State.waitTimeout s).kNet = s.kNet := by
  unfold State.waitTimeout
  try dsimp only
  (repeat' split) <;> first | rfl | simp

@[simp] theorem State.holdoverExpire_kNet (s : State) : (State.holdoverExpire s).kNet = s.kNet := by
  unfold State.holdoverExpire
  try dsimp only
  (repeat' split) <;> first | rfl | simp

@[simp] theorem State.syncTimeout_kNet (s : State) (c : Nat) : (State.syncTimeout s c).kNet = s.kNet := by
  unfold State.syncTimeout
  try dsimp only
  (repeat' split) <;> first | rfl | simp

@[simp] theorem State.ppsTimeout_kNet (s : State) : (State.ppsTimeout s).kNet = s.kNet := by
  unfold State.ppsTimeout
  try dsimp only
  (repeat' split) <;> first | rfl | simp

@[simp] theorem State.syncTransmit_kNet (s : State) (p : Nat) : (State.syncTransmit s p).kNet = s.kNet := by
  unfold State.syncTransmit
  try dsimp only
  (repeat' split) <;> first | rfl | simp

@[simp] theorem State.setPg_kNet (s : State) (n : Nat) (x : PulseGen) : (State.setPg s n x).kNet = s.kNet := by
  unfold State.setPg
  try dsimp only
  (repeat' split) <;> first | rfl | simp

@[simp] theorem State.pgIdle_kNet (s : State) (n kind : Nat) : (State.pgIdle s n kind).kNet = s.kNet := by
  unfold State.pgIdle
  try dsimp only
  (repeat' split) <;> first | rfl | simp

@[simp] theorem State.pgEdge_kNet (s : State) (n : Nat) : (State.pgEdge s n).kNet = s.kNet := by
  unfold State.pgEdge
  try dsimp only
  (repeat' split) <;> first | rfl | simp

@[simp] theorem State.feedV_kNet (s : State) (f v : Nat) : (State.feedV s f v).kNet = s.kNet := by
  unfold State.feedV
  try dsimp only
  (repeat' split) <;> first | rfl | simp

@[simp] theorem State.crankStop_kNet (s : State) (v : Nat) : (State.crankStop s v).kNet = s.kNet := by
  unfold State.crankStop
  try dsimp only
  (repeat' split) <;> first | rfl | simp

@[simp] theorem State.crankStart_kNet (s : State) (v : Nat) : (State.crankStart s v).kNet = s.kNet := by
  unfold State.crankStart
  try dsimp only
  (repeat' split) <;> first | rfl | simp

@[simp] theorem State.crankEnd_kNet (s : State) (v : Nat) : (State.crankEnd s v).kNet = s.kNet := by
  unfold State.crankEnd
  try dsimp only
  (repeat' split) <;> first | rfl | simp

@[simp] theorem State.overvoltage_kNet (s : State) (f v : Nat) : (State.overvoltage s f v).kNet = s.kNet := by
  unfold State.overvoltage
  try dsimp only
  (repeat' split) <;> first | rfl | simp

@[simp] theorem State.overvoltageEnd_kNet (s : State) (f v : Nat) : (State.overvoltageEnd s f v).kNet = s.kNet := by
  unfold State.overvoltageEnd
  try dsimp only
  (repeat' split) <;> first | rfl | simp

@[simp] theorem State.setCluster_kNet (s : State) (c : Nat) (x : FryCluster) : (State.setCluster s c x).kNet = s.kNet := by
  unfold State.setCluster
  try dsimp only
  (repeat' split) <;> first | rfl | simp

@[simp] theorem State.setFryCh_kNet (s : State) (k : Nat) (x : FryChan) : (State.setFryCh s k x).kNet = s.kNet := by
  unfold State.setFryCh
  try dsimp only
  (repeat' split) <;> first | rfl | simp

@[simp] theorem State.setPoc_kNet (s : State) (c code : Nat) : (State.setPoc s c code).kNet = s.kNet := by
  unfold State.setPoc
  try dsimp only
  (repeat' split) <;> first | rfl | simp

@[simp] theorem State.pocChange_kNet (s : State) (c code : Nat) : (State.pocChange s c code).kNet = s.kNet := by
  unfold State.pocChange
  try dsimp only
  (repeat' split) <;> first | rfl | simp

@[simp] theorem State.frAlone_kNet (s : State) (c : Nat) : (State.frAlone s c).kNet = s.kNet := by
  unfold State.frAlone
  try dsimp only
  (repeat' split) <;> first | rfl | simp

@[simp] theorem State.coldstartRetry_kNet (s : State) (c : Nat) : (State.coldstartRetry s c).kNet = s.kNet := by
  unfold State.coldstartRetry
  try dsimp only
  (repeat' split) <;> first | rfl | simp

@[simp] theorem State.fryStartTimeout_kNet (s : State) (c : Nat) : (State.fryStartTimeout s c).kNet = s.kNet := by
  unfold State.fryStartTimeout
  try dsimp only
  (repeat' split) <;> first | rfl | simp

@[simp] theorem State.fryRestore_kNet (s : State) (c k : Nat) : (State.fryRestore s c k).kNet = s.kNet := by
  unfold State.fryRestore
  refine foldl_kNet _ ?_ _ _
  intro s b
  dsimp only
  split
  · rfl
  · split <;> simp

@[simp] theorem State.fryLock_kNet (s : State) (c : Nat) (err : Int) : (State.fryLock s c err).kNet = s.kNet := by
  unfold State.fryLock
  try dsimp only
  (repeat' split) <;> first | rfl | simp

@[simp] theorem State.fryCycle_kNet (s : State) (c cycle : Nat) (err rate offs : Int) : (State.fryCycle s c cycle err rate offs).kNet = s.kNet := by
  unfold State.fryCycle
  extract_lets x t1 t2 p e t3 t4
  split
  · rfl
  · have h1 : t1.kNet = s.kNet := State.setCluster_kNet _ _ _
    have h2 : t2.kNet = s.kNet := by
      show (State.fryRestore (State.fryRestore _ _ _) _ _).kNet = _
      rw [State.fryRestore_kNet, State.fryRestore_kNet, h1]
    have h3 : t3.kNet = s.kNet := by
      show (if _ then _ else _ : State).kNet = _
      split
      · exact (State.fryLock_kNet _ _ _).trans h2
      · exact h2
    have h4 : t4.kNet = s.kNet := by
      show (if _ then _ else _ : State).kNet = _
      split
      · exact (State.frRef_kNet _ _ _ _).trans h3
      · exact h3
    split
    · exact (State.setPoc_kNet _ _ _).trans h4
    · exact h4

@[simp] theorem State.setFryTx_kNet (s : State) (j : Nat) (x : FryTx) : (State.setFryTx s j x).kNet = s.kNet := by
  unfold State.setFryTx
  try dsimp only
  (repeat' split) <;> first | rfl | simp

@[simp] theorem State.frySend_kNet (s : State) (k slot : Nat) (data : Option (List Byte)) (isRepeat : Bool) : (State.frySend s k slot data isRepeat).kNet = s.kNet := by
  unfold State.frySend
  try dsimp only
  (repeat' split) <;> first | rfl | simp

@[simp] theorem State.fryAction_kNet (s : State) (k slot cycle : Nat) : (State.fryAction s k slot cycle).kNet = s.kNet := by
  unfold State.fryAction
  try dsimp only
  (repeat' split) <;> first | rfl | simp

@[simp] theorem State.fryReceive_kNet (s : State) (k : Nat) (f : FryFrame) : (State.fryReceive s k f).kNet = s.kNet := by
  unfold State.fryReceive
  try dsimp only
  (repeat' split) <;> first | rfl | simp

@[simp] theorem State.violation_kNet (s : State) (k branch slot : Nat) (notOwned : Bool) : (State.violation s k branch slot notOwned).kNet = s.kNet := by
  unfold State.violation
  try dsimp only
  (repeat' split) <;> first | rfl | simp

@[simp] theorem State.branchTx_kNet (s : State) (k branch seg slot : Nat) (off : Int) : (State.branchTx s k branch seg slot off).kNet = s.kNet := by
  unfold State.branchTx
  try dsimp only
  (repeat' split) <;> first | rfl | simp

@[simp] theorem State.branchTruncated_kNet (s : State) (k branch slot : Nat) : (State.branchTruncated s k branch slot).kNet = s.kNet := by
  unfold State.branchTruncated
  try dsimp only
  (repeat' split) <;> first | rfl | simp

@[simp] theorem State.linSleep_kNet (s : State) (n why : Nat) : (State.linSleep s n why).kNet = s.kNet := by
  unfold State.linSleep
  try dsimp only
  (repeat' split) <;> first | rfl | simp

@[simp] theorem State.linTxEnd_kNet (s : State) (pk : Packet) (start err : Nat) (data : List Byte) : (State.linTxEnd s pk start err data).kNet = s.kNet := by
  unfold State.linTxEnd
  try dsimp only
  (repeat' split) <;> first | rfl | simp

@[simp] theorem State.linError_kNet (s : State) (n err id : Nat) : (State.linError s n err id).kNet = s.kNet := by
  unfold State.linError
  try dsimp only
  (repeat' split) <;> first | rfl | simp

@[simp] theorem State.linGood_kNet (s : State) (n : Nat) (subs : Bool) : (State.linGood s n subs).kNet = s.kNet := by
  unfold State.linGood
  try dsimp only
  (repeat' split) <;> first | rfl | simp

@[simp] theorem State.linStore_kNet (s : State) (n : Nat) (c : LinCur) (data : List Byte) : (State.linStore s n c data).kNet = s.kNet := by
  unfold State.linStore
  try dsimp only
  (repeat' split) <;> first | rfl | simp

@[simp] theorem State.linFrameEnd_kNet (s : State) (n : Nat) (e : LinEnd) : (State.linFrameEnd s n e).kNet = s.kNet := by
  unfold State.linFrameEnd
  try dsimp only
  (repeat' split) <;> first | rfl | simp

@[simp] theorem State.linTimeout_kNet (s : State) (n : Nat) (data : List Byte) : (State.linTimeout s n data).kNet = s.kNet := by
  unfold State.linTimeout
  try dsimp only
  (repeat' split) <;> first | rfl | simp

@[simp] theorem State.linHeader_kNet (s : State) (n id : Nat) (sleep : Bool) : (State.linHeader s n id sleep).kNet = s.kNet := by
  unfold State.linHeader
  try dsimp only
  (repeat' split) <;> first | rfl | simp

@[simp] theorem State.linIdle_kNet (s : State) (n : Nat) : (State.linIdle s n).kNet = s.kNet := by
  unfold State.linIdle
  try dsimp only
  (repeat' split) <;> first | rfl | simp

@[simp] theorem State.linWake_kNet (s : State) (n : Nat) (sent : Bool) : (State.linWake s n sent).kNet = s.kNet := by
  unfold State.linWake
  try dsimp only
  (repeat' split) <;> first | rfl | simp

@[simp] theorem State.linWakingEnd_kNet (s : State) (n : Nat) : (State.linWakingEnd s n).kNet = s.kNet := by
  unfold State.linWakingEnd
  try dsimp only
  (repeat' split) <;> first | rfl | simp

@[simp] theorem State.linNoHeader_kNet (s : State) (n : Nat) : (State.linNoHeader s n).kNet = s.kNet := by
  unfold State.linNoHeader
  try dsimp only
  (repeat' split) <;> first | rfl | simp

@[simp] theorem State.routeLoad_kNet (s : State) (sig : Nat) : (State.routeLoad s sig).kNet = s.kNet := by
  unfold State.routeLoad
  try dsimp only
  (repeat' split) <;> first | rfl | simp

@[simp] theorem State.mailboxRead_kNet (s : State) (n : Nat) : (State.mailboxRead s n).1.kNet = s.kNet := by
  unfold State.mailboxRead
  try dsimp only
  (repeat' split) <;> first | rfl | simp

@[simp] theorem State.sourceRead_kNet (s : State) (e : List Byte) (edge : Option (Nat × Nat)) : (State.sourceRead s e edge).1.kNet = s.kNet := by
  unfold State.sourceRead
  try dsimp only
  (repeat' split) <;> first | rfl | simp

@[simp] theorem State.gwEvent_kNet (s : State) (src kind sig data : Nat) : (State.gwEvent s src kind sig data).kNet = s.kNet := by
  unfold State.gwEvent
  try dsimp only
  (repeat' split) <;> first | rfl | simp

@[simp] theorem State.setSig_kNet (s : State) (sig : Nat) (x : SigStat) : (State.setSig s sig x).kNet = s.kNet := by
  unfold State.setSig
  try dsimp only
  (repeat' split) <;> first | rfl | simp

@[simp] theorem State.execEntry_kNet (s : State) (sig src : Nat) (edge : Option (Nat × Nat)) : (State.execEntry s sig src edge).1.kNet = s.kNet := by
  unfold State.execEntry
  try dsimp only
  (repeat' split) <;> first | rfl | simp

@[simp] theorem State.putField_kNet (s : State) (w : GwWrite) : (State.putField s w).kNet = s.kNet := by
  unfold State.putField
  try dsimp only
  (repeat' split) <;> first | rfl | simp

@[simp] theorem State.writeFrame_kNet (s : State) (src : Nat) (w : GwWrite) : (State.writeFrame s src w).1.kNet = s.kNet := by
  unfold State.writeFrame
  try dsimp only
  (repeat' split) <;> first | rfl | simp

@[simp] theorem State.putRec_kNet (s : State) (w : GwWrite) (hold : Nat) : (State.putRec s w hold).kNet = s.kNet := by
  unfold State.putRec
  try dsimp only
  (repeat' split) <;> first | rfl | simp

@[simp] theorem State.writeRec_kNet (s : State) (src : Nat) (w : GwWrite) : (State.writeRec s src w).kNet = s.kNet := by
  unfold State.writeRec
  try dsimp only
  (repeat' split) <;> first | rfl | simp

@[simp] theorem State.writeMailbox_kNet (s : State) (w : GwWrite) : (State.writeMailbox s w).kNet = s.kNet := by
  unfold State.writeMailbox
  try dsimp only
  (repeat' split) <;> first | rfl | simp

@[simp] theorem State.commitWrite_kNet (s : State) (src : Nat) (w : GwWrite) : (State.commitWrite s src w).kNet = s.kNet := by
  unfold State.commitWrite
  try dsimp only
  (repeat' split) <;> first | rfl | simp

@[simp] theorem State.setPipe_kNet (s : State) (p : Nat) (x : Pipe) : (State.setPipe s p x).kNet = s.kNet := by
  unfold State.setPipe
  try dsimp only
  (repeat' split) <;> first | rfl | simp

@[simp] theorem State.routeMiss_kNet (s : State) (sig : Nat) : (State.routeMiss s sig).kNet = s.kNet := by
  unfold State.routeMiss
  try dsimp only
  (repeat' split) <;> first | rfl | simp

@[simp] theorem State.routeOne_kNet (p : Nat) (acc : State × List GwWrite) (sig : Nat) :
    (State.routeOne p acc sig).1.kNet = acc.1.kNet := by
  unfold State.routeOne
  dsimp only
  (repeat' split) <;> simp

@[simp] theorem State.routeStart_kNet (s : State) (p : Nat) : (State.routeStart s p).kNet = s.kNet := by
  unfold State.routeStart
  extract_lets x
  cases h : x.queue with
  | nil => rfl
  | cons q rest =>
    dsimp only
    by_cases c : x.busy = true
    · rw [if_pos c]
    · rw [if_neg c]
      simp

@[simp] theorem State.traceLog_kNet (s : State) (l : Nat) (t : Option TraceOf) : (State.traceLog s l t).kNet = s.kNet := by
  unfold State.traceLog
  try dsimp only
  (repeat' split) <;> first | rfl | simp

@[simp] theorem State.routeCommit_kNet (s : State) (p : Nat) : (State.routeCommit s p).kNet = s.kNet := by
  unfold State.routeCommit
  try dsimp only
  (repeat' split) <;> first | rfl | simp

@[simp] theorem State.risTake_kNet (s : State) : (State.risTake s).kNet = s.kNet := by
  unfold State.risTake
  try dsimp only
  (repeat' split) <;> first | rfl | simp

@[simp] theorem State.risSlot_kNet (s : State) : (State.risSlot s).kNet = s.kNet := by
  unfold State.risSlot
  try dsimp only
  (repeat' split) <;> first | rfl | simp

@[simp] theorem State.testDone_kNet (s : State) (skipped brk shrt : Nat) : (State.testDone s skipped brk shrt).kNet = s.kNet := by
  unfold State.testDone
  try dsimp only
  (repeat' split) <;> first | rfl | simp

@[simp] theorem State.postFail_kNet (s : State) (p addr size cause path pair seq : Nat) : (State.postFail s p addr size cause path pair seq).kNet = s.kNet := by
  unfold State.postFail
  try dsimp only
  (repeat' split) <;> first | rfl | simp

@[simp] theorem State.ringEvent_kNet (s : State) (n kind data : Nat) : (State.ringEvent s n kind data).kNet = s.kNet := by
  unfold State.ringEvent
  try dsimp only
  (repeat' split) <;> first | rfl | simp

@[simp] theorem State.indexError_kNet (s : State) (n v : Nat) (producer : Bool) : (State.indexError s n v producer).kNet = s.kNet := by
  unfold State.indexError
  try dsimp only
  (repeat' split) <;> first | rfl | simp

@[simp] theorem State.doorbellWrite_kNet (s : State) (p n : Nat) (f : State → State) (h : ∀ s, (f s).kNet = s.kNet) :
    (s.doorbellWrite p n f).kNet = s.kNet := by
  unfold State.doorbellWrite
  split
  · rfl
  · exact h s

@[simp] theorem State.dbProducer_kNet (s : State) (p n v : Nat) : (State.dbProducer s p n v).kNet = s.kNet := by
  unfold State.dbProducer
  try dsimp only
  (repeat' split) <;> first | rfl | simp

@[simp] theorem State.dbConsumer_kNet (s : State) (p n v : Nat) : (State.dbConsumer s p n v).kNet = s.kNet := by
  unfold State.dbConsumer
  try dsimp only
  (repeat' split) <;> first | rfl | simp

@[simp] theorem State.irqAck_kNet (s : State) (p n v : Nat) : (State.irqAck s p n v).kNet = s.kNet := by
  unfold State.irqAck
  try dsimp only
  (repeat' split) <;> first | rfl | simp

@[simp] theorem State.viConsume_kNet (s : State) (p v : Nat) : (State.viConsume s p v).kNet = s.kNet := by
  unfold State.viConsume
  try dsimp only
  (repeat' split) <;> first | rfl | simp

@[simp] theorem State.viOvfAck_kNet (s : State) (p v : Nat) : (State.viOvfAck s p v).kNet = s.kNet := by
  unfold State.viOvfAck
  try dsimp only
  (repeat' split) <;> first | rfl | simp

@[simp] theorem State.eventDeliver_kNet (s : State) : (State.eventDeliver s).kNet = s.kNet := by
  unfold State.eventDeliver
  try dsimp only
  (repeat' split) <;> first | rfl | simp

theorem State.nextFrame_kNet {s t : State} {n : Nat} {bs : List Byte} (h : s.nextFrame n = some (bs, t)) :
    t.kNet = s.kNet := by
  unfold State.nextFrame at h
  split at h
  · simp only [Option.some.injEq, Prod.mk.injEq] at h
    rw [← h.2]; rfl
  · split at h
    · simp only [Option.map_eq_some_iff, Prod.mk.injEq] at h
      obtain ⟨a, _, _, e⟩ := h
      rw [← e]; simp
    · split at h
      · simp only [Option.map_eq_some_iff, Prod.mk.injEq] at h
        obtain ⟨a, _, _, e⟩ := h
        rw [← e]; simp
      · split at h
        · simp only [Option.map_eq_some_iff, Prod.mk.injEq] at h
          obtain ⟨a, _, _, e⟩ := h
          rw [← e]; simp
        · cases h

@[simp] theorem State.moveRx_kNet (s : State) (n : Nat) : (State.moveRx s n).kNet = s.kNet := by
  unfold State.moveRx
  extract_lets r
  split
  · rfl
  · split
    · rfl
    · rename_i e
      split <;> simp [State.nextFrame_kNet e]

@[simp] theorem State.moveTx_kNet (s : State) (n : Nat) : (State.moveTx s n).kNet = s.kNet := by
  unfold State.moveTx
  try dsimp only
  (repeat' split) <;> first | rfl | simp

@[simp] theorem State.ringMove_kNet (s : State) (n : Nat) : (State.ringMove s n).kNet = s.kNet := by
  unfold State.ringMove
  try dsimp only
  (repeat' split) <;> first | rfl | simp

@[simp] theorem State.ringStart_kNet (s : State) (n : Nat) : (State.ringStart s n).kNet = s.kNet := by
  unfold State.ringStart
  try dsimp only
  (repeat' split) <;> first | rfl | simp

@[simp] theorem State.restartBegin_kNet (s : State) (p : Nat) : (State.restartBegin s p).kNet = s.kNet := by
  unfold State.restartBegin
  try dsimp only
  (repeat' split) <;> first | rfl | simp

@[simp] theorem State.resetDone_kNet (s : State) (p : Nat) : (State.resetDone s p).kNet = s.kNet := by
  unfold State.resetDone
  try dsimp only
  (repeat' split) <;> first | rfl | simp

@[simp] theorem State.restarted_kNet (s : State) (p : Nat) (digestOk : Bool) (image : List Byte) : (State.restarted s p digestOk image).kNet = s.kNet := by
  unfold State.restarted
  try dsimp only
  (repeat' split) <;> first | rfl | simp

@[simp] theorem State.pairHalt_kNet (s : State) (k : Nat) : (State.pairHalt s k).kNet = s.kNet := by
  unfold State.pairHalt
  try dsimp only
  (repeat' split) <;> first | rfl | simp

@[simp] theorem State.pairResume_kNet (s : State) (k : Nat) : (State.pairResume s k).kNet = s.kNet := by
  unfold State.pairResume
  try dsimp only
  (repeat' split) <;> first | rfl | simp

@[simp] theorem State.secureIrq_kNet (s : State) (k : Nat) : (State.secureIrq s k).kNet = s.kNet := by
  unfold State.secureIrq
  try dsimp only
  (repeat' split) <;> first | rfl | simp

@[simp] theorem State.supTimeout_kNet (s : State) (serial : Nat) : (State.supTimeout s serial).kNet = s.kNet := by
  unfold State.supTimeout
  try dsimp only
  (repeat' split) <;> first | rfl | simp

@[simp] theorem State.setSlot_kNet (s : State) (n : Nat) (x : PalSlot) : (State.setSlot s n x).kNet = s.kNet := by
  unfold State.setSlot
  try dsimp only
  (repeat' split) <;> first | rfl | simp

@[simp] theorem State.blockArrived_kNet (s : State) : (State.blockArrived s).kNet = s.kNet := by
  unfold State.blockArrived
  try dsimp only
  (repeat' split) <;> first | rfl | simp

@[simp] theorem State.decisionPoint_kNet (s : State) (headOk : Bool) : (State.decisionPoint s headOk).kNet = s.kNet := by
  unfold State.decisionPoint
  try dsimp only
  (repeat' split) <;> first | rfl | simp

@[simp] theorem State.remask_kNet (s : State) : (State.remask s).kNet = s.kNet := by
  unfold State.remask
  try dsimp only
  (repeat' split) <;> first | rfl | simp

@[simp] theorem State.mkaInstall_kNet (s : State) (p an scs : Nat) (xpn : Bool) : (State.mkaInstall s p an scs xpn).kNet = s.kNet := by
  unfold State.mkaInstall
  try dsimp only
  (repeat' split) <;> first | rfl | simp

@[simp] theorem State.armDetector_kNet (s : State) (bit : Nat) : (State.armDetector s bit).kNet = s.kNet := by
  unfold State.armDetector
  try dsimp only
  (repeat' split) <;> first | rfl | simp

@[simp] theorem State.prepFallback_kNet (s : State) : (State.prepFallback s).kNet = s.kNet := by
  unfold State.prepFallback
  try dsimp only
  (repeat' split) <;> first | rfl | simp

@[simp] theorem State.armedCheck_kNet (s : State) : (State.armedCheck s).kNet = s.kNet := by
  unfold State.armedCheck
  try dsimp only
  (repeat' split) <;> first | rfl | simp

@[simp] theorem State.armLines_kNet (s : State) : (State.armLines s).kNet = s.kNet := by
  unfold State.armLines
  try dsimp only
  (repeat' split) <;> first | rfl | simp

@[simp] theorem State.armCan_kNet (s : State) : (State.armCan s).kNet = s.kNet := by
  unfold State.armCan
  try dsimp only
  (repeat' split) <;> first | rfl | simp

@[simp] theorem State.armLin_kNet (s : State) : (State.armLin s).kNet = s.kNet := by
  unfold State.armLin
  try dsimp only
  (repeat' split) <;> first | rfl | simp

@[simp] theorem State.armPorts_kNet (s : State) : (State.armPorts s).kNet = s.kNet := by
  unfold State.armPorts
  try dsimp only
  (repeat' split) <;> first | rfl | simp

@[simp] theorem State.sleepArming_kNet (s : State) : (State.sleepArming s).kNet = s.kNet := by
  unfold State.sleepArming
  try dsimp only
  (repeat' split) <;> first | rfl | simp

@[simp] theorem State.tc10Acked_kNet (s : State) (p : Nat) : (State.tc10Acked s p).kNet = s.kNet := by
  unfold State.tc10Acked
  extract_lets w t
  have h : t.kNet = s.kNet := State.tc10Asleep_kNet _ _
  split
  · rw [State.armedCheck_kNet, State.armDetector_kNet, h]
  · exact h

@[simp] theorem State.tc10Force_kNet (s : State) (p : Nat) : (State.tc10Force s p).kNet = s.kNet := by
  unfold State.tc10Force
  try dsimp only
  (repeat' split) <;> first | rfl | simp

@[simp] theorem State.logFlush_kNet (s : State) : (State.logFlush s).kNet = s.kNet := by
  unfold State.logFlush
  try dsimp only
  (repeat' split) <;> first | rfl | simp

@[simp] theorem State.wkoPulseEnd_kNet (s : State) (n : Nat) : (State.wkoPulseEnd s n).kNet = s.kNet := by
  unfold State.wkoPulseEnd
  try dsimp only
  (repeat' split) <;> first | rfl | simp

@[simp] theorem State.arise_kNet (s : State) (hit : Bool) (f : State → State) (hf : ∀ s, (f s).kNet = s.kNet) :
    (s.arise hit f).kNet = s.kNet := by
  unfold State.arise
  dsimp only
  (repeat' split) <;> simp [hf]

@[simp] theorem State.bridgeRetry_kNet (s : State) : (State.bridgeRetry s).kNet = s.kNet := by
  unfold State.bridgeRetry
  try dsimp only
  (repeat' split) <;> first | rfl | simp

@[simp] theorem State.busWrite_kNet (s : State) (w : BusWrite) : (State.busWrite s w).kNet = s.kNet := by
  unfold State.busWrite
  try dsimp only
  (repeat' split) <;> first | rfl | simp

@[simp] theorem State.busTimeout_kNet (s : State) (w : BusWrite) (crossing : Nat) (isLoad : Bool) : (State.busTimeout s w crossing isLoad).kNet = s.kNet := by
  unfold State.busTimeout
  try dsimp only
  (repeat' split) <;> first | rfl | simp

@[simp] theorem State.holdDrain_kNet (s : State) (crossing : Nat) : (State.holdDrain s crossing).kNet = s.kNet := by
  unfold State.holdDrain
  try dsimp only
  (repeat' split) <;> first | rfl | simp

@[simp] theorem State.cdcOverrun_kNet (s : State) (src : Nat) : (State.cdcOverrun s src).kNet = s.kNet := by
  unfold State.cdcOverrun
  try dsimp only
  (repeat' split) <;> first | rfl | simp

@[simp] theorem State.patrol_kNet (s : State) (dram : Bool) : (State.patrol s dram).kNet = s.kNet := by
  unfold State.patrol
  try dsimp only
  (repeat' split) <;> first | rfl | simp

@[simp] theorem State.eccCorrected_kNet (s : State) (mem addr : Nat) : (State.eccCorrected s mem addr).kNet = s.kNet := by
  unfold State.eccCorrected
  try dsimp only
  (repeat' split) <;> first | rfl | simp

@[simp] theorem State.poisonRead_kNet (s : State) (p addr : Nat) : (State.poisonRead s p addr).kNet = s.kNet := by
  unfold State.poisonRead
  try dsimp only
  (repeat' split) <;> first | rfl | simp

@[simp] theorem State.faultReport_kNet (s : State) : (State.faultReport s).kNet = s.kNet := by
  unfold State.faultReport
  try dsimp only
  (repeat' split) <;> first | rfl | simp

@[simp] theorem State.logTick_kNet (s : State) : (State.logTick s).kNet = s.kNet := by
  unfold State.logTick
  try dsimp only
  (repeat' split) <;> first | rfl | simp

@[simp] theorem State.tamperRetry_kNet (s : State) : (State.tamperRetry s).kNet = s.kNet := by
  unfold State.tamperRetry
  try dsimp only
  (repeat' split) <;> first | rfl | simp

@[simp] theorem State.startLoadDone_kNet (s : State) : (State.startLoadDone s).kNet = s.kNet := by
  unfold State.startLoadDone
  try dsimp only
  (repeat' split) <;> first | rfl | simp

@[simp] theorem State.lowRead_kNet (s : State) (p a : Nat) : (State.lowRead s p a).kNet = s.kNet := by
  unfold State.lowRead
  try dsimp only
  (repeat' split) <;> first | rfl | simp

@[simp] theorem State.windowStore_kNet (s : State) (w : BusWrite) : (State.windowStore s w).kNet = s.kNet := by
  unfold State.windowStore
  try dsimp only
  (repeat' split) <;> first | rfl | simp

end Sys2Proof.Machine
end

