-- ==== Sys2Proof/Laws/ViewPs.lean ====
section
/-!
SUPPORT. Sys2Proof/Laws/ViewPs.lean: the view of the lockstep pairs and, of every partition, all but its interrupt, event, record and traffic counters.
-/

namespace Sys2Proof.Machine

/-- A partition without the counters and tables that events, interrupts and records write. -/
def Part.core (x : Part) : Part :=
  { x with vi := [], viOvf := false, viDiscarded := 0, eventsDiscarded := 0, postedErrors := 0,
           postedOthers := 0, postedDropped := 0, lastPosted := [], dramBytes := 0, supTimeouts := 0 }

/-- The view. -/
structure KPs where
  pairs : Tab Pair
  mPair : Pair
  parts : Nat → Part

def State.kPs (s : State) : KPs := ⟨s.par.pairs, s.par.mPair, fun q => (s.part q).core⟩

@[simp] theorem State.kPs_mk (a0 a1 a2 a3 a4 a5 a6 a7 a8 a9 a10 a11 a12 a13 a14 a15 a16 a17 a18 a19 a20 a21 a22 a23 a24) :
    (State.mk a0 a1 a2 a3 a4 a5 a6 a7 a8 a9 a10 a11 a12 a13 a14 a15 a16 a17 a18 a19 a20 a21 a22 a23 a24).kPs = ⟨a15.pairs, a15.mPair, fun q => (a15.parts.val {} q).core⟩ := rfl

@[simp] theorem State.kPs_eta (s : State) : (⟨s.par.pairs, s.par.mPair, fun q => (s.par.parts.val {} q).core⟩ : KPs) = s.kPs := rfl

theorem State.kPs_ext {s t : State} (h : t.kPs = s.kPs) : (∀ k, t.pair k = s.pair k) ∧ t.par.mPair = s.par.mPair ∧
    ∀ q, (t.part q).core = (s.part q).core := by
  simp only [State.kPs, KPs.mk.injEq] at h
  exact ⟨fun k => by unfold State.pair; rw [h.1], h.2.1, fun q => congrFun h.2.2 q⟩

@[simp] theorem State.setPart_kPs (s : State) (p : Nat) (x : Part) (h : x.core = (s.part p).core) : (s.setPart p x).kPs = s.kPs := by
  simp only [State.kPs, KPs.mk.injEq]
  refine ⟨rfl, rfl, funext fun q => ?_⟩
  by_cases k : q = p
  · subst k; rw [State.setPart_part]; exact h
  · rw [State.setPart_part_ne _ _ _ _ k]

@[simp] theorem State.setRing_kPs (s : State) (n : Nat) (x : Ring) : (s.setRing n x).kPs = s.kPs := rfl

@[simp] theorem State.setStat_kPs (s : State) (n : Nat) (x : CmdStat) : (s.setStat n x).kPs = s.kPs := rfl

@[simp] theorem foldl_kPs {α : Type} (f : State → α → State) (h : ∀ s a, (f s a).kPs = s.kPs) (l : List α) (s : State) :
    (l.foldl f s).kPs = s.kPs := by
  induction l generalizing s with
  | nil => rfl
  | cons a l ih => simp [List.foldl, ih, h]

@[simp] theorem foldl_fst_kPs {α β : Type} (f : State × β → α → State × β) (h : ∀ a x, (f a x).1.kPs = a.1.kPs)
    (l : List α) (a : State × β) : (l.foldl f a).1.kPs = a.1.kPs := by
  induction l generalizing a with
  | nil => rfl
  | cons x l ih => simp [List.foldl, ih, h]

@[simp] theorem onlyIf_kPs (c : Bool) (s t : State) (h : t.kPs = s.kPs) : (onlyIf c s t).kPs = s.kPs := by
  cases c <;> simp [onlyIf, h]

@[simp] theorem State.kPs_ite (c : Prop) [Decidable c] (a b : State) :
    (if c then a else b).kPs = if c then a.kPs else b.kPs := apply_ite _ _ _ _

@[simp] theorem State.kPs_fst_ite {α : Type} (c : Prop) [Decidable c] (a b : State × α) :
    (if c then a else b).1.kPs = if c then a.1.kPs else b.1.kPs := by
  split <;> rfl

end Sys2Proof.Machine
end

