-- ==== Sys2Proof/Laws/KeepPs.lean ====
section
/-!
SUPPORT. Sys2Proof/Laws/KeepPs.lean: the operations that leave the view `State.kPs` alone.
-/

namespace Sys2Proof.Machine

@[simp] theorem State.store_kPs (s : State) (a : Nat) (bs : List Byte) : (State.store s a bs).kPs = s.kPs := by
  unfold State.store
  try dsimp only
  (repeat' split) <;> first | rfl | simp

@[simp] theorem State.deliver_kPs (s : State) (ev : EventRec) (p : Nat) : (State.deliver s ev p).kPs = s.kPs := by
  unfold State.deliver
  split
  · rfl
  · split
    · rfl
    · split
      · exact State.setPart_kPs _ _ _ rfl
      · rfl

@[simp] theorem State.raiseAt_kPs (s : State) (et : Nat) (tos : List Nat) (src kind data : Nat) : (State.raiseAt s et tos src kind data).kPs = s.kPs := by
  unfold State.raiseAt
  try dsimp only
  (repeat' split) <;> first | rfl | simp

@[simp] theorem State.raise_kPs (s : State) (tos : List Nat) (src kind data : Nat) : (State.raise s tos src kind data).kPs = s.kPs := by
  unfold State.raise
  try dsimp only
  (repeat' split) <;> first | rfl | simp

@[simp] theorem State.raiseOnce_kPs (s : State) (tos : List Nat) (src kind data : Nat) : (State.raiseOnce s tos src kind data).kPs = s.kPs := by
  unfold State.raiseOnce
  try dsimp only
  (repeat' split) <;> first | rfl | simp

@[simp] theorem State.raiseVi_kPs (s : State) (n : Nat) : (State.raiseVi s n).kPs = s.kPs := by
  unfold State.raiseVi
  dsimp only
  split
  · exact State.setPart_kPs _ _ _ rfl
  · split
    · exact State.setPart_kPs _ _ _ rfl
    · rw [State.raiseOnce_kPs, State.setRing_kPs]
      exact State.setPart_kPs _ _ _ rfl

@[simp] theorem State.ringIrq_kPs (s : State) (n : Nat) : (State.ringIrq s n).kPs = s.kPs := by
  unfold State.ringIrq
  try dsimp only
  (repeat' split) <;> first | rfl | simp

@[simp] theorem State.chargeDram_kPs (s : State) (n bytes : Nat) : (State.chargeDram s n bytes).kPs = s.kPs := by
  unfold State.chargeDram
  dsimp only
  split
  · exact State.setPart_kPs _ _ _ rfl
  · rfl

@[simp] theorem State.ringPush_kPs (s : State) (n : Nat) (bs : List Byte) : (State.ringPush s n bs).kPs = s.kPs := by
  unfold State.ringPush
  try dsimp only
  (repeat' split) <;> first | rfl | simp

@[simp] theorem State.ringRecord_kPs (s : State) (n et : Nat) (bs : List Byte) : (State.ringRecord s n et bs).kPs = s.kPs := by
  unfold State.ringRecord
  try dsimp only
  (repeat' split) <;> first | rfl | simp

@[simp] theorem State.ringFreed_kPs (s : State) (n : Nat) : (State.ringFreed s n).kPs = s.kPs := by
  unfold State.ringFreed
  try dsimp only
  (repeat' split) <;> first | rfl | simp

@[simp] theorem State.setFltPart_kPs (s : State) (p : Nat) (x : FltPart) : (State.setFltPart s p x).kPs = s.kPs := by
  unfold State.setFltPart
  try dsimp only
  (repeat' split) <;> first | rfl | simp

@[simp] theorem State.logRec_kPs (s : State) (r : LogRec) : (State.logRec s r).kPs = s.kPs := by
  unfold State.logRec
  try dsimp only
  (repeat' split) <;> first | rfl | simp

@[simp] theorem State.makeReport_kPs (s : State) (r : FltReport) : (State.makeReport s r).kPs = s.kPs := by
  unfold State.makeReport
  try dsimp only
  (repeat' split) <;> first | rfl | simp

@[simp] theorem State.nextFault_kPs (s : State) : (State.nextFault s).2.kPs = s.kPs := by
  unfold State.nextFault
  try dsimp only
  (repeat' split) <;> first | rfl | simp

@[simp] theorem State.fault_kPs (s : State) (src cls level part kind data attempts hold : Nat) : (State.fault s src cls level part kind data attempts hold).kPs = s.kPs := by
  unfold State.fault
  try dsimp only
  (repeat' split) <;> first | rfl | simp

@[simp] theorem State.escalate_kPs (s : State) (p level : Nat) : (State.escalate s p level).kPs = s.kPs := by
  unfold State.escalate
  try dsimp only
  (repeat' split) <;> first | rfl | simp

@[simp] theorem State.writeReply_kPs (s : State) (pk : Packet) (status : Nat) (result : List Byte) : (State.writeReply s pk status result).kPs = s.kPs := by
  unfold State.writeReply
  try dsimp only
  (repeat' split) <;> first | rfl | simp

@[simp] theorem State.finalReply_kPs (s : State) (code : Nat) (pk : Packet) (status : Nat) (result : List Byte) : (State.finalReply s code pk status result).kPs = s.kPs := by
  unfold State.finalReply
  try dsimp only
  (repeat' split) <;> first | rfl | simp

@[simp] theorem State.finishAsync_kPs (s : State) (o : Outst) (status : Nat) (result : List Byte) : (State.finishAsync s o status result).kPs = s.kPs := by
  unfold State.finishAsync
  try dsimp only
  (repeat' split) <;> first | rfl | simp

@[simp] theorem State.finishWhere_kPs (s : State) (f : Outst → Bool) (status : Nat) (result : List Byte) : (State.finishWhere s f status result).kPs = s.kPs := by
  unfold State.finishWhere
  try dsimp only
  (repeat' split) <;> first | rfl | simp

@[simp] theorem State.supReport_kPs (s : State) (code : Nat) (pk : Packet) (attempts : Nat) (withdrawn : Bool) : (State.supReport s code pk attempts withdrawn).kPs = s.kPs := by
  unfold State.supReport
  dsimp only
  rw [State.fault_kPs, State.raise_kPs]
  exact State.setPart_kPs _ _ _ rfl

@[simp] theorem State.setChan_kPs (s : State) (i : Nat) (x : Chan) : (State.setChan s i x).kPs = s.kPs := by
  unfold State.setChan
  try dsimp only
  (repeat' split) <;> first | rfl | simp

@[simp] theorem State.setBridge_kPs (s : State) (b : Nat) (x : Bridge) : (State.setBridge s b x).kPs = s.kPs := by
  unfold State.setBridge
  try dsimp only
  (repeat' split) <;> first | rfl | simp

@[simp] theorem State.setProt_kPs (s : State) (i : Nat) (x : Prot) : (State.setProt s i x).kPs = s.kPs := by
  unfold State.setProt
  try dsimp only
  (repeat' split) <;> first | rfl | simp

@[simp] theorem State.setFeed_kPs (s : State) (f : Nat) (x : Feed) : (State.setFeed s f x).kPs = s.kPs := by
  unfold State.setFeed
  try dsimp only
  (repeat' split) <;> first | rfl | simp

@[simp] theorem State.setOutlet_kPs (s : State) (k : Nat) (o : Outlet) : (State.setOutlet s k o).kPs = s.kPs := by
  unfold State.setOutlet
  try dsimp only
  (repeat' split) <;> first | rfl | simp

@[simp] theorem State.refused_kPs (s : State) (k a origin amount : Nat) : (State.refused s k a origin amount).kPs = s.kPs := by
  unfold State.refused
  try dsimp only
  (repeat' split) <;> first | rfl | simp

@[simp] theorem State.markOk_kPs (s : State) (k : Nat) (t : Option Nat) : (State.markOk s k t).kPs = s.kPs := by
  unfold State.markOk
  try dsimp only
  (repeat' split) <;> first | rfl | simp

@[simp] theorem State.outArm_kPs (s : State) (k : Nat) (acct : Option Nat) (pour retry : Bool) : (State.outArm s k acct pour retry).kPs = s.kPs := by
  unfold State.outArm
  try dsimp only
  (repeat' split) <;> first | rfl | simp

@[simp] theorem State.outGo_kPs (s : State) (k : Nat) : (State.outGo s k).kPs = s.kPs := by
  unfold State.outGo
  try dsimp only
  (repeat' split) <;> first | rfl | simp

@[simp] theorem State.outOn_kPs (s : State) (k : Nat) (acct : Option Nat) (pour retry : Bool) : (State.outOn s k acct pour retry).kPs = s.kPs := by
  unfold State.outOn
  try dsimp only
  (repeat' split) <;> first | rfl | simp

@[simp] theorem State.outOff_kPs (s : State) (k : Nat) : (State.outOff s k).kPs = s.kPs := by
  unfold State.outOff
  try dsimp only
  (repeat' split) <;> first | rfl | simp

@[simp] theorem State.outRelease_kPs (s : State) (k : Nat) : (State.outRelease s k).kPs = s.kPs := by
  unfold State.outRelease
  try dsimp only
  (repeat' split) <;> first | rfl | simp

@[simp] theorem State.loadOff_kPs (s : State) (i : Nat) : (State.loadOff s i).kPs = s.kPs := by
  unfold State.loadOff
  try dsimp only
  (repeat' split) <;> first | rfl | simp

@[simp] theorem State.loadOn_kPs (s : State) (i mode duty acct origin : Nat) : (State.loadOn s i mode duty acct origin).1.kPs = s.kPs := by
  unfold State.loadOn
  try dsimp only
  (repeat' split) <;> first | rfl | simp

@[simp] theorem State.restoreOut_kPs (s : State) (k : Nat) : (State.restoreOut s k).kPs = s.kPs := by
  unfold State.restoreOut
  try dsimp only
  (repeat' split) <;> first | rfl | simp

@[simp] theorem State.unstall_kPs (s : State) (b mode : Nat) : (State.unstall s b mode).kPs = s.kPs := by
  unfold State.unstall
  try dsimp only
  (repeat' split) <;> first | rfl | simp

@[simp] theorem State.bridgeOff_kPs (s : State) (b mode : Nat) : (State.bridgeOff s b mode).kPs = s.kPs := by
  unfold State.bridgeOff
  try dsimp only
  (repeat' split) <;> first | rfl | simp

@[simp] theorem State.loadSafe_kPs (s : State) (i : Nat) : (State.loadSafe s i).kPs = s.kPs := by
  unfold State.loadSafe
  try dsimp only
  (repeat' split) <;> first | rfl | simp

@[simp] theorem State.bridgeSafe_kPs (s : State) (b : Nat) : (State.bridgeSafe s b).kPs = s.kPs := by
  unfold State.bridgeSafe
  try dsimp only
  (repeat' split) <;> first | rfl | simp

@[simp] theorem State.risPush_kPs (s : State) (t src et level : Nat) : (State.risPush s t src et level).kPs = s.kPs := by
  unfold State.risPush
  dsimp only
  split
  · rfl
  · split
    · exact State.fault_kPs s _ _ _ _ _ _ _ _
    · split
      · rfl
      · exact State.raiseAt_kPs _ _ _ _ _ _

@[simp] theorem State.triggerWhere_kPs (s : State) (f : Trigger → Bool) (src et level : Nat) : (State.triggerWhere s f src et level).kPs = s.kPs := by
  unfold State.triggerWhere
  try dsimp only
  (repeat' split) <;> first | rfl | simp

@[simp] theorem State.setPg_kPs (s : State) (n : Nat) (x : PulseGen) : (State.setPg s n x).kPs = s.kPs := by
  unfold State.setPg
  try dsimp only
  (repeat' split) <;> first | rfl | simp

@[simp] theorem State.pgIdle_kPs (s : State) (n kind : Nat) : (State.pgIdle s n kind).kPs = s.kPs := by
  unfold State.pgIdle
  try dsimp only
  (repeat' split) <;> first | rfl | simp

@[simp] theorem State.pgStop_kPs (s : State) (n : Nat) : (State.pgStop s n).kPs = s.kPs := by
  unfold State.pgStop
  try dsimp only
  (repeat' split) <;> first | rfl | simp

@[simp] theorem State.setXo_kPs (s : State) (n : Nat) (x : Xo) : (State.setXo s n x).kPs = s.kPs := by
  unfold State.setXo
  try dsimp only
  (repeat' split) <;> first | rfl | simp

@[simp] theorem State.xoSafe_kPs (s : State) (n : Nat) : (State.xoSafe s n).kPs = s.kPs := by
  unfold State.xoSafe
  try dsimp only
  (repeat' split) <;> first | rfl | simp

@[simp] theorem State.ringStop_kPs (s : State) (n : Nat) : (State.ringStop s n).kPs = s.kPs := by
  unfold State.ringStop
  try dsimp only
  (repeat' split) <;> first | rfl | simp

@[simp] theorem State.ringStart_kPs (s : State) (n : Nat) : (State.ringStart s n).kPs = s.kPs := by
  unfold State.ringStart
  try dsimp only
  (repeat' split) <;> first | rfl | simp

@[simp] theorem State.drainCommands_kPs (s : State) (p : Nat) : (State.drainCommands s p).kPs = s.kPs := by
  unfold State.drainCommands
  try dsimp only
  (repeat' split) <;> first | rfl | simp

@[simp] theorem State.partSafe_kPs (s : State) (p : Nat) : (State.partSafe s p).kPs = s.kPs := by
  unfold State.partSafe
  try dsimp only
  (repeat' split) <;> first | rfl | simp

@[simp] theorem State.recsEmpty_kPs (s : State) (p : Nat) : (State.recsEmpty s p).kPs = s.kPs := by
  unfold State.recsEmpty
  try dsimp only
  (repeat' split) <;> first | rfl | simp

end Sys2Proof.Machine
end

