-- ==== Sys2Proof/Laws/ViewSw.lean ====
section
/-!
SUPPORT. Sys2Proof/Laws/ViewSw.lean: the view of everything but the gateway, events, partitions and rings, and the switch.
-/

namespace Sys2Proof.Machine

/-- The view. -/
structure KSw where
  pending : List Instr
  et : Nat
  rtcNs : Nat
  free : Nat
  mem : List Host.Cell
  dev : Dev
  cmd : Cmd
  time : Time
  easel : Easel
  lsw : Lsw
  pwr : Pwr
  dio : Dio
  wake : Wake
  flt : Flt
  prt : Tab Prt
  can : Cans
  fry : Fry
  lin : Lins
  bam : Bam
  upd : Upd

def State.kSw (s : State) : KSw := ⟨s.pending, s.et, s.rtcNs, s.free, s.mem, s.dev, s.cmd, s.time, s.easel, s.lsw, s.pwr, s.dio, s.wake, s.flt, s.prt, s.can, s.fry, s.lin, s.bam, s.upd⟩

@[simp] theorem State.kSw_mk (a0 a1 a2 a3 a4 a5 a6 a7 a8 a9 a10 a11 a12 a13 a14 a15 a16 a17 a18 a19 a20 a21 a22 a23 a24) :
    (State.mk a0 a1 a2 a3 a4 a5 a6 a7 a8 a9 a10 a11 a12 a13 a14 a15 a16 a17 a18 a19 a20 a21 a22 a23 a24).kSw = ⟨a0, a1, a2, a3, a4, a7, a8, a9, a10, a12, a13, a14, a16, a17, a19, a20, a21, a22, a23, a24⟩ := rfl

@[simp] theorem State.kSw_eta (s : State) : (⟨s.pending, s.et, s.rtcNs, s.free, s.mem, s.dev, s.cmd, s.time, s.easel, s.lsw, s.pwr, s.dio, s.wake, s.flt, s.prt, s.can, s.fry, s.lin, s.bam, s.upd⟩ : KSw) = s.kSw := rfl

theorem State.kSw_ext {s t : State} (h : t.kSw = s.kSw) :
    t.pending = s.pending ∧ t.et = s.et ∧ t.rtcNs = s.rtcNs ∧ t.free = s.free ∧ t.mem = s.mem ∧ t.dev = s.dev ∧ t.cmd = s.cmd ∧ t.time = s.time ∧ t.easel = s.easel ∧ t.lsw = s.lsw ∧ t.pwr = s.pwr ∧ t.dio = s.dio ∧ t.wake = s.wake ∧ t.flt = s.flt ∧ t.prt = s.prt ∧ t.can = s.can ∧ t.fry = s.fry ∧ t.lin = s.lin ∧ t.bam = s.bam ∧ t.upd = s.upd := by
  simp only [State.kSw, KSw.mk.injEq] at h
  exact h

@[simp] theorem foldl_kSw {α : Type} (f : State → α → State) (h : ∀ s a, (f s a).kSw = s.kSw) (l : List α) (s : State) :
    (l.foldl f s).kSw = s.kSw := by
  induction l generalizing s with
  | nil => rfl
  | cons a l ih => simp [List.foldl, ih, h]

@[simp] theorem foldl_fst_kSw {α β : Type} (f : State × β → α → State × β) (h : ∀ a x, (f a x).1.kSw = a.1.kSw)
    (l : List α) (a : State × β) : (l.foldl f a).1.kSw = a.1.kSw := by
  induction l generalizing a with
  | nil => rfl
  | cons x l ih => simp [List.foldl, ih, h]

@[simp] theorem onlyIf_kSw (c : Bool) (s t : State) (h : t.kSw = s.kSw) : (onlyIf c s t).kSw = s.kSw := by
  cases c <;> simp [onlyIf, h]

@[simp] theorem State.kSw_ite (c : Prop) [Decidable c] (a b : State) :
    (if c then a else b).kSw = if c then a.kSw else b.kSw := apply_ite _ _ _ _

@[simp] theorem State.kSw_fst_ite {α : Type} (c : Prop) [Decidable c] (a b : State × α) :
    (if c then a else b).1.kSw = if c then a.1.kSw else b.1.kSw := by
  split <;> rfl

end Sys2Proof.Machine
end

