-- ==== Sys2Proof/Laws/KeepSw.lean ====
section
/-!
SUPPORT. Sys2Proof/Laws/KeepSw.lean: the operations that leave the view `State.kSw` alone.
-/

namespace Sys2Proof.Machine

@[simp] theorem State.setPart_kSw (s : State) (p : Nat) (x : Part) : (State.setPart s p x).kSw = s.kSw := by
  unfold State.setPart
  try dsimp only
  (repeat' split) <;> first | rfl | simp

@[simp] theorem State.setRing_kSw (s : State) (n : Nat) (x : Ring) : (State.setRing s n x).kSw = s.kSw := by
  unfold State.setRing
  try dsimp only
  (repeat' split) <;> first | rfl | simp

@[simp] theorem State.deliver_kSw (s : State) (ev : EventRec) (p : Nat) : (State.deliver s ev p).kSw = s.kSw := by
  unfold State.deliver
  try dsimp only
  (repeat' split) <;> first | rfl | simp

@[simp] theorem State.raiseAt_kSw (s : State) (et : Nat) (tos : List Nat) (src kind data : Nat) : (State.raiseAt s et tos src kind data).kSw = s.kSw := by
  unfold State.raiseAt
  try dsimp only
  (repeat' split) <;> first | rfl | simp

@[simp] theorem State.raise_kSw (s : State) (tos : List Nat) (src kind data : Nat) : (State.raise s tos src kind data).kSw = s.kSw := by
  unfold State.raise
  try dsimp only
  (repeat' split) <;> first | rfl | simp

@[simp] theorem State.ringDiscard_kSw (s : State) (n : Nat) : (State.ringDiscard s n).kSw = s.kSw := by
  unfold State.ringDiscard
  try dsimp only
  (repeat' split) <;> first | rfl | simp

@[simp] theorem State.setSwPort_kSw (s : State) (p : Nat) (x : SwPort) : (State.setSwPort s p x).kSw = s.kSw := by
  unfold State.setSwPort
  try dsimp only
  (repeat' split) <;> first | rfl | simp

@[simp] theorem State.onPort_kSw (s : State) (p : Nat) (f : SwPort → SwPort) : (State.onPort s p f).kSw = s.kSw := by
  unfold State.onPort
  try dsimp only
  (repeat' split) <;> first | rfl | simp

@[simp] theorem State.dropCopy_kSw (s : State) (id : Nat) : (State.dropCopy s id).kSw = s.kSw := by
  unfold State.dropCopy
  try dsimp only
  (repeat' split) <;> first | rfl | simp

@[simp] theorem State.touch_kSw (s : State) (p : Nat) : (State.touch s p).kSw = s.kSw := by
  unfold State.touch
  try dsimp only
  (repeat' split) <;> first | rfl | simp

@[simp] theorem State.setFdb_kSw (s : State) (i : Nat) (e : FdbEnt) : (State.setFdb s i e).kSw = s.kSw := by
  unfold State.setFdb
  try dsimp only
  (repeat' split) <;> first | rfl | simp

@[simp] theorem State.learn_kSw (s : State) (p mac fid : Nat) : (State.learn s p mac fid).kSw = s.kSw := by
  unfold State.learn
  try dsimp only
  (repeat' split) <;> first | rfl | simp

@[simp] theorem State.rxDiscard_kSw (s : State) (p : Nat) : (State.rxDiscard s p).kSw = s.kSw := by
  unfold State.rxDiscard
  try dsimp only
  (repeat' split) <;> first | rfl | simp

@[simp] theorem State.spoilFrame_kSw (s : State) (p id : Nat) : (State.spoilFrame s p id).kSw = s.kSw := by
  unfold State.spoilFrame
  refine (foldl_kSw _ ?_ _ _).trans ?_
  · intro s q
    dsimp only
    (repeat' split) <;> simp
  · split <;> simp

@[simp] theorem State.gwStore_kSw (s : State) (q : Nat) (b : FrameBuf) : (State.gwStore s q b).kSw = s.kSw := by
  unfold State.gwStore
  try dsimp only
  (repeat' split) <;> first | rfl | simp

@[simp] theorem State.deliverIn_kSw (s : State) (q : Nat) (b : FrameBuf) (t : SwTx) : (State.deliverIn s q b t).kSw = s.kSw := by
  unfold State.deliverIn
  try dsimp only
  (repeat' split) <;> first | rfl | simp

@[simp] theorem State.txDone_kSw (s : State) (p : Nat) : (State.txDone s p).kSw = s.kSw := by
  unfold State.txDone
  try dsimp only
  (repeat' split) <;> first | rfl | simp

@[simp] theorem State.sendCopy_kSw (s : State) (p c : Nat) (copy : Copy) (b : FrameBuf) (x : SwPort) : (State.sendCopy s p c copy b x).kSw = s.kSw := by
  unfold State.sendCopy
  extract_lets v tg rt ln t pn y t1 t2 t3
  have h1 : t1.kSw = s.kSw := State.setSwPort_kSw _ _ _
  have h2 : t2.kSw = s.kSw := by
    show (if _ then _ else _ : State).kSw = _
    split
    · exact (State.raise_kSw _ _ _ _ _).trans h1
    · exact h1
  have h3 : t3.kSw = s.kSw := by
    show (if _ then _ else _ : State).kSw = _
    split
    · exact (State.raise_kSw _ _ _ _ _).trans h2
    · exact h2
  split
  · exact (State.deliverIn_kSw _ _ _ _).trans h3
  · exact h3

@[simp] theorem State.selectTx_kSw (n : Nat) (s : State) (p : Nat) : (State.selectTx n s p).kSw = s.kSw := by
  induction n generalizing s with
  | zero => rfl
  | succ n ih =>
    unfold State.selectTx
    split
    · rfl
    · extract_lets x k
      split
      · rfl
      · extract_lets y
        split
        · rw [ih, State.dropCopy_kSw, State.setSwPort_kSw]
        · split
          · rfl
          · exact State.sendCopy_kSw _ _ _ _ _ _

@[simp] theorem State.transmissionSelect_kSw (s : State) (p : Nat) : (State.transmissionSelect s p).kSw = s.kSw := by
  unfold State.transmissionSelect
  extract_lets w t
  split
  · rfl
  · split
    · exact State.txDone_kSw s p
    · exact (State.selectTx_kSw _ _ _).trans (State.txDone_kSw s p)

@[simp] theorem State.fdbAgeing_kSw (s : State) (mac fid : Nat) : (State.fdbAgeing s mac fid).kSw = s.kSw := by
  unfold State.fdbAgeing
  try dsimp only
  (repeat' split) <;> first | rfl | simp

@[simp] theorem State.cbTimeout_kSw (s : State) (i : Nat) : (State.cbTimeout s i).kSw = s.kSw := by
  unfold State.cbTimeout
  try dsimp only
  (repeat' split) <;> first | rfl | simp

end Sys2Proof.Machine
end

