-- ==== Sys2Proof/Laws/Packet.lean ====
section
/-!
SUPPORT. Sys2Proof/Laws/Packet.lean: what a row that delivers a packet comes to, step by step: the meaning is `State.command`, a
packet with a good frame and credential is processed, one that is accepted is dispatched, and what a final reply leaves.
-/

namespace Sys2Proof.Machine

/-- The meaning of every packet row. -/
theorem exec_packet {i : Instr} {o : OpSpec} {pk : Packet} (s : State) (h : i.packetRow = some (o, pk)) :
    exec i s = .next (s.command o pk) := by
  cases i <;> simp only [Instr.packetRow, Option.some.injEq, Prod.mk.injEq, reduceCtorEq] at h <;> (obtain ⟨rfl, rfl⟩ := h; rfl)

/-- A packet that is taken with a good frame and credential meets the checks from the third on. -/
theorem command_open {s : State} {o : OpSpec} {pk : Packet} (a : s.takes o pk = true) (b : s.slotBad pk = false) (c : lenOk pk = true)
    (d : s.credOk o pk = true) : s.command o pk = (s.ready pk).process o (cutBlock pk) := by
  unfold State.command
  simp only [a, b, c, Bool.not_true, Bool.false_eq_true, if_false]
  unfold State.ready State.credOk at *
  cases k : pk.src with
  | ring p => simp [k]
  | mp =>
    simp only [k, Bool.and_eq_true, beq_iff_eq] at d ⊢
    have e1 := (State.taken_cmd s pk).2.2.2.2
    unfold State.fromMp
    have q : (cutBlock pk).part = pk.part := rfl
    have q2 : (cutBlock pk).seq = pk.seq := rfl
    have q3 : (cutBlock pk).cred = pk.cred := rfl
    simp only [e1, q, q2, q3, d.1.1, d.1.2, d.2]
    simp

theorem command_valid {s : State} {o : OpSpec} {pk : Packet} (h : s.valid o pk) :
    s.command o pk = (s.ready pk).process o (cutBlock pk) := command_open h.1 h.2.1 h.2.2.1 h.2.2.2.1

/-- Taking a packet leaves the command queues alone. -/
theorem ready_cmd (s : State) (pk : Packet) : (s.ready pk).cmd.queues = s.cmd.queues ∧ (s.ready pk).cmd.async = s.cmd.async ∧
    (s.ready pk).cmd.held = s.cmd.held ∧ (s.ready pk).cmd.replies = s.cmd.replies := by
  obtain ⟨a, b, c, d, e⟩ := State.taken_cmd s pk
  unfold State.ready
  split
  · exact ⟨a, b, c, d⟩
  · exact ⟨a, b, c, d⟩

/-- A reply to a ring writes memory in the next slot of its reply ring only. -/
theorem writeReply_outside (s : State) (pk : Packet) (c : Nat) (r : List Byte) {p a : Nat} (h : pk.src = .ring p)
    (ha : a < (s.ring (2 * p + 1)).nextSlot ∨ (s.ring (2 * p + 1)).nextSlot + 24 + r.length ≤ a) :
    memGet (s.writeReply pk c r).mem a = memGet s.mem a := by
  unfold State.writeReply
  simp only [h]
  split
  · rw [State.ringPush_mem]
    split
    · rfl
    · refine (memGet_memWrite_outside _ s.mem (s.ring (2 * p + 1)).nextSlot a ?_)
      simp only [Reply.bytes, List.length_append, length_leBytes]
      omega
  · rfl

/-- An accepted packet is dispatched, and nothing keeps it. -/
theorem process_valid {s : State} {o : OpSpec} {pk : Packet} (h : s.accepts o pk) :
    s.command o pk = (s.ready pk).dispatch o (cutBlock pk) ∧ (s.ready pk).mustWait o (cutBlock pk) (s.ready pk).cmd.held = false := by
  obtain ⟨v, c, w⟩ := h
  have hh : (s.ready pk).cmd.held = s.cmd.held := by
    unfold State.ready
    split
    · exact (State.taken_cmd s pk).2.2.1
    · exact (State.taken_cmd s pk).2.2.1
  rw [command_valid v, hh]
  refine ⟨?_, w⟩
  unfold State.process
  have e := v.2.2.2.2
  have k : isCheckOnly (cutBlock pk) = false := c
  simp [e, k, stOk]

/-- A final reply that QUIET does not withhold is the newest reply. -/
theorem finalReply_answered (s : State) (code : Nat) (pk : Packet) (c : Nat) (r : List Byte) (h : isQuiet pk = false ∨ c ≠ stOk) :
    (s.finalReply code pk c r).answered pk c r := by
  unfold State.finalReply
  dsimp only
  have : (isQuiet pk && c == stOk) = false := by
    rcases h with h | h
    · simp [h]
    · simp [h]
  rw [this]
  simp only [Bool.false_eq_true, if_false]
  refine ⟨_, _, State.writeReply_replies _ _ _ _, rfl, rfl, rfl, rfl, rfl⟩

/-- A final reply leaves the queues, the held and the outstanding commands alone. -/
theorem finalReply_rest (s : State) (code : Nat) (pk : Packet) (c : Nat) (r : List Byte) :
    (s.finalReply code pk c r).cmd.queues = s.cmd.queues ∧ (s.finalReply code pk c r).cmd.held = s.cmd.held ∧ (s.finalReply code pk c r).cmd.async = s.cmd.async := by
  unfold State.finalReply
  dsimp only
  have : ∀ u : State, u = (match pk.src with
    | .ring p =>
      if c == stOk then s
      else s.setStat p { s.stat p with error := wrap32 (s.stat p).error, lastStatus := c, lastOpcode := code }
    | .mp => s) → u.cmd.queues = s.cmd.queues ∧ u.cmd.held = s.cmd.held ∧ u.cmd.async = s.cmd.async := by
    rintro u rfl
    split
    · split
      · exact ⟨rfl, rfl, rfl⟩
      · exact ⟨rfl, rfl, rfl⟩
    · exact ⟨rfl, rfl, rfl⟩
  have := this _ rfl
  split
  · exact this
  · simp only [State.writeReply_cmd]; exact this

end Sys2Proof.Machine
end

