-- ==== Sys2Proof/Laws/PerInstr.lean ====
section
/-!
SUPPORT. Sys2Proof/Laws/PerInstr.lean: per command, the opcode of a packet row is the one that intake finds under its code.
-/

namespace Sys2Proof.Laws.OpcodeKnown

open Sys2Proof.Machine

/-- The opcode of a row that carries a packet is the one the intake of the command path finds under the row's code (R48, R57). -/
def Statement (i : Instr) : Prop := ∀ o pk, i.packetRow = some (o, pk) → specOf o.code = some o

theorem nop (pk : Packet) : Statement (.nop pk) := by
  intro o p e; cases e; rfl

theorem identify (pk : Packet) : Statement (.identify pk) := by
  intro o p e; cases e; rfl

theorem getState (pk : Packet) : Statement (.getState pk) := by
  intro o p e; cases e; rfl

theorem reset (pk : Packet) : Statement (.reset pk) := by
  intro o p e; cases e; rfl

theorem arm (pk : Packet) : Statement (.arm pk) := by
  intro o p e; cases e; rfl

theorem disarm (pk : Packet) : Statement (.disarm pk) := by
  intro o p e; cases e; rfl

theorem timeGetStatus (pk : Packet) : Statement (.timeGetStatus pk) := by
  intro o p e; cases e; rfl

theorem timeSetSources (pk : Packet) : Statement (.timeSetSources pk) := by
  intro o p e; cases e; rfl

theorem timeSetHoldover (pk : Packet) : Statement (.timeSetHoldover pk) := by
  intro o p e; cases e; rfl

theorem pgConfig (pk : Packet) : Statement (.pgConfig pk) := by
  intro o p e; cases e; rfl

theorem pgStart (pk : Packet) : Statement (.pgStart pk) := by
  intro o p e; cases e; rfl

theorem pgStop (pk : Packet) : Statement (.pgStop pk) := by
  intro o p e; cases e; rfl

theorem easelGetStatus (pk : Packet) : Statement (.easelGetStatus pk) := by
  intro o p e; cases e; rfl

theorem paletteLoad (pk : Packet) : Statement (.paletteLoad pk) := by
  intro o p e; cases e; rfl

theorem paletteSwitch (pk : Packet) : Statement (.paletteSwitch pk) := by
  intro o p e; cases e; rfl

theorem paletteUnload (pk : Packet) : Statement (.paletteUnload pk) := by
  intro o p e; cases e; rfl

theorem easelGetOverruns (pk : Packet) : Statement (.easelGetOverruns pk) := by
  intro o p e; cases e; rfl

theorem easelClearCounters (pk : Packet) : Statement (.easelClearCounters pk) := by
  intro o p e; cases e; rfl

theorem gwGetStatus (pk : Packet) : Statement (.gwGetStatus pk) := by
  intro o p e; cases e; rfl

theorem gwRouteRead (pk : Packet) : Statement (.gwRouteRead pk) := by
  intro o p e; cases e; rfl

theorem gwSignalRead (pk : Packet) : Statement (.gwSignalRead pk) := by
  intro o p e; cases e; rfl

theorem gwSignalForce (pk : Packet) : Statement (.gwSignalForce pk) := by
  intro o p e; cases e; rfl

theorem gwWakeRouteSet (pk : Packet) : Statement (.gwWakeRouteSet pk) := by
  intro o p e; cases e; rfl

theorem lswSet (pk : Packet) : Statement (.lswSet pk) := by
  intro o p e; cases e; rfl

theorem lswSetPwm (pk : Packet) : Statement (.lswSetPwm pk) := by
  intro o p e; cases e; rfl

theorem lswConfig (pk : Packet) : Statement (.lswConfig pk) := by
  intro o p e; cases e; rfl

theorem lswGetStatus (pk : Packet) : Statement (.lswGetStatus pk) := by
  intro o p e; cases e; rfl

theorem lswClearOcLatch (pk : Packet) : Statement (.lswClearOcLatch pk) := by
  intro o p e; cases e; rfl

theorem lswClearThermalLatch (pk : Packet) : Statement (.lswClearThermalLatch pk) := by
  intro o p e; cases e; rfl

theorem lswIsmSelect (pk : Packet) : Statement (.lswIsmSelect pk) := by
  intro o p e; cases e; rfl

theorem mbrConfig (pk : Packet) : Statement (.mbrConfig pk) := by
  intro o p e; cases e; rfl

theorem mbrDrive (pk : Packet) : Statement (.mbrDrive pk) := by
  intro o p e; cases e; rfl

theorem mbrBrake (pk : Packet) : Statement (.mbrBrake pk) := by
  intro o p e; cases e; rfl

theorem mbrGetStatus (pk : Packet) : Statement (.mbrGetStatus pk) := by
  intro o p e; cases e; rfl

theorem pwrGetStatus (pk : Packet) : Statement (.pwrGetStatus pk) := by
  intro o p e; cases e; rfl

theorem pwrGetThermal (pk : Packet) : Statement (.pwrGetThermal pk) := by
  intro o p e; cases e; rfl

theorem pwrSetSagThreshold (pk : Packet) : Statement (.pwrSetSagThreshold pk) := by
  intro o p e; cases e; rfl

theorem pwrUnlatchUv (pk : Packet) : Statement (.pwrUnlatchUv pk) := by
  intro o p e; cases e; rfl

theorem pwrGetLedger (pk : Packet) : Statement (.pwrGetLedger pk) := by
  intro o p e; cases e; rfl

theorem swcGetCounters (pk : Packet) : Statement (.swcGetCounters pk) := by
  intro o p e; cases e; rfl

theorem swcFdbRead (pk : Packet) : Statement (.swcFdbRead pk) := by
  intro o p e; cases e; rfl

theorem swcFdbWrite (pk : Packet) : Statement (.swcFdbWrite pk) := by
  intro o p e; cases e; rfl

theorem swcFdbFlush (pk : Packet) : Statement (.swcFdbFlush pk) := by
  intro o p e; cases e; rfl

theorem swcClearCounters (pk : Packet) : Statement (.swcClearCounters pk) := by
  intro o p e; cases e; rfl

theorem prtGetStatus (pk : Packet) : Statement (.prtGetStatus pk) := by
  intro o p e; cases e; rfl

theorem prtEnable (pk : Packet) : Statement (.prtEnable pk) := by
  intro o p e; cases e; rfl

theorem prtDisable (pk : Packet) : Statement (.prtDisable pk) := by
  intro o p e; cases e; rfl

theorem prtCableDiag (pk : Packet) : Statement (.prtCableDiag pk) := by
  intro o p e; cases e; rfl

theorem prtTc10Sleep (pk : Packet) : Statement (.prtTc10Sleep pk) := by
  intro o p e; cases e; rfl

theorem canGetStatus (pk : Packet) : Statement (.canGetStatus pk) := by
  intro o p e; cases e; rfl

theorem canTx (pk : Packet) : Statement (.canTx pk) := by
  intro o p e; cases e; rfl

theorem canTxCancel (pk : Packet) : Statement (.canTxCancel pk) := by
  intro o p e; cases e; rfl

theorem canSetFilter (pk : Packet) : Statement (.canSetFilter pk) := by
  intro o p e; cases e; rfl

theorem canSetWake (pk : Packet) : Statement (.canSetWake pk) := by
  intro o p e; cases e; rfl

theorem canRecover (pk : Packet) : Statement (.canRecover pk) := by
  intro o p e; cases e; rfl

theorem fryGetStatus (pk : Packet) : Statement (.fryGetStatus pk) := by
  intro o p e; cases e; rfl

theorem fryStart (pk : Packet) : Statement (.fryStart pk) := by
  intro o p e; cases e; rfl

theorem fryHalt (pk : Packet) : Statement (.fryHalt pk) := by
  intro o p e; cases e; rfl

theorem fryBranchEnable (pk : Packet) : Statement (.fryBranchEnable pk) := by
  intro o p e; cases e; rfl

theorem linGetStatus (pk : Packet) : Statement (.linGetStatus pk) := by
  intro o p e; cases e; rfl

theorem linTx (pk : Packet) : Statement (.linTx pk) := by
  intro o p e; cases e; rfl

theorem linWakePulse (pk : Packet) : Statement (.linWakePulse pk) := by
  intro o p e; cases e; rfl

theorem linGotoSleep (pk : Packet) : Statement (.linGotoSleep pk) := by
  intro o p e; cases e; rfl

theorem dioGetInputs (pk : Packet) : Statement (.dioGetInputs pk) := by
  intro o p e; cases e; rfl

theorem dioConfig (pk : Packet) : Statement (.dioConfig pk) := by
  intro o p e; cases e; rfl

theorem dioSetXo (pk : Packet) : Statement (.dioSetXo pk) := by
  intro o p e; cases e; rfl

theorem dioWirebreakTest (pk : Packet) : Statement (.dioWirebreakTest pk) := by
  intro o p e; cases e; rfl

theorem partGetStatus (pk : Packet) : Statement (.partGetStatus pk) := by
  intro o p e; cases e; rfl

theorem partReset (pk : Packet) : Statement (.partReset pk) := by
  intro o p e; cases e; rfl

theorem partRestart (pk : Packet) : Statement (.partRestart pk) := by
  intro o p e; cases e; rfl

theorem ringGetStatus (pk : Packet) : Statement (.ringGetStatus pk) := by
  intro o p e; cases e; rfl

theorem ringReset (pk : Packet) : Statement (.ringReset pk) := by
  intro o p e; cases e; rfl

theorem partReadPostedErrors (pk : Packet) : Statement (.partReadPostedErrors pk) := by
  intro o p e; cases e; rfl

theorem bamGetStatus (pk : Packet) : Statement (.bamGetStatus pk) := by
  intro o p e; cases e; rfl

theorem bamSessionOpen (pk : Packet) : Statement (.bamSessionOpen pk) := by
  intro o p e; cases e; rfl

theorem bamKeyInstall (pk : Packet) : Statement (.bamKeyInstall pk) := by
  intro o p e; cases e; rfl

theorem bamSign (pk : Packet) : Statement (.bamSign pk) := by
  intro o p e; cases e; rfl

theorem bamVerify (pk : Packet) : Statement (.bamVerify pk) := by
  intro o p e; cases e; rfl

theorem bamRandom (pk : Packet) : Statement (.bamRandom pk) := by
  intro o p e; cases e; rfl

theorem bamLifecycleSet (pk : Packet) : Statement (.bamLifecycleSet pk) := by
  intro o p e; cases e; rfl

theorem bamTamperPolicy (pk : Packet) : Statement (.bamTamperPolicy pk) := by
  intro o p e; cases e; rfl

theorem updGetStatus (pk : Packet) : Statement (.updGetStatus pk) := by
  intro o p e; cases e; rfl

theorem updBegin (pk : Packet) : Statement (.updBegin pk) := by
  intro o p e; cases e; rfl

theorem updChunk (pk : Packet) : Statement (.updChunk pk) := by
  intro o p e; cases e; rfl

theorem updActivate (pk : Packet) : Statement (.updActivate pk) := by
  intro o p e; cases e; rfl

theorem updVarnish (pk : Packet) : Statement (.updVarnish pk) := by
  intro o p e; cases e; rfl

theorem updAbort (pk : Packet) : Statement (.updAbort pk) := by
  intro o p e; cases e; rfl

theorem wakeGetSource (pk : Packet) : Statement (.wakeGetSource pk) := by
  intro o p e; cases e; rfl

theorem sleepRequest (pk : Packet) : Statement (.sleepRequest pk) := by
  intro o p e; cases e; rfl

theorem wakeConfig (pk : Packet) : Statement (.wakeConfig pk) := by
  intro o p e; cases e; rfl

theorem wakeClearSource (pk : Packet) : Statement (.wakeClearSource pk) := by
  intro o p e; cases e; rfl

theorem fltGetStatus (pk : Packet) : Statement (.fltGetStatus pk) := by
  intro o p e; cases e; rfl

theorem fltReadLog (pk : Packet) : Statement (.fltReadLog pk) := by
  intro o p e; cases e; rfl

theorem fltClear (pk : Packet) : Statement (.fltClear pk) := by
  intro o p e; cases e; rfl

theorem fltInject (pk : Packet) : Statement (.fltInject pk) := by
  intro o p e; cases e; rfl

theorem dbProducer (p : Nat) (ring : Nat) (v : Nat) : Statement (.dbProducer p ring v) := by
  intro o p e; cases e

theorem dbConsumer (p : Nat) (ring : Nat) (v : Nat) : Statement (.dbConsumer p ring v) := by
  intro o p e; cases e

theorem irqAck (p : Nat) (ring : Nat) (v : Nat) : Statement (.irqAck p ring v) := by
  intro o p e; cases e

theorem viConsume (p : Nat) (v : Nat) : Statement (.viConsume p v) := by
  intro o p e; cases e

theorem viOvfAck (p : Nat) (v : Nat) : Statement (.viOvfAck p v) := by
  intro o p e; cases e

theorem lowWordRead (p : Nat) (a : Nat) : Statement (.lowWordRead p a) := by
  intro o p e; cases e

theorem statusWindowStore (w : BusWrite) : Statement (.statusWindowStore w) := by
  intro o p e; cases e

theorem route (h : StrokeHd) (pipe : Nat) (first : Nat) (count : Nat) : Statement (.route h pipe first count) := by
  intro o p e; cases e

theorem routeExecution (pipe : Nat) : Statement (.routeExecution pipe) := by
  intro o p e; cases e

theorem routeCommit (pipe : Nat) : Statement (.routeCommit pipe) := by
  intro o p e; cases e

theorem inputLatch (h : StrokeHd) (group : Nat) : Statement (.inputLatch h group) := by
  intro o p e; cases e

theorem loadSet (h : StrokeHd) (ch : Nat) (mode : Nat) (duty : Nat) (period : Nat) : Statement (.loadSet h ch mode duty period) := by
  intro o p e; cases e

theorem loadApply (h : StrokeHd) (ch : Nat) (ageLimit : Nat) (fallback : Nat) : Statement (.loadApply h ch ageLimit fallback) := by
  intro o p e; cases e

theorem bridgeSet (h : StrokeHd) (br : Nat) (mode : Nat) (duty : Nat) (period : Nat) : Statement (.bridgeSet h br mode duty period) := by
  intro o p e; cases e

theorem bridgeApply (h : StrokeHd) (br : Nat) (ageLimit : Nat) (fallback : Nat) : Statement (.bridgeApply h br ageLimit fallback) := by
  intro o p e; cases e

theorem xoSet (h : StrokeHd) (xo : Nat) (level : Nat) : Statement (.xoSet h xo level) := by
  intro o p e; cases e

theorem pgTrigger (h : StrokeHd) (pg : Nat) (delay : Nat) : Statement (.pgTrigger h pg delay) := by
  intro o p e; cases e

theorem gateSet (h : StrokeHd) (port : Nat) (gates : Nat) : Statement (.gateSet h port gates) := by
  intro o p e; cases e

theorem canRelease (h : StrokeHd) (ch : Nat) (entry : Nat) : Statement (.canRelease h ch entry) := by
  intro o p e; cases e

theorem fryCommit (h : StrokeHd) (cl : Nat) (slot : Nat) (cycle : Nat) (chans : Nat) : Statement (.fryCommit h cl slot cycle chans) := by
  intro o p e; cases e

theorem linRelease (h : StrokeHd) (ch : Nat) (entry : Nat) : Statement (.linRelease h ch entry) := by
  intro o p e; cases e

theorem window (h : StrokeHd) (pair : Nat) (part : Nat) (switchNs : Nat) : Statement (.window h pair part switchNs) := by
  intro o p e; cases e

theorem pfRoute (h : StrokeHd) (first : Nat) (count : Nat) : Statement (.pfRoute h first count) := by
  intro o p e; cases e

theorem pfStroke (h : StrokeHd) (first : Nat) (count : Nat) : Statement (.pfStroke h first count) := by
  intro o p e; cases e

theorem openStroke (h : StrokeHd) (cls : Nat) (count : Nat) : Statement (.openStroke h cls count) := by
  intro o p e; cases e

theorem strokeOverrun (h : StrokeHd) (st : Stroke) : Statement (.strokeOverrun h st) := by
  intro o p e; cases e

theorem strokeBlockArrived : Statement .strokeBlockArrived := by
  intro o p e; cases e

theorem ristrettoSlot : Statement .ristrettoSlot := by
  intro o p e; cases e

theorem ristrettoExecute : Statement .ristrettoExecute := by
  intro o p e; cases e

theorem canvasBoundary : Statement .canvasBoundary := by
  intro o p e; cases e

theorem decisionPoint (headOk : Bool) : Statement (.decisionPoint headOk) := by
  intro o p e; cases e

theorem paletteLoaded (code : Nat) (detail : Nat) : Statement (.paletteLoaded code detail) := by
  intro o p e; cases e

theorem gptpSyncReceived (dom : Nat) (phaseErr : Int) (ratePpb : Int) (gm : Nat) : Statement (.gptpSyncReceived dom phaseErr ratePpb gm) := by
  intro o p e; cases e

theorem ppsEdge (phaseErr : Int) (spacing : Nat) (width : Nat) : Statement (.ppsEdge phaseErr spacing width) := by
  intro o p e; cases e

theorem syncReceiptTimeout (dom : Nat) : Statement (.syncReceiptTimeout dom) := by
  intro o p e; cases e

theorem ppsTimeout : Statement .ppsTimeout := by
  intro o p e; cases e

theorem revertHoldoffExpiry (src : Nat) : Statement (.revertHoldoffExpiry src) := by
  intro o p e; cases e

theorem holdoverExpired : Statement .holdoverExpired := by
  intro o p e; cases e

theorem timeWaitTimeout : Statement .timeWaitTimeout := by
  intro o p e; cases e

theorem rtcWrite : Statement .rtcWrite := by
  intro o p e; cases e

theorem pgEdge (pg : Nat) : Statement (.pgEdge pg) := by
  intro o p e; cases e

theorem ocTrip (ch : Nat) (current : Nat) : Statement (.ocTrip ch current) := by
  intro o p e; cases e

theorem ocPauseElapsed (ch : Nat) : Statement (.ocPauseElapsed ch) := by
  intro o p e; cases e

theorem ocRetry (ch : Nat) : Statement (.ocRetry ch) := by
  intro o p e; cases e

theorem ocRecovered (ch : Nat) : Statement (.ocRecovered ch) := by
  intro o p e; cases e

theorem pourStepEnd (ch : Nat) : Statement (.pourStepEnd ch) := by
  intro o p e; cases e

theorem thermalShutdown (ch : Nat) (tj : Int) (dt : Int) : Statement (.thermalShutdown ch tj dt) := by
  intro o p e; cases e

theorem thermalRestart (ch : Nat) (tj : Int) (dt : Int) : Statement (.thermalRestart ch tj dt) := by
  intro o p e; cases e

theorem cooldownOverrun (ch : Nat) : Statement (.cooldownOverrun ch) := by
  intro o p e; cases e

theorem pwmPeriodStart (ch : Nat) : Statement (.pwmPeriodStart ch) := by
  intro o p e; cases e

theorem senseMillisecond (ch : Nat) (m : SenseMs) : Statement (.senseMillisecond ch m) := by
  intro o p e; cases e

theorem openLoad (ch : Nat) : Statement (.openLoad ch) := by
  intro o p e; cases e

theorem openLoadCleared (ch : Nat) : Statement (.openLoadCleared ch) := by
  intro o p e; cases e

theorem stall (br : Nat) : Statement (.stall br) := by
  intro o p e; cases e

theorem xcondFault (br : Nat) (leg : Nat) (side : Nat) : Statement (.xcondFault br leg side) := by
  intro o p e; cases e

theorem shedResume (feed : Nat) : Statement (.shedResume feed) := by
  intro o p e; cases e

theorem sagEnter (feed : Nat) (v : Nat) : Statement (.sagEnter feed v) := by
  intro o p e; cases e

theorem sagExit (feed : Nat) (v : Nat) : Statement (.sagExit feed v) := by
  intro o p e; cases e

theorem crankStart (v : Nat) : Statement (.crankStart v) := by
  intro o p e; cases e

theorem crankEnd (v : Nat) : Statement (.crankEnd v) := by
  intro o p e; cases e

theorem uvLatch (feed : Nat) (mv : Nat) : Statement (.uvLatch feed mv) := by
  intro o p e; cases e

theorem overvoltage (feed : Nat) (v : Nat) : Statement (.overvoltage feed v) := by
  intro o p e; cases e

theorem overvoltageEnd (feed : Nat) (v : Nat) : Statement (.overvoltageEnd feed v) := by
  intro o p e; cases e

theorem overload (feed : Nat) (amps : Nat) : Statement (.overload feed amps) := by
  intro o p e; cases e

theorem overloadClass2Shed (feed : Nat) (amps : Nat) : Statement (.overloadClass2Shed feed amps) := by
  intro o p e; cases e

theorem overloadEnd (feed : Nat) (amps : Nat) : Statement (.overloadEnd feed amps) := by
  intro o p e; cases e

theorem standbyEntry (mv : Nat) : Statement (.standbyEntry mv) := by
  intro o p e; cases e

theorem powerOff (mv : Nat) : Statement (.powerOff mv) := by
  intro o p e; cases e

theorem powerOn (mv : Nat) (straps : Nat) : Statement (.powerOn mv straps) := by
  intro o p e; cases e

theorem thermalModelEval (psw : Nat) (railMw : Nat) (tcp : Int) (tjc : Int) : Statement (.thermalModelEval psw railMw tcp tjc) := by
  intro o p e; cases e

theorem deratingStepFall : Statement .deratingStepFall := by
  intro o p e; cases e

theorem deratingStep3Entry : Statement .deratingStep3Entry := by
  intro o p e; cases e

theorem railFault (rail : Nat) : Statement (.railFault rail) := by
  intro o p e; cases e

theorem frameDecisionPoint (f : EthFrame) : Statement (.frameDecisionPoint f) := by
  intro o p e; cases e

theorem frameEnd (port : Nat) (good : Bool) (symbol : Bool) : Statement (.frameEnd port good symbol) := by
  intro o p e; cases e

theorem transmissionSelect (port : Nat) : Statement (.transmissionSelect port) := by
  intro o p e; cases e

theorem fdbAgeing (mac : Nat) (fid : Nat) : Statement (.fdbAgeing mac fid) := by
  intro o p e; cases e

theorem cbResetTimeout (cb : Nat) : Statement (.cbResetTimeout cb) := by
  intro o p e; cases e

theorem linkUp (port : Nat) : Statement (.linkUp port) := by
  intro o p e; cases e

theorem linkDown (port : Nat) (localFault : Bool) : Statement (.linkDown port localFault) := by
  intro o p e; cases e

theorem trainFail (port : Nat) : Statement (.trainFail port) := by
  intro o p e; cases e

theorem tc10Asleep (port : Nat) : Statement (.tc10Asleep port) := by
  intro o p e; cases e

theorem tc10SleepTimeout (port : Nat) : Statement (.tc10SleepTimeout port) := by
  intro o p e; cases e

theorem tc10RemoteSleep (port : Nat) : Statement (.tc10RemoteSleep port) := by
  intro o p e; cases e

theorem tc10Wake (port : Nat) (remote : Bool) : Statement (.tc10Wake port remote) := by
  intro o p e; cases e

theorem phyFault (port : Nat) : Statement (.phyFault port) := by
  intro o p e; cases e

theorem plcaBeaconLost (port : Nat) : Statement (.plcaBeaconLost port) := by
  intro o p e; cases e

theorem plcaBeaconReceived (port : Nat) : Statement (.plcaBeaconReceived port) := by
  intro o p e; cases e

theorem segmentAlone (port : Nat) : Statement (.segmentAlone port) := by
  intro o p e; cases e

theorem cableDiagDone (port : Nat) (result : Nat) (distance : Nat) : Statement (.cableDiagDone port result distance) := by
  intro o p e; cases e

theorem canFrameReceived (ch : Nat) (f : CanFrame) : Statement (.canFrameReceived ch f) := by
  intro o p e; cases e

theorem canFrameValid (ch : Nat) : Statement (.canFrameValid ch) := by
  intro o p e; cases e

theorem canAttemptStart (ch : Nat) : Statement (.canAttemptStart ch) := by
  intro o p e; cases e

theorem canArbitrationLost (ch : Nat) : Statement (.canArbitrationLost ch) := by
  intro o p e; cases e

theorem canBusError (ch : Nat) (kind : Nat) (past : Bool) (more : Bool) : Statement (.canBusError ch kind past more) := by
  intro o p e; cases e

theorem canTxSuccess (ch : Nat) : Statement (.canTxSuccess ch) := by
  intro o p e; cases e

theorem canIntegrated (ch : Nat) : Statement (.canIntegrated ch) := by
  intro o p e; cases e

theorem busOffRecovered (ch : Nat) : Statement (.busOffRecovered ch) := by
  intro o p e; cases e

theorem canWake (ch : Nat) (reason : Nat) : Statement (.canWake ch reason) := by
  intro o p e; cases e

theorem fryCycleStart (cl : Nat) (cycle : Nat) (phaseErr : Int) (rateCorr : Int) (offsCorr : Int) : Statement (.fryCycleStart cl cycle phaseErr rateCorr offsCorr) := by
  intro o p e; cases e

theorem fryActionPoint (chn : Nat) (slot : Nat) (cycle : Nat) : Statement (.fryActionPoint chn slot cycle) := by
  intro o p e; cases e

theorem fryFrameReceived (chn : Nat) (f : FryFrame) : Statement (.fryFrameReceived chn f) := by
  intro o p e; cases e

theorem branchTxStart (chn : Nat) (branch : Nat) (seg : Nat) (slot : Nat) (offsetNs : Int) : Statement (.branchTxStart chn branch seg slot offsetNs) := by
  intro o p e; cases e

theorem branchTruncated (chn : Nat) (branch : Nat) (slot : Nat) : Statement (.branchTruncated chn branch slot) := by
  intro o p e; cases e

theorem pocState (cl : Nat) (code : Nat) : Statement (.pocState cl code) := by
  intro o p e; cases e

theorem frAlone (cl : Nat) : Statement (.frAlone cl) := by
  intro o p e; cases e

theorem coldstartRetry (cl : Nat) : Statement (.coldstartRetry cl) := by
  intro o p e; cases e

theorem linFrameEnd (ch : Nat) (e : LinEnd) : Statement (.linFrameEnd ch e) := by
  intro o p e; cases e

theorem linResponseTimeout (ch : Nat) (data : List Byte) : Statement (.linResponseTimeout ch data) := by
  intro o p e; cases e

theorem linHeaderReceived (ch : Nat) (id : Nat) (sleep : Bool) : Statement (.linHeaderReceived ch id sleep) := by
  intro o p e; cases e

theorem linIdleSleep (ch : Nat) : Statement (.linIdleSleep ch) := by
  intro o p e; cases e

theorem linWake (ch : Nat) (sent : Bool) : Statement (.linWake ch sent) := by
  intro o p e; cases e

theorem linWakingEnd (ch : Nat) : Statement (.linWakingEnd ch) := by
  intro o p e; cases e

theorem linWakeNoHeader (ch : Nat) : Statement (.linWakeNoHeader ch) := by
  intro o p e; cases e

theorem filteredEdge (input : Nat) (level : Bool) (first : Nat) : Statement (.filteredEdge input level first) := by
  intro o p e; cases e

theorem diEdge (input : Nat) : Statement (.diEdge input) := by
  intro o p e; cases e

theorem diFeedLow (v : Nat) : Statement (.diFeedLow v) := by
  intro o p e; cases e

theorem diSamplingResume (v : Nat) : Statement (.diSamplingResume v) := by
  intro o p e; cases e

theorem wireBreak (di : Nat) : Statement (.wireBreak di) := by
  intro o p e; cases e

theorem wireOk (di : Nat) : Statement (.wireOk di) := by
  intro o p e; cases e

theorem wirebreakTestDone (skipped : Nat) (brk : Nat) (shrt : Nat) : Statement (.wirebreakTestDone skipped brk shrt) := by
  intro o p e; cases e

theorem barrierLost (logicSide : Bool) (viso : Bool) : Statement (.barrierLost logicSide viso) := by
  intro o p e; cases e

theorem barrierRestored : Statement .barrierRestored := by
  intro o p e; cases e

theorem xoFault (xo : Nat) (current : Nat) (thermal : Bool) : Statement (.xoFault xo current thermal) := by
  intro o p e; cases e

theorem xoRetry (xo : Nat) (holds : Bool) : Statement (.xoRetry xo holds) := by
  intro o p e; cases e

theorem xvsLost (v : Nat) : Statement (.xvsLost v) := by
  intro o p e; cases e

theorem fieldHoldExpiry (xo : Nat) : Statement (.fieldHoldExpiry xo) := by
  intro o p e; cases e

theorem lockstepMismatch (pair : Nat) (railFault : Bool) : Statement (.lockstepMismatch pair railFault) := by
  intro o p e; cases e

theorem mCoreMismatch (railFault : Bool) : Statement (.mCoreMismatch railFault) := by
  intro o p e; cases e

theorem pairHalted (pair : Nat) : Statement (.pairHalted pair) := by
  intro o p e; cases e

theorem pairResumed (pair : Nat) : Statement (.pairResumed pair) := by
  intro o p e; cases e

theorem secureInterrupt (pair : Nat) : Statement (.secureInterrupt pair) := by
  intro o p e; cases e

theorem partResetDone (p : Nat) : Statement (.partResetDone p) := by
  intro o p e; cases e

theorem partRestarted (p : Nat) (digestOk : Bool) (image : List Byte) : Statement (.partRestarted p digestOk image) := by
  intro o p e; cases e

theorem supervisionTimeout (serial : Nat) : Statement (.supervisionTimeout serial) := by
  intro o p e; cases e

theorem eventDelivery : Statement .eventDelivery := by
  intro o p e; cases e

theorem ringSlotMove (ring : Nat) : Statement (.ringSlotMove ring) := by
  intro o p e; cases e

theorem bamRequestExecute (svc : BamService) : Statement (.bamRequestExecute svc) := by
  intro o p e; cases e

theorem bamlysStart (pufFails : Nat) (recovered : List Nat) (store : BamStore) (measurement : List Byte) (fwOk : Bool) : Statement (.bamlysStart pufFails recovered store measurement fwOk) := by
  intro o p e; cases e

theorem bamlysRestart (cause : Nat) (fwOk : Bool) (pufFails : Nat) (recovered : List Nat) (measurement : List Byte) : Statement (.bamlysRestart cause fwOk pufFails recovered measurement) := by
  intro o p e; cases e

theorem keyRegisterRemask : Statement .keyRegisterRemask := by
  intro o p e; cases e

theorem mkaSakInstall (port : Nat) (an : Nat) (scs : Nat) (xpn : Bool) : Statement (.mkaSakInstall port an scs xpn) := by
  intro o p e; cases e

theorem tamperAlarm (src : Nat) (phase : Nat) (programming : Bool) : Statement (.tamperAlarm src phase programming) := by
  intro o p e; cases e

theorem tamperBootRetry : Statement .tamperBootRetry := by
  intro o p e; cases e

theorem referenceQualified (record : SlotRecord) : Statement (.referenceQualified record) := by
  intro o p e; cases e

theorem referenceTimeout : Statement .referenceTimeout := by
  intro o p e; cases e

theorem mcoreFirmwareStart (img : Image) (componentsOk : Bool) : Statement (.mcoreFirmwareStart img componentsOk) := by
  intro o p e; cases e

theorem startLoadComplete : Statement .startLoadComplete := by
  intro o p e; cases e

theorem chunkCommit (c : ChunkResult) : Statement (.chunkCommit c) := by
  intro o p e; cases e

theorem healthExpired : Statement .healthExpired := by
  intro o p e; cases e

theorem activateReset : Statement .activateReset := by
  intro o p e; cases e

theorem resetDelayExpiry : Statement .resetDelayExpiry := by
  intro o p e; cases e

theorem prepFallbackTimeout : Statement .prepFallbackTimeout := by
  intro o p e; cases e

theorem sleepArming : Statement .sleepArming := by
  intro o p e; cases e

theorem tc10SleepForced (port : Nat) : Statement (.tc10SleepForced port) := by
  intro o p e; cases e

theorem sleepEntered : Statement .sleepEntered := by
  intro o p e; cases e

theorem wakeLine (line : Nat) (level : Bool) : Statement (.wakeLine line level) := by
  intro o p e; cases e

theorem wakeFromSleep : Statement .wakeFromSleep := by
  intro o p e; cases e

theorem wkoPulseEnd (line : Nat) : Statement (.wkoPulseEnd line) := by
  intro o p e; cases e

theorem bridgeRetry : Statement .bridgeRetry := by
  intro o p e; cases e

theorem busTimeout (w : BusWrite) (crossing : Nat) (isLoad : Bool) : Statement (.busTimeout w crossing isLoad) := by
  intro o p e; cases e

theorem holdBufferDrain (crossing : Nat) : Statement (.holdBufferDrain crossing) := by
  intro o p e; cases e

theorem cdcOverrun (src : Nat) : Statement (.cdcOverrun src) := by
  intro o p e; cases e

theorem patrolScrub (dram : Bool) : Statement (.patrolScrub dram) := by
  intro o p e; cases e

theorem eccCorrected (mem : Nat) (addr : Nat) : Statement (.eccCorrected mem addr) := by
  intro o p e; cases e

theorem eccUncorrectable (mem : Nat) (addr : Nat) : Statement (.eccUncorrectable mem addr) := by
  intro o p e; cases e

theorem poisonRead (p : Nat) (addr : Nat) : Statement (.poisonRead p addr) := by
  intro o p e; cases e

theorem faultReport : Statement .faultReport := by
  intro o p e; cases e

theorem mcoreWatchdogExpiry : Statement .mcoreWatchdogExpiry := by
  intro o p e; cases e

theorem logFlush : Statement .logFlush := by
  intro o p e; cases e

theorem xvsReturn (v : Nat) : Statement (.xvsReturn v) := by
  intro o p e; cases e

theorem prtTrainTimeout (port : Nat) : Statement (.prtTrainTimeout port) := by
  intro o p e; cases e

theorem fryStartTimeout (cl : Nat) : Statement (.fryStartTimeout cl) := by
  intro o p e; cases e

theorem syncTransmit (port : Nat) : Statement (.syncTransmit port) := by
  intro o p e; cases e

theorem flashWriteResume (v : Nat) : Statement (.flashWriteResume v) := by
  intro o p e; cases e

end Sys2Proof.Laws.OpcodeKnown
end

