-- ==== Sys2Proof/Laws/PortLinks.lean ====
section
/-!
SUPPORT. Sys2Proof/Laws/PortLinks.lean: what leaving UP does to a port's own record: nothing but its new state, its timers and
flags, whatever frames are dropped on the way.
-/

namespace Sys2Proof.Machine

@[simp] theorem State.onPort_prt (s : State) (p : Nat) (f : SwPort → SwPort) : (s.onPort p f).prt = s.prt :=
  congrArg KSw.prt (State.onPort_kSw s p f)

theorem State.dropCopy_prt (s : State) (n : Nat) : (s.dropCopy n).prt = s.prt :=
  congrArg KSw.prt (State.dropCopy_kSw s n)

theorem State.learn_prt (s : State) (p m f : Nat) : (s.learn p m f).prt = s.prt :=
  congrArg KSw.prt (State.learn_kSw s p m f)

theorem State.spoilFrame_prt (s : State) (p n : Nat) : (s.spoilFrame p n).prt = s.prt :=
  (State.kSw_ext (State.spoilFrame_kSw s p n)).2.2.2.2.2.2.2.2.2.2.2.2.2.2.1

/-- The end of a frame marks the port as heard. -/
theorem State.finishRx_prt (s : State) (p : Nat) (r : SwRx) (good : Bool) :
    (s.finishRx p r good).prt = if p < 16 then s.prt.put {} p { s.prtOf p with alone := false, heardAt := s.et } else s.prt := by
  have e0 : ∀ f, (s.onPort p f).et = s.et := fun f => congrArg KSw.et (State.onPort_kSw s p f)
  unfold State.finishRx
  extract_lets a psrc b u n src
  have ha : a.prt = s.prt ∧ a.et = s.et := ⟨by simp [a], by simp [a, e0]⟩
  have hb : b.prt = if p < 16 then s.prt.put {} p { s.prtOf p with alone := false, heardAt := s.et } else s.prt := by
    show (if p < 16 then a.setPrt p { a.prtOf p with alone := false, heardAt := a.et } else a).prt = _
    have : a.prtOf p = s.prtOf p := by unfold State.prtOf; rw [ha.1]
    rw [this, ha.2]
    split
    · unfold State.setPrt; rw [ha.1]
    · exact ha.1
  have hu : u.prt = b.prt := by
    show (match r.learn with | some (m, fid) => b.learn p m fid | none => b : State).prt = b.prt
    split
    · exact State.learn_prt _ _ _ _
    · rfl
  clear_value src u n a b
  rw [← hb]
  split
  · split
    · exact hu
    · split
      · exact hu
      · exact hu
  · split
    · rfl
    · exact State.spoilFrame_prt _ _ _

theorem foldl_dropCopy_prt (l : List Copy) (s : State) : (l.foldl (fun s c => s.dropCopy c.frame) s).prt = s.prt := by
  induction l generalizing s with
  | nil => rfl
  | cons a l ih => simp [List.foldl, ih, State.dropCopy_prt]

/-- Emptying a port leaves its record but for when it last heard a frame. -/
theorem State.portFlush_prtOf (s : State) (p : Nat) :
    ∃ a h, (s.portFlush p).prtOf p = { s.prtOf p with alone := a, heardAt := h } := by
  have hu : ∀ u : State, u = (match (s.swPort p).rx with | some r => s.finishRx p r false | none => s) →
      ∃ a h, u.prtOf p = { s.prtOf p with alone := a, heardAt := h } := by
    rintro u rfl
    split
    · unfold State.prtOf
      rw [State.finishRx_prt]
      split
      · rw [Tab.val_put_same]; exact ⟨false, s.et, rfl⟩
      · exact ⟨(s.prtOf p).alone, (s.prtOf p).heardAt, rfl⟩
    · exact ⟨(s.prtOf p).alone, (s.prtOf p).heardAt, rfl⟩
  unfold State.portFlush
  extract_lets u x copies v w
  have hw : w.prt = u.prt := by
    show (copies.foldl _ v).prt = _
    rw [foldl_dropCopy_prt]
    show (match x.tx with | some t => u.dropCopy t.copy.frame | none => u : State).prt = _
    split
    · exact State.dropCopy_prt _ _
    · rfl
  obtain ⟨a, h, e⟩ := hu u rfl
  refine ⟨a, h, ?_⟩
  have e2 : (w.onPort p fun x => { x with tx := none, downDrops := satAdd 32 x.downDrops copies.length
                                          cls := x.cls.mapV fun _ k => { k with queue := [] } }).prtOf p = u.prtOf p := by
    unfold State.prtOf
    rw [State.onPort_prt, hw]
  exact e2.trans e

/-- Leaving UP: the new state, no sleep due. -/
theorem State.portLeave_prtOf (s : State) (p st : Nat) : ∃ a h, (s.portLeave p st).prtOf p =
    { s.prtOf p with st := st, sleptAt := s.et, plcaOk := false, alone := a, heardAt := h, beacons := 0, sleepDue := none } := by
  unfold State.portLeave
  obtain ⟨a, h, e⟩ := State.portFlush_prtOf (s.setPrt p { s.prtOf p with st := st, sleptAt := s.et, plcaOk := false, alone := false, beacons := 0, sleepDue := none }) p
  refine ⟨a, h, ?_⟩
  dsimp only at *
  rw [e]
  simp

theorem State.zeroize_prt (s : State) (p cause : Nat) : (s.zeroize p cause).prt = s.prt := by
  unfold State.zeroize
  split
  · rfl
  · dsimp only
    rw [State.raise_prt]
    have key : ∀ u : State, u.prt = s.prt → (u.onPort p fun x =>
        { x with tx := none, secTx := false, rxSa := [], txPn := 0, txAn := 0, exhausted := false, zeroized := true }).prt = s.prt := by
      intro u hu; rw [State.onPort_prt, hu]
    cases ht : (s.swPort p).tx with
    | none => exact key s rfl
    | some t => exact key _ (State.dropCopy_prt s t.copy.frame)

/-- Going to ASLEEP: asleep, one more sleep counted. -/
theorem State.portSleep_prtOf (s : State) (p cause : Nat) : ∃ a h e, (s.portSleep p cause).prtOf p =
    { s.prtOf p with st := 3, sleptAt := e, plcaOk := false, alone := a, heardAt := h, beacons := 0, sleepDue := none
                     sleeps := sat16 (s.prtOf p).sleeps } := by
  unfold State.portSleep
  obtain ⟨a, h, e⟩ := State.portLeave_prtOf (s.zeroize p cause) p 3
  refine ⟨a, h, (s.zeroize p cause).et, ?_⟩
  have z : (s.zeroize p cause).prtOf p = s.prtOf p := by unfold State.prtOf; rw [State.zeroize_prt]
  simp only [State.setPrt_prtOf, e, z]

end Sys2Proof.Machine
end

