-- ==== Sys2Proof/Laws/Replies.lean ====
section
/-!
SUPPORT. Sys2Proof/Laws/Replies.lean: replies leave the list of outstanding asynchronous commands alone, and ending the commands
that a condition picks leaves none of them outstanding.
-/

namespace Sys2Proof.Machine

theorem State.writeReply_async (s : State) (pk : Packet) (status : Nat) (result : List Byte) :
    (s.writeReply pk status result).cmd.async = s.cmd.async := by
  unfold State.writeReply
  dsimp only
  split
  · split
    · rw [State.ringPush_cmd]
    · rfl
  · rfl

theorem State.finalReply_async (s : State) (code : Nat) (pk : Packet) (status : Nat) (result : List Byte) :
    (s.finalReply code pk status result).cmd.async = s.cmd.async := by
  unfold State.finalReply
  extract_lets u
  have hu : u.cmd.async = s.cmd.async := by
    show (match pk.src with
      | .ring p => if status == stOk then s
        else s.setStat p { s.stat p with error := wrap32 (s.stat p).error, lastStatus := status, lastOpcode := code }
      | .mp => s : State).cmd.async = _
    split
    · split <;> rfl
    · rfl
  split
  · exact hu
  · rw [State.writeReply_async, hu]

theorem State.finishAsync_async (s : State) (o : Outst) (status : Nat) (result : List Byte) :
    (s.finishAsync o status result).cmd.async = s.cmd.async.erase o := by
  unfold State.finishAsync
  extract_lets u
  split
  · split <;> rfl
  · rw [State.finalReply_async]

theorem foldl_finishAsync (status : Nat) (result : List Byte) (f : Outst → Bool) (m : List Outst) (s : State)
    (h : ∀ o, f o = true → s.cmd.async.count o ≤ m.count o) :
    ∀ o ∈ (m.foldl (fun s o => s.finishAsync o status result) s).cmd.async, f o = false := by
  induction m generalizing s with
  | nil =>
    intro o ho
    cases k : f o
    · rfl
    · have := h o k
      simp only [List.count_nil, Nat.le_zero] at this
      exact absurd (List.count_pos_iff.mpr ho) (by simp only [List.foldl]; omega)
  | cons a m ih =>
    refine ih (s.finishAsync a status result) fun o ho => ?_
    rw [State.finishAsync_async]
    have := h o ho
    rw [List.count_cons] at this
    rw [List.count_erase]
    split at this
    · rename_i e
      have : a = o := by simpa using e
      subst this
      simp
      omega
    · omega

/-- None of the commands that the condition picks stays outstanding. -/
theorem State.finishWhere_none (s : State) (f : Outst → Bool) (status : Nat) (result : List Byte) :
    ∀ o ∈ (s.finishWhere f status result).cmd.async, f o = false := by
  unfold State.finishWhere
  refine foldl_finishAsync status result f _ s fun o ho => ?_
  refine Nat.le_of_eq ?_
  rw [List.count_filter ho]

theorem State.finalReply_devState (s : State) (code : Nat) (pk : Packet) (status : Nat) (result : List Byte) :
    (s.finalReply code pk status result).dev.state = s.dev.state := by
  unfold State.finalReply
  extract_lets u
  have hu : u.dev.state = s.dev.state := by
    show (match pk.src with
      | .ring p => if status == stOk then s
        else s.setStat p { s.stat p with error := wrap32 (s.stat p).error, lastStatus := status, lastOpcode := code }
      | .mp => s : State).dev.state = _
    split
    · split <;> rfl
    · rfl
  split
  · exact hu
  · unfold State.writeReply
    dsimp only
    split
    · split
      · rw [(State.ringPush_devState _ _ _).1]; exact hu
      · exact hu
    · exact hu

theorem State.finishAsync_devState (s : State) (o : Outst) (status : Nat) (result : List Byte) :
    (s.finishAsync o status result).dev.state = s.dev.state := by
  unfold State.finishAsync
  extract_lets u
  split
  · split <;> rfl
  · rw [State.finalReply_devState]

@[simp] theorem State.finishWhere_devState (s : State) (f : Outst → Bool) (status : Nat) (result : List Byte) :
    (s.finishWhere f status result).dev.state = s.dev.state := by
  unfold State.finishWhere
  generalize s.cmd.async.filter f = l
  induction l generalizing s with
  | nil => rfl
  | cons a l ih => rw [List.foldl, ih, State.finishAsync_devState]

end Sys2Proof.Machine
end

