-- ==== Sys2Proof/Laws/Reports.lean ====
section
/-!
SUPPORT. Sys2Proof/Laws/Reports.lean: events leave the fault collector alone, posted errors touch its poison list only, and what a
fault report adds to it.
-/

namespace Sys2Proof.Machine

theorem State.deliver_flt (s : State) (ev : EventRec) (p : Nat) : (s.deliver ev p).flt = s.flt := by
  unfold State.deliver
  (repeat' split) <;> rfl

theorem foldl_flt {α : Type} (f : State → α → State) (h : ∀ s a, (f s a).flt = s.flt) (l : List α) (s : State) :
    (l.foldl f s).flt = s.flt := by
  induction l generalizing s with
  | nil => rfl
  | cons a l ih => simp [List.foldl, ih, h]

theorem State.raiseAt_flt (s : State) (et : Nat) (tos : List Nat) (src kind data : Nat) :
    (s.raiseAt et tos src kind data).flt = s.flt := by
  unfold State.raiseAt
  dsimp only
  rw [foldl_flt _ (fun s p => State.deliver_flt s _ p)]

theorem State.raise_flt (s : State) (tos : List Nat) (src kind data : Nat) : (s.raise tos src kind data).flt = s.flt :=
  State.raiseAt_flt s s.et tos src kind data

theorem State.raiseOnce_flt (s : State) (tos : List Nat) (src kind data : Nat) : (s.raiseOnce tos src kind data).flt = s.flt := by
  unfold State.raiseOnce
  split
  · rfl
  · rw [State.raise_flt]

theorem State.spoilFrame_flt (s : State) (p n : Nat) : (s.spoilFrame p n).flt = s.flt := by
  unfold State.spoilFrame
  dsimp only
  rw [foldl_flt]
  · split <;> rfl
  · intro s q
    generalize eu : List.foldl (fun s _ => State.dropCopy s n) _ _ = u
    have hu : u.flt = s.flt := by
      rw [← eu, foldl_flt _ (fun s _ => by unfold State.dropCopy; split <;> rfl)]
      rfl
    clear eu
    split
    · split
      · rw [State.raise_flt]
        exact hu
      · exact hu
    · exact hu

/-- The collector without its list of poisoned units. -/
def Flt.still (f : Flt) : Flt := { f with poison := [] }

theorem State.raiseVi_flt (s : State) (n : Nat) : (s.raiseVi n).flt = s.flt := by
  unfold State.raiseVi
  dsimp only
  split
  · rfl
  · split
    · rfl
    · rw [State.raiseOnce_flt]; rfl

theorem State.ringIrq_flt (s : State) (n : Nat) : (s.ringIrq n).flt = s.flt := by
  unfold State.ringIrq
  split
  · rw [State.raiseVi_flt]; rfl
  · rfl

theorem State.chargeDram_flt (s : State) (n bytes : Nat) : (s.chargeDram n bytes).flt = s.flt := by
  unfold State.chargeDram
  dsimp only
  split <;> rfl

theorem State.ringPush_still (s : State) (n : Nat) (bs : List Byte) : (s.ringPush n bs).flt.still = s.flt.still := by
  unfold State.ringPush
  extract_lets r a bad u r' v
  rw [State.ringIrq_flt, State.chargeDram_flt]
  show u.flt.still = _
  show (if bad = true then s else s.store a bs).flt.still = _
  split <;> rfl

theorem State.ringRecord_still (s : State) (n et : Nat) (bs : List Byte) : (s.ringRecord n et bs).flt.still = s.flt.still := by
  unfold State.ringRecord
  dsimp only
  split
  · rfl
  · split
    · exact State.ringPush_still _ _ _
    · split
      · rfl
      · rw [State.raiseOnce_flt]; rfl

theorem State.postedError_still (s : State) (r : PostedRec) : (s.postedError r).flt.still = s.flt.still := by
  unfold State.postedError
  dsimp only
  rw [State.ringRecord_still]
  rfl

/-- A report as the collector keeps it: acted on now, marked where it is the injected fault. -/
def State.kept (s : State) (r : FltReport) : FltReport := { r with actionEt := s.et, injected := s.flt.inject == some r.seq }

/-- A report counts for its class, is the newest of the last 1024, goes to the log buffer, and counts for its partition. -/
theorem State.makeReport_flt (s : State) (r : FltReport) : ∃ a b, (s.makeReport r).flt =
    { s.flt with
      count := s.flt.count.put 0 r.cls (sat16 (s.flt.count.val 0 r.cls)), esc := a, parts := b
      recent := (s.kept r :: s.flt.recent).take 1024
      buffer := ⟨r.et, r.src, r.cls, (s.kept r).levelByte, (s.kept r).body⟩ :: s.flt.buffer } := by
  unfold State.makeReport
  dsimp only
  rw [State.raise_flt]
  split
  · exact ⟨_, _, rfl⟩
  · exact ⟨_, _, rfl⟩

/-- A fault without a lower mechanism takes the next sequence number and is reported at once. -/
theorem State.fault_flt (s : State) (src cls level part kind data attempts : Nat) : ∃ a b c r,
    r.et = s.et ∧ r.src = src ∧ r.cls = cls ∧ r.level = level ∧ r.part = part ∧ r.kind = kind ∧ r.data = lo32 data ∧
    r.seq = s.flt.nextSeq ∧ r.attempts = attempts ∧ r.actionEt = s.et ∧
    (s.fault src cls level part kind data attempts 0).flt =
    { s.flt with
      nextSeq := wrapAdd 32 s.flt.nextSeq 1
      count := s.flt.count.put 0 cls (sat16 (s.flt.count.val 0 cls)), esc := a, parts := b
      recent := (r :: s.flt.recent).take 1024, buffer := c :: s.flt.buffer } := by
  unfold State.fault
  dsimp only [State.nextFault]
  simp only [beq_self_eq_true, if_true]
  generalize eu : ({ s with flt := _ } : State) = u
  have hu : u.flt = { s.flt with nextSeq := wrapAdd 32 s.flt.nextSeq 1 } ∧ u.et = s.et := by rw [← eu]; exact ⟨rfl, rfl⟩
  obtain ⟨a, b, h⟩ := State.makeReport_flt u ⟨s.et, src, cls, level, false, attempts, part, kind, lo32 data, s.flt.nextSeq, s.et⟩
  rw [h, hu.1]
  exact ⟨a, b, _, _, rfl, rfl, rfl, rfl, rfl, rfl, rfl, rfl, rfl, hu.2, rfl⟩

/-- A report leaves the poison and load error counts of every partition. -/
theorem State.makeReport_errors (s : State) (r : FltReport) (q : Nat) :
    ((s.makeReport r).fltPart q).loadErrors = (s.fltPart q).loadErrors ∧
      ((s.makeReport r).fltPart q).poisonReads = (s.fltPart q).poisonReads := by
  unfold State.makeReport State.fltPart
  dsimp only
  rw [State.raise_flt]
  split
  · unfold State.setFltPart
    dsimp only
    by_cases e : q = r.part
    · subst e
      rw [Tab.val_put_same]
      exact ⟨rfl, rfl⟩
    · rw [Tab.val_put_ne _ _ _ _ _ e]
      exact ⟨rfl, rfl⟩
  · exact ⟨rfl, rfl⟩

theorem State.fault_errors (s : State) (src cls level part kind data attempts hold q : Nat) :
    ((s.fault src cls level part kind data attempts hold).fltPart q).loadErrors = (s.fltPart q).loadErrors ∧
      ((s.fault src cls level part kind data attempts hold).fltPart q).poisonReads = (s.fltPart q).poisonReads := by
  unfold State.fault
  dsimp only [State.nextFault]
  split
  · exact State.makeReport_errors _ _ _
  · exact ⟨rfl, rfl⟩

end Sys2Proof.Machine
end

