-- ==== Sys2Proof/Laws/RingMoves.lean ====
section
/-!
SUPPORT. Sys2Proof/Laws/RingMoves.lean: all that producing, consuming and raising the interrupt of a ring do to that ring, and
to the partition registers that events and interrupts leave alone.
-/

namespace Sys2Proof.Machine

theorem State.raiseVi_ring (s : State) (n : Nat) : ∃ l, (s.raiseVi n).ring n = { s.ring n with pendingLost := l } := by
  unfold State.raiseVi
  dsimp only
  split
  · exact ⟨_, rfl⟩
  · split
    · exact ⟨_, rfl⟩
    · rw [State.ring_congr (State.raiseOnce_rings _ _ _ _ _).1, State.setRing_ring]; exact ⟨_, rfl⟩

theorem State.ringIrq_ring (s : State) (n : Nat) : ∃ a l, (s.ringIrq n).ring n = { s.ring n with armed := a, pendingLost := l } := by
  unfold State.ringIrq
  split
  · obtain ⟨l, h⟩ := State.raiseVi_ring (s.setRing n { s.ring n with armed := false }) n
    rw [h, State.setRing_ring]; exact ⟨_, _, rfl⟩
  · exact ⟨_, _, rfl⟩

/-- A record produced: the producer index is one on, and the record counts; a slot that poison reaches into counts as dropped. -/
theorem State.ringPush_ring (s : State) (n : Nat) (bs : List Byte) : ∃ a l k, (s.ringPush n bs).ring n =
    { s.ring n with
      prod := ((s.ring n).prod + 1) % 65536, slots := wrap32 (s.ring n).slots, armed := a, pendingLost := l, peak := k
      drops := if s.poisonLeft (s.ring n).nextSlot bs.length = true then sat32 (s.ring n).drops else (s.ring n).drops } := by
  unfold State.ringPush
  dsimp only
  obtain ⟨a, l, h⟩ := State.ringIrq_ring (State.chargeDram (State.setRing (if s.poisonLeft (s.ring n).nextSlot bs.length = true then s
    else s.store (s.ring n).nextSlot bs) n _) n bs.length) n
  rw [h, State.chargeDram_ring, State.setRing_ring]
  exact ⟨_, _, _, rfl⟩

/-- A slot consumed. -/
theorem State.ringPop_ring (s : State) (n : Nat) : ∃ a l, (s.ringPop n).ring n =
    { s.ring n with cons := ((s.ring n).cons + 1) % 65536, slots := wrap32 (s.ring n).slots, armed := a, pendingLost := l } := by
  unfold State.ringPop
  dsimp only
  obtain ⟨a, l, h⟩ := State.ringIrq_ring (State.chargeDram (State.setRing s n { s.ring n with
    cons := ((s.ring n).cons + 1) % 65536, slots := wrap32 (s.ring n).slots }) n (s.ring n).slotSize) n
  rw [h, State.chargeDram_ring, State.setRing_ring]
  exact ⟨_, _, rfl⟩

/-- The posted errors counted for a partition, which events, interrupts and records leave alone. -/
def Posted (s t : State) : Prop := ∀ q, (t.part q).postedErrors = (s.part q).postedErrors

theorem Posted.rfl' (s : State) : Posted s s := fun _ => rfl

theorem Posted.tr {s t u : State} (a : Posted s t) (b : Posted t u) : Posted s u := fun q => (b q).trans (a q)

theorem Posted.setPart (s : State) (p : Nat) (x : Part) (h : x.postedErrors = (s.part p).postedErrors) : Posted s (s.setPart p x) := by
  intro q
  by_cases k : q = p
  · subst k; rw [State.setPart_part]; exact h
  · rw [State.setPart_part_ne _ _ _ _ k]

theorem Posted.fold {α : Type} (f : State → α → State) (h : ∀ s a, Posted s (f s a)) (l : List α) (s : State) : Posted s (l.foldl f s) := by
  induction l generalizing s with
  | nil => exact .rfl' s
  | cons a l ih => exact .tr (h s a) (ih _)

theorem State.raiseAt_posted (s : State) (et : Nat) (tos : List Nat) (src kind data : Nat) : Posted s (s.raiseAt et tos src kind data) := by
  unfold State.raiseAt
  refine .fold _ (fun s p => ?_) _ _
  unfold State.deliver
  split
  · exact .rfl' s
  · split
    · exact .rfl' s
    · split
      · exact .setPart _ _ _ rfl
      · exact .rfl' s

theorem State.raiseOnce_posted (s : State) (tos : List Nat) (src kind data : Nat) : Posted s (s.raiseOnce tos src kind data) := by
  unfold State.raiseOnce
  split
  · exact .rfl' s
  · exact State.raiseAt_posted _ _ _ _ _ _

theorem State.raiseVi_posted (s : State) (n : Nat) : Posted s (s.raiseVi n) := by
  unfold State.raiseVi
  dsimp only
  split
  · exact .setPart _ _ _ rfl
  · split
    · exact .setPart _ _ _ rfl
    · refine .tr ?_ (State.raiseOnce_posted _ _ _ _ _)
      exact .setPart s _ { s.part (s.ring n).owner with viOvf := true } rfl

theorem State.chargeDram_posted (s : State) (n bytes : Nat) : Posted s (s.chargeDram n bytes) := by
  unfold State.chargeDram
  dsimp only
  split
  · exact .setPart _ _ _ rfl
  · exact .rfl' _

theorem State.ringIrq_posted (s : State) (n : Nat) : Posted s (s.ringIrq n) := by
  unfold State.ringIrq
  split
  · exact State.raiseVi_posted _ _
  · exact .rfl' _

theorem State.ringPush_posted (s : State) (n : Nat) (bs : List Byte) : Posted s (s.ringPush n bs) := by
  unfold State.ringPush
  dsimp only
  generalize ew : State.setRing _ n _ = w
  have hw : Posted s w := by rw [← ew]; intro q; split <;> rfl
  exact .tr hw (.tr (State.chargeDram_posted w n _) (State.ringIrq_posted _ n))

theorem State.ringRecord_posted (s : State) (n et : Nat) (bs : List Byte) : Posted s (s.ringRecord n et bs) := by
  unfold State.ringRecord
  dsimp only
  split
  · exact .rfl' s
  · split
    · exact State.ringPush_posted _ _ _
    · split
      · exact .rfl' s
      · exact .tr (.rfl' s) (State.raiseOnce_posted _ _ _ _ _)

/-- A posted error counts for its partition. -/
theorem State.postedError_count (s : State) (r : PostedRec) :
    ((s.postedError r).part r.part).postedErrors = sat32 (s.part r.part).postedErrors := by
  unfold State.postedError
  dsimp only
  generalize eu : State.setPart s r.part _ = u
  have hu := congrArg (fun w => (State.part w r.part).postedErrors) eu.symm
  simp only [State.setPart_part] at hu
  refine (State.ringRecord_posted _ _ _ _ r.part).trans ((Posted.setPart u _ _ ?_ r.part).trans hu)
  rfl

end Sys2Proof.Machine
end

