-- ==== Sys2Proof/Laws/Strokes.lean ====
section
/-!
SUPPORT. Sys2Proof/Laws/Strokes.lean: what a dropped LATE stroke, a dispatch and an overrun change, and a stroke in time as one
equation.
-/

namespace Sys2Proof.Machine

/-- Dropping LATE strokes changes counters and the list of LATE strokes. -/
theorem State.dropLate_eq (s : State) (f : LateStroke → Bool) : ∃ ls ps,
    s.dropLate f = { s with easel := { s.easel with lanes := ls, parts := ps, late := s.easel.late.filter fun e => !f e } } := by
  unfold State.dropLate
  suffices h : ∀ (q : List LateStroke) (t : State), ∃ ls ps,
      q.foldl (fun s e => s.countOverrun e.st.lane 0 (s.strokeOwner e.st)) t =
        { t with easel := { t.easel with lanes := ls, parts := ps } } by
    obtain ⟨ls, ps, e⟩ := h (s.easel.late.filter f)
      { s with easel := { s.easel with late := s.easel.late.filter fun e => !f e } }
    exact ⟨ls, ps, e⟩
  intro q
  induction q with
  | nil => intro t; exact ⟨t.easel.lanes, t.easel.parts, rfl⟩
  | cons x q ih =>
    intro t
    obtain ⟨ls, ps, e⟩ := ih (t.countOverrun x.st.lane 0 (t.strokeOwner x.st))
    exact ⟨ls, ps, by rw [List.foldl_cons, e]; rfl⟩

theorem State.dispatched_eq (s : State) (h : StrokeHd) (st : Stroke) : ∃ e : Easel,
    s.dispatched h st = { s with easel := e } ∧ e.risLink = s.easel.risLink ∧ e.idx = s.easel.idx + 1 ∧
      e.phaseAt = h.phase ∧ e.canvasLen = s.easel.canvasLen ∧ e.canvasIdx = s.easel.canvasIdx ∧ e.run = s.easel.run ∧
      e.lastDispatch = s.et ∧ e.running = s.easel.running ∧ e.slots = s.easel.slots := by
  obtain ⟨ls, ps, w⟩ := s.dropLate_eq fun e => sameTarget e.st st
  unfold State.dispatched
  rw [w]
  exact ⟨_, rfl, rfl, rfl, rfl, rfl, rfl, rfl, rfl, rfl, rfl⟩

/-- A stroke that its row dispatches in time reaches its executor. -/
theorem State.strokeDo_onTime (s : State) (h : StrokeHd) (st : Stroke) (act : Bool → State → State)
    (k : s.onTime h st = true) : s.strokeDo h st act =
      if st.kind == 0x01 then act false (s.dispatched h st)
      else if st.kind == 0x30 && u8 st.arg 0 != 0xFF && (s.part (u8 st.arg 0)).st != 1 then act false (s.dispatched h st)
      else (act false (s.dispatched h st)).traceLog st.lane ((s.dispatched h st).traceOf h st false) := by
  unfold State.onTime at k
  simp only [Bool.and_eq_true, decide_eq_true_eq, Bool.not_eq_true', Option.isNone_iff_eq_none, Bool.or_eq_true] at k
  obtain ⟨⟨⟨⟨⟨⟨⟨⟨⟨⟨⟨⟨k1, k2⟩, k3⟩, k4⟩, k5⟩, k6⟩, k7⟩, k8⟩, k9⟩, k10⟩, k11⟩, k12⟩, k13⟩ := k
  obtain ⟨e, w, w1, w2, w3, w4⟩ := s.dispatched_eq h st
  have a : s.strokeDo h st act = (s.dispatched h st).startStroke h st false (act false) := by
    unfold State.strokeDo
    have n : (s.easel.miss || decide (s.et < s.easel.lastDispatch + 2) || decide ((s.slot s.easel.run).strokes ≤ s.easel.idx) ||
        decide (h.phase < s.easel.phaseAt)) = false := by
      simp only [Bool.or_eq_false_iff, decide_eq_false_iff_not, k5, true_and]
      omega
    simp only [k1, k2, k3, k4, k9, k10, Bool.not_true, Bool.or_self, Bool.false_eq_true, if_false]
    simp only [Bool.or_eq_true] at n ⊢
    rw [if_neg (by simpa using n)]
    have g : (s.dispatched h st).dispatchWindow st.lane = s.dispatchWindow st.lane := by
      rw [w]
      simp only [State.dispatchWindow, State.slot, w4]
    show (if s.lagOf h.phase ≤ (s.dispatched h st).dispatchWindow st.lane then _ else _) = _
    rw [g, if_pos k11]
    rfl
  rw [a]
  unfold State.startStroke
  have b : (actuates st && (!(s.dispatched h st).dev.armed || (s.dispatched h st).inReset ((s.dispatched h st).strokeOwner st))) = false := by
    rw [w]
    rcases k12 with k | ⟨ka, kr⟩
    · simp [k]
    · show (actuates st && (!s.dev.armed || s.inReset (s.strokeOwner st))) = false
      simp [ka, kr]
  have c : (s.dispatched h st).overridden st = false := by
    rw [← k13, w]
    unfold State.overridden
    simp only [w1]
  have d : (s.dispatched h st).part (u8 st.arg 0) = s.part (u8 st.arg 0) := by rw [w]; rfl
  rw [b, c, d]
  simp only [Bool.false_eq_true, if_false]

end Sys2Proof.Machine
end

