-- ==== Sys2Proof/Tests/Slice0.lean ====
section
/-!
SUPPORT. Sys2Proof/Tests/Slice0.lean: witnesses that the hypotheses of the statements can be met, the checks of WellFormed, and
one or two small tests per family of commands.
-/

namespace Sys2Proof.Tests

open Sys2Proof.Machine

/-! ### Small states and packets -/

/-- RUN, with P0 and P1 running, and a packet waiting in the command ring of each. -/
def runState : State where
  dev := { state := .run }
  lsw := { chans := [(3, { cfg := { enabled := true } })] }
  prt := [(2, { cfg := { enabled := true } })]
  par := { parts := [(0, { st := 1 }), (1, { st := 1 })]
           rings := [(0, { enabled := true, depthLog := 4, slotLog := 12, base := 0x800000000, prod := 1 }),
             (1, { type := 1, enabled := true, depthLog := 4, slotLog := 12, base := 0x800010000 }),
             (2, { owner := 1, enabled := true, depthLog := 4, slotLog := 12, base := 0x800020000, prod := 1 }),
             (3, { type := 1, owner := 1, enabled := true, depthLog := 4, slotLog := 12, base := 0x800030000 })] }

/-- NOP from the ring of P1. -/
def nopOf1 : Packet := { src := .ring 1, part := 1 }

/-- LSW_SET of channel 3, owned by P1 where P1 owns it, from the ring of P1. -/
def lswSetOf1 : Packet := { src := .ring 0, len := 4, params := [3, 0, 1, 0] }

/-- PRT_CABLE_DIAG of port 2 from the ring of P0. -/
def diagOf0 : Packet := { src := .ring 0, len := 4, params := [2, 0, 0, 0] }


/-- `runState` with a command of each ring waiting in the queue of the loads. -/
def runWait : State := runState.setQueue 2 [⟨0x0400, 4, lswSetOf1⟩, ⟨0x0400, 4, { lswSetOf1 with src := .ring 1, part := 1 }⟩]

/-! ### The checks of WellFormed -/

/-- A stroke header that fits. -/
def okHd : StrokeHd := { phase := 5 }

/-- One ill-formed packet for each field of the header. -/
def badPackets : List Packet :=
  [{ src := .ring 16 }, { src := .mp, flags := 256 }, { src := .mp, part := 256 }, { src := .mp, tag := 65536 },
   { src := .mp, len := 65536 }, { src := .mp, seq := 2 ^ 32 }, { src := .mp, cred := 2 ^ 32 }, { src := .mp, stamp := 2 ^ 64 },
   { src := .mp, mac := 2 ^ 48 }, { src := .mp, pcp := 8 }]

theorem test_wf_refuses_packets : badPackets.all (fun pk => !(Instr.nop pk).wf) = true := by decide

/-- The parameters of a packet never exceed a slot. -/
theorem test_wf_refuses_params : (Instr.nop { src := .mp, params := List.replicate 4081 0 }).wf = false := by
  rw [← Bool.not_eq_true]
  intro h
  simp only [Instr.wf, Packet.wf, Bool.and_eq_true, decide_eq_true_eq, List.length_replicate] at h
  omega

theorem test_wf_refuses_payload : (Instr.canFrameReceived 0 { payload := List.replicate 2049 0 }).wf = false := by
  rw [← Bool.not_eq_true]
  intro h
  simp only [Instr.wf, CanFrame.wf, Bool.and_eq_true, decide_eq_true_eq, List.length_replicate] at h
  omega

/-- One ill-formed stroke, load, store or frame for each check of its fields. -/
theorem test_wf_refuses_fields_strokes :
    [.route { phase := 2 ^ 27 } 0 0 1, .route { phase := 0, ovr := 4 } 0 0 1, .pfRoute { phase := 2 ^ 27 } 0 1,
     .pfStroke { phase := 0, ovr := 4 } 0 1,
     .strokeOverrun okHd { kind := 256, lane := 0, arg := [0, 0, 0, 0, 0, 0, 0, 0] },
     .strokeOverrun okHd { kind := 0, lane := 8, arg := [0, 0, 0, 0, 0, 0, 0, 0] },
     .strokeOverrun okHd { kind := 0, lane := 0, res := 65536, arg := [0, 0, 0, 0, 0, 0, 0, 0] },
     .strokeOverrun okHd { kind := 0, lane := 0, arg := [0] },
     .statusWindowStore { init := 0, addr := 0, size := 3, data := 0 },
     .statusWindowStore { init := 0, addr := 0, size := 1, data := 256 }].all (fun i : Instr => !i.wf) = true := by decide

theorem test_wf_refuses_fields_frames :
    [.busTimeout { init := 0, addr := 2 ^ 64, size := 4, data := 0 } 0 false, .frameDecisionPoint { port := 21 },
     .frameDecisionPoint { port := 0, dst := 2 ^ 48 }, .frameDecisionPoint { port := 0, mac := 2 ^ 48 },
     .frameDecisionPoint { port := 0, vid := 4096 }, .frameDecisionPoint { port := 0, pcp := 8 },
     .frameDecisionPoint { port := 0, etherType := 65536 }, .canFrameReceived 0 { fmt := 5 },
     .canFrameReceived 0 { id := 2 ^ 29 }, .canFrameReceived 16 {}].all (fun i : Instr => !i.wf) = true := by decide

/-- One command for each range of a resource index, one past the range. -/
theorem test_wf_refuses_indices_a :
    [.dbProducer 16 0 0, .viConsume 0 (2 ^ 32), .lowWordRead 16 0, .route okHd 4 0 1, .inputLatch okHd 5,
     .loadSet okHd 56 0 0 0, .loadApply okHd 56 0 0, .bridgeSet okHd 6 0 0 0, .bridgeApply okHd 6 0 0,
     .xoSet okHd 8 0, .pgTrigger okHd 16 0, .gateSet okHd 21 0].all (fun i : Instr => !i.wf) = true := by decide

theorem test_wf_refuses_indices_b :
    [.canRelease okHd 16 0, .fryCommit okHd 2 0 0 0, .linRelease okHd 12 0, .window okHd 6 0 0,
     .openStroke okHd 13 0, .openStroke okHd 0 9, .routeExecution 4, .routeCommit 4, .pgEdge 16, .ocTrip 68 0,
     .pwmPeriodStart 68, .senseMillisecond 68 {}].all (fun i : Instr => !i.wf) = true := by decide

theorem test_wf_refuses_indices_c :
    [.senseMillisecond 68 { di := true }, .openLoad 56, .stall 6, .shedResume 2, .frameEnd 21 true false, .linkUp 16,
     .canFrameValid 16, .fryCycleStart 2 0 0 0 0, .fryCycleStart 0 64 0 0 0, .fryActionPoint 4 0 0,
     .fryActionPoint 0 0 64, .fryFrameReceived 4 { slot := 1 }].all (fun i : Instr => !i.wf) = true := by decide

theorem test_wf_refuses_indices_d :
    [.pocState 2 0, .linIdleSleep 12, .diEdge 80, .wireBreak 64, .fieldHoldExpiry 8, .pairHalted 6,
     .partResetDone 16, .ringSlotMove 128, .wkoPulseEnd 4].all (fun i : Instr => !i.wf) = true := by decide

/-- And a command inside every range passes. -/
theorem test_wf_passes : (Instr.nop nopOf1).wf = true ∧ (Instr.loadSet okHd 55 0 0 0).wf = true ∧
    (Instr.openStroke okHd 12 8).wf = true ∧ (Instr.diEdge 79).wf = true := by decide
/-- StepRunsFront: a state with a command waiting. -/
theorem wit_StepRunsFront : ({ runState with pending := [.bridgeRetry] } : State).pending = .bridgeRetry :: [] := rfl

/-- IdleCycleAdvancesClocks: an idle state, powered and not. -/
theorem wit_IdleCycle : runState.pending = [] ∧ runState.cmd.held = [] ∧ runState.powered = true ∧
    ({ dev := { state := .sleep } } : State).powered = false := by decide

/-- QueueOnlyFromOutside: a command answers a next state. -/
theorem wit_QueueOnly : ∃ t, exec .bridgeRetry runState = .next t := ⟨_, rfl⟩

/-- ArmingInvariantKept: an armed state that meets the invariant. -/
theorem wit_ArmingInvariant : ({ dev := { state := .run, armed := true } } : State).Inv := ⟨by decide, by decide⟩

/-- StrokeBytesRoundTrip: a header and a stroke at the upper end of every field. -/
theorem wit_StrokeBytes : (⟨2 ^ 27 - 1, 3, true⟩ : StrokeHd).wf = true ∧
    (⟨0xFF, 7, 0xFFFF, [255, 255, 255, 255, 255, 255, 255, 255]⟩ : Stroke).wf = true := by decide

/-- EventRecordRoundTrip: a record with every field at its upper end. -/
theorem wit_EventRecord : (⟨2 ^ 64 - 1, 1023, 2 ^ 16 - 1, 2 ^ 32 - 1⟩ : EventRec).et < 2 ^ 64 ∧ (1023 : Nat) < 1024 := by decide

/-- ReplyHeaderLayout: a reply that meets the bounds. -/
theorem wit_ReplyHeader : (⟨.mp, 1, 2, 3, 4, [1, 2, 3, 4], 0, 0⟩ : Reply).result.length < 2 ^ 16 := by decide

/-- CommandPacketStallsOrWaits: STARTING; the commit point; a full reply ring; an empty, a disabled command ring; a held partition. -/
theorem wit_PacketStalls : (Instr.nop nopOf1).packetRow = some (nopSpec, nopOf1) ∧ State.reset.active = false ∧
    ({ runState with wake := { phase := 4 } } : State).wake.phase = 4 ∧
    ((runState.setRing 3 { runState.ring 3 with prod := 16 }).ring 3).depth < ((runState.setRing 3 { runState.ring 3 with prod := 16 }).ring 3).fill + 0 + 1 ∧
    ((runState.setRing 2 { runState.ring 2 with prod := 0 }).ring 2).fill = 0 ∧ (State.reset.ring 2).enabled = false ∧
    ((runState.setPart 1 { st := 3 }).part 1).st ≠ 1 := by
  refine ⟨rfl, ?_⟩
  decide

/-- ImmediateCommandsReply: NOP from the ring of P1 is taken and accepted. -/
theorem wit_Immediate : (Instr.nop nopOf1).packetRow = some (nopSpec, nopOf1) ∧ nopSpec.comp = .S ∧ runState.accepts nopSpec nopOf1 :=
  ⟨rfl, rfl, by unfold State.accepts State.valid; decide⟩

/-- OpenStrokeCommandsQueue: LSW_SET of a channel of P1 is taken and accepted. -/
theorem wit_OpenQueue : (Instr.lswSet lswSetOf1).packetRow = some (lswSetSpec, lswSetOf1) ∧ lswSetSpec.comp = .O ∧
    runState.accepts lswSetSpec lswSetOf1 := ⟨rfl, rfl, by unfold State.accepts State.valid; decide⟩

/-- AsyncCommandsAreAccepted: BAM_RANDOM from P1 is taken and accepted. -/
theorem wit_Async : (Instr.prtCableDiag diagOf0).packetRow = some (prtCableDiagSpec, diagOf0) ∧ prtCableDiagSpec.comp = .A ∧
    runState.accepts prtCableDiagSpec diagOf0 := ⟨rfl, rfl, by unfold State.accepts State.valid; decide⟩

/-- RejectedCommandsReply: a length that is no multiple of 4; a block where none belongs; CHECK_ONLY. -/
theorem wit_Rejected : runState.takes nopSpec { nopOf1 with len := 3 } = true ∧ lenOk { nopOf1 with len := 3 } = false ∧
    runState.takes lswSetSpec { lswSetOf1 with len := 0, params := [] } = true ∧
    runState.slotBad { nopOf1 with len := 4 } = false ∧
    (runState.ready lswSetOf1).validate lswSetSpec { lswSetOf1 with len := 0, params := [] } = stBadLength ∧
    runState.valid nopSpec { nopOf1 with flags := 2 } ∧ isCheckOnly { nopOf1 with flags := 2 } = true :=
  ⟨by decide, by decide, by decide, by decide, by decide, by unfold State.valid; decide, by decide⟩

/-- ChecksInOrder: every hypothesis is met by some packet and state. -/
theorem wit_ChecksInOrder : fltInjectSpec.code = 0x1003 ∧ ({ bam := { lc := 1 } } : State).bam.lc ≠ 0 ∧
    armSpec.len [0] = false ∧ nopSpec.len [] = true ∧ isBarrier { nopOf1 with flags := 3 } = true ∧
    isCheckOnly { nopOf1 with flags := 3 } = true ∧ packetOk nopOf1 = true ∧ nopSpec.locked nopOf1 runState = false ∧
    State.issuerCheck runState armSpec nopOf1 = stNotOwner ∧ State.issuerCheck runState nopSpec nopOf1 = stOk ∧
    nopSpec.okState nopOf1 runState = true := by decide

/-- ReplayWindowAccepts: numbers above, at the lower end of, and inside the window. -/
theorem wit_ReplayWindow : (⟨true, 0, 70, 1⟩ : Session).accepts 71 = true ∧ (⟨true, 0, 70, 1⟩ : Session).accepts 7 = true ∧
    (⟨true, 0, 70, 1⟩ : Session).accepts 6 = false ∧ (⟨true, 0, 70, 1⟩ : Session).accepts 70 = false := by decide

/-- BadCredentialsLeaveSessions: a packet from MP with no session open, for a MAC address not yet refused, and refused in the same ms. -/
theorem wit_BadCredentials : runState.intakeOpen = true ∧ lenOk { nopOf1 with src := .mp } = true ∧
    runState.credOk nopSpec { nopOf1 with src := .mp } = false ∧
    (runState.cmd.authMs.val 0 0 ≠ 0 / 1000000 + 1) ∧
    (({ runState with cmd := { authMs := [(0, 1)] } } : State).cmd.authMs.val 0 0 = 0 / 1000000 + 1) := by
  refine ⟨by decide, by decide, rfl, by decide, by decide⟩

/-- HeldCommandsWait: a BARRIER command behind a queued one of its source; of type A too. -/
theorem wit_HeldCommands : runWait.valid nopSpec { nopOf1 with flags := 1 } ∧
    (runWait.ready { nopOf1 with flags := 1 }).mustWait nopSpec (cutBlock { nopOf1 with flags := 1 }) runWait.cmd.held = true ∧
    runWait.valid prtCableDiagSpec { diagOf0 with flags := 1 } ∧
    (runWait.ready { diagOf0 with flags := 1 }).mustWait prtCableDiagSpec (cutBlock { diagOf0 with flags := 1 }) runWait.cmd.held = true :=
  ⟨by unfold State.valid; decide, by decide, by unfold State.valid; decide, by decide⟩

/-- OutputEventsFrame: a row of the class. -/
theorem wit_OutputFrame : (Instr.ocTrip 3 100).outRow = true := rfl

/-- NetworkEventsFrame: a row of the class. -/
theorem wit_NetworkFrame : (Instr.canTxSuccess 3).netRow = true := rfl

/-- RingEventsFrame: a row of the class. -/
theorem wit_RingFrame : (Instr.dbProducer 1 2 3).ringRow = true := rfl

/-- StatusReadsFrame: NOP from the ring of P1. -/
theorem wit_StatusReads : (Instr.nop nopOf1).readRow = true ∧ nopOf1.src = .ring 1 ∧ runState.accepts nopSpec nopOf1 :=
  ⟨rfl, rfl, by unfold State.accepts State.valid; decide⟩

/-- A live channel 3 of P0 in RUN, with its machine and command set. -/
def protState (p : Prot) (cmd : Nat) : State :=
  { runState with et := 5000000000, lsw := { chans := [(3, { cfg := { enabled := true, limit := 80, steady := 20 }, cmd := cmd, o := { on := true } })], prot := [(3, p)] } }

/-- OverCurrentMachine: a trip; a pause over, hot, off, and on with the retry admitted and not; a deferred retry off and on; a recovery. -/
theorem wit_OverCurrent : (protState {} 1).protLive 3 = true ∧ ((protState {} 1).prot 3).permits = true ∧
    (protState {} 1).conducts 3 = true ∧ (protState {} 1).tripLevel 3 < 81 ∧
    ((protState { oc := 1, th := 1 } 1).prot 3).pauseEnd ≤ (protState { oc := 1, th := 1 } 1).et ∧
    (protState { oc := 1 } 0).wanted (outletOf 3) = false ∧ (protState { oc := 1 } 1).wanted (outletOf 3) = true ∧
    (protState { oc := 1 } 1).retryVerdict (outletOf 3) 5000000000 true = some false ∧
    (protState { oc := 2, deferAt := 4000000000 } 1).retryVerdict (outletOf 3) 4000000000 true = some false ∧
    ((protState { oc := 3, okSince := some 1 } 1).prot 3).okSince = some 1 := by decide

/-- ThermalMachine: cool and heating; hot and cooling; hot for 500 ms. -/
theorem wit_Thermal : (protState {} 1).protLive 3 = true ∧ ((protState {} 1).prot 3).th = 0 ∧
    ((protState { th := 1 } 1).prot 3).th = 1 ∧ (protState { th := 1 } 1).protLive 3 = true ∧
    ((protState { th := 1, thAt := 1 } 1).prot 3).thAt + 500000000 ≤ (protState { th := 1, thAt := 1 } 1).et ∧
    ((protState { th := 1 } 1).prot 3).thOver = false := by decide

/-- Channel 3 in RUN with its outlet and open-load state set. -/
def chanState (o : Outlet) (cmd ol : Nat) : State :=
  { runState with et := 5000000000, lsw := { chans := [(3, { cfg := { enabled := true, limit := 80 }, cmd := cmd, o := o, ol := ol, olFilter := 2, olRun := 2, olOk := 2 })] }, dio := { ins := [(5, { enabled := true })] } }

/-- ChannelTimers: each clause at channel 3, the last step with and without a step 2; the measure at DI5. -/
theorem wit_ChannelTimers : (chanState { on := true, step := 1, d2 := 4 } 1 0).protLive 3 = true ∧
    ((chanState { on := true, step := 1, d2 := 4 } 1 0).outlet (outletOf 3)).d2 ≠ 0 ∧
    ((chanState { on := true, step := 2 } 1 0).outlet (outletOf 3)).stepEnd ≤ (chanState { on := true, step := 2 } 1 0).et ∧
    (((chanState { pend := true } 2 0).chan 3).o.on || ((chanState { pend := true } 2 0).chan 3).o.pend) = true ∧
    (chanState {} 1 0).active = true ∧ ((chanState {} 1 0).din 5).enabled = true ∧ ((chanState {} 1 2).chan 3).ol = 2 ∧
    ((chanState {} 1 3).chan 3).olFilter ≤ ((chanState {} 1 3).chan 3).olOk := by decide

/-- Palette 0 running at its third stroke, due, in a canvas of 1 ms; the device armed. -/
def easelState : State :=
  { runState with
    et := 3000100000
    dev := { runState.dev with armed := true }
    lsw := { chans := [(3, { cfg := { enabled := true, limit := 80, steady := 20 } })] }
    easel := { running := true, canvasLen := 125000, canvasCount := 3, canvasEt := 3000000000, canvasIdx := 3000, idx := 2
               phaseAt := 100, lastDispatch := 3000000800, blocks := [(0, 1024)]
               slots := [(0, { st := 3, strokes := 2000, headLen := 1024, id := 7 }),
                 (2, { st := 2, sect := 2, strokes := 500, headLen := 100, id := 9 })] } }

/-- A header with phase 12500: due at 100 µs. -/
def hd : StrokeHd := { phase := 12500, ovr := 0, trace := true }

/-- StrokesDispatchedInTime: LOAD_SET and OPEN are due and in time; a ROUTE stroke too. -/
theorem wit_StrokesInTime : easelState.onTime hd ⟨0x10, 1, 3, leBytes 2 1 ++ leBytes 2 0 ++ leBytes 2 0⟩ = true ∧
    easelState.onTime hd ⟨0x7F, 1, 2, leBytes 4 8⟩ = true ∧ easelState.onTime hd ⟨0x30, 3, 1, leBytes 1 1⟩ = true ∧
    easelState.onTime hd ⟨0x01, 0, 1, leBytes 4 7 ++ leBytes 1 2⟩ = true := by decide

/-- OpenStrokeRunsHead: LSW_SET at the head of class 2, runnable, and after the ring has closed. -/
theorem wit_OpenRuns : let u := easelState.setQueue 2 [⟨0x0400, 0, lswSetOf1⟩]
    u.queueOf 2 = [⟨0x0400, 0, lswSetOf1⟩] ∧ (u.setQueue 2 []).recheck lswSetSpec lswSetOf1 = stOk ∧
    (({ u with dev := { u.dev with state := .starting } } : State).setQueue 2 []).recheck lswSetSpec lswSetOf1 ≠ stOk ∧
    specOf 0x0400 = some lswSetSpec := by
  refine ⟨?_, ?_, ?_, rfl⟩ <;> decide

/-- StrokeOverrunsResolved: an actuation stroke 800 ns after its due phase, and one in time. -/
theorem wit_Overrun : let st : Stroke := ⟨0x10, 1, 3, leBytes 2 1⟩
    easelState.dispatching = true ∧ easelState.isDue 12400 = true ∧ easelState.dispatchWindow 1 < easelState.lagOf 12400 ∧
    easelState.lagOf 12500 ≤ easelState.dispatchWindow 1 ∧ strokeResOk st = true := by decide

/-- PalettesAndStrokeStream: a miss; a decision point 19.9 µs before the end with the crank palette LOADED; a load of slot 3. -/
theorem wit_Palettes : let u : State := { easelState with et := 3000980100, dev := { easelState.dev with causeCrank := true } }
    let v : State := { easelState with easel := { easelState.easel with loads := [(3, 3)] } }
    u.dispatching = true ∧ u.easel.decided = false ∧ u.canvasNs ≤ u.phaseNs + 20000 ∧ (u.slot 2).st = 2 ∧ v.easel.loads = [(3, 3)] ∧
    v.easel.running = true ∧ ((v.setSlot 3 { st := 1, sect := 3 }).slot 3).st = 1 ∧
    ({ v with easel := { v.easel with miss := true } } : State).easel.miss = true := by decide

/-- CanvasBoundaries: RUN at 4 ms of ZT; with a realignment due; with a sleep request ARMED; STARTING with its loads ended. -/
theorem wit_Boundary : let u : State := { easelState with et := 3001000000 }
    let v : State := { u with dev := { u.dev with state := .starting, loadsDone := true } }
    easelState.atBoundary = false ∧ u.atBoundary = true ∧ u.active = true ∧ u.easel.running = true ∧ u.wake.phase ≠ 3 ∧
    u.time.realignPending = false ∧ ({ u with time := { u.time with realignPending := true, cfg := { u.time.cfg with realignArmed := true } } } : State).atBoundary = true ∧
    v.atBoundary = true ∧ ({ u with wake := { u.wake with phase := 3 } } : State).active = true := by decide

/-- RUN with a queued stroke on pipeline 1, a held and a free record, and a destination mailbox. -/
def gwState (busy : Bool) : State :=
  { runState with
    gw := { pipes := [(1, { queue := [⟨7, 2, none⟩], busy := busy })], recs := [(3, { has := true, hold := 2 })]
            mbx := [(9, { addr := 0x4000, dest := true, placed := true })] } }

/-- RoutePipelines: a queued stroke, a busy pipeline, records without and with a hold, a placed mailbox. -/
theorem wit_RoutePipelines : ((gwState false).pipe 1).queue = ⟨7, 2, none⟩ :: [] ∧ ((gwState false).pipe 1).busy = false ∧
    ((gwState true).pipe 1).busy = true ∧ ((gwState false).actRec 2).hold = 0 ∧ ((gwState false).actRec 3).hold ≠ 0 ∧
    ((gwState false).part ((gwState false).destOwner 2 2)).inReset = false ∧ ((gwState false).gw.mbx.val {} 9).placed = true ∧
    ((gwState false).gw.mbx.val {} 9).dest = true ∧ ((gwState false).pipe 1).queue.length < 16 := by decide

/-- RistrettoPath: two events ready, one handed over, records of channel 3 armed and not, and of a partition in reset. -/
theorem wit_Ristretto : let q : List RisEvent := [⟨1, 0x60, 900, 96, 0⟩, ⟨2, 0x61, 800, 96, 1⟩]
    let u : State := { easelState with easel := { easelState.easel with ris := q }, gw := { risRun := [⟨1, 0x60, 900, 96, 0⟩] } }
    risFirst u.et u.easel.ris = some ⟨2, 0x61, 800, 96, 1⟩ ∧ risFirst u.et (u.easel.ris.erase ⟨2, 0x61, 800, 96, 1⟩) = some ⟨1, 0x60, 900, 96, 0⟩ ∧
    risFirst u.et [] = none ∧ rUsed (u.routeBytes (u.gw.triggers.val {} 1).signal) = false ∧ u.inReset (u.destOwner 2 3) = false ∧
    (u.setPart 0 { st := 3 }).inReset (u.destOwner 2 3) = true ∧ u.dev.armed = true := by decide

/-- A running device with feed record `x` on FEED12 and on FEED48, an hour after the start. -/
def feedState (x : Feed) : State := { runState with et := 3600000000000, pwr := { feeds := [(0, x), (1, x)] } }

/-- FeedMonitors: levels on both sides of each threshold, at the exact end of each time, on both feeds. -/
theorem wit_Feeds : (feedState {}).powered = true ∧ ((feedState { sagTh := 900 }).feed 0).sag = false ∧
    ((feedState { sagTh := 3600, sag := true, sagAt := 3599950000000 }).feed 1).sagAt + 50000000 ≤ (feedState {}).et ∧
    ((feedState { crankTh := 600, sag := true }).feed 0).crank = false ∧
    ((feedState { crankTh := 600, crank := true, crankAt := 3599950000000 }).feed 0).crankAt + 50000000 ≤ (feedState {}).et ∧
    ((feedState { overvolt := true }).feed 1).overvolt = true ∧
    ((feedState { overload := true, overAt := 3599990000000 }).feed 1).overAt + 10000000 ≤ (feedState {}).et ∧
    ((feedState { overload := true, overAt := 3599900000000 }).feed 0).overAt + 100000000 ≤ (feedState {}).et := by decide

/-- DeratingSteps: RUN, at step 2 hot for a second, and cool for ten. -/
theorem wit_Derating : runState.active = true ∧
    ({ feedState {} with pwr := { step := 2, stepAt := 3599000000000, psw := 80000 } } : State).pwr.stepAt + 1000000000 ≤ (feedState {}).et ∧
    ({ feedState {} with pwr := { step := 1, leaveAt := some 3590000000000 } } : State).pwr.leaveAt = some 3590000000000 := by decide

/-- SupplyMoves: OFF at reset, RUN, and STANDBY after a fall. -/
theorem wit_Supply : ({ dev := { state := .off } } : State).dev.state = .off ∧ runState.dev.state = .run ∧ runState.powered = true ∧
    ({ runState with dev := { state := .standby, fell := true } } : State).dev.lockout = false := by decide

/-- Bridge 2 with record `x` in RUN, 1 s after the start. -/
def bridgeState (x : Bridge) : State := { runState with et := 1000000000, lsw := { bridges := [(2, x)] } }

/-- An armed device with channel 5 shed at the head of the resume order of FEED12, with budget `n`. -/
def shedState (n : Nat) : State :=
  { runState with
    et := 1000000000, dev := { state := .run, armed := true }
    lsw := { chans := [(5, { cfg := { enabled := true, limit := 80, steady := 20 }, cmd := 1, o := { shed := true } })] }
    pwr := { feeds := [(0, { resume := [5, 6], resumeAt := 1000000000, budget := n })] } }

/-- BridgeRows: a bridge that stalls at its filter length; one to lock out; one with a direction waiting; a resumption admitted, and not. -/
theorem wit_BridgeRows :
    (bridgeState { stallEn := true, stallFilter := 3, stallRun := 3, out := 2 }).active = true ∧
    ((bridgeState { stallEn := true, stallFilter := 3, stallRun := 3, out := 2 }).bridge 2).out = 2 ∧
    ((bridgeState { cfg := { enabled := true } }).bridge 2).xlock = false ∧
    (let s := bridgeState { cfg := { enabled := true }, period := 50000, o := { pend := true } }
     ((s.bridge (outletOf 60 - 56)).o.on || (s.bridge (outletOf 60 - 56)).o.pend) = true ∧
       (s.bridge (outletOf 60 - 56)).cfg.enabled = true) ∧
    ((shedState 20).feed 0).resume = [5, 6] ∧ (shedState 20).inertOut 5 = false ∧ (shedState 20).wanted 5 = true ∧
    (shedState 20).admits 0 0 20 = true ∧ (shedState 19).admits 0 0 20 = false ∧
    ((shedState 20).cfgOf 5).largest = 20 ∧ (shedState 20).protHeld 5 = false := by decide

/-- A device in RUN on source `src` in zone-time state `st`, with the primary domain, TIME_PPS and their records. -/
def timeState (src st : Nat) (x y : TimeSrc) : State :=
  { runState with
    et := 5000000000
    time := { source := src, ztState := st, srcs := [(0, x), (3, y)]
              cfg := { priGptp := 1, priPps := 2, primary := 0, hot := 0xFF, portMask := 1, priority1 := 255, revertMs := 2000 } } }

/-- TimeSources: a running count at both ends of the PPS spacing; a locked domain that is lost; a stale TIME_PPS; a hold-off at its end. -/
theorem wit_TimeSources :
    srcEnabled (timeState 4 0 { good := 3 } {}).time.cfg 0 = true ∧ srcEnabled (timeState 4 0 {} { good := 2 }).time.cfg 3 = true ∧
    ((timeState 4 0 { good := 3 } {}).timeSrc 0).good ≠ 0 ∧ (timeState 4 0 {} {}).powered = true ∧
    (let s := timeState 0 2 { good := 9, qualified := true } {}
     (s.timeSrc 0).qualified = true ∧ s.time.gm = false ∧ s.candidate 1 = false ∧ s.candidate 2 = false ∧ s.candidate 3 = false) ∧
    ((timeState 4 0 {} { good := 1, lastAt := 3900000000 }).timeSrc 3).lastAt + 1100000000 ≤ 5000000000 ∧
    (let s := timeState 3 2 { good := 9, qualified := true, qualAt := 3000000000 } { good := 5, qualified := true }
     s.byRank.find? s.candidate = some 0 ∧ s.refusable (s.timeSrc 0).err = false ∧
       (s.timeSrc 0).qualAt + s.time.cfg.revertMs * 1000000 ≤ s.et) := by decide

/-- TimeRows: holdover at its limit, 20 s of waiting, LOCKED on gPTP, a generator between its edges, a master port. -/
theorem wit_TimeRows :
    (let s : State := { runState with et := 20000000000, time := { ztState := 3, holdoverStart := some 0, cfg := { holdoverMs := 20000 } } }
     0 + s.time.cfg.holdoverMs * 1000000 ≤ s.et ∧ s.powered = true) ∧
    (let s : State := { runState with et := 20000000000, time := { ztState := 0, waitSince := some 0 } }
     0 + 20000000000 ≤ s.et ∧ s.time.ztState = 0) ∧
    (timeState 0 2 {} {}).time.source ≠ 4 ∧
    (let s : State := { runState with et := 1000, time := { pgs := [(15, { st := 2, active := true, mode := 1, count := 2, next := 1000, width := 16, period := 32 })] } }
     (s.pg 15).next ≤ s.et ∧ (s.pg 15).pulses + 1 ≠ (s.pg 15).count) ∧
    (let s : State := { runState with time := { gm := true, cfg := { portMask := 2048, roles := [0,0,0,0,0,0,0,0,0,0,0,1] } }, prt := [(11, { st := 2 })] }
     s.portUp 11 = true ∧ s.time.cfg.portMask.testBit 11 = true ∧ s.time.cfg.roles.getD 11 0 = 1) := by decide

/-- RUN, an hour on, with port `p` in record `x`. -/
def portState (p : Nat) (x : Prt) : State := { runState with et := 3600000000000, prt := [(p, x)] }

/-- PortLinks: a port in each state that a clause asks for, timers at their ends. -/
theorem wit_PortLinks : ((portState 11 { st := 1 }).prtOf 11).st = 1 ∧ ((portState 15 { st := 2 }).prtOf 15).st = 2 ∧
    (let s := portState 11 { st := 1, trainAt := 3599900000000, cfg := { training := 100 } }
     (s.prtOf 11).trainAt + (s.prtOf 11).cfg.training * 1000000 ≤ s.et) ∧
    ((portState 15 { st := 3 }).prtOf 15).st ≠ 0 ∧
    (let s := portState 3 { st := 2, sleepDue := some 3600000000000, cfg := { tc10 := true, acceptSleep := true } }
     (s.prtOf 3).sleepDue ≠ none ∧ 3600000000000 ≤ s.et ∧ s.wake.tc10Wait.contains 3 = false ∧ (s.prtOf 3).cfg.acceptSleep = true) ∧
    ((portState 11 { st := 3 }).prtOf 11).st = 3 ∧
    (let s := portState 12 { st := 2, plcaOk := true, heardAt := 3599000000000, cfg := { alone := 1000 } }
     (s.prtOf 12).cfg.leader = false ∧ (s.prtOf 12).plcaOk = true ∧ (s.prtOf 12).heardAt + (s.prtOf 12).cfg.alone * 1000000 ≤ s.et) ∧
    ((portState 15 { st := 2, cfg := { leader := true } }).prtOf 15).cfg.leader = true ∧
    (({ portState 2 {} with cmd := { async := [{ code := 0x0703, res := 3, started := true, pk := diagOf0 }] } } : State).outstanding
      fun o => o.on 0x0703 2) = true ∧
    (let s : State := { portState 5 { st := 2 } with wake := { phase := 2, armEt := 3599984000000, tc10Wait := [5] } }
     s.wake.tc10Wait.contains 5 = true ∧ (s.prtOf 5).sleepDue.getD (s.wake.armEt + 16000000) ≤ s.et) := by decide

/-- RUN with ports 3 and 9 up in VLAN 5, an entry for address 0xAB towards port 9, and switch registers `x` on port 3. -/
def swState (x : SwPort) : State :=
  { runState with
    et := 400000000000
    prt := [(3, { st := 2 }), (9, { st := 2 })]
    swc := { ports := [(3, x), (9, { cfg := { limits := [9, 9, 9, 9, 9, 9, 9, 9], portLimit := 64 } })]
             vlans := [(5, { vid := 5, members := 0x208 })]
             fdb := [(State.bucketOf 0xAB 0 * 8, { mac := 0xAB, ports := 0x200, type := 3, seen := 99000000000 })], ageing := 300
             frames := [(7, some { f := { port := 3 }, copies := 1, complete := true })], nextFrame := 8
             cbs := [(2, { func := 2, timeout := 1000 })], cbState := [(67, { takeAny := false, since := 399999000000 })] } }

/-- SwitchFrames: a frame for VLAN 5 and one for a VLAN without record, a reception, a queued frame, an old entry, a silent recovery. -/
theorem wit_SwitchFrames :
    (swState {}).active = true ∧ (swState {}).portUp 3 = true ∧ (swState {}).portUp 9 = true ∧
    ((swState {}).swc.vlans.val {} 5).members.testBit 9 = true ∧ ((swState {}).swc.vlans.val {} 6).vid = 0 ∧
    (swState {}).admitOk 9 0 8 0xAB 5 = true ∧
    ((swState { rx := some { frame := some 7, len := 64 }, cfg := { maxLen := 1522 } }).swPort 3).rx = some { frame := some 7, len := 64 } ∧
    (let s := swState { cls := [(6, { queue := [⟨7, 1, false⟩] })] }
     [7, 6, 5, 4, 3, 2, 1, 0].find? ((s.touch 3).eligible 3) = some 6) ∧
    ((swState {}).swc.cbState.val {} 67).since + ((swState {}).swc.cbs.val {} 2).timeout * 1000 ≤ (swState {}).et ∧
    ((swState {}).swc.fdb.val {} (State.bucketOf 0xAB 0 * 8)).ports = 2 ^ 9 ∧
    ((swState {}).swc.fdb.val {} (State.bucketOf 0xAB 0 * 8)).seen + (swState {}).swc.ageing * 1000000000 ≤ (swState {}).et := by
  refine ⟨by decide, by decide, by decide, by decide, by decide, by decide, by decide, by decide, by decide, ?_, ?_⟩ <;>
    simp [swState, Tab.val]

/-- RUN with CAN channel `n` in record `x`, one filter on channel 15. -/
def canState (n : Nat) (x : Can) : State :=
  { runState with can := { chans := [(n, x)], filters := [{ ch := 15, id := 5, mask := 0x7FF, formats := 1, toBuf := true, buf := 3, len := 8 }] } }

/-- CanFrames: each state a clause asks for; a request with attempts left; counters at their limits. -/
theorem wit_CanFrames :
    ((canState 15 { st := 2 }).canOf 15).rx = none ∧ (canState 15 { st := 2 }).canFilter 15 { id := 6 } = none ∧
    ((canState 15 { st := 2 }).canFilter 15 { id := 5 }).isSome = true ∧
    (let x : Can := { st := 2, rx := some ⟨{ id := 5 }, 9, none, true⟩, rxErr := 127, tec := 127, cfg := { rxQuota := 1 } }
     x.rxCells + canCells 0 ≤ x.cfg.rxQuota ∧ (canState 0 x).ringStopped x.cfg.ring = false) ∧
    bestReq [{ entry := 1, frame := { id := 9 } }, { entry := 2, frame := { id := 4 } }] = some { entry := 2, frame := { id := 4 } } ∧
    (let x : Can := { st := 2, attempt := some { entry := 0, frame := {}, attempts := 2 }, cfg := { retry := 3 }, tec := 119 }
     ((canState 3 x).canOf 3).cancelling = false ∧ x.tec + 8 < 128 ∧ x.next = []) ∧
    (let x : Can := { st := 2, attempt := some { entry := 0, frame := {}, attempts := 2 }, err := 1, tec := 248 }
     255 < x.tec + 8 ∧ x.tec ≤ 255) ∧
    ((canState 3 { st := 3, recovering := true }).canOf 3).recovering = true ∧
    ((canState 3 { st := 4, armed := true, wakeCfg := { mode := 0 } }).canOf 3).wakeCfg.mode ≠ 2 := by decide

/-- RUN with cluster 1 in record `x`, channel 3 in record `y`, one transmit and one receive record on FB.B. -/
def fryState (x : FryCluster) (y : FryChan) : State :=
  { runState with fry := { clusters := [(1, x)], chans := [(3, y)], bufs := [{ transmit := true, cl := 1, chB := true, slot := 5 },
    { cl := 1, chB := true, slot := 6, buf := 2, words := 4 }], branchRecs := [{ chn := 3, branch := 0, slots := 2 }] } }

/-- A configured cluster with a star on channel B. -/
def fryCfgB : FryCfg := { enabled := true, chB := true, starB := true, branchesB := 2, staticSlots := 10, coldstart := true, retry := 5 }

/-- FlexRayRows: the first and last states of each range, a due commit, a repeat, an own and a foreign slot. -/
theorem wit_FlexRayRows :
    (let s := fryState { cfg := fryCfgB, poc := 13, haltAtEnd := true } {}
     (s.cluster 1).cfg.enabled = true ∧ chanOn (s.cluster 1).cfg 3 = true ∧ chanStar (s.cluster 1).cfg 3 = true ∧
     s.ownsSlot 3 0 1 = true ∧ s.ownsSlot 3 1 1 = false ∧ 1 < chanBranches (s.cluster 1).cfg 3 ∧
     s.fry.bufs.findIdx (fun b => b.transmit && bufMatches b 3 5 9) = 0 ∧
     (s.fry.bufs.find? fun b => !b.transmit && bufMatches b 3 6 9).isSome = true ∧ s.et = 0) ∧
    (let s := fryState { cfg := fryCfgB, poc := 12 } { fwd := some ⟨0, 0, 1, 0⟩ }
     (s.fryCh 3).fwd.isSome = true ∧ (s.cluster 1).alone = false ∧ (s.fryTx 1).pend = none) ∧
    (let s := { fryState { cfg := fryCfgB, poc := 12 } {} with et := 2000 }.setFryTx 1 { pend := some [7] }
     (s.fryTx 1).pend = some [7] ∧ (s.fryTx 1).pendCycle = 0xFF ∧ (s.fryTx 1).pendAt + 2000 ≤ s.et) ∧
    (let s := fryState { cfg := fryCfgB, poc := 3, attempts := 9 } {}
     3 ≤ (s.cluster 1).poc ∧ (s.cluster 1).cfg.attempts ≤ (s.cluster 1).attempts) ∧
    (let s := { fryState { cfg := fryCfgB, poc := 9, alone := true } {} with et := 5000000 }
     (s.cluster 1).aloneAt + (s.cluster 1).cfg.retry * 1000000 ≤ s.et) := by decide

/-- RUN with LIN channel 11 in record `x`, entries for it: unconditional subscribe, event-triggered subscribe, publish. -/
def linState (x : Lin) : State :=
  { runState with et := 3600000000000, lin := { chans := [(11, x)], entries := [{ ch := 11, id := 1, dir := 1, buf := 7, len := 4 },
    { ch := 11, id := 2, dir := 1, type := 1, buf := 8 }, { ch := 11, id := 63, buf := 9 }] } }

/-- LinRows: frames in progress of each kind, headers of each kind, sleeping and waking at the limits. -/
theorem wit_LinRows :
    ((linState { st := 1, cur := some { entry := some 0 } }).linOf 11).cur = some { entry := some 0 } ∧
    (linState {}).lin.entries[0]? = some { ch := 11, id := 1, dir := 1, buf := 7, len := 4 } ∧
    (linState {}).lin.entries[1]? = some { ch := 11, id := 2, dir := 1, type := 1, buf := 8 } ∧
    (linState {}).lin.entries[2]? = some { ch := 11, id := 63, buf := 9 } ∧
    (linState {}).linSubs { entry := some 0 } = true ∧
    (linState {}).lin.entries.findIdx (fun e => e.ch == 11 && e.id == 1) = 0 ∧
    (linState {}).lin.entries.findIdx (fun e => e.ch == 11 && e.id == 63) = 2 ∧
    (linState {}).lin.entries[(linState {}).lin.entries.findIdx (fun e => e.ch == 11 && e.id == 5)]? = none ∧
    ((linState { st := 3, cfg := { enabled := true } }).linOf 11).cfg.enabled = true ∧
    (let x : Lin := { st := 1, cfg := { enabled := true }, headerAt := 3596000000000 }
     x.headerAt + x.cfg.idle * 1000000 ≤ (linState x).et) ∧
    (({ linState { st := 1, cfg := { enabled := true, commander := true } } with
      cmd := { async := [{ code := 0x0A03, res := 12, started := true, pk := { src := .ring 0, len := 4, params := [11, 0, 0, 0] } }] } } : State).linSleepCmd 11).isSome = true ∧
    ((linState { st := 3, cfg := { commander := true }, wakeAt := 3599899000000 }).linOf 11).wakeAt + 101000000 ≤ (linState {}).et ∧
    ((linState { st := 3, pulses := 3, wakeAt := 3599250000000 }).linOf 11).wakeAt + 250 * 3 * 1000000 ≤ (linState {}).et := by decide

/-- RUN with input `n` in record `x`, an hour after the start. -/
def dinState (n : Nat) (x : Din) : State :=
  { runState with et := 3600000000000, dio := { ins := [(n, x)], barrierOk := true, xvsOk := true } }

/-- A wire-break test of DI 63, started 10 ms before its end. -/
def testOf63 : Outst :=
  { code := 0x0B03, res := 0, started := true, startEt := 3599990000000
    pk := { src := .ring 0, len := 16, params := leBytes 8 (2 ^ 63) ++ leBytes 2 10 ++ leBytes 6 0 } }

/-- InputFilters: an XI at the last number, a DI with and without debounce, feed low and back, both bands, a test at its end. -/
theorem wit_InputFilters :
    (dinState 79 { enabled := true }).powered = true ∧ (dinState 79 { enabled := true }).dinHeld 79 = false ∧
    ((dinState 79 { enabled := true }).din 79).sampled = false ∧
    ((dinState 0 { enabled := true, sampled := true, qual := true }).din 0).filt ≠ true ∧
    ((dinState 0 { enabled := true, sampled := true, debounce := 1 }).din 0).debounce ≠ 0 ∧
    ((dinState 63 { filt := true, debUntil := some 3600000000000 }).din 63).debUntil = some (dinState 63 {}).et ∧
    (dinState 63 {}).dio.feedLow = false ∧
    (let s : State := { dinState 63 { sampled := true, filt := true } with dio := { feedLow := true, feedLowAt := 3599999000000 } }
     s.dio.feedLow = true ∧ s.dio.feedLowAt + 1000000 ≤ s.et) ∧
    (let x : Din := { wbEn := true, breakFilter := 5, brkRun := 5 }
     x.breakFilter ≤ x.brkRun ∧ x.wb = 0) ∧
    (let x : Din := { wbEn := true, breakFilter := 5, brkRun := 4, shortRun := 5 }
     x.brkRun < x.breakFilter ∧ x.breakFilter ≤ x.shortRun) ∧
    (let x : Din := { wbEn := true, breakFilter := 5, okRun := 5, wb := 2 }
     x.breakFilter ≤ x.okRun ∧ x.wb ≠ 0) ∧
    (let s : State := { dinState 63 {} with cmd := { async := [testOf63] } }
     s.diTests.find? (fun o => decide (testEnd o ≤ s.et)) = some testOf63) := by decide

/-- The isolated bank with output `n` in record `x`, armed. -/
def xoState (n : Nat) (x : Xo) (link xvs : Bool) : State :=
  { runState with et := 3600000000000, dev := { runState.dev with armed := true }
                  dio := { xos := [(n, x)], barrierOk := link, xvsOk := xvs } }

/-- IsolatedBank: both states of the link and of XVS, an output in fault and one in a field hold. -/
theorem wit_IsolatedBank :
    (xoState 7 { enabled := true, safeField := 1 } true true).powered = true ∧
    ((xoState 7 { enabled := true, safeField := 1 } true true).xo 7).enabled = true ∧
    ((xoState 7 { enabled := true, out := true } true true).xo 7).out = true ∧
    (let s := xoState 7 { enabled := true, cmd := true, fault := true, retryAt := 3600000000000 } true true
     (s.xo 7).retryAt ≤ s.et ∧ s.xoInert = false ∧ (s.xo 7).safe ≠ 2) ∧
    (xoState 0 {} false false).dio.barrierOk = false ∧ (xoState 0 {} false false).dio.xvsOk = false ∧
    ((xoState 0 { safe := 2, holdUntil := some 3600000000000 } false true).xo 0).holdUntil = some (xoState 0 {} false true).et := by decide

/-- RUN with pair `k` in record `x` and P15 in record `y`. -/
def pairState (k : Nat) (x : Pair) (y : Part) : State :=
  { runState with et := 3600000000000, par := { parts := [(0, { st := 1 }), (15, y)], pairs := [(k, x)] } }

/-- PairsAndPartitions: P15 in the window of pair 5 under both policies, an idle, a halted pair; each partition state. -/
theorem wit_PairsAndPartitions :
    (pairState 5 { st := 0, part := 15 } { st := 1 }).active = true ∧
    ((pairState 5 { st := 0, part := 15 } { st := 1, policy := 1 }).part 15).policy ≠ 0 ∧
    ((pairState 5 { st := 0, part := 15 } { st := 1 }).pair 5).part = 15 ∧ ((pairState 5 { st := 0, part := 15 } {}).pair 5).halted = false ∧
    ((pairState 0 { st := 1 } {}).pair 0).st ≠ 0 ∧ (pairState 0 {} {}).powered = true ∧ (pairState 0 {} {}).debugOpen = true ∧
    (pairState 0 {} {}).par.mPair.halted = false ∧ ((pairState 5 { st := 3, halted := true } {}).pair 5).halted = true ∧
    ((pairState 5 { lastSecureMs := 3600001 } {}).pair 5).lastSecureMs = (pairState 5 {} {}).et / 1000000 + 1 ∧
    ((pairState 5 {} { st := 2 }).part 15).restartNext = false ∧ ((pairState 5 {} { st := 2, restartNext := true }).part 15).st = 2 ∧
    ((pairState 5 {} { st := 4 }).part 15).st = 4 ∧
    (let o : Outst := { code := 0x0901, res := 1, pk := nopOf1, started := true, due := 3600000000000 }
     o.due ≠ 0 ∧ o.due ≤ (pairState 5 {} {}).et ∧ o.code ≠ 0x0801) := by decide

/-- RUN with ring `n` in record `r`, of P1. -/
def ringState (n : Nat) (r : Ring) : State :=
  { runState with par := { parts := [(0, { st := 1 }), (1, { st := 1, eventRing := n, vi := [5], viOvf := true })], rings := [(n, r)] } }

/-- A ring of 16 slots of 64 bytes, of P1. -/
def ringRec (type prod cons lost : Nat) : Ring :=
  { type := type, owner := 1, enabled := true, irqEn := true, depthLog := 4, slotLog := 6, base := 0x900000000, prod := prod, cons := cons, lost := lost }

/-- An event for P1. -/
def evOf1 : Raised := ⟨1, 0, ⟨7, 0x60, 1, 1⟩⟩

/-- RingsAndWindows: indices at both limits and beyond, lost records, an event, frames that fit and that do not, visible pages. -/
theorem wit_RingsAndWindows :
    (let s := ringState 127 (ringRec 0 65535 65530 0)
     s.active = true ∧ (s.ring 127).owner = 1 ∧ s.inReset 1 = false ∧ (s.ring 127).hostMade = true ∧ (s.ring 127).fill = 5 ∧
     (10 % 65536 + 65536 - (s.ring 127).cons) % 65536 = (s.ring 127).depth ∧ (11 % 65536 + 65536 - (s.ring 127).cons) % 65536 = 17) ∧
    (let s := ringState 127 (ringRec 3 9 4 2)
     (s.ring 127).hostMade = false ∧ (9 % 65536 + 65536 - (s.ring 127).cons) % 65536 = (s.ring 127).fill ∧ (s.ring 127).lost ≠ 0 ∧
     (s.part 1).inReset = false ∧ (s.part 1).vi.length < 32 ∧ (s.part 1).st ≠ 0) ∧
    (let s : State := { ringState 40 (ringRec 2 9 4 0) with evq := [evOf1] }
     s.nextEvent = some evOf1 ∧ (s.ring (s.part 1).eventRing).fill + 1 < (s.ring (s.part 1).eventRing).depth ∧
     s.poisonLeft (s.ring 40).nextSlot 16 = false ∧ evOf1.ev.bytes.length = 16) ∧
    (let s := { ringState 40 (ringRec 4 9 4 0) with can := { chans := [(3, { cfg := { ring := 40 }, fifo := [(7, { id := 5 })] })] } }
     ((s.nextFrame 40).isSome = true ∧ (s.ring 40).full = false ∧ s.ringStopped 40 = false)) ∧
    ((ringState 40 { ringRec 4 9 4 0 with slotLog := 4 }).ring 40).slotSize < 32 ∧
    (let s := ringState 40 (ringRec 5 9 4 0)
     (s.ring 40).fill ≠ 0 ∧ leNat (memRead s.mem ((s.ring 40).base + 4 * 64) 2) = 0 ∧ s.poisoned 0x900000100 64 = false) ∧
    runState.powered = true ∧ runState.winVisible 0 0x40000000 = true ∧ runState.winVisible 3 0x40000000 = false ∧
    runState.deadRegister 0 0x40000000 = true := by decide

/-- RUN with Bamlys serving in life-cycle state 0, slot 20 holding `k`, and one request outstanding. -/
def bamState (k : KeySlot) (o : Outst) : State :=
  { runState with
    cmd := { async := [o], sessions := [(1, { isOpen := true })] }
    bam := { serving := true, rootOk := true, slots := [(20, k)] } }

/-- A request of P0. -/
def bamReq (code : Nat) (ps : List Byte) : Outst := ⟨code, 0, { src := .ring 0, len := ps.length, params := ps }, true, 5, 0, false⟩

/-- The hypotheses of BamlysRequests, and a check. -/
def bamMeets (k : KeySlot) (code : Nat) (ps : List Byte) (c : Nat) : Bool :=
  let o := bamReq code ps
  let s := bamState k o
  bamFirst s.bamQueue == some o && s.bam.serving && !s.bam.halted && !s.bam.policyAfter &&
    !(s.feedBelow6 && writesRecord o.code o.pk.params) && !isCheckOnly o.pk && !o.discard && !isQuiet o.pk &&
    bamCheck o.code o.pk.params s {} == c

/-- BamlysRequests: a signature by an empty slot fails; each opcode and operation passes. -/
theorem wit_BamlysRequests : bamMeets {} 0x0D03 [20, 0, 0, 0, 1, 0, 0, 0] 0x0F00 = true ∧ (0x0F00 : Nat) ≠ stOk ∧
    bamMeets {} 0x0D05 [8, 0, 0, 0] stOk = true ∧
    bamMeets { type := 0x10, usage := 4, mask := 31 } 0x0D03 [20, 0, 0, 0, 1, 0, 0, 0] stOk = true ∧
    bamMeets { type := 0x18, usage := 8, mask := 31 } 0x0D04 [20, 0, 0, 0, 4, 0, 4, 0] stOk = true ∧
    bamMeets {} 0x0D00 [0, 0, 0, 0] stOk = true ∧
    bamMeets {} 0x0D01 [2, 1, 0, 0] stOk = true ∧
    bamMeets { type := 1, usage := 16, mask := 31, bindKind := 1, bindIdx := 1 } 0x0D01 [0, 1, 20, 0] stOk = true ∧
    bamMeets {} 0x0D02 [0, 0, 0, 0, 0, 0, 4, 0] stOk = true ∧
    bamMeets { type := 1 } 0x0D02 [4, 0, 20, 0] stOk = true ∧
    bamMeets {} 0x0D06 [1, 0, 0, 0, 0, 0, 0, 0] stOk = true ∧ bamMeets {} 0x0D06 [4, 0, 0, 0, 0, 0, 0, 0] stOk = true ∧
    bamMeets {} 0x0D07 [0, 1, 16, 0, 0, 0, 0, 0] stOk = true ∧ bamMeets {} 0x0D07 [1, 0, 0, 0, 0, 0, 0, 0] stOk = true := by
  decide

/-- BamlysAndTamper: a start with the known store at two helper states; restarts, one the fourth; a bound CAK; alarms by phase. -/
theorem wit_BamlysAndTamper :
    (let s : State := { dev := { state := .starting }, pwr := { refOk := true }, bam := { known := true, lc := 2, helper := true } }
     s.bam.serving = false ∧ s.bam.halted = false ∧ s.bam.bootRetry = none ∧ s.bam.policyDue = false) ∧
    (let s := { runState with et := 7, bam := { serving := true, restartAt := [5, 4, 3] } }
     s.powered = true ∧ 4 ≤ (s.et :: s.bam.restartAt.filter (fun e => decide (s.et < e + 60000000000))).length) ∧
    (let s := { runState with
       swc := { ports := [(3, { cfg := { macsec := true } })] }, prt := [(3, { cfg := { enabled := true }, st := 2 })]
       bam := { serving := true, slots := [(20, { type := 1, usage := 32, mask := 31, bindKind := 2, bindIdx := 3 })] } }
     (s.swPort 3).cfg.macsec = true ∧ s.portUp 3 = true ∧ (s.keySlot (18 + 2)).type ≠ 0 ∧ s.mayUse (s.keySlot (18 + 2)) 5 = true ∧
     (s.keySlot (18 + 2)).bindKind = 2 ∧ (s.keySlot (18 + 2)).bindIdx = 3) ∧
    ({ armed := 0x10 } : Bam).armed.testBit 1 = false ∧ runState.bam.armed.testBit 4 = true ∧ runState.active = true ∧
    bamFirst (bamState {} (bamReq 0x0D03 [20, 0])).bamQueue = some (bamReq 0x0D03 [20, 0]) ∧ keyOperation 0x0D03 = true ∧
    writesRecord 0x0D06 [1] = true := by decide

/-- STARTING with the reference qualified where `ref`, the record `r`, and slot `i` started. -/
def startState (ref : Bool) (r : SlotRecord) : State :=
  { dev := { state := .starting }, et := 6000000, pwr := { refOk := ref }, bam := { halted := true }
    upd := { known := true, record := r, started := some 0 } }

/-- RUN from slot 0 with the record `r` and chunks being committed. -/
def updState (r : SlotRecord) : State :=
  { runState with et := 9, upd := { known := true, record := r, committing := true, healthEnd := some 9, activateAt := some 9 } }

/-- StartAndUpdate: records of every selection, a start, a failing start, chunks, the health window and the delayed resets. -/
theorem wit_StartAndUpdate :
    (let s := startState false {}
     s.pwr.refOk = false ∧ s.bam.bootRetry = none ∧ s.dev.startEt + 5000000 ≤ s.et ∧ s.bam.serving = false ∧
       s.bam.armed.testBit 2 = true) ∧
    (let r : SlotRecord := { a := { st := 3 }, b := { st := 5 } }
     r.a.st = 3 ∧ r.b.st ≠ 3 ∧ r.b.st ≠ 4 ∧ 0 < r.a.trialStarts) ∧
    (let r : SlotRecord := { a := { st := 4, trialLeft := 1 }, b := { st := 5 } }
     r.a.st = 4 ∧ r.b.st ≠ 3 ∧ r.b.st ≠ 4 ∧ 0 < r.a.trialLeft) ∧
    (let r : SlotRecord := { a := { st := 4, trialLeft := 0 }, b := { st := 5 } }
     r.a.st = 4 ∧ r.b.st = 5 ∧ r.a.trialLeft = 0) ∧
    (let r : SlotRecord := { b := { st := 5 } }
     r.b.st = 5 ∧ r.a.st ≠ 3 ∧ r.a.st ≠ 4 ∧ r.a.st ≠ 5 ∧ ({} : SlotRecord).a.st ∉ [3, 4, 5]) ∧
    (let s := startState true { a := { st := 4 }, b := { st := 5 } }
     s.pwr.refOk = true ∧ s.dev.mcoreUp = false ∧ s.upd.started = some 0 ∧ s.bam.halted = true ∧ (s.slotRec 0).st = 4 ∧
       (s.slotRec (1 - 0)).st = 5 ∧ s.imageCode {} ≠ 0) ∧
    ({ startState true {} with dev := { state := .starting, mcoreUp := true } } : State).dev.loadsDone = false ∧
    (let s := updState { a := { st := 4 }, b := { st := 1, committed := 2, chunks := 4 } }
     s.upd.committing = true ∧ s.feedBelow6 = false ∧ (s.slotRec s.spareSlot).st = 1 ∧
       (s.slotRec s.spareSlot).committed ≠ 0 ∧ s.upd.healthEnd = some 9 ∧ s.upd.activateAt = some 9 ∧ 9 ≤ s.et ∧
       s.active = true ∧ (s.slotRec s.dev.activeSlot).st = 4) ∧
    (∀ k, ({ runState with dev := { state := .run, resetPend := some ⟨k, 0⟩ } } : State).active = true) ∧
    (let o : Outst := ⟨0x0E03, 0, { src := .ring 0 }, true, 5, 0, false⟩
     ({ runState with cmd := { async := [o] } } : State).cmd.async.filter updWaits = [o]) := by
  refine ⟨?_, ?_, ?_, ?_, ?_, ?_, ?_, ?_, fun _ => rfl, ?_⟩ <;> decide

/-- StartAndUpdate: an image whose checks pass. -/
theorem wit_StartImage :
    let pal : PaletteRec := { strokes := 1 }
    let g : Image := { canvasUs := 10000, parts := [(0, { enabled := true })], sets := [(0, { enabled := true, wki := 1 })]
                       palettes := [(0, pal), (1, pal), (2, pal), (3, pal)] }
    ({ startState true {} with bam := { serving := true, rootOk := true } } : State).imageCode g = 0 := by decide

/-- SLEEP-PREP in a phase, with the line 1 and the wake set 0 of CAN 3, LIN 2, port 4 and that line. -/
def prepState (phase : Nat) : State :=
  { runState with
    dev := { state := .sleepPrep }, et := 2000000000
    wake := { phase := phase, slot3 := 1, prepFrom := some 0, prepMs := 5, wki := [(1, { enabled := true, high := true })]
              sets := [(0, { enabled := true, wki := 2, can := 8, lin := 4, ports := 16 })] }
    can := { chans := [(3, { cfg := { enabled := true } })] }, lin := { chans := [(2, { cfg := { enabled := true } })] }
    prt := [(4, { cfg := { enabled := true }, st := 2 })] }

/-- SleepAndWake: PREP, arming with and without a port, the commit point, a line by device state, a source, a pulse. -/
theorem wit_SleepAndWake :
    ((prepState 1).wake.phase = 1 ∧ (prepState 1).wake.slot3 = 1 ∧ (prepState 1).wake.acceptEt + 1000000000 ≤ (prepState 1).et ∧
      ({} : Wake).prepFrom = none) ∧
    ((prepState 1).wake.prepFrom = some 0 ∧ 0 + (prepState 1).wake.prepMs * 1000000 ≤ (prepState 1).et ∧
      (∀ n, n < 4 → (prepState 1).curSet.wki.testBit n = true → ((prepState 1).wki n).enabled = true →
        ((prepState 1).wki n).level = true → (prepState 1).wkiOn n = false) ∧
      (prepState 1).curSet.can.testBit 3 = true ∧ ((prepState 1).canOf 3).cfg.enabled = true ∧
      (prepState 1).curSet.lin.testBit 2 = true ∧ ((prepState 1).linOf 2).cfg.enabled = true ∧
      (prepState 1).curSet.ports.testBit 4 = true ∧ ((prepState 1).prtOf 4).cfg.enabled = true ∧ ((prepState 1).prtOf 4).st ≠ 3) ∧
    (let s := { prepState 1 with prt := [] }
     (∀ p, p < 12 → s.curSet.ports.testBit p = true → (s.prtOf p).cfg.enabled = true → (s.prtOf p).st = 3) ∧
       s.wake.tc10Wait = []) ∧
    ((prepState 4).wake.phase = 4 ∧ (prepState 4).dev.state = .sleepPrep) ∧
    (((prepState 2).wki 1).enabled = true ∧ (prepState 2).wake.wkiLevel.testBit 1 ≠ true ∧ ((prepState 2).wki 1).high = true ∧
      (prepState 2).beforeCommit = true ∧ (prepState 2).curSet.wki.testBit 1 = true ∧
      ({ prepState 2 with wake := { (prepState 2).wake with sets := [] } } : State).curSet.wki.testBit 1 = false ∧
      ({ state := .standby } : Dev).lockout = false) ∧
    ({ wake := { map := 3 }, dev := { state := .sleep } } : State).wake.map ≠ 0 ∧
    (let s : State := { rtcNs := 7, wake := { wko := [(1, { enabled := true, active := true, pulseEnd := 6 })] } }
     (s.wko 1).pulseEnd ≠ 0 ∧ (s.wko 1).pulseEnd ≤ s.rtcNs) := by decide

/-- CrossingsAndErrors: a stopped mailbox and a HANG crossing, one held write at a running crossing, no injection, a poisoned unit
in a grant of P1, a held report due, and times past. -/
theorem wit_CrossingsAndErrors :
    runState.powered = true ∧ (holdMode 0 = true ∧ runState.clockRuns 0 = false ∧ (runState.flt.hold.val [] 0).length < 8) ∧
    (holdMode 9 = false ∧ runState.injected 2 0x800000000 0 = false) ∧
    (let s : State := { runState with flt := { hold := [(7, [⟨1, 0x800000000, 4, 5, true⟩])] } }
     holdMode 7 = true ∧ s.clockRuns 7 = true ∧ s.flt.hold.val [] 7 = [⟨1, 0x800000000, 4, 5, true⟩] ∧ inDram 0x800000000 = true) ∧
    runState.injected 3 0 0 = false ∧ runState.injected 0 0x800000000 0 = false ∧ runState.flt.inject = none ∧
    runState.injected 1 0x800000000 0 = false ∧
    (let s : State := { dev := { state := .run }, flt := { poison := [0x800000000] }
                        par := { parts := [(1, { st := 1, dramBase := 0x800000000, dramSize := 4096 })] } }
     s.poisoned 0x800000000 1 = true ∧ s.grantOf 0x800000000 = 1) ∧
    (let h : HeldReport := ⟨⟨5, 0x201, 4, 0, false, 0, 0x1F, 2, 4, 0, 5⟩, 40000005⟩
     let s : State := { runState with et := 40000005, flt := { held := [h] } }
     s.flt.held.find? (fun h => decide (h.due ≤ s.et)) = some h) ∧
    (let s : State := { runState with et := 100000000, dev := { state := .run, mcoreUp := true } }
     s.dev.mcoreUp = true ∧ s.flt.wdog + 100000000 ≤ s.et ∧ s.flt.lastFlush + 100000000 ≤ s.et) := by decide

/-- An armed running device with room in the command account of FEED12, channel 3 enabled with an envelope, and a packet for it. -/
def loadedState : State where
  dev := { state := .run, armed := true }
  pwr := { feeds := [(0, { budget := 1000, reserve := 300 })] }
  lsw := { chans := [(3, { cfg := { enabled := true, steady := 50, limit := 80, minPeriod := 200, imgRetry := 2 } })] }

def chanPk (b2 b4 b5 b6 : BitVec 8) : Packet := { src := .ring 0, len := 24, params := [3, 0, b2, 0, b4, b5, b6, 0] ++ List.replicate 16 0 }

/-- LoadCommandActions: off and on of an armed channel, admitted, refused and held; a period too short and one that is not; a
configuration within and beyond the contract; an inert output. -/
theorem wit_LoadCommandActions :
    (loadedState.chan 3).cfg.enabled = true ∧ u16 (chanPk 1 0 0 0).params 0 = 3 ∧ runState.inertOut 3 = true ∧
    loadedState.inertOut 3 = false ∧ u8 (chanPk 0 0 0 0).params 2 ≠ 1 ∧ u8 (chanPk 1 0 0 0).params 2 = 1 ∧
    (loadedState.chan 3).cmd = 0 ∧ loadedState.classShed (feedOf 3) (loadedState.chan 3).cfg.loadClass = false ∧
    loadedState.protHeld 3 = false ∧ loadedState.admits (feedOf 3) 1 (loadedState.chan 3).cfg.largest = true ∧
    (let s := loadedState.setProt 3 { oc := 4 }
     s.protHeld 3 = true ∧ s.admits (feedOf 3) 1 (s.chan 3).cfg.steady = true) ∧
    (let s : State := { loadedState with pwr := {} }
     s.admits (feedOf 3) 1 (s.chan 3).cfg.largest = false ∧ s.protHeld 3 = false) ∧
    u16 (chanPk 0 0 1 100).params 6 < (loadedState.chan 3).cfg.minPeriod ∧
    (200 ≤ u16 (chanPk 0 0 1 250).params 6 ∧ u16 (chanPk 0 0 1 250).params 4 = 256) ∧
    ((u8 (chanPk 1 0 0 0).params 2).testBit 3 = false ∧ (u8 (chanPk 1 0 0 0).params 2).testBit 2 = false) ∧
    (let pk : Packet := { src := .ring 0, params := [3, 0, 8] ++ List.replicate 11 0 ++ [5] }
     (u8 pk.params 2).testBit 3 = true ∧ (loadedState.chan 3).cfg.imgRetry < u8 pk.params 14) := by decide

/-- DeviceTimePowerActions: an armed device and another; a holdover; sources all disabled; a start in the past and one to come; a
generator idle, in a pulse and between pulses; each feed selected and not. -/
theorem wit_DeviceTimePowerActions :
    (loadedState.chan 3).cfg.enabled = true ∧
    (({ loadedState with lsw := { loadedState.lsw with bridges := [(0, { cfg := { enabled := true } })] } } : State).bridge 0).cfg.enabled = true ∧
    (let pk : Packet := { src := .mp, params := List.replicate 16 0 }
     u8 pk.params 0 = 0 ∧ u8 pk.params 1 = 0 ∧ u8 pk.params 2 = 0 ∧ diff40 (u40 pk.params 3) loadedState.et ≤ 0) ∧
    0 < diff40 (u40 [0, 0, 0, 9, 0, 0, 0, 0] 3) loadedState.et ∧
    (let s : State := { loadedState with et := 5000000000, time := { holdoverStart := some 0 } }
     s.time.holdoverStart = some 0 ∧ 0 + u32 [0xE8, 3, 0, 0] 0 * 1000000 ≤ s.et ∧ s.et < 0 + u32 [0x20, 0x4E, 0, 0] 0 * 1000000) ∧
    (loadedState.pg 1).st = 0 ∧ (let s := loadedState.setPg 1 { st := 2, active := true }; (s.pg 1).st ≠ 0 ∧ (s.pg 1).active = true) ∧
    (let s := loadedState.setPg 1 { st := 1 }; (s.pg 1).st ≠ 0 ∧ (s.pg 1).active = false) ∧
    (u32 [2, 0, 0, 0] 0).testBit 1 = true ∧ (u32 [2, 0, 0, 0] 0).testBit 0 = false := by decide

/-- `loadedState` with bridge 0 enabled, in COAST, with a period of its image. -/
def bridgedState : State := loadedState.setBridge 0
  { cfg := { enabled := true, steady := 50, limit := 80, minPeriod := 50000, imgRetry := 2 } }

def bridgePk (m : BitVec 8) (d1 : BitVec 8) (p1 : BitVec 8) : Packet := { src := .ring 0, len := 8, params := [0, m, d1, d1, 0, p1, 0, 0] }

/-- BridgeCommandActions: a period too short; inert and not; coast, drive with and without duty; a stalled bridge; a class shed, refused,
held and admitted; a configuration within and beyond the contract, with and without a clear bit. -/
theorem wit_BridgeCommandActions :
    (bridgedState.bridge 0).cfg.enabled = true ∧ u8 (bridgePk 0 0 0).params 0 = 0 ∧
    (u32 (bridgePk 1 9 1).params 4 = 256 ∧ 256 < (bridgedState.bridge 0).cfg.minPeriod) ∧ u32 (bridgePk 1 9 0).params 4 = 0 ∧
    bridgedState.inertOut 56 = false ∧ ({ bridgedState with dev := { state := .run } } : State).inertOut 56 = true ∧
    (u8 (bridgePk 0 0 0).params 1 = 0 ∧ u8 (bridgePk 2 9 0).params 1 = 2 ∧ u16 (bridgePk 2 9 0).params 2 ≠ 0 ∧ u16 (bridgePk 2 0 0).params 2 = 0) ∧
    ((bridgedState.setBridge 0 { bridgedState.bridge 0 with stalled := 2 }).bridge 0).stalled = 2 ∧
    ((bridgedState.bridge 0).stalled = 0 ∧ (bridgedState.bridge 0).cmd = 0 ∧ (bridgedState.bridge 0).out = 0 ∧ (bridgedState.bridge 0).o.acct = none) ∧
    (let s : State := { bridgedState with pwr := { bridgedState.pwr with step := 3 } }
     (s.setBridge 0 { cfg := { enabled := true, loadClass := 3 } }).classShed 0 3 = true) ∧
    bridgedState.classShed 0 (bridgedState.bridge 0).cfg.loadClass = false ∧
    (bridgedState.admits 0 1 50 = true ∧ (bridgedState.bridge 0).cfg.largest = 50) ∧ ({ bridgedState with pwr := {} } : State).admits 0 1 50 = false ∧
    ((bridgedState.setProt 56 { oc := 4 }).protHeld 56 = true ∧ bridgedState.protHeld 56 = false ∧ (bridgedState.bridge 0).xlock = false) ∧
    (let ps : List Byte := [0, 0, 8, 7, 0, 3] ++ List.replicate 18 0
     (u16 ps 2).testBit 3 = true ∧ (bridgedState.bridge 0).cfg.imgRetry < u8 ps 5 ∧ (u16 ps 2).testBit 8 = true ∧
       (u16 ps 2).testBit 9 = true ∧ (u16 ps 2).testBit 10 = true) ∧
    (u16 [0, 0, 2, 0] 2).testBit 1 = true ∧ ((bridgedState.setBridge 0 { o := { step := 1 } }).bridge 0).o.step ≠ 0 ∧
    (u16 [0, 0, 2, 0] 2).testBit 8 = false := by decide

/-- A packet of twelve parameters. -/
def anyPk (b0 b1 b2 : BitVec 8) : Packet := { src := .ring 0, len := 24, params := [b0, b1, b2, 0] ++ List.replicate 20 0 }

/-- NetworkCommandActions: ports in OFF, ASLEEP and TRAINING; wake operations; a channel asleep; clusters in READY; a LIN channel asleep;
counters selected and not. -/
theorem wit_NetworkCommandActions :
    (State.reset.prtOf 1).st = 0 ∧ ((State.reset.setPrt 1 { st := 3 }).prtOf 1).st = 3 ∧ ((State.reset.setPrt 1 { st := 1 }).prtOf 1).st = 1 ∧
    ((State.reset.setPrt 1 { st := 1 }).prtOf 1).sleepDue = none ∧ u8 (anyPk 1 2 0).params 1 = 2 ∧ u8 (anyPk 1 0 0).params 1 ≠ 2 ∧
    ((State.reset.setCan 1 { st := 4 }).canOf 1).st = 4 ∧ (State.reset.canOf 1).st ≠ 4 ∧ ((State.reset.setCluster 1 { poc := 2 }).cluster 1).poc = 2 ∧
    ((State.reset.setLin 1 { st := 2 }).linOf 1).st = 2 ∧ (State.reset.linOf 1).st ≠ 2 ∧ u8 (anyPk 1 0 0).params 1 = 0 ∧
    (u32 (anyPk 2 0 0).params 0).testBit 1 = true ∧ (u32 (anyPk 2 0 0).params 0).testBit 0 = false := by decide

/-- NetworkCommandActions, SWC_FDB_WRITE: a key that some place holds, and, in an empty database, a new key with a free way. -/
theorem wit_NetworkFdb :
    (State.reset.fdbFind 5 1 = none) ∧
    ((upFrom (State.bucketOf 5 1 * 8) 8).find? fun i => (State.reset.swc.fdb.val {} i).type == 0) = some (State.bucketOf 5 1 * 8) ∧
    ((State.reset.setFdb (State.bucketOf 5 1 * 8) { mac := 5, fid := 1, type := 2 }).fdbFind 5 1 = some (State.bucketOf 5 1 * 8)) := by
  refine ⟨rfl, rfl, ?_⟩
  have h : (State.reset.setFdb (State.bucketOf 5 1 * 8) { mac := 5, fid := 1, type := 2 }).swc.fdb.val {} (State.bucketOf 5 1 * 8) =
    { mac := 5, fid := 1, type := 2 } := Tab.val_put_same _ _ _ _
  exact List.find?_cons_of_pos (by rw [h]; rfl)

/-- An armed running device with an isolated output, the barrier link up, partition 1 RUNNING, a trigger on input 0 whose image k is 2, two wake
sources recorded and a sleep request outstanding. -/
def outletState : State where
  dev := { state := .run, armed := true }
  dio := { barrierOk := true, xvsOk := true, xos := [(1, { enabled := true })], ins := [(0, { imageK := 2 })] }
  gw := { triggers := [(1, { used := true, kind := 0, source := 0 })] }
  par := { parts := [(1, { st := 1 })] }
  wake := { map := 6, first := 2 }
  cmd := { async := [{ res := 0, code := 0x0202, started := true, pk := anyPk 0 2 0 }] }
  easel := { switchDue := some (anyPk 0 2 0) }

def dinPk (sel k : BitVec 8) : Packet := { src := .ring 0, params := [0, 0, sel, 0, k] ++ List.replicate 11 0 }

/-- SystemCommandActions: a switch taken and outstanding; a k above the image's and one that is not; outputs inert, without the link, and driven;
a RUNNING partition; a request and a cancel; map bits of the mask and not, with and without a source left; with and without the device's counts;
FEED12 below and not below 6.0 V, the running slot 0 with another sketch. -/
theorem wit_SystemCommandActions :
    (let s := outletState
     (∃ o ∈ s.cmd.async, o.code = 0x0202 ∧ o.started = true ∧ s.easel.switchDue = some o.pk) ∧
     ((u8 (dinPk 2 3).params 2).testBit 1 && (s.gw.triggers.any fun e => e.2.used && e.2.kind == 0 && e.2.source == 0) && decide ((s.din 0).imageK < 3)) = true ∧
     ((u8 (dinPk 2 2).params 2).testBit 1 && (s.gw.triggers.any fun e => e.2.used && e.2.kind == 0 && e.2.source == 0) && decide ((s.din 0).imageK < 2)) = false ∧
     State.reset.xoInert = true ∧ s.xoInert = false ∧ ({ s with dio := {} } : State).dio.barrierOk = false ∧ ({ s with dio := {} } : State).xoInert = false ∧
     s.dio.barrierOk = true ∧ (s.xo (u8 (anyPk 1 1 0).params 0)).enabled = true ∧ (s.part (u8 (anyPk 1 1 0).params 0)).st = 1) ∧
    (u8 (anyPk 0 1 0).params 0 ≠ 1 ∧ u8 (anyPk 1 1 0).params 0 = 1 ∧ u8 (anyPk 1 0 0).params 1 ≠ 1) ∧
    (outletState.wake.map.testBit 1 && !(u64 (anyPk 2 0 0).params 0).testBit 1) = false ∧
    (outletState.wake.map.testBit 2 && !(u64 (anyPk 2 0 0).params 0).testBit 2) = true ∧
    mapBits (fun i => outletState.wake.map.testBit i && !(u64 (anyPk 6 0 0).params 0).testBit i) 48 = 0 ∧
    ({ State.reset with pwr := { feeds := [(0, { v := 599 })] } } : State).feedBelow6 = true ∧
    (State.reset.feedBelow6 = false ∧ State.reset.dev.activeSlot ≤ 1 ∧ (State.reset.slotRec State.reset.spareSlot).sketch ≠ u32 (anyPk 1 0 0).params 0) := by
  decide


end Sys2Proof.Tests
end

