-- ==== Sys2Proof/Proofs/Arming.lean ====
section
/-!
PROOFS. What one step does to the view `State.base`: the arming invariant, the coarse device states, the queue.
-/

namespace Sys2Proof.Machine

/-- The arming invariant, said of the view. -/
def Base.Inv (a : Base) : Prop :=
  (a.armed = true → a.state = .run) ∧ (a.committed = true → a.armed = false)

theorem State.active_iff_coarse (s : State) : s.active = true ↔ s.dev.state.coarse = .run := by
  unfold State.active
  cases s.dev.state <;> decide

theorem State.inv_iff_base (s : State) : s.Inv ↔ s.base.Inv := by
  simp only [State.Inv, Base.Inv, State.base, State.active_iff_coarse, beq_iff_eq]

/-- R31, R502: a lost compute side, a commit point and an entry to SLEEP leave nothing armed; a command arms only before the
commit point while palettes run. -/
theorem Base.next_inv {a b : Base} (hi : a.Inv) (h : a.next b) : b.Inv := by
  obtain ⟨hrun, hcommit⟩ := hi
  cases h with
  | cmd _ h =>
    rcases h with rfl | ⟨hr, hc, x, rfl⟩
    · exact ⟨hrun, hcommit⟩
    · exact ⟨fun _ => hr, fun h => absurd (hc.symm.trans h) (by decide)⟩
  | off | standby | starting => exact ⟨nofun, fun _ => rfl⟩
  | run h => exact ⟨fun _ => rfl, hcommit⟩
  | commit h => exact ⟨nofun, fun _ => rfl⟩
  | sleep h k => exact ⟨fun ha => absurd ((hcommit k).symm.trans ha) (by decide), nofun⟩

theorem Base.stepped_inv {a b : Base} (hi : a.Inv) (h : a.stepped b) : b.Inv := by
  cases h with
  | moved _ h => exact Base.next_inv hi h
  | ticked b n hn h =>
    have hb : b.Inv := Base.next_inv hi (.cmd b h)
    exact hb

theorem DevState.mayMove_coarse_self (d : DevState) : DevState.mayMove d.coarse d.coarse = true := by
  cases d <;> rfl

/-- The coarse transitions of R27, said of one command. -/
theorem Base.next_mayMove {a b : Base} (stays : DevState.mayMove a.state a.state = true) (h : a.next b) :
    DevState.mayMove a.state b.state = true := by
  cases h with
  | cmd _ h => rcases h with rfl | ⟨_, _, x, rfl⟩ <;> exact stays
  | off => cases e : a.state <;> rfl
  | standby h => rcases h with h | h <;> rw [h] <;> rfl
  | starting => cases e : a.state <;> rfl
  | run h | commit h | sleep h => rw [h]; rfl

theorem Base.stepped_mayMove {a b : Base} (stays : DevState.mayMove a.state a.state = true) (h : a.stepped b) :
    DevState.mayMove a.state b.state = true := by
  cases h with
  | moved _ h => exact Base.next_mayMove stays h
  | ticked b n hn h =>
    have hb : DevState.mayMove a.state b.state = true := Base.next_mayMove stays (.cmd b h)
    exact hb

end Sys2Proof.Machine

open Sys2Proof Sys2Proof.Machine

/-- Settles O7: the step changes the view of the queue's rest by one `Base.stepped`, which keeps the invariant. -/
theorem armingInvariantKept : Obligations.ArmingInvariantKept := by
  intro s hi
  obtain ⟨t, ht, hb⟩ := step_next s
  have hi' : ({ s with pending := s.pending.tail } : State).Inv := hi
  exact ⟨t, ht, t.inv_iff_base.mpr (Base.stepped_inv ((State.inv_iff_base _).mp hi') hb)⟩

/-- Settles O8, from what a step can do to the view. -/
theorem deviceMovesAsListed : Obligations.DeviceMovesAsListed := by
  intro s
  obtain ⟨t, ht, hb⟩ := step_next s
  exact ⟨t, ht, Base.stepped_mayMove (DevState.mayMove_coarse_self _) hb⟩

/-- Settles O4: each command's meaning is a total function of the state. -/
theorem noCommandStops : Obligations.NoCommandStops := by
  intro i s
  obtain ⟨t, ht, -⟩ := exec_next i s
  exact ⟨t, ht⟩

/-- Settles O5: no command changes the queue in the view. -/
theorem queueOnlyFromOutside : Obligations.QueueOnlyFromOutside := by
  intro i s t ht
  obtain ⟨u, hu, hb⟩ := exec_next i s
  cases ht.symm.trans hu
  exact Base.next_pending hb

/-- Settles O6: the state right after reset, read field by field. -/
theorem armingInvariantAtReset : Obligations.ArmingInvariantAtReset :=
  ⟨⟨nofun, fun _ => rfl⟩, rfl, rfl, rfl, rfl, rfl⟩

end

