-- ==== Sys2Proof/Proofs/Palettes.lean ====
section
/-!
PROOFS. Stroke blocks, the decision point and palette loads (R111 to R115, R152).
-/

namespace Sys2Proof.Machine

/-! ### Loads (R113) -/

@[simp] theorem State.startLoad_loads (s : State) : s.startLoad.easel.loads = s.easel.loads := by
  unfold State.startLoad
  split
  · rfl
  · rw [‹s.easel.loads = _›]; exact ‹s.easel.loads = _›

/-- The start of a load takes the slot of the first waiting load alone. -/
theorem State.startLoad_slot (s : State) (n : Nat) (h : ∀ m ∈ s.easel.loads, m.1 ≠ n) : s.startLoad.slot n = s.slot n := by
  unfold State.startLoad
  split
  · rfl
  · rename_i k j rest e
    have hk : n ≠ k := fun q => h (k, j) (by simp [e]) q.symm
    exact State.setSlot_slot_ne s k n _ hk

/-- The end of a load of slot `n`: the slot's successor in the start-up order goes in front, and the next load starts (R113).
Neither touches slot `n`. -/
theorem State.loadEnds (u : State) (n : Nat) {rest : List (Nat × Nat)} (hl : u.easel.loads = rest) (hr : ∀ m ∈ rest, m.1 ≠ n) :
    let v := if n == 1 || n == 2 then { u with easel := { u.easel with loads := (n + 1, n + 1) :: u.easel.loads } } else u
    v.startLoad.slot n = u.slot n ∧ v.startLoad.easel.loads = (if n = 1 ∨ n = 2 then [(n + 1, n + 1)] else []) ++ rest := by
  intro v
  have hv : v.easel.loads = (if n = 1 ∨ n = 2 then [(n + 1, n + 1)] else []) ++ rest ∧ v.slot n = u.slot n := by
    by_cases c : n = 1 ∨ n = 2
    · simp [v, c, hl]; rfl
    · simp [v, c, hl]
  have hne : ∀ m ∈ v.easel.loads, m.1 ≠ n := by
    rw [hv.1]
    intro m hm
    rcases List.mem_append.mp hm with h | h
    · by_cases c : n = 1 ∨ n = 2
      · simp [c] at h; simp [h]
      · simp [c] at h
    · exact hr m h
  exact ⟨(v.startLoad_slot n hne).trans hv.2, v.startLoad_loads.trans hv.1⟩

@[simp] theorem State.setSlot_loads (s : State) (n : Nat) (x : PalSlot) : (s.setSlot n x).easel.loads = s.easel.loads := rfl

@[simp] theorem State.acceptLog_easel (s : State) (src : Nat) (r : List Byte) : (s.acceptLog src r).easel = s.easel := rfl

@[simp] theorem State.markFailed_easel (s : State) : s.markFailed.easel = s.easel := by
  unfold State.markFailed
  split <;> rfl

theorem State.slot_congr {s t : State} (h : t.easel = s.easel) (n : Nat) : t.slot n = s.slot n := by
  unfold State.slot; rw [h]

@[simp] theorem State.markFailed_slot (s : State) (n : Nat) : s.markFailed.slot n = s.slot n :=
  State.slot_congr s.markFailed_easel n

@[simp] theorem State.acceptLog_slot (s : State) (src : Nat) (r : List Byte) (n : Nat) : (s.acceptLog src r).slot n = s.slot n := rfl

/-- What the slot of a load that ends with `code` reads as: LOADED with its section, or EMPTY. -/
def State.slotAfterLoad (s : State) (n k code : Nat) : PalSlot :=
  if code = 0 then
    let r := s.palSection k
    { st := 2, sect := k, strokes := r.strokes, id := r.id, headLen := r.headLen, pages := palPages r.strokes, windows := r.windows }
  else { failed := decide (n < 4) }

/-- R113, R152: the end of the load in progress. -/
theorem State.paletteLoaded_spec (s : State) (n k code detail : Nat) (rest : List (Nat × Nat)) (hrun : s.easel.running = true)
    (hl : s.easel.loads = (n, k) :: rest) (hst : (s.slot n).st = 1) (hr : ∀ m ∈ rest, m.1 ≠ n) :
    (s.paletteLoaded code detail).slot n = s.slotAfterLoad n k code ∧
      (s.paletteLoaded code detail).easel.loads = (if n = 1 ∨ n = 2 then [(n + 1, n + 1)] else []) ++ rest := by
  unfold State.paletteLoaded
  simp only [hl, hrun, hst, Bool.not_true, bne_self_eq_false, Bool.or_self, Bool.false_eq_true, if_false, beq_iff_eq]
  generalize hu : (if code = 0 then _ else _ : State) = u
  have hload : u.easel.loads = rest ∧ u.slot n = s.slotAfterLoad n k code := by
    unfold State.slotAfterLoad
    rw [← hu]
    by_cases h0 : code = 0 <;> by_cases h4 : n < 4 <;> simp [h0, h4]
  obtain ⟨hloads, hslot⟩ := hload
  rw [← hslot]
  exact u.loadEnds n hloads hr

/-! ### Decision point (R112, R114) -/

theorem State.wantedPalette_fst (s : State) : s.wantedPalette.1 =
    (if s.dev.state = .sleepPrep then 3 else if s.dev.causeCrank = true then 2
      else if (s.dev.causeTemp || s.dev.causeSag || s.dev.causeTime) = true then 1 else s.easel.normal) := by
  unfold State.wantedPalette
  simp only [beq_iff_eq]
  (repeat' split) <;> rfl

/-- R112, R114: at the decision point with the head block read, where no stroke of the store is lost. -/
theorem State.decisionPoint_ok (s : State) (hd : s.dispatching = true) (hn : s.easel.decided = false)
    (hp : s.canvasNs ≤ s.phaseNs + 20000) (hbad : s.easel.bad = []) :
    (s.decisionPoint true).easel.next =
      (if (s.slot s.wantedPalette.1).st = 2 ∨ s.wantedPalette.1 = s.easel.run then s.wantedPalette.1 else s.easel.run) ∧
    (s.decisionPoint true).easel.switchPending = ((s.decisionPoint true).easel.next != s.easel.run) := by
  unfold State.decisionPoint
  simp [hd, hn, hbad, Nat.not_lt.mpr hp]

theorem State.decisionPoint_decided (s : State) (headOk : Bool) (hd : s.dispatching = true) (hn : s.easel.decided = false)
    (hp : s.canvasNs ≤ s.phaseNs + 20000) : (s.decisionPoint headOk).easel.decided = true := by
  unfold State.decisionPoint
  rw [if_neg (by simp [hd, hn, hp])]
  extract_lets w n sw t
  split
  · rfl
  · rw [State.fault_easel]

/-- R115: a head block lost to an error keeps the running palette. -/
theorem State.decisionPoint_lost (s : State) (hd : s.dispatching = true) (hn : s.easel.decided = false)
    (hp : s.canvasNs ≤ s.phaseNs + 20000) :
    (s.decisionPoint false).easel.next = s.easel.run ∧ (s.decisionPoint false).easel.switchPending = false := by
  unfold State.decisionPoint
  simp [hd, hn, Nat.not_lt.mpr hp]

theorem State.blockArrived_spec (s : State) (h : s.easel.miss = true) : s.blockArrived.easel.miss = false ∧
    s.blockArrived.easel.blocks = s.easel.blocks ++ [(s.easel.idx, min (s.easel.idx + 1024) (s.slot s.easel.run).strokes)] := by
  unfold State.blockArrived
  rw [if_pos h]
  exact ⟨rfl, rfl⟩

end Sys2Proof.Machine

open Sys2Proof Sys2Proof.Machine

/-- Settles O32: each row by the rule of its operation. -/
theorem palettesAndStrokeStream : Obligations.PalettesAndStrokeStream := by
  unfold Obligations.PalettesAndStrokeStream
  refine ⟨fun s hm => ⟨_, rfl, s.blockArrived_spec hm⟩, ?_, ?_, ?_, ?_⟩
  · intro s w hd hn hp hw
    rw [← s.wantedPalette_fst] at hw
    refine ⟨_, rfl, s.decisionPoint_decided true hd hn hp, fun hbad => ?_⟩
    obtain ⟨hnext, hpend⟩ := s.decisionPoint_ok hd hn hp hbad
    exact ⟨hw ▸ hnext, by rw [hpend]; exact bne_iff_ne⟩
  · intro s hd hn hp
    exact ⟨_, rfl, s.decisionPoint_decided false hd hn hp, s.decisionPoint_lost hd hn hp⟩
  · intro s n k detail rest hrun hl hst hr
    obtain ⟨hslot, hloads⟩ := s.paletteLoaded_spec n k 0 detail rest hrun hl hst hr
    refine ⟨_, rfl, ?_, ?_, ?_, hloads⟩ <;> rw [hslot] <;> rfl
  · intro s n k code detail rest hrun hl hst hr hc
    obtain ⟨hslot, hloads⟩ := s.paletteLoaded_spec n k code detail rest hrun hl hst hr
    refine ⟨_, rfl, ?_, hloads⟩
    rw [hslot, State.slotAfterLoad, if_neg hc]

end

