-- ==== Sys2Proof/Proofs/Boundary.lean ====
section
/-!
PROOFS. The canvas boundary (R71, R76, R99, R115, R119, R172, R502).
-/

namespace Sys2Proof.Machine

/-! ### What the palette's part of a boundary leaves alone -/

/-- ET, the gateway and the sleep supervisor. -/
def State.turnView (s : State) : Nat × Gw × Wake := (s.et, s.gw, s.wake)

theorem State.turnView_ext {s t : State} (h : t.turnView = s.turnView) : t.et = s.et ∧ t.gw = s.gw ∧ t.wake = s.wake := by
  simpa [State.turnView] using h

@[simp] theorem State.switchReply_turnView (s : State) : s.switchReply.turnView = s.turnView := by
  unfold State.switchReply State.turnView
  split <;> simp

@[simp] theorem State.switchReply_time (s : State) : s.switchReply.time = s.time := by
  unfold State.switchReply
  split <;> simp

theorem State.switchReply_easel (s : State) : s.switchReply.easel = { s.easel with switchDue := none } := by
  unfold State.switchReply
  split
  · rename_i h; rw [← h]
  · simp

@[simp] theorem State.paletteStart_turnView (s : State) (n reason : Nat) : (s.paletteStart n reason).turnView = s.turnView := by
  unfold State.paletteStart State.turnView
  by_cases h : (reason == 5) = true <;> simp [h]

@[simp] theorem State.paletteStart_time (s : State) (n reason : Nat) : (s.paletteStart n reason).time = s.time := by
  unfold State.paletteStart
  by_cases h : (reason == 5) = true <;> simp [h]

/-- A start of palette `n` changes slots, the running palette and the switch statistics among Easel's registers. -/
theorem State.paletteStart_easel (s : State) (n reason : Nat) : ∃ slots c,
    (s.paletteStart n reason).easel = { s.easel with
      slots := slots, run := n, next := n, switchPending := false, lastSwitch := s.et, switchCount := c } := by
  unfold State.paletteStart
  by_cases h : (reason == 5) = true <;> simp only [h, if_true, if_false, Bool.false_eq_true, State.raise_easel] <;>
    exact ⟨_, _, rfl⟩

@[simp] theorem State.canvasBegin_turnView (s : State) : s.canvasBegin.turnView = s.turnView := by
  obtain ⟨ls, ps, h⟩ := s.dropLate_eq fun _ => true
  unfold State.canvasBegin
  rw [h]; rfl

@[simp] theorem State.canvasBegin_time (s : State) : s.canvasBegin.time = s.time := by
  obtain ⟨ls, ps, h⟩ := s.dropLate_eq fun _ => true
  unfold State.canvasBegin
  rw [h]

/-- R119: a canvas begins with no stroke of the old one late. -/
theorem State.canvasBegin_easel (s : State) : ∃ ls ps bs, s.canvasBegin.easel = { s.easel with
    lanes := ls, parts := ps, blocks := bs, late := [], canvasIdx := s.canvasNo, canvasEt := s.et, decided := false, idx := 0
    phaseAt := 0, miss := false, head := none } := by
  obtain ⟨ls, ps, h⟩ := s.dropLate_eq fun _ => true
  unfold State.canvasBegin
  rw [h]
  have hlate : s.easel.late.filter (fun _ => !true) = [] := List.filter_eq_nil_iff.mpr fun _ _ h => by cases h
  rw [hlate]
  exact ⟨ls, ps, _, rfl⟩

@[simp] theorem State.realign_turnView (s : State) : s.realign.turnView = s.turnView := by
  unfold State.realign State.turnView
  dsimp only
  split
  · obtain ⟨-, het, -, -, -, -, -, hgw, hwake, -⟩ := State.kOut_ext (State.reselect_kOut
      (({ s with time := { s.time with realignPending := false } } : State).markRefused s.time.source))
    obtain ⟨-, het', -, -, -, -, -, hgw', hwake', -⟩ := State.kOut_ext (State.markRefused_kOut
      ({ s with time := { s.time with realignPending := false } } : State) s.time.source)
    rw [het, hgw, hwake, het', hgw', hwake']
  · simp

@[simp] theorem State.realign_easel (s : State) : s.realign.easel = s.easel := by
  unfold State.realign
  dsimp only
  split
  · have h := congrArg KOut.easel (State.reselect_kOut
      (({ s with time := { s.time with realignPending := false } } : State).markRefused s.time.source))
    have h' := congrArg KOut.easel (State.markRefused_kOut
      ({ s with time := { s.time with realignPending := false } } : State) s.time.source)
    exact h.trans h'
  · simp

/-- R76: a realignment that is allowed corrects ZT by the error of the selected source. -/
theorem State.realign_time (s : State) (h : s.dev.armed = false ∨ s.time.cfg.realignArmed = true) :
    s.realign.time.realignPending = false ∧
      s.realign.time.ztOffset = s.time.ztOffset - (s.timeSrc s.time.source).err := by
  unfold State.realign
  dsimp only
  rw [if_neg (by rcases h with h | h <;> simp [h])]
  simp

/-! ### A boundary while palettes run -/

/-- The boundary counted, and a pending realignment settled. -/
def State.turnSettled (s : State) : State :=
  let u := { s with easel := { s.easel with canvasCount := wrapAdd 64 s.easel.canvasCount 1 } }
  if s.time.realignPending then u.realign else u

/-- The palette chosen starts, where it is LOADED. -/
def State.turnPalette (v : State) : State :=
  let s := { v with easel := { v.easel with realignHold := false } }
  if s.easel.next != s.easel.run && (s.slot s.easel.next).st == 2 then s.paletteStart s.easel.next s.easel.reason
  else { s with easel := { s.easel with next := s.easel.run, switchPending := false } }

/-- Dispatch is held for the canvas that begins. -/
def State.turnHeld (v : State) : State :=
  let s := v.canvasBegin
  { s with easel := { s.easel with realignHold := true, realignSkips := sat16 s.easel.realignSkips, blocks := [], head := v.easel.head } }

theorem State.canvasTurn_eq (s : State) : s.canvasTurn =
    if s.time.realignPending && !(s.dev.armed && !s.time.cfg.realignArmed) then s.turnSettled.turnHeld
    else s.turnSettled.turnPalette.switchReply.canvasBegin := rfl

@[simp] theorem State.turnSettled_turnView (s : State) : s.turnSettled.turnView = s.turnView := by
  unfold State.turnSettled
  dsimp only
  split
  · exact State.realign_turnView _
  · rfl

theorem State.turnSettled_easel (s : State) :
    s.turnSettled.easel = { s.easel with canvasCount := wrapAdd 64 s.easel.canvasCount 1 } := by
  unfold State.turnSettled
  dsimp only
  split
  · exact State.realign_easel _
  · rfl

@[simp] theorem State.turnPalette_turnView (s : State) : s.turnPalette.turnView = s.turnView := by
  unfold State.turnPalette
  dsimp only
  split
  · exact State.paletteStart_turnView _ _ _
  · rfl

@[simp] theorem State.turnPalette_time (s : State) : s.turnPalette.time = s.time := by
  unfold State.turnPalette
  dsimp only
  split
  · exact State.paletteStart_time _ _ _
  · rfl

/-- R115: the palette that runs after a boundary. -/
theorem State.turnPalette_easel (v : State) : ∃ slots ls c n, v.turnPalette.easel = { v.easel with
    realignHold := false, slots := slots, lastSwitch := ls, switchCount := c, next := n, switchPending := false
    run := if v.easel.next ≠ v.easel.run ∧ (v.slot v.easel.next).st = 2 then v.easel.next else v.easel.run } := by
  unfold State.turnPalette
  dsimp only
  split
  · rename_i h
    have hc : v.easel.next ≠ v.easel.run ∧ (v.slot v.easel.next).st = 2 := by simpa [State.slot] using h
    obtain ⟨slots, c, e⟩ := State.paletteStart_easel
      ({ v with easel := { v.easel with realignHold := false } } : State) v.easel.next v.easel.reason
    rw [e, if_pos hc]
    exact ⟨_, _, _, _, rfl⟩
  · rename_i h
    have hc : ¬(v.easel.next ≠ v.easel.run ∧ (v.slot v.easel.next).st = 2) := by simpa [State.slot] using h
    rw [if_neg hc]
    exact ⟨_, _, _, _, rfl⟩

@[simp] theorem State.turnHeld_turnView (v : State) : v.turnHeld.turnView = v.turnView := v.canvasBegin_turnView

@[simp] theorem State.turnHeld_time (v : State) : v.turnHeld.time = v.time := v.canvasBegin_time

@[simp] theorem State.canvasTurn_turnView (s : State) : s.canvasTurn.turnView = s.turnView := by
  rw [State.canvasTurn_eq]
  split <;> simp

/-- R99, R119: what every boundary does to the canvas registers. -/
theorem State.canvasTurn_canvas (s : State) : s.canvasTurn.easel.canvasCount = (s.easel.canvasCount + 1) % 2 ^ 64 ∧
    s.canvasTurn.easel.canvasEt = s.et ∧ s.canvasTurn.easel.idx = 0 ∧ s.canvasTurn.easel.decided = false ∧
    s.canvasTurn.easel.late = [] := by
  have het : s.turnSettled.et = s.et := (State.turnView_ext s.turnSettled_turnView).1
  rw [State.canvasTurn_eq]
  split
  · obtain ⟨ls, ps, bs, e⟩ := s.turnSettled.canvasBegin_easel
    simp [State.turnHeld, e, State.turnSettled_easel, het, wrapAdd]
  · obtain ⟨ls, ps, bs, e⟩ := s.turnSettled.turnPalette.switchReply.canvasBegin_easel
    obtain ⟨_, _, _, _, p⟩ := s.turnSettled.turnPalette_easel
    have het' : s.turnSettled.turnPalette.switchReply.et = s.et :=
      (State.turnView_ext (State.switchReply_turnView _)).1.trans ((State.turnView_ext (State.turnPalette_turnView _)).1.trans het)
    simp [e, State.switchReply_easel, p, State.turnSettled_easel, het', wrapAdd]

/-- R76: no realignment due: the palette chosen runs, on the canvas of ZT. -/
theorem State.canvasTurn_switch (s : State) (h : s.time.realignPending = false) :
    s.canvasTurn.easel.realignHold = false ∧
      s.canvasTurn.easel.run = (if s.easel.next ≠ s.easel.run ∧ (s.slot s.easel.next).st = 2 then s.easel.next else s.easel.run) ∧
      s.canvasTurn.easel.canvasIdx = s.canvasNo := by
  have hs : s.turnSettled = { s with easel := { s.easel with canvasCount := wrapAdd 64 s.easel.canvasCount 1 } } := by
    unfold State.turnSettled; rw [h]; rfl
  rw [State.canvasTurn_eq, if_neg (by simp [h])]
  obtain ⟨ls, ps, bs, e⟩ := s.turnSettled.turnPalette.switchReply.canvasBegin_easel
  obtain ⟨_, _, _, _, p⟩ := s.turnSettled.turnPalette_easel
  have hno : s.turnSettled.turnPalette.switchReply.canvasNo = s.canvasNo := by
    have het := (State.turnView_ext (State.switchReply_turnView s.turnSettled.turnPalette)).1
    have het' := (State.turnView_ext (State.turnPalette_turnView s.turnSettled)).1
    unfold State.canvasNo State.zt State.canvasNs
    rw [State.switchReply_time, State.turnPalette_time, het, het', State.switchReply_easel, p, hs]
  rw [e, hno, State.switchReply_easel, p, hs]
  exact ⟨rfl, rfl, rfl⟩

/-- R76: a realignment due and allowed: dispatch is held, the palette stays, and ZT is corrected. -/
theorem State.canvasTurn_realigns (s : State) (h : s.time.realignPending = true)
    (k : s.dev.armed = false ∨ s.time.cfg.realignArmed = true) :
    s.canvasTurn.easel.realignHold = true ∧ s.canvasTurn.easel.run = s.easel.run ∧
      s.canvasTurn.easel.realignSkips = sat16 s.easel.realignSkips ∧ s.canvasTurn.time.realignPending = false ∧
      s.canvasTurn.time.ztOffset = s.time.ztOffset - (s.timeSrc s.time.source).err := by
  have hs : s.turnSettled.time.realignPending = false ∧
      s.turnSettled.time.ztOffset = s.time.ztOffset - (s.timeSrc s.time.source).err := by
    unfold State.turnSettled
    rw [h]
    exact State.realign_time _ k
  rw [State.canvasTurn_eq, if_pos (by rcases k with k | k <;> simp [h, k])]
  obtain ⟨ls, ps, bs, e⟩ := s.turnSettled.canvasBegin_easel
  refine ⟨rfl, ?_, ?_, ?_⟩
  · simp [State.turnHeld, e, State.turnSettled_easel]
  · simp [State.turnHeld, e, State.turnSettled_easel]
  · rw [State.turnHeld_time]; exact hs

/-! ### The rest of the boundary -/

/-- R172: the ages of what the gateway holds rise; nothing else of the view, of Easel or of time changes. -/
theorem State.gwBoundary_spec (s : State) : s.gwBoundary.easel = s.easel ∧ s.gwBoundary.time = s.time ∧
    s.gwBoundary.wake = s.wake ∧ s.gwBoundary.gw.rx = s.gw.rx.mapV (fun _ x => { x with age := sat8 x.age }) := by
  have events : ∀ (l : List Nat) (t : State),
      (l.foldl (fun s sig => s.gwEvent 0x125 2 sig sig) t).kRing = t.kRing :=
    foldl_kRing _ fun t sig => State.raiseOnce_kRing _ _ _ _ _
  unfold State.gwBoundary
  dsimp only
  obtain ⟨-, -, -, -, htime, heasel, hgw, -, -, -, hwake, -⟩ := State.kRing_ext (events
    ((s.gw.sigs.filter fun e => e.2.force == 1).map fun e => e.1) _)
  rw [htime, heasel, hgw, hwake]
  exact ⟨rfl, rfl, rfl, rfl⟩

theorem State.prepStart_spec (s : State) : s.prepStart.easel = s.easel ∧ s.prepStart.time = s.time ∧ s.prepStart.gw = s.gw ∧
    s.prepStart.wake.phase = s.wake.phase := by
  unfold State.prepStart
  dsimp only
  split <;> exact ⟨rfl, rfl, rfl, rfl⟩

/-- All of a boundary of running palettes but the palette's part and the sleep commit point. -/
def State.boundaryRest (u : State) : State := u.gwBoundary.dinBoundary.prepStart.heatEffects

theorem State.boundaryRest_spec (u : State) : u.boundaryRest.easel = u.easel ∧ u.boundaryRest.time = u.time ∧
    u.boundaryRest.wake.phase = u.wake.phase ∧ u.boundaryRest.gw.rx = u.gw.rx.mapV (fun _ x => { x with age := sat8 x.age }) := by
  obtain ⟨he, ht, hw, hr⟩ := u.gwBoundary_spec
  obtain ⟨pe, pt, pg, pw⟩ := u.gwBoundary.dinBoundary.prepStart_spec
  have hd : u.gwBoundary.dinBoundary.wake = u.wake := hw
  exact ⟨pe.trans he, pt.trans ht, pw.trans (congrArg Wake.phase hd), (congrArg Gw.rx pg).trans hr⟩

theorem State.boundaryRest_base (u : State) : u.boundaryRest.base = u.base := by
  unfold State.boundaryRest
  simp

theorem State.boundaryRest_canvasTurn_phase (s : State) : s.canvasTurn.boundaryRest.wake.phase = s.wake.phase := by
  obtain ⟨-, -, hrest, -⟩ := s.canvasTurn.boundaryRest_spec
  obtain ⟨-, -, hturn⟩ := State.turnView_ext s.canvasTurn_turnView
  rw [hrest, hturn]

theorem State.boundary_eq (s : State) (hb : s.atBoundary = true) (ha : s.active = true) (hr : s.easel.running = true) :
    s.boundary = s.canvasTurn.boundaryRest.sleepCommit := by
  have hst : (s.dev.state == DevState.starting) = false := by
    unfold State.active at ha
    cases e : s.dev.state <;> simp [e] at ha ⊢
  unfold State.boundary
  simp [hb, ha, hr, hst, State.boundaryRest]

/-- No commit point without a request ARMED. -/
theorem State.boundary_awake (s : State) (hb : s.atBoundary = true) (ha : s.active = true) (hr : s.easel.running = true)
    (hp : s.wake.phase ≠ 3) : s.boundary = s.canvasTurn.boundaryRest := by
  have hw : s.canvasTurn.boundaryRest.wake.phase ≠ 3 := by rwa [s.boundaryRest_canvasTurn_phase]
  rw [s.boundary_eq hb ha hr]
  unfold State.sleepCommit
  rw [if_pos (by simp [hw])]

/-- R502: the boundary with a request ARMED is the commit point. -/
theorem State.boundary_commits (s : State) (hb : s.atBoundary = true) (ha : s.active = true) (hr : s.easel.running = true)
    (hp : s.wake.phase = 3) : s.boundary.base = { s.base with armed := false, committed := true } := by
  have hw : s.canvasTurn.boundaryRest.wake.phase = 3 := by rwa [s.boundaryRest_canvasTurn_phase]
  rw [s.boundary_eq hb ha hr, State.sleepCommit_base _ hw, State.boundaryRest_base, State.canvasTurn_base]

end Sys2Proof.Machine

open Sys2Proof Sys2Proof.Machine

/-- Settles O33: a boundary is the palette's part, the rest of the blocks, and the commit point. -/
theorem canvasBoundaries : Obligations.CanvasBoundaries := by
  intro s
  refine ⟨fun hb => ?_, fun hb hst hl => ?_, fun hb ha hr hp => ?_, fun hb ha hr hp => ?_⟩
  · show Host.Outcome.next s.boundary = _
    unfold State.boundary
    rw [hb]; rfl
  · have ht : s.boundary = s.enterRun := by
      unfold State.boundary
      simp [hb, hst, hl]
    have hbase := s.enterRun_base
    rw [← ht] at hbase
    exact ⟨_, rfl, congrArg Base.state hbase, congrArg Base.armed hbase, congrArg Base.et hbase⟩
  · obtain ⟨he, ht, -, hrx⟩ := s.canvasTurn.boundaryRest_spec
    have hbase : s.canvasTurn.boundaryRest.base = s.base := by rw [State.boundaryRest_base, State.canvasTurn_base]
    refine ⟨_, congrArg Host.Outcome.next (s.boundary_awake hb ha hr hp), ?_⟩
    rw [he, ht, hrx, (State.turnView_ext s.canvasTurn_turnView).2.1]
    obtain ⟨hcount, het, hidx, hdec, hlate⟩ := s.canvasTurn_canvas
    exact ⟨hcount, het, hidx, hdec, hlate, (congrArg Base.state hbase).trans (s.active_iff_coarse.mp ha),
      congrArg Base.armed hbase, rfl, s.canvasTurn_switch, s.canvasTurn_realigns⟩
  · have hbase := s.boundary_commits hb ha hr hp
    refine ⟨_, rfl, congrArg Base.armed hbase, ?_, (congrArg Base.state hbase).trans (s.active_iff_coarse.mp ha)⟩
    exact beq_iff_eq.mp (congrArg Base.committed hbase)

end

