-- ==== Sys2Proof/Proofs/Moves.lean ====
section
/-!
PROOFS. What an entry to STARTING, STANDBY or OFF leaves of the registers (R27, R31, R54, R457), and the supply rows
(R259, R275, R564).
-/

namespace Sys2Proof.Machine

/-! ### Entries -/

@[simp] theorem State.wkoAwake_dev (s : State) (on : Bool) : (s.wkoAwake on).dev = s.dev := rfl
@[simp] theorem State.wkoAwake_cmd (s : State) (on : Bool) : (s.wkoAwake on).cmd = s.cmd := rfl
@[simp] theorem State.wkoAwake_bam (s : State) (on : Bool) : (s.wkoAwake on).bam = s.bam := rfl
@[simp] theorem State.wkoAwake_upd (s : State) (on : Bool) : (s.wkoAwake on).upd = s.upd := rfl
@[simp] theorem State.logFlush_dev (s : State) : s.logFlush.dev = s.dev := rfl
@[simp] theorem State.logFlush_cmd (s : State) : s.logFlush.cmd = s.cmd := rfl
@[simp] theorem State.logFlush_bam (s : State) : s.logFlush.bam = s.bam := rfl
@[simp] theorem State.logFlush_upd (s : State) : s.logFlush.upd = s.upd := rfl
@[simp] theorem State.logFlush_pending (s : State) : s.logFlush.pending = s.pending := rfl
@[simp] theorem State.noteSource_dev (s : State) (code : Nat) : (s.noteSource code).dev = s.dev := rfl
@[simp] theorem State.noteSource_cmd (s : State) (code : Nat) : (s.noteSource code).cmd = s.cmd := rfl
@[simp] theorem State.volatileLost_cmd (s : State) (d : DevState) : (s.volatileLost d).cmd = { replies := s.cmd.replies } := rfl
@[simp] theorem State.volatileLost_bam (s : State) (d : DevState) : (s.volatileLost d).bam = s.bam.kept := rfl
@[simp] theorem State.volatileLost_upd (s : State) (d : DevState) : (s.volatileLost d).upd = s.upd.kept := rfl
@[simp] theorem State.volatileLost_pending (s : State) (d : DevState) : (s.volatileLost d).pending = s.pending := rfl

/-- R27, R31: an entry to STARTING by `cause`. -/
@[simp] theorem State.enterStarting_state (s : State) (cause : Nat) : (s.enterStarting cause).dev.state = .starting := rfl
@[simp] theorem State.enterStarting_cause (s : State) (cause : Nat) : (s.enterStarting cause).dev.startCause = cause := rfl
@[simp] theorem State.enterStarting_armed (s : State) (cause : Nat) : (s.enterStarting cause).dev.armed = false := rfl
@[simp] theorem State.enterStarting_cmd (s : State) (cause : Nat) :
    (s.enterStarting cause).cmd = { replies := s.cmd.replies } := rfl

@[simp] theorem State.deviceReset_state (s : State) (cause : Nat) : (s.deviceReset cause).dev.state = .starting := rfl
@[simp] theorem State.deviceReset_cause (s : State) (cause : Nat) : (s.deviceReset cause).dev.startCause = cause := rfl
@[simp] theorem State.deviceReset_armed (s : State) (cause : Nat) : (s.deviceReset cause).dev.armed = false := rfl

/-- The start mark of a failed start, where STANDBY is entered from one. -/
def State.standbyMarked (s : State) : State :=
  if s.dev.state == .starting && s.dev.imageId == 0 then s.startMark 0xFF else s

theorem State.enterStandby_eq (s : State) (l : Bool) : s.enterStandby l =
    let u := (s.standbyMarked.logFlush.volatileLost .standby).wkoAwake false
    { u with dev := { u.dev with lockout := u.dev.lockout || l } } := rfl

theorem State.standbyMarked_spec (s : State) : s.standbyMarked.dev = s.dev ∧ s.standbyMarked.cmd = s.cmd ∧
    s.standbyMarked.bam = s.bam ∧ s.standbyMarked.upd = s.upd ∧ s.standbyMarked.pending = s.pending := by
  unfold State.standbyMarked State.startMark
  split <;> exact ⟨rfl, rfl, rfl, rfl, rfl⟩

@[simp] theorem State.enterStandby_state (s : State) (l : Bool) : (s.enterStandby l).dev.state = .standby := rfl
@[simp] theorem State.enterStandby_armed (s : State) (l : Bool) : (s.enterStandby l).dev.armed = false := rfl

@[simp] theorem State.enterStandby_lockout (s : State) (l : Bool) :
    (s.enterStandby l).dev.lockout = (s.dev.lockout || l) := by
  obtain ⟨hdev, -⟩ := s.standbyMarked_spec
  rw [← hdev]; rfl

@[simp] theorem State.enterStandby_cmd (s : State) (l : Bool) : (s.enterStandby l).cmd = { replies := s.cmd.replies } := by
  obtain ⟨-, hcmd, -⟩ := s.standbyMarked_spec
  rw [← hcmd]; rfl

@[simp] theorem State.enterStandby_bam (s : State) (l : Bool) : (s.enterStandby l).bam = s.bam.kept := by
  obtain ⟨-, -, hbam, -⟩ := s.standbyMarked_spec
  rw [← hbam]; rfl

@[simp] theorem State.enterStandby_upd (s : State) (l : Bool) : (s.enterStandby l).upd = s.upd.kept := by
  obtain ⟨-, -, -, hupd, -⟩ := s.standbyMarked_spec
  rw [← hupd]; rfl

@[simp] theorem State.enterStandby_pending (s : State) (l : Bool) : (s.enterStandby l).pending = s.pending := by
  obtain ⟨-, -, -, -, hpend⟩ := s.standbyMarked_spec
  rw [← hpend]; rfl

/-! ### Supply rows -/

/-- FEED12 below 3.0 V in a state in which the M-core may run. -/
theorem State.standbyEntry_eq (s : State) (mv : Nat) (h : mv < 3000)
    (k : s.dev.state = .starting ∨ s.dev.state = .run ∨ s.dev.state = .degraded ∨ s.dev.state = .sleepPrep) :
    s.standbyEntry mv = { s.enterStandby false with dev := { (s.enterStandby false).dev with fell := true } } := by
  unfold State.standbyEntry
  rw [if_neg (Nat.not_le.mpr h)]
  rcases k with k | k | k | k <;> rw [k]

theorem State.powerOff_state (s : State) (mv : Nat) (h : mv < 2500) : (s.powerOff mv).dev.state = .off := by
  unfold State.powerOff
  by_cases k : s.dev.state = .off
  · rw [if_pos (by simp [k])]; exact k
  · rw [if_neg (by simp [k, h])]

/-- R275: a rail fault as it is counted and reported, before what its rail does. -/
def State.railNoted (s : State) (rail : Nat) : State :=
  let s := { s with pwr := { s.pwr with railFaults := sat16 s.pwr.railFaults } }
  let level := if rail == 5 then 1 else if rail == 6 then 0 else 7
  (s.raise [0] 0x002 2 rail).fault 0x002 7 level 0x1F 2 rail 0 0

theorem State.railFault_eq (s : State) (rail : Nat) (h : s.powered = true) (k : rail ≤ 6) : s.railFault rail =
    if rail == 5 then (s.railNoted rail).uvSet 0 else if rail == 6 then (s.railNoted rail).barrierLost false true
    else (s.railNoted rail).deviceReset 3 := by
  unfold State.railFault
  rw [if_neg (by simp [h, k])]
  rfl

theorem State.railNoted_spec (s : State) (rail : Nat) : (s.railNoted rail).dev = s.dev ∧
    (s.railNoted rail).pwr.railFaults = sat16 s.pwr.railFaults := by
  unfold State.railNoted
  simp

/-- A lost VISO rail drops the barrier link of a powered device, and counts in no supply register. -/
theorem State.barrierLost_spec (s : State) (a b : Bool) (h : s.powered = true) :
    (s.barrierLost a b).dio.barrierOk = false ∧ (s.barrierLost a b).pwr = s.pwr := by
  unfold State.barrierLost
  split
  · rename_i k
    refine ⟨?_, rfl⟩
    simpa [h] using k
  · simp [State.dinHold]

end Sys2Proof.Machine

open Sys2Proof Sys2Proof.Machine

/-- Settles O38: each row enters the state it names, and a rail fault is its report followed by the effect of its rail. -/
theorem supplyMoves : Obligations.SupplyMoves := by
  refine ⟨?_, ?_, ?_, ?_, ?_, ?_⟩
  · intro s mv straps hst hmv
    refine ⟨_, rfl, ?_⟩
    rw [State.powerOn, if_neg (Nat.not_le.mpr hmv), hst]
    exact ⟨rfl, rfl, rfl, rfl⟩
  · intro s mv hmv hst
    refine ⟨_, congrArg Host.Outcome.next (s.standbyEntry_eq mv hmv hst), rfl, rfl, rfl, ?_, ?_, ?_⟩
    · exact s.enterStandby_cmd false
    · exact s.enterStandby_bam false
    · exact s.enterStandby_pending false
  · intro s mv straps hst hfell hlock hmv
    refine ⟨_, rfl, ?_⟩
    rw [State.powerOn, if_neg (Nat.not_le.mpr hmv), hst]
    simp [hfell, hlock]
  · intro s mv straps hmv
    show Host.Outcome.next (s.powerOn mv straps) = _
    rw [State.powerOn, if_pos hmv]
  · exact fun s mv hmv => ⟨_, rfl, s.powerOff_state mv hmv⟩
  · intro s rail hp
    refine ⟨fun h => ⟨_, rfl, ?_⟩, ⟨_, rfl, ?_⟩, ⟨_, rfl, ?_⟩⟩
    · rw [s.railFault_eq rail hp (by omega), if_neg (by simp; omega), if_neg (by simp; omega)]
      exact ⟨rfl, rfl⟩
    · obtain ⟨-, hcount⟩ := s.railNoted_spec 5
      obtain ⟨huv, -, hrails⟩ := (s.railNoted 5).uvSet_facts 0
      rw [s.railFault_eq 5 hp (by decide), if_pos (by decide)]
      exact ⟨huv, hrails.trans hcount⟩
    · obtain ⟨hdev, hcount⟩ := s.railNoted_spec 6
      have hp' : (s.railNoted 6).powered = true := by
        rw [← hp]; unfold State.powered State.active; rw [hdev]
      obtain ⟨hok, hpwr⟩ := (s.railNoted 6).barrierLost_spec false true hp'
      rw [s.railFault_eq 6 hp (by decide), if_neg (by decide), if_pos (by decide)]
      exact ⟨hok, by rw [hpwr, hcount]⟩

end

