-- ==== Sys2Proof/Proofs/Slots.lean ====
section
/-!
PROOFS. Image slots: selection at a start, the start of an image, and the fall-back (R482 to R487, R549).
-/

namespace Sys2Proof.Machine

/-! ### The slot state record -/

/-- The two image slots, in either order. -/
def SlotPair (i j : Nat) : Prop := (i = 0 ∧ j = 1) ∨ (i = 1 ∧ j = 0)

/-- Entry `n` of a slot state record. -/
def slotAt (r : SlotRecord) (n : Nat) : SlotRec := if n = 0 then r.a else r.b

theorem State.slotRec_eq_at (s : State) (n : Nat) : s.slotRec n = slotAt s.upd.record n := by
  unfold State.slotRec slotAt
  simp only [beq_iff_eq]

@[simp] theorem State.setSlotRec_slotRec (s : State) (i : Nat) (x : SlotRec) : (s.setSlotRec i x).slotRec i = x := by
  unfold State.setSlotRec State.slotRec
  by_cases h : (i == 0) = true <;> simp [h]

theorem State.setSlotRec_other {i j : Nat} (h : SlotPair i j) (s : State) (x : SlotRec) :
    (s.setSlotRec i x).slotRec j = s.slotRec j := by
  rcases h with ⟨rfl, rfl⟩ | ⟨rfl, rfl⟩ <;> rfl

theorem State.setSlotRec_twice (s : State) (i : Nat) (x y : SlotRec) :
    (s.setSlotRec i x).setSlotRec i y = s.setSlotRec i y := by
  unfold State.setSlotRec
  by_cases h : (i == 0) = true <;> simp [h]

@[simp] theorem State.setSlotRec_dev (s : State) (i : Nat) (x : SlotRec) : (s.setSlotRec i x).dev = s.dev := rfl
@[simp] theorem State.setSlotRec_pwr (s : State) (i : Nat) (x : SlotRec) : (s.setSlotRec i x).pwr = s.pwr := rfl
@[simp] theorem State.setSlotRec_cmd (s : State) (i : Nat) (x : SlotRec) : (s.setSlotRec i x).cmd = s.cmd := rfl
@[simp] theorem State.setSlotRec_fallbacks (s : State) (i : Nat) (x : SlotRec) :
    (s.setSlotRec i x).upd.record.fallbacks = s.upd.record.fallbacks := by
  unfold State.setSlotRec
  dsimp only
  split <;> rfl

theorem State.slotIn_first {i j st : Nat} (h : SlotPair i j) {s : State} (hi : (s.slotRec i).st = st)
    (hj : (s.slotRec j).st ≠ st) : s.slotIn st = some i := by
  unfold State.slotIn
  rcases h with ⟨rfl, rfl⟩ | ⟨rfl, rfl⟩
  · rw [if_pos (by simpa using hi)]
  · rw [if_neg (by simpa using hj), if_pos (by simpa using hi)]

theorem State.slotIn_none {i j st : Nat} (h : SlotPair i j) {s : State} (hi : (s.slotRec i).st ≠ st)
    (hj : (s.slotRec j).st ≠ st) : s.slotIn st = none := by
  unfold State.slotIn
  rcases h with ⟨rfl, rfl⟩ | ⟨rfl, rfl⟩
  · rw [if_neg (by simpa using hi), if_neg (by simpa using hj)]
  · rw [if_neg (by simpa using hj), if_neg (by simpa using hi)]

@[simp] theorem State.slotStart_slotRec (s : State) (i n : Nat) : (s.slotStart i).slotRec n = s.slotRec n := rfl
@[simp] theorem State.fallBack_slotRec (s : State) (i c n : Nat) : (s.fallBack i c).slotRec n = s.slotRec n := rfl
@[simp] theorem State.slotNone_slotRec (s : State) (n : Nat) : s.slotNone.slotRec n = s.slotRec n := rfl

/-! ### Selection (R485) -/

section
variable {i j : Nat} (h : SlotPair i j) (s : State)
include h

/-- R485: a PENDING slot becomes TRIAL with one of its starts spent. -/
theorem State.selectSlot_pending (hi : (s.slotRec i).st = 3) (hj3 : (s.slotRec j).st ≠ 3) (hj4 : (s.slotRec j).st ≠ 4)
    (ht : 0 < (s.slotRec i).trialStarts) :
    s.selectSlot = (s.setSlotRec i { s.slotRec i with st := 4, trialLeft := (s.slotRec i).trialStarts - 1 }).slotStart i := by
  unfold State.selectSlot
  rw [State.slotIn_first h hi hj3]
  dsimp only
  rw [State.slotIn_first h (by simp) (by rwa [State.setSlotRec_other h])]
  simp [ht, State.setSlotRec_twice]

theorem State.selectSlot_trial (hi : (s.slotRec i).st = 4) (hj3 : (s.slotRec j).st ≠ 3) (hj4 : (s.slotRec j).st ≠ 4)
    (ht : 0 < (s.slotRec i).trialLeft) :
    s.selectSlot = (s.setSlotRec i { s.slotRec i with trialLeft := (s.slotRec i).trialLeft - 1 }).slotStart i := by
  unfold State.selectSlot
  rw [State.slotIn_none h (by simp [hi]) hj3]
  dsimp only
  rw [State.slotIn_first h hi hj4]
  simp [ht]

/-- R485: a TRIAL slot without starts left fails, and the ACTIVE one is the fall-back. -/
theorem State.selectSlot_fallback (hi : (s.slotRec i).st = 4) (hj : (s.slotRec j).st = 5) (ht : (s.slotRec i).trialLeft = 0) :
    s.selectSlot = (s.setSlotRec i { s.slotRec i with st := 7 }).fallBack j 0 := by
  have hji : SlotPair j i := h.symm.imp And.symm And.symm
  unfold State.selectSlot
  rw [State.slotIn_none h (by simp [hi]) (by simp [hj])]
  dsimp only
  rw [State.slotIn_first h hi (by simp [hj])]
  dsimp only
  rw [if_neg (by simp [ht]), State.slotIn_first hji (by rwa [State.setSlotRec_other h]) (by simp)]

theorem State.selectSlot_active (hi : (s.slotRec i).st = 5) (hj3 : (s.slotRec j).st ≠ 3) (hj4 : (s.slotRec j).st ≠ 4)
    (hj5 : (s.slotRec j).st ≠ 5) : s.selectSlot = s.slotStart i := by
  unfold State.selectSlot
  rw [State.slotIn_none h (by simp [hi]) hj3]
  dsimp only
  rw [State.slotIn_none h (by simp [hi]) hj4]
  dsimp only
  rw [State.slotIn_first h hi hj5]

theorem State.selectSlot_none (hi : (s.slotRec i).st ∉ [3, 4, 5]) (hj : (s.slotRec j).st ∉ [3, 4, 5]) :
    s.selectSlot = s.slotNone := by
  simp only [List.mem_cons, List.not_mem_nil, or_false, not_or] at hi hj
  obtain ⟨hi3, hi4, hi5⟩ := hi
  obtain ⟨hj3, hj4, hj5⟩ := hj
  unfold State.selectSlot
  rw [State.slotIn_none h hi3 hj3]
  dsimp only
  rw [State.slotIn_none h hi4 hj4]
  dsimp only
  rw [State.slotIn_none h hi5 hj5]

/-- R485: a TRIAL slot that fails its checks; the ACTIVE one is the fall-back. -/
theorem State.slotFails_fallback (hs : s.upd.started = some i) (hi : (s.slotRec i).st = 4) (hj : (s.slotRec j).st = 5) :
    s.slotFails = (s.setSlotRec i { s.slotRec i with st := 7 }).fallBack j 1 := by
  have hji : SlotPair j i := h.symm.imp And.symm And.symm
  unfold State.slotFails
  rw [hs]
  dsimp only
  rw [if_pos (by simp [hi]), State.slotIn_first hji (by rwa [State.setSlotRec_other h]) (by simp)]

theorem State.slotFails_none (hs : s.upd.started = some i) (hi : (s.slotRec i).st = 4) (hj : (s.slotRec j).st ≠ 5) :
    s.slotFails = (s.setSlotRec i { s.slotRec i with st := 7 }).slotNone := by
  unfold State.slotFails
  rw [hs]
  dsimp only
  rw [if_pos (by simp [hi]), State.slotIn_none h (by simp) (by rwa [State.setSlotRec_other h])]

end

/-! ### Reference rows (R549) -/

/-- The state in which a qualified reference selects the slot: the record read, where it has not been. -/
def State.recordRead (s : State) (record : SlotRecord) : State :=
  let u := if s.upd.known then s else { s with upd := { s.upd with known := true, record := record } }
  { u with pwr := { u.pwr with refOk := true } }

theorem State.recordRead_spec (s : State) (record : SlotRecord) : (s.recordRead record).dev = s.dev ∧
    (s.recordRead record).pwr.refOk = true ∧
    (s.recordRead record).upd.record = (if s.upd.known = true then s.upd.record else record) := by
  unfold State.recordRead
  by_cases h : s.upd.known = true <;> simp [h]

theorem State.referenceQualified_eq (s : State) (record : SlotRecord) (hst : s.dev.state = .starting)
    (href : s.pwr.refOk = false) (hretry : s.bam.bootRetry = none) : s.referenceQualified record =
      if (s.recordRead record).selectSlot.upd.started.isNone then (s.recordRead record).selectSlot.enterStandby false
      else (s.recordRead record).selectSlot := by
  unfold State.referenceQualified
  rw [if_neg (by simp [hst, href, hretry])]
  rfl

theorem State.recordRead_slotRec (s : State) (record : SlotRecord) (n : Nat) :
    (s.recordRead record).slotRec n = slotAt (if s.upd.known = true then s.upd.record else record) n := by
  obtain ⟨-, -, hrec⟩ := s.recordRead_spec record
  rw [State.slotRec_eq_at, hrec]

section
variable {s : State} {record : SlotRecord} (hst : s.dev.state = .starting) (href : s.pwr.refOk = false)
  (hretry : s.bam.bootRetry = none)
include hst href hretry

/-- The row of a qualified reference, where the selection starts a slot. -/
theorem State.referenceQualified_starts {v : State} {k : Nat} (hv : (s.recordRead record).selectSlot = v)
    (hs : v.upd.started = some k) : exec (.referenceQualified record) s = .next v := by
  show Host.Outcome.next (s.referenceQualified record) = _
  rw [s.referenceQualified_eq record hst href hretry, hv, hs]
  rfl

variable {i j : Nat} (h : SlotPair i j) {r : SlotRecord} (hr : r = if s.upd.known = true then s.upd.record else record)
include h hr

/-- R485, said of the row: a PENDING slot. -/
theorem referenceQualified_pending (hi : (slotAt r i).st = 3) (hj3 : (slotAt r j).st ≠ 3) (hj4 : (slotAt r j).st ≠ 4)
    (ht : 0 < (slotAt r i).trialStarts) : ∃ t, exec (.referenceQualified record) s = .next t ∧ t.pwr.refOk = true ∧
      t.dev.state = .starting ∧ t.dev.activeSlot = i ∧ t.upd.started = some i ∧
      slotAt t.upd.record i = { slotAt r i with st := 4, trialLeft := (slotAt r i).trialStarts - 1 } ∧
      slotAt t.upd.record j = slotAt r j := by
  obtain ⟨hdev, hok, -⟩ := s.recordRead_spec record
  have hsl := s.recordRead_slotRec record
  simp only [← hr] at hsl
  refine ⟨_, State.referenceQualified_starts hst href hretry (State.selectSlot_pending h _ (by rwa [hsl]) (by rwa [hsl])
    (by rwa [hsl]) (by rwa [hsl])) rfl, hok, (congrArg Dev.state hdev).trans hst, rfl, rfl, ?_, ?_⟩
  · rw [← State.slotRec_eq_at]; simp [hsl]
  · rw [← State.slotRec_eq_at]; simp [hsl, State.setSlotRec_other h]

theorem referenceQualified_trial (hi : (slotAt r i).st = 4) (hj3 : (slotAt r j).st ≠ 3) (hj4 : (slotAt r j).st ≠ 4)
    (ht : 0 < (slotAt r i).trialLeft) : ∃ t, exec (.referenceQualified record) s = .next t ∧ t.pwr.refOk = true ∧
      t.dev.state = .starting ∧ t.dev.activeSlot = i ∧ t.upd.started = some i ∧
      slotAt t.upd.record i = { slotAt r i with trialLeft := (slotAt r i).trialLeft - 1 } ∧
      slotAt t.upd.record j = slotAt r j := by
  obtain ⟨hdev, hok, -⟩ := s.recordRead_spec record
  have hsl := s.recordRead_slotRec record
  simp only [← hr] at hsl
  refine ⟨_, State.referenceQualified_starts hst href hretry (State.selectSlot_trial h _ (by rwa [hsl]) (by rwa [hsl])
    (by rwa [hsl]) (by rwa [hsl])) rfl, hok, (congrArg Dev.state hdev).trans hst, rfl, rfl, ?_, ?_⟩
  · rw [← State.slotRec_eq_at]; simp [hsl]
  · rw [← State.slotRec_eq_at]; simp [hsl, State.setSlotRec_other h]

theorem referenceQualified_fallback (hi : (slotAt r i).st = 4) (hj : (slotAt r j).st = 5) (ht : (slotAt r i).trialLeft = 0) :
    ∃ t, exec (.referenceQualified record) s = .next t ∧ t.dev.state = .starting ∧ t.dev.activeSlot = j ∧
      t.upd.started = some j ∧ t.upd.fallback = some (j, 0) ∧ t.upd.record.fallbacks = sat16 r.fallbacks ∧
      slotAt t.upd.record i = { slotAt r i with st := 7 } ∧ slotAt t.upd.record j = slotAt r j := by
  obtain ⟨hdev, -, hrec⟩ := s.recordRead_spec record
  have hsl := s.recordRead_slotRec record
  rw [← hr] at hrec
  simp only [← hr] at hsl
  refine ⟨_, State.referenceQualified_starts hst href hretry (State.selectSlot_fallback h _ (by rwa [hsl]) (by rwa [hsl])
    (by rwa [hsl])) rfl, (congrArg Dev.state hdev).trans hst, rfl, rfl, rfl, ?_, ?_, ?_⟩
  · show sat16 (State.setSlotRec _ _ _).upd.record.fallbacks = _
    rw [State.setSlotRec_fallbacks, hrec]
  · rw [← State.slotRec_eq_at]; simp [hsl]
  · rw [← State.slotRec_eq_at]; simp [hsl, State.setSlotRec_other h]

theorem referenceQualified_active (hi : (slotAt r i).st = 5) (hj3 : (slotAt r j).st ≠ 3) (hj4 : (slotAt r j).st ≠ 4)
    (hj5 : (slotAt r j).st ≠ 5) : ∃ t, exec (.referenceQualified record) s = .next t ∧ t.dev.state = .starting ∧
      t.dev.activeSlot = i ∧ t.upd.started = some i ∧ t.upd.record = r := by
  obtain ⟨hdev, -, hrec⟩ := s.recordRead_spec record
  have hsl := s.recordRead_slotRec record
  simp only [← hr] at hsl
  exact ⟨_, State.referenceQualified_starts hst href hretry (State.selectSlot_active h _ (by rwa [hsl]) (by rwa [hsl])
    (by rwa [hsl]) (by rwa [hsl])) rfl, (congrArg Dev.state hdev).trans hst, rfl, rfl, hrec.trans hr.symm⟩

/-- R485: no slot to start. -/
theorem referenceQualified_none (hi : (slotAt r i).st ∉ [3, 4, 5]) (hj : (slotAt r j).st ∉ [3, 4, 5]) :
    ∃ t, exec (.referenceQualified record) s = .next t ∧ t.dev.state = .standby := by
  have hsl := s.recordRead_slotRec record
  simp only [← hr] at hsl
  refine ⟨_, rfl, ?_⟩
  rw [s.referenceQualified_eq record hst href hretry,
    State.selectSlot_none h _ (by rwa [hsl]) (by rwa [hsl])]
  rfl

end

/-- R468, R549: the reference has not qualified 5 ms after the start, with source 2 armed. -/
theorem State.referenceTimeout_eq (s : State) (hst : s.dev.state = .starting) (href : s.pwr.refOk = false)
    (hretry : s.bam.bootRetry = none) (hlate : s.dev.startEt + 5000000 ≤ s.et) (hserve : s.bam.serving = false)
    (harm : s.bam.armed.testBit 2 = true) : s.referenceTimeout = s.tamperStart 2 := by
  unfold State.referenceTimeout
  rw [if_neg (by simp [hst, href, hretry, hserve, nsMs]; exact decide_eq_false (by omega)), if_pos harm]

/-- R468: a first alarm at start sets the retry. -/
theorem State.tamperStart_first (s : State) (src : Nat) (h : s.bam.bootAlarms = 0) :
    (s.tamperStart src).dev = s.dev ∧ (s.tamperStart src).bam.bootRetry = some (s.et + 100000000) := by
  unfold State.tamperStart
  dsimp only
  rw [if_neg (by simp [State.tamperLog, h])]
  simp [State.tamperLog, nsMs]

/-- R468: a later one locks the device out. -/
theorem State.tamperStart_later (s : State) (src : Nat) (h : 1 ≤ s.bam.bootAlarms) :
    (s.tamperStart src).dev.state = .standby ∧ (s.tamperStart src).dev.lockout = true := by
  unfold State.tamperStart
  dsimp only
  rw [if_pos (by simp [State.tamperLog]; omega)]
  simp

/-! ### The start of an image (R150, R487) -/

/-- What the sections of an image other than its header leave alone. -/
def State.imageView (s : State) : Dev × Easel × Upd := (s.dev, s.easel, s.upd)

theorem foldl_imageView {α : Type} (f : State → α → State) (h : ∀ s a, (f s a).imageView = s.imageView) (l : List α)
    (s : State) : (l.foldl f s).imageView = s.imageView := by
  induction l generalizing s with
  | nil => rfl
  | cons a l ih => rw [List.foldl_cons, ih, h]

@[simp] theorem State.rxDecl_imageView (s : State) (buf len cls idx : Nat) : (s.rxDecl buf len cls idx).imageView = s.imageView := by
  unfold State.rxDecl
  split <;> rfl

@[simp] theorem State.txDecl_imageView (s : State) (buf len cls idx : Nat) : (s.txDecl buf len cls idx).imageView = s.imageView := by
  unfold State.txDecl
  split <;> rfl

theorem State.setRoutes_imageView (s : State) (g : Image) : (s.setRoutes g).imageView = s.imageView := by
  have hstore : ∀ (t : State) (r : Nat × List Byte), (t.store (routeBase + 32 * r.1) (fit 32 r.2)).imageView = t.imageView :=
    fun _ _ => rfl
  have hpin : ∀ (t : State) (r : Nat × List Byte),
      (if r.1 != 0 && rUsed r.2 && rPinned r.2 then t.routeLoad r.1 else t).imageView = t.imageView := by
    intro t r
    unfold State.routeLoad
    (repeat' split) <;> rfl
  exact (foldl_imageView _ hpin g.routes _).trans (foldl_imageView _ hstore g.routes s)

theorem State.fdbStatic_imageView (s : State) (e : FdbEnt) : (s.fdbStatic e).imageView = s.imageView := by
  unfold State.fdbStatic
  split <;> rfl

theorem State.setSwitch_imageView (s : State) (g : Image) : (s.setSwitch g).imageView = s.imageView := by
  unfold State.setSwitch
  dsimp only
  rw [foldl_imageView, foldl_imageView _ State.fdbStatic_imageView]
  · rfl
  · intro t r
    split <;> simp

theorem State.setBuses_imageView (s : State) (g : Image) : (s.setBuses g).imageView = s.imageView := by
  unfold State.setBuses
  dsimp only
  rw [foldl_imageView, foldl_imageView, foldl_imageView, foldl_imageView]
  · rfl
  all_goals
    intro t r
    (repeat' split) <;> simp

/-- R487: an accepted image is taken up: its header in the device registers, the canvas length and palette 0 LOADING. -/
theorem State.applyImage_spec (s : State) (g : Image) :
    (s.applyImage g).dev = { s.dev with
      imageId := g.imageId, imageVersion := g.version, contractVersion := g.contract, fwVersion := g.firmware, mcoreUp := true } ∧
    (s.applyImage g).easel.canvasLen = g.canvasUs * 125 ∧ ((s.applyImage g).slot 0).st = 1 ∧ (s.applyImage g).upd = s.upd := by
  let u : State := { s with
    dev := { s.dev with
      imageId := g.imageId, imageVersion := g.version, contractVersion := g.contract, fwVersion := g.firmware, mcoreUp := true }
    easel := { s.easel with canvasLen := g.canvasUs * 125, sections := g.palettes }
    flt := { s.flt with wdog := s.et } }
  let v := (((u.setPlan g).setRoutes g).setSwitch g).setBuses g
  have hv : v.imageView = u.imageView :=
    (State.setBuses_imageView _ g).trans ((State.setSwitch_imageView _ g).trans (State.setRoutes_imageView (u.setPlan g) g))
  obtain ⟨hdev, heasel, hupd⟩ : v.dev = u.dev ∧ v.easel = u.easel ∧ v.upd = u.upd := by
    simpa [State.imageView] using hv
  have ht : s.applyImage g = ((v.setOutputs g).setWake g).setSlot 0
      { st := 1, sect := 0, pages := palPages (u.palSection 0).strokes } := rfl
  rw [ht]
  refine ⟨hdev, ?_, ?_, hupd⟩
  · exact congrArg Easel.canvasLen heasel
  · rw [State.setSlot_slot]

section
variable {s : State} {g : Image} {i : Nat} (hst : s.dev.state = .starting) (href : s.pwr.refOk = true)
  (hup : s.dev.mcoreUp = false) (hs : s.upd.started = some i) (hretry : s.bam.bootRetry = none)
  (hb : s.bam.serving = true ∨ s.bam.halted = true)
include hst href hup hs hretry hb

/-- R487: components and image accepted. -/
theorem State.mcoreStart_accepted (hc : s.imageCode g = 0) :
    s.mcoreStart g true = (s.applyImage g).startMark s.dev.activeSlot := by
  unfold State.mcoreStart
  rw [if_neg (by rcases hb with hb | hb <;> simp [hst, href, hup, hs, hretry, hb])]
  simp [hc]

/-- R150, R485: a slot that is not accepted fails; the rejection of an image leaves a log record. -/
theorem State.mcoreStart_rejected {ok : Bool} (hc : ok = false ∨ s.imageCode g ≠ 0) : ∃ f,
    s.mcoreStart g ok = let u := ({ s with flt := f } : State).slotFails
      if u.upd.started.isNone then u.enterStandby false else u := by
  unfold State.mcoreStart
  rw [if_neg (by rcases hb with hb | hb <;> simp [hst, href, hup, hs, hretry, hb])]
  rw [if_neg (by rcases hc with hc | hc <;> simp [hc])]
  cases ok
  · exact ⟨s.flt, rfl⟩
  · exact ⟨_, rfl⟩

end

end Sys2Proof.Machine
end

