-- ==== Sys2Proof/Proofs/Update.lean ====
section
/-!
PROOFS. Chunk commits, the health window, resets and waiting record writes (R61, R468, R482, R484, R486, R497), and the
statement on starts and updates.
-/

namespace Sys2Proof.Machine

/-! ### Shared operations of the update manager -/

theorem State.slotRec_congr {s t : State} (h : t.upd = s.upd) (n : Nat) : t.slotRec n = s.slotRec n := by
  unfold State.slotRec; rw [h]

theorem State.spareSlot_congr {s t : State} (h : t.dev = s.dev) : t.spareSlot = s.spareSlot := by
  unfold State.spareSlot; rw [h]

/-- What the relay leaves alone: everything of these records but which halves of its buffer are full. -/
def State.relayView (s : State) : Dev × Bam × Cmd × Upd := (s.dev, s.bam, s.cmd, { s.upd with relayFull := 0, relayNext := 0 })

theorem State.relayStep_relayView (s : State) : s.relayStep.relayView = s.relayView := by
  have stores : ∀ (a : Nat × List Byte → Nat) (l : Tab (List Byte)) (t : State),
      (l.foldl (fun t f => t.store (a f) f.2) t).relayView = t.relayView := by
    intro a l
    induction l with
    | nil => intro t; rfl
    | cons f l ih => intro t; rw [List.foldl_cons, ih]; rfl
  unfold State.relayStep
  extract_lets u i x ready h frags put t
  split
  · rfl
  · exact stores (fun f => u.relayBuf + h * chunkLen + f.1 * fragLen) frags s

theorem State.relayPump_relayView (s : State) : s.relayPump.relayView = s.relayView :=
  (State.relayStep_relayView _).trans (State.relayStep_relayView s)

/-- R484: the answer to the UPD_CHUNK that completed a chunk leaves no UPD_CHUNK waiting. -/
theorem State.chunkReply_spec (s : State) (status : Nat) (result : List Byte) : (s.chunkReply status result).upd = s.upd ∧
    ∀ o ∈ (s.chunkReply status result).cmd.async, (o.code == 0x0E02 && o.started) = false := by
  unfold State.chunkReply
  exact ⟨by simp, s.finishWhere_none _ _ _⟩

theorem State.chunkDrop_spec (s : State) (status : Nat) :
    (s.chunkDrop status).upd = { s.upd with staged := [], committing := false } ∧
      ∀ o ∈ (s.chunkDrop status).cmd.async, (o.code == 0x0E02 && o.started) = false :=
  State.chunkReply_spec _ _ _

/-- R150, R484: the completion checks leave the slot SKETCH or FAILED. -/
theorem State.sketchEnd_spec (s : State) (c : ChunkResult) :
    (s.sketchEnd c).upd = (s.setSlotRec s.spareSlot { s.slotRec s.spareSlot with
      st := if s.acceptCode c.accept = 0 then 2 else 7 }).upd ∧
    ∀ o ∈ (s.sketchEnd c).cmd.async, (o.code == 0x0E02 && o.started) = false := by
  unfold State.sketchEnd
  dsimp only
  by_cases h : s.acceptCode c.accept = 0
  · rw [if_pos (by simp [h]), if_pos h]
    obtain ⟨hupd, hasync⟩ := State.chunkReply_spec ((s.setSlotRec s.spareSlot { s.slotRec s.spareSlot with st := 2 }).raise [0]
      0x168 3 (s.slotRec s.spareSlot).sketch) stOk (leBytes 4 (s.slotRec s.spareSlot).committed)
    exact ⟨hupd.trans (State.raise_upd _ _ _ _ _), hasync⟩
  · rw [if_neg (by simp [h]), if_neg h]
    refine ⟨(State.chunkReply_spec _ _ _).1.trans ?_, (State.chunkReply_spec _ _ _).2⟩
    rw [State.raise_upd]; rfl

/-- R489: the slot state record outlasts a start. -/
theorem Upd.kept_record (u : Upd) : u.kept.record = u.record := by
  unfold Upd.kept
  split <;> rfl

/-! ### Chunk commits (R484) -/

theorem State.chunkCommit_digestFails (s : State) (c : ChunkResult) (hcom : s.upd.committing = true)
    (hfeed : s.feedBelow6 = false) (hst : (s.slotRec s.spareSlot).st = 1) (hd : c.digestOk = false) :
    s.chunkCommit c = ({ s with upd := { s.upd with
      record := { s.upd.record with digestFails := sat16 s.upd.record.digestFails } } } : State).chunkDrop 0x1003 := by
  unfold State.chunkCommit
  simp [hcom, hfeed, hst, hd]

/-- The chunk at the committed count is in flash. -/
def State.chunkProgrammed (s : State) : State :=
  let x := s.slotRec s.spareSlot
  ({ s with upd := { s.upd with
    flash := s.upd.flash.put [] (s.spareSlot * 192 + x.committed) s.upd.staged, staged := [], committing := false } }).setSlotRec
    s.spareSlot { x with committed := x.committed + 1 }

theorem State.chunkCommit_programs (s : State) (c : ChunkResult) (hcom : s.upd.committing = true)
    (hfeed : s.feedBelow6 = false) (hst : (s.slotRec s.spareSlot).st = 1) (hd : c.digestOk = true)
    (hn : (s.slotRec s.spareSlot).committed ≠ 0) : ∃ d,
    s.chunkCommit c = let u := s.chunkProgrammed.relayPump.raise [0] 0x168 2 d
      if (s.slotRec s.spareSlot).committed + 1 = (s.slotRec s.spareSlot).chunks then u.sketchEnd c
      else u.chunkReply stOk (leBytes 4 ((s.slotRec s.spareSlot).committed + 1)) := by
  unfold State.chunkCommit
  extract_lets i x r upd dir first x' n s1 s2 was s3 filled u
  have hfirst : first = false := by simp [first, x, i, hn]
  have hx : x' = x := if_neg (by simp [hfirst])
  have hs2 : s2 = s.chunkProgrammed := by
    simp only [s2, s1, n, hx]
    rfl
  rw [if_neg (by simp [hcom, hfeed, x, i, hst]), if_neg (by simp [hd]), if_neg (by simp [hfirst]), if_neg (by simp [hfirst])]
  refine ⟨pack [(0, 8, n), (8, 1, if filled then n % 2 else 0), (9, 1, b2n !filled)], ?_⟩
  simp only [u, s3, hs2, n, hx, beq_iff_eq]
  rfl

/-- The state in which a programmed chunk is answered. -/
theorem State.chunkProgrammed_spec (s : State) (d : Nat) :
    let u := s.chunkProgrammed.relayPump.raise [0] 0x168 2 d
    u.dev = s.dev ∧ u.bam = s.bam ∧ u.upd.staged = [] ∧ u.upd.committing = false ∧
      u.upd.flash = s.upd.flash.put [] (s.spareSlot * 192 + (s.slotRec s.spareSlot).committed) s.upd.staged ∧
      u.slotRec s.spareSlot = { s.slotRec s.spareSlot with committed := (s.slotRec s.spareSlot).committed + 1 } := by
  intro u
  have hu : u.relayView = s.chunkProgrammed.relayView := by
    rw [← s.chunkProgrammed.relayPump_relayView]
    simp [u, State.relayView]
  obtain ⟨hdev, hbam, -, hupd⟩ : u.dev = s.chunkProgrammed.dev ∧ u.bam = s.chunkProgrammed.bam ∧
      u.cmd = s.chunkProgrammed.cmd ∧ ({ u.upd with relayFull := 0, relayNext := 0 } : Upd) =
        { s.chunkProgrammed.upd with relayFull := 0, relayNext := 0 } := by
    simpa only [State.relayView, Prod.mk.injEq] using hu
  have hrec : u.upd.record = s.chunkProgrammed.upd.record := (congrArg Upd.record hupd :)
  refine ⟨hdev, hbam, (congrArg Upd.staged hupd :), (congrArg Upd.committing hupd :), (congrArg Upd.flash hupd :), ?_⟩
  rw [State.slotRec_eq_at, hrec, ← State.slotRec_eq_at, State.chunkProgrammed, State.setSlotRec_slotRec]

/-- R484: a chunk that holds and is not the first. -/
theorem State.chunkCommit_holds (s : State) (c : ChunkResult) (hcom : s.upd.committing = true)
    (hfeed : s.feedBelow6 = false) (hst : (s.slotRec s.spareSlot).st = 1) (hd : c.digestOk = true)
    (hn : (s.slotRec s.spareSlot).committed ≠ 0) :
    (s.chunkCommit c).upd.staged = [] ∧ (s.chunkCommit c).upd.committing = false ∧
      (s.chunkCommit c).upd.flash = s.upd.flash.put [] (s.spareSlot * 192 + (s.slotRec s.spareSlot).committed) s.upd.staged ∧
      ((s.chunkCommit c).slotRec s.spareSlot).committed = (s.slotRec s.spareSlot).committed + 1 ∧
      (∀ o ∈ (s.chunkCommit c).cmd.async, (o.code == 0x0E02 && o.started) = false) ∧
      ((s.chunkCommit c).slotRec s.spareSlot).st =
        (if (s.slotRec s.spareSlot).committed + 1 ≠ (s.slotRec s.spareSlot).chunks then 1
          else if s.acceptCode c.accept = 0 then 2 else 7) := by
  obtain ⟨d, e⟩ := s.chunkCommit_programs c hcom hfeed hst hd hn
  obtain ⟨hdev, hbam, hstaged, hcomm, hflash, hrec⟩ := s.chunkProgrammed_spec d
  rw [e]
  generalize s.chunkProgrammed.relayPump.raise [0] 0x168 2 d = u at *
  dsimp only
  by_cases hlast : (s.slotRec s.spareSlot).committed + 1 = (s.slotRec s.spareSlot).chunks
  · have hspare : u.spareSlot = s.spareSlot := State.spareSlot_congr hdev
    have hcode : u.acceptCode c.accept = s.acceptCode c.accept := by unfold State.acceptCode; rw [hbam]
    obtain ⟨hupd, hasync⟩ := u.sketchEnd_spec c
    rw [hspare, hcode, hrec] at hupd
    rw [if_pos hlast, State.slotRec_congr hupd, State.setSlotRec_slotRec, hupd]
    refine ⟨hstaged, hcomm, hflash, rfl, hasync, ?_⟩
    have hdone : ¬ (s.slotRec s.spareSlot).committed + 1 ≠ (s.slotRec s.spareSlot).chunks := fun hmore => hmore hlast
    rw [if_neg hdone]
  · obtain ⟨hupd, hasync⟩ := u.chunkReply_spec stOk (leBytes 4 ((s.slotRec s.spareSlot).committed + 1))
    rw [if_neg hlast, State.slotRec_congr hupd, hrec, hupd]
    refine ⟨hstaged, hcomm, hflash, rfl, hasync, ?_⟩
    rw [if_pos hlast]
    exact hst

/-! ### Timed rows of the device and the update manager -/

/-- R486. -/
theorem State.healthExpired_spec (s : State) (t : Nat) (he : s.upd.healthEnd = some t) (ht : t ≤ s.et)
    (ha : s.active = true) (hst : (s.slotRec s.dev.activeSlot).st = 4) :
    (s.healthExpired.slotRec s.dev.activeSlot).st = 7 ∧ s.healthExpired.upd.healthEnd = none ∧
      s.healthExpired.dev.state = s.dev.state := by
  unfold State.healthExpired
  rw [he]
  dsimp only
  rw [if_neg (by simp [hst, ha, ht]), State.slotRec_congr (State.raise_upd _ _ _ _ _)]
  refine ⟨?_, ?_, ?_⟩
  · exact congrArg SlotRec.st (State.setSlotRec_slotRec s s.dev.activeSlot _)
  · rw [State.raise_upd]
  · rw [State.raise_dev]; rfl

theorem State.activateReset_eq (s : State) (t : Nat) (he : s.upd.activateAt = some t) (ht : t ≤ s.et) (ha : s.active = true) :
    s.activateReset = s.deviceReset 2 := by
  unfold State.activateReset
  rw [he]
  dsimp only
  rw [if_neg (by simp [ha, ht])]

/-- R487: the start-up loads have ended. -/
theorem State.startLoadDone_spec (s : State) (hst : s.dev.state = .starting) (hup : s.dev.mcoreUp = true)
    (hl : s.dev.loadsDone = false) : s.startLoadDone.dev.loadsDone = true ∧ s.startLoadDone.dev.state = .starting ∧
      (s.startLoadDone.slot 0).st = 2 ∧ (s.startLoadDone.slot 0).strokes = (s.palSection 0).strokes := by
  unfold State.startLoadDone
  rw [if_neg (by simp [hst, hup, hl])]
  extract_lets r t
  have hslot : t.slot 0 = _ := State.setSlot_slot s 0 _
  refine ⟨rfl, hst, ?_, ?_⟩
  · exact congrArg PalSlot.st hslot
  · exact congrArg PalSlot.strokes hslot

/-- R61: the delayed reset by its scope. -/
theorem State.resetExpiry_eq (s : State) (r : ResetPend) (he : s.dev.resetPend = some r) (ht : r.due ≤ s.et)
    (ha : s.active = true) : s.resetExpiry =
      let u := { s with dev := { s.dev with resetPend := none } }
      if r.scope == 1 then u.deviceReset 2 else if r.scope == 2 then u.clusterReset else u.switchReset := by
  unfold State.resetExpiry
  rw [he]
  dsimp only
  rw [if_neg (by simp [ha, ht])]

@[simp] theorem State.clusterReset_armed (s : State) : s.clusterReset.dev.armed = s.dev.armed := by
  obtain ⟨-, -, -, harmed, -⟩ := State.base_ext s.clusterReset_base
  exact harmed

theorem State.switchReset_spec (s : State) : s.switchReset.swc.fdb = [] ∧ s.switchReset.swc.frames = [] := ⟨rfl, rfl⟩

theorem State.resetExpiry_spec (s : State) (r : ResetPend) (he : s.dev.resetPend = some r) (ht : r.due ≤ s.et)
    (ha : s.active = true) :
    (r.scope = 1 → s.resetExpiry.dev.state = .starting ∧ s.resetExpiry.dev.startCause = 2 ∧ s.resetExpiry.dev.armed = false) ∧
      (r.scope = 2 → s.resetExpiry.dev.armed = s.dev.armed) ∧
      (r.scope = 3 → s.resetExpiry.swc.fdb = [] ∧ s.resetExpiry.swc.frames = []) := by
  rw [s.resetExpiry_eq r he ht ha]
  dsimp only
  refine ⟨fun hr => ?_, fun hr => ?_, fun hr => ?_⟩
  · rw [if_pos (by simp [hr])]
    exact ⟨rfl, rfl, rfl⟩
  · rw [if_neg (by simp [hr]), if_pos (by simp [hr]), State.clusterReset_armed]
  · rw [if_neg (by simp [hr]), if_neg (by simp [hr])]
    exact State.switchReset_spec _

/-! ### Record writes that waited for FEED12 (R482) -/

theorem State.finishAsync_updWaits (s : State) {o : Outst} (status : Nat) (result : List Byte)
    (h : (s.cmd.async.filter updWaits).Sublist [o]) :
    ∀ m ∈ (s.finishAsync o status result).cmd.async, updWaits m = false := by
  intro m hm
  rw [State.finishAsync_async] at hm
  refine Bool.eq_false_iff.mpr fun hw => ?_
  have hle : s.cmd.async.count m ≤ [o].count m := by
    rw [← List.count_filter (p := updWaits) (a := m) hw]
    exact h.count_le m
  have hpos : 0 < (s.cmd.async.erase o).count m := List.count_pos_iff.mpr hm
  rw [List.count_erase] at hpos
  by_cases e : o = m
  · subst e
    simp at hle hpos
    omega
  · simp [e] at hle hpos
    exact absurd (List.count_pos_iff.mpr hpos) (by omega)

theorem State.finishWhere_sublist (s : State) (f : Outst → Bool) (status : Nat) (result : List Byte) :
    (s.finishWhere f status result).cmd.async.Sublist s.cmd.async := by
  have ends : ∀ (l : List Outst) (t : State), (l.foldl (fun t o => t.finishAsync o status result) t).cmd.async.Sublist t.cmd.async := by
    intro l
    induction l with
    | nil => intro t; exact List.Sublist.refl _
    | cons o l ih =>
      intro t
      refine (ih _).trans ?_
      rw [State.finishAsync_async]
      exact List.erase_sublist
  exact ends _ s

theorem State.relayPump_cmd (s : State) : s.relayPump.cmd = s.cmd := congrArg (fun v => v.2.2.1) s.relayPump_relayView

theorem State.updBegin_async (s : State) (ps : List Byte) : (s.updBegin ps).1.cmd.async = s.cmd.async := by
  show (State.relayPump _).cmd.async = _
  rw [State.relayPump_cmd]
  (repeat' split) <;> simp

theorem State.updVarnish_async (s : State) (ps : List Byte) : (s.updVarnish ps).1.cmd.async = s.cmd.async := by
  show (State.relayPump _).cmd.async = _
  rw [State.relayPump_cmd, State.raise_cmd]
  rfl

/-- An update command that writes the record ends none of the others that wait to do so, and adds none. -/
theorem updAct_sublist (code : Nat) (ps : List Byte) (s : State) : (updAct code ps s).1.cmd.async.Sublist s.cmd.async := by
  unfold updAct
  split
  · exact (s.updBegin_async ps).symm ▸ List.Sublist.refl _
  · exact List.Sublist.refl _
  · exact (s.updVarnish_async ps).symm ▸ List.Sublist.refl _
  · unfold State.updAbort
    split
    · exact List.Sublist.refl _
    · dsimp only
      split
      · exact List.Sublist.refl _
      · split
        · exact State.finishWhere_sublist _ _ _ _
        · exact List.Sublist.refl _

/-- R482: FEED12 is back and one record write waited. -/
theorem State.flashResume_one (s : State) (v : Nat) (o : Outst) (hv : 600 ≤ v) (h : s.cmd.async.filter updWaits = [o]) :
    s.flashResume v = let r := updAct o.code o.pk.params (s.feedV 0 v); r.1.finishAsync o r.2.1 r.2.2 := by
  have hw : (s.feedV 0 v).cmd.async.filter updWaits = [o] := h
  unfold State.flashResume
  rw [if_neg (Nat.not_lt.mpr hv)]
  show List.foldl _ _ ((s.feedV 0 v).cmd.async.filter updWaits) = _
  rw [hw]
  rfl

theorem State.flashResume_spec (s : State) (v : Nat) (o : Outst) (hv : 600 ≤ v) (h : s.cmd.async.filter updWaits = [o]) :
    (∀ m ∈ (s.flashResume v).cmd.async, updWaits m = false) ∧
      (o.code = 0x0E03 → ((s.flashResume v).slotRec s.spareSlot).st = 3) := by
  rw [s.flashResume_one v o hv h]
  constructor
  · refine State.finishAsync_updWaits _ _ _ ?_
    rw [← h]
    exact (updAct_sublist _ _ _).filter updWaits
  · intro hc
    dsimp only
    rw [State.slotRec_congr (State.finishAsync_upd _ _ _ _), hc]
    exact congrArg SlotRec.st (State.setSlotRec_slotRec (s.feedV 0 v) s.spareSlot _)

end Sys2Proof.Machine

open Sys2Proof Sys2Proof.Machine

/-- Settles O53: each row by the rule of its operation. -/
theorem startAndUpdate : Obligations.StartAndUpdate := by
  intro s
  refine ⟨?_, ?_, ?_, ?_, ?_, ?_, ?_, ?_, ?_⟩
  · intro record r i j hst href hretry hr hij
    exact ⟨referenceQualified_pending hst href hretry hij hr, referenceQualified_trial hst href hretry hij hr,
      referenceQualified_fallback hst href hretry hij hr, referenceQualified_active hst href hretry hij hr,
      referenceQualified_none hst href hretry hij hr⟩
  · intro hst href hretry hlate hserve harm
    refine ⟨_, congrArg Host.Outcome.next (s.referenceTimeout_eq hst href hretry hlate hserve harm), fun h => ?_,
      s.tamperStart_later 2⟩
    obtain ⟨hdev, hretry⟩ := s.tamperStart_first 2 h
    exact ⟨(congrArg Dev.state hdev).trans hst, hretry⟩
  · intro g i hst href hup hs hi hretry hb
    refine ⟨fun hc => ?_, fun ok hc => ?_⟩
    · obtain ⟨hdev, hlen, hslot, hupd⟩ := s.applyImage_spec g
      refine ⟨_, congrArg Host.Outcome.next (State.mcoreStart_accepted hst href hup hs hretry hb hc), ?_⟩
      show (s.applyImage g).dev.state = _ ∧ (s.applyImage g).dev.mcoreUp = _ ∧ (s.applyImage g).dev.imageId = _ ∧
        (s.applyImage g).dev.imageVersion = _ ∧ (s.applyImage g).dev.fwVersion = _ ∧ _
      rw [hdev]
      exact ⟨hst, rfl, rfl, rfl, rfl, hlen, hslot, hupd⟩
    · have hij : SlotPair i (1 - i) := by unfold SlotPair; omega
      obtain ⟨f, e⟩ := State.mcoreStart_rejected hst href hup hs hretry hb hc
      dsimp only at e
      refine ⟨fun h4 h5 => ⟨_, congrArg Host.Outcome.next e, ?_⟩, fun h4 h5 => ⟨_, congrArg Host.Outcome.next e, ?_⟩⟩
      · rw [State.slotFails_fallback hij ({ s with flt := f } : State) hs h4 h5]
        exact ⟨hst, rfl, congrArg SlotRec.st (State.setSlotRec_slotRec ({ s with flt := f } : State) i _), rfl⟩
      · rw [State.slotFails_none hij ({ s with flt := f } : State) hs h4 h5]
        refine ⟨rfl, ?_⟩
        have hx := congrArg SlotRec.st (State.setSlotRec_slotRec ({ s with flt := f } : State) i { s.slotRec i with st := 7 })
        rw [State.slotRec_eq_at] at hx ⊢
        show (slotAt (State.enterStandby _ false).upd.record i).st = 7
        rw [State.enterStandby_upd, Upd.kept_record]
        exact hx
  · intro hst hup hl
    exact ⟨_, rfl, s.startLoadDone_spec hst hup hl⟩
  · intro c hcom hfeed hst
    refine ⟨fun hd => ⟨_, congrArg Host.Outcome.next (s.chunkCommit_digestFails c hcom hfeed hst hd), ?_⟩,
      fun hd hn => ⟨_, rfl, s.chunkCommit_holds c hcom hfeed hst hd hn⟩⟩
    obtain ⟨hupd, hasync⟩ := State.chunkDrop_spec ({ s with upd := { s.upd with
      record := { s.upd.record with digestFails := sat16 s.upd.record.digestFails } } } : State) 0x1003
    rw [hupd]
    exact ⟨rfl, rfl, rfl, rfl, hasync⟩
  · intro t he ht ha hst
    exact ⟨_, rfl, s.healthExpired_spec t he ht ha hst⟩
  · intro t he ht ha
    exact ⟨_, congrArg Host.Outcome.next (s.activateReset_eq t he ht ha), rfl, rfl, rfl⟩
  · intro r he ht ha
    obtain ⟨h1, h2, h3⟩ := s.resetExpiry_spec r he ht ha
    exact ⟨fun hr => ⟨_, rfl, h1 hr⟩, fun hr => ⟨_, rfl, h2 hr⟩, fun hr => ⟨_, rfl, h3 hr⟩⟩
  · exact fun v o hv h => ⟨_, rfl, s.flashResume_spec v o hv h⟩

end

