-- ==== Sys2Proof/Proofs/SleepWake.lean ====
section
/-!
PROOFS. Sleep and wake (R499 to R508): the prep time, arming of the wake set, the abort of a sleep, wake lines and pulses.
-/

namespace Sys2Proof.Machine

/-! ### Folds -/

/-- A fact that one element of the list sets, and that no element breaks, holds at the end. -/
theorem foldl_reaches {α : Type} {I P : State → Prop} (f : State → α → State) {a : α} (hI : ∀ s b, I s → I (f s b))
    (hset : ∀ s, I s → P (f s a)) (hkeep : ∀ s b, I s → P s → P (f s b)) (l : List α) (ha : a ∈ l) (s : State) (hs : I s) :
    P (l.foldl f s) := by
  have kept : ∀ (l : List α) (s : State), I s → P s → P (l.foldl f s) := by
    intro l
    induction l with
    | nil => exact fun s _ hp => hp
    | cons b l ih => exact fun s hi hp => ih _ (hI s b hi) (hkeep s b hi hp)
  induction l generalizing s with
  | nil => cases ha
  | cons b l ih =>
    rcases List.mem_cons.mp ha with rfl | h
    · exact kept l _ (hI s a hs) (hset s hs)
    · exact ih h _ (hI s b hs)

/-- A fact that every element of the list keeps. -/
theorem foldl_keeps {α : Type} {I : State → Prop} (f : State → α → State) (l : List α) (h : ∀ s, ∀ b ∈ l, I s → I (f s b))
    (s : State) (hs : I s) : I (l.foldl f s) := by
  induction l generalizing s with
  | nil => exact hs
  | cons b l ih => exact ih (fun s c hc => h s c (List.mem_cons_of_mem b hc)) _ (h s b List.mem_cons_self hs)

theorem mem_upFrom {n : Nat} : ∀ {a k : Nat}, k ∈ upFrom a n ↔ a ≤ k ∧ k < a + n := by
  induction n with
  | zero => intro a k; simp [upFrom]
  | succ n ih => intro a k; rw [upFrom, List.mem_cons, ih]; omega

/-! ### Arming of the wake set (R500, R501) -/

/-- The registers of a sleep request that arming does not touch. -/
def Wake.request (w : Wake) : Wake := { w with armed := 0, tc10Wait := [] }

theorem State.curSet_congr {s t : State} (h : t.wake.request = s.wake.request) : t.curSet = s.curSet := by
  have hset : t.wake.set = s.wake.set := (congrArg Wake.set h :)
  have hsets : t.wake.sets = s.wake.sets := (congrArg Wake.sets h :)
  unfold State.curSet State.wakeSet
  rw [hset, hsets]

/-- The lines of the set are latched: no level-mode line of it is active, so none aborts. -/
theorem State.armLines_eq (s : State) (h : ∀ n, n < 4 → s.curSet.wki.testBit n = true → (s.wki n).enabled = true →
    (s.wki n).level = true → s.wkiOn n = false) : ∃ a, s.armLines = { s with wake := { s.wake with armed := a } } := by
  unfold State.armLines
  refine foldl_keeps (I := fun t => ∃ a, t = { s with wake := { s.wake with armed := a } }) _ _ ?_ s ⟨s.wake.armed, rfl⟩
  rintro t n hn ⟨a, rfl⟩
  have hn : n < 4 := by have := (mem_upFrom.mp hn).2; omega
  split
  · exact ⟨a, rfl⟩
  · rename_i hc
    simp only [Bool.or_eq_true, Bool.not_eq_true', not_or, Bool.not_eq_false] at hc
    obtain ⟨⟨-, hset⟩, hen⟩ := hc
    have hoff : ((s.wki n).level && s.wkiOn n) = false := by
      cases hl : (s.wki n).level
      · rfl
      · exact h n hn hset hen hl
    dsimp only
    rw [if_neg (by
      show ¬((s.wki n).level && s.wkiOn n) = true
      rw [hoff]; decide)]
    exact ⟨_, rfl⟩

/-- What the arming of one kind of detector leaves alone beside its own registers. -/
structure ArmFrame (s t : State) : Prop where
  request : t.wake.request = s.wake.request
  waits : t.wake.tc10Wait = s.wake.tc10Wait

/-- CAN channels of the set fall asleep, armed; channels keep their configuration, and segments and ports all they hold. -/
structure CanArmed (s t : State) : Prop extends ArmFrame s t where
  cfg : ∀ n, (t.canOf n).cfg = (s.canOf n).cfg
  lin : t.lin = s.lin
  prt : t.prt = s.prt

theorem CanArmed.refl (s : State) : CanArmed s s := ⟨⟨rfl, rfl⟩, fun _ => rfl, rfl, rfl⟩

theorem State.armDetector_canArmed {s t : State} (h : CanArmed s t) (b : Nat) : CanArmed s (t.armDetector b) :=
  ⟨⟨h.request, h.waits⟩, h.cfg, h.lin, h.prt⟩

theorem State.canSleep_canArmed {s t : State} (h : CanArmed s t) (n : Nat) : CanArmed s (t.canSleep n) := by
  refine ⟨⟨h.request, h.waits⟩, fun m => ?_, h.lin, h.prt⟩
  unfold State.canSleep
  by_cases e : m = n
  · subst e; simp [h.cfg]
  · simp [State.setCan_canOf_ne, e, h.cfg]

/-- What `armCan` does for one channel. -/
def State.armCanOne (s : State) (n : Nat) : State :=
  if s.curSet.can.testBit n && (s.canOf n).cfg.enabled then (s.canSleep n).armDetector (4 + n) else s

theorem State.armCan_eq (s : State) : s.armCan = (upFrom 0 16).foldl State.armCanOne s := rfl

theorem State.armCanOne_frame {s t : State} (h : CanArmed s t) (n : Nat) : CanArmed s (t.armCanOne n) := by
  unfold State.armCanOne
  split
  · exact State.armDetector_canArmed (State.canSleep_canArmed h n) _
  · exact h

theorem State.armCan_frame (s : State) : CanArmed s s.armCan :=
  foldl_keeps (I := CanArmed s) State.armCanOne _ (fun _ n _ h => State.armCanOne_frame h n) s (.refl s)

/-- R501: an enabled channel of the set is asleep and armed. -/
theorem State.armCan_asleep (s : State) (n : Nat) (hn : n < 16) (hset : s.curSet.can.testBit n = true)
    (hen : (s.canOf n).cfg.enabled = true) : (s.armCan.canOf n).st = 4 ∧ (s.armCan.canOf n).armed = true := by
  refine foldl_reaches (I := CanArmed s) (P := fun t => (t.canOf n).st = 4 ∧ (t.canOf n).armed = true) (a := n)
    State.armCanOne (fun _ m h => State.armCanOne_frame h m) ?_ ?_ (upFrom 0 16) (mem_upFrom.mpr (by omega)) s (.refl s)
  · intro t h
    unfold State.armCanOne
    rw [if_pos (by rw [State.curSet_congr h.request, hset, h.cfg, hen]; rfl)]
    have e : ((t.canSleep n).armDetector (4 + n)).canOf n = (t.canSleep n).canOf n := rfl
    rw [e, State.canSleep, State.setCan_canOf]
    exact ⟨rfl, rfl⟩
  · intro t m _ hp
    unfold State.armCanOne
    split
    · by_cases e : n = m
      · subst e
        have e : ((t.canSleep n).armDetector (4 + n)).canOf n = (t.canSleep n).canOf n := rfl
        rw [e, State.canSleep, State.setCan_canOf]
        exact ⟨rfl, rfl⟩
      · have k : ((t.canSleep m).armDetector (4 + m)).canOf n = (t.canSleep m).canOf n := rfl
        rw [k, State.canSleep, State.setCan_canOf_ne _ _ _ _ e]
        exact hp
    · exact hp

/-- LIN channels of the set fall asleep; channels keep their configuration, and CAN channels and ports all they hold. -/
structure LinArmed (s t : State) : Prop extends ArmFrame s t where
  cfg : ∀ n, (t.linOf n).cfg = (s.linOf n).cfg
  can : t.can = s.can
  prt : t.prt = s.prt

theorem LinArmed.refl (s : State) : LinArmed s s := ⟨⟨rfl, rfl⟩, fun _ => rfl, rfl, rfl⟩

/-- What `armLin` does for one channel. -/
def State.armLinOne (s : State) (n : Nat) : State :=
  if s.curSet.lin.testBit n && (s.linOf n).cfg.enabled then
    (if (s.linOf n).st == 2 then s else s.linSleep n 0).armDetector (20 + n)
  else s

theorem State.armLin_eq (s : State) : s.armLin = (upFrom 0 12).foldl State.armLinOne s := rfl

theorem State.linSleep_linArmed {s t : State} (h : LinArmed s t) (n why : Nat) : LinArmed s (t.linSleep n why) := by
  unfold State.linSleep
  refine ⟨⟨?_, ?_⟩, fun m => ?_, ?_, ?_⟩
  · rw [State.raise_wake]; exact h.request
  · rw [State.raise_wake]; exact h.waits
  · rw [State.raise_linOf]
    by_cases e : m = n
    · subst e; simp [h.cfg]
    · simp [State.setLin_linOf_ne, e, h.cfg]
  · rw [State.raise_can]; exact h.can
  · rw [State.raise_prt]; exact h.prt

theorem State.armLinOne_frame {s t : State} (h : LinArmed s t) (n : Nat) : LinArmed s (t.armLinOne n) := by
  have latch : ∀ u : State, LinArmed s u → LinArmed s (u.armDetector (20 + n)) := fun u hu =>
    ⟨⟨hu.request, hu.waits⟩, hu.cfg, hu.can, hu.prt⟩
  unfold State.armLinOne
  split
  · split
    · exact latch _ h
    · exact latch _ (State.linSleep_linArmed h n 0)
  · exact h

theorem State.armLin_frame (s : State) : LinArmed s s.armLin :=
  foldl_keeps (I := LinArmed s) State.armLinOne _ (fun _ n _ h => State.armLinOne_frame h n) s (.refl s)

theorem State.linSleep_linOf (s : State) (n why : Nat) : ((s.linSleep n why).linOf n).st = 2 := by
  unfold State.linSleep
  rw [State.raise_linOf, State.setLin_linOf]

/-- R501: an enabled LIN channel of the set is asleep. -/
theorem State.armLin_asleep (s : State) (n : Nat) (hn : n < 12) (hset : s.curSet.lin.testBit n = true)
    (hen : (s.linOf n).cfg.enabled = true) : (s.armLin.linOf n).st = 2 := by
  refine foldl_reaches (I := LinArmed s) (P := fun t => (t.linOf n).st = 2) (a := n)
    State.armLinOne (fun _ m h => State.armLinOne_frame h m) ?_ ?_ (upFrom 0 12) (mem_upFrom.mpr (by omega)) s (.refl s)
  · intro t h
    unfold State.armLinOne
    rw [if_pos (by rw [State.curSet_congr h.request, hset, h.cfg, hen]; rfl)]
    split
    · rename_i hst; exact beq_iff_eq.mp hst
    · exact t.linSleep_linOf n 0
  · intro t m _ hp
    unfold State.armLinOne
    split
    · split
      · exact hp
      · show ((t.linSleep m 0).linOf n).st = 2
        by_cases e : n = m
        · subst e; exact t.linSleep_linOf n 0
        · rw [State.linSleep, State.raise_linOf, State.setLin_linOf_ne _ _ _ _ e]; exact hp
    · exact hp

/-- Ports of the set go through TC10 sleep: every port keeps its configuration and state. -/
structure PortsArmed (s t : State) : Prop where
  request : t.wake.request = s.wake.request
  cfg : ∀ p, (t.prtOf p).cfg = (s.prtOf p).cfg
  st : ∀ p, (t.prtOf p).st = (s.prtOf p).st
  can : t.can = s.can
  lin : t.lin = s.lin

theorem PortsArmed.refl (s : State) : PortsArmed s s := ⟨rfl, fun _ => rfl, fun _ => rfl, rfl, rfl⟩

/-- What `armPorts` does for one port. -/
def State.armPortOne (s : State) (p : Nat) : State :=
  let x := s.prtOf p
  if !s.curSet.ports.testBit p || !x.cfg.enabled then s
  else if x.st == 3 then s.armDetector (32 + p)
  else
    let s := s.setPrt p { x with sleepDue := some (x.sleepDue.getD (s.et + 16 * nsMs)) }
    { s with wake := { s.wake with tc10Wait := s.wake.tc10Wait ++ [p] } }

theorem State.armPorts_eq (s : State) : s.armPorts = (upFrom 0 12).foldl State.armPortOne s := rfl

/-- A port that goes through TC10 sleep. -/
def State.portWaits (s : State) (p : Nat) : Prop := p ∈ s.wake.tc10Wait ∧ (s.prtOf p).sleepDue.isSome = true

theorem State.armPortOne_frame {s t : State} (h : PortsArmed s t) (p : Nat) : PortsArmed s (t.armPortOne p) := by
  unfold State.armPortOne
  dsimp only
  split
  · exact h
  · split
    · exact ⟨h.request, h.cfg, h.st, h.can, h.lin⟩
    · refine ⟨h.request, fun q => ?_, fun q => ?_, h.can, h.lin⟩ <;> by_cases e : q = p
      · subst e; exact (congrArg Prt.cfg (State.setPrt_prtOf t q _)).trans (h.cfg q)
      · exact (congrArg Prt.cfg (State.setPrt_prtOf_ne t p q _ e)).trans (h.cfg q)
      · subst e; exact (congrArg Prt.st (State.setPrt_prtOf t q _)).trans (h.st q)
      · exact (congrArg Prt.st (State.setPrt_prtOf_ne t p q _ e)).trans (h.st q)

theorem State.armPorts_frame (s : State) : PortsArmed s s.armPorts :=
  foldl_keeps (I := PortsArmed s) State.armPortOne _ (fun _ p _ h => State.armPortOne_frame h p) s (.refl s)

/-- R501: an enabled port of the set that is awake waits for its partner. -/
theorem State.armPorts_waits (s : State) (p : Nat) (hp : p < 12) (hset : s.curSet.ports.testBit p = true)
    (hen : (s.prtOf p).cfg.enabled = true) (hst : (s.prtOf p).st ≠ 3) : s.armPorts.portWaits p := by
  refine foldl_reaches (I := PortsArmed s) (P := fun t => t.portWaits p) (a := p)
    State.armPortOne (fun _ q h => State.armPortOne_frame h q) ?_ ?_ (upFrom 0 12) (mem_upFrom.mpr (by omega)) s (.refl s)
  · intro t h
    unfold State.armPortOne
    dsimp only
    rw [if_neg (by simp [State.curSet_congr h.request, hset, h.cfg, hen]), if_neg (by simp [h.st, hst])]
    refine ⟨List.mem_append_right _ List.mem_cons_self, ?_⟩
    exact congrArg (fun x : Prt => x.sleepDue.isSome) (State.setPrt_prtOf t p _)
  · rintro t q _ ⟨hmem, hdue⟩
    unfold State.armPortOne
    dsimp only
    split
    · exact ⟨hmem, hdue⟩
    · split
      · exact ⟨hmem, hdue⟩
      · refine ⟨List.mem_append_left _ hmem, ?_⟩
        by_cases e : p = q
        · subst e
          exact congrArg (fun x : Prt => x.sleepDue.isSome) (State.setPrt_prtOf t p _)
        · exact (congrArg (fun x : Prt => x.sleepDue.isSome) (State.setPrt_prtOf_ne t q p _ e)).trans hdue

/-- Where every enabled port of the set is asleep, none waits. -/
theorem State.armPorts_asleep (s : State) (h : ∀ p, p < 12 → s.curSet.ports.testBit p = true →
    (s.prtOf p).cfg.enabled = true → (s.prtOf p).st = 3) : s.armPorts.wake.tc10Wait = s.wake.tc10Wait := by
  refine (foldl_keeps (I := fun t => PortsArmed s t ∧ t.wake.tc10Wait = s.wake.tc10Wait) State.armPortOne (upFrom 0 12)
    (fun t p hp ht => ⟨State.armPortOne_frame ht.1 p, ?_⟩) s ⟨.refl s, rfl⟩).2
  obtain ⟨hframe, hwait⟩ := ht
  have hp : p < 12 := by have := (mem_upFrom.mp hp).2; omega
  unfold State.armPortOne
  dsimp only
  split
  · exact hwait
  · rename_i hc
    simp only [Bool.or_eq_true, Bool.not_eq_true', not_or, Bool.not_eq_false] at hc
    obtain ⟨hset, hen⟩ := hc
    rw [State.curSet_congr hframe.request] at hset
    rw [hframe.cfg] at hen
    rw [if_pos (by rw [hframe.st, h p hp hset hen]; rfl)]
    exact hwait

/-- A port still waits: ARMING goes on. -/
theorem State.armedCheck_waits (s : State) (h : s.wake.tc10Wait ≠ []) : s.armedCheck = s := by
  unfold State.armedCheck
  dsimp only
  rw [if_neg (by simp [h])]

/-- No port waits: ARMED. -/
theorem State.armedCheck_armed (s : State) (hp : s.wake.phase = 2) (h : s.wake.tc10Wait = []) : s.armedCheck.wake.phase = 3 := by
  unfold State.armedCheck
  dsimp only
  rw [if_pos (by simp [hp, h])]
  simp

theorem State.armedCheck_frame (s : State) : s.armedCheck.can = s.can ∧ s.armedCheck.lin = s.lin ∧ s.armedCheck.prt = s.prt ∧
    s.armedCheck.wake.armEt = s.wake.armEt := by
  unfold State.armedCheck
  dsimp only
  split
  · simp
  · exact ⟨rfl, rfl, rfl, rfl⟩

/-- The state in which ARMING begins. -/
def State.armingBegun (s : State) : State := { s with wake := { s.wake with phase := 2, armEt := s.et } }

/-- ARMING with the lines of the set latched. -/
def State.linesLatched (s : State) (a : Nat) : State :=
  { s.armingBegun with wake := { s.armingBegun.wake with armed := a } }

theorem State.sleepArming_due (s : State) (start : Nat) (hp : s.wake.phase = 1) (hs : s.wake.prepFrom = some start)
    (ht : start + s.wake.prepMs * 1000000 ≤ s.et) : s.sleepArming =
      if s.armingBegun.armLines.wake.phase != 2 then s.armingBegun.armLines
      else s.armingBegun.armLines.armCan.armLin.armPorts.armedCheck := by
  have e : s.sleepArming = match s.wake.prepFrom with
    | none => s
    | some t => if s.wake.phase != 1 || decide (s.et < t + s.wake.prepMs * nsMs) then s
      else if s.armingBegun.armLines.wake.phase != 2 then s.armingBegun.armLines
      else s.armingBegun.armLines.armCan.armLin.armPorts.armedCheck := rfl
  rw [e, hs]
  have hdue : decide (s.et < start + s.wake.prepMs * nsMs) = false := decide_eq_false (by unfold nsMs; omega)
  simp only [hp, hdue, bne_self_eq_false, Bool.or_self, Bool.false_eq_true, if_false]

/-- R500: the prep time has elapsed and no level-mode line of the set is active. -/
theorem State.sleepArming_eq (s : State) (start : Nat) (hp : s.wake.phase = 1) (hs : s.wake.prepFrom = some start)
    (ht : start + s.wake.prepMs * 1000000 ≤ s.et) (h : ∀ n, n < 4 → s.curSet.wki.testBit n = true →
      (s.wki n).enabled = true → (s.wki n).level = true → s.wkiOn n = false) :
    ∃ a, s.sleepArming = (s.linesLatched a).armCan.armLin.armPorts.armedCheck := by
  obtain ⟨a, ha⟩ := s.armingBegun.armLines_eq h
  refine ⟨a, ?_⟩
  rw [s.sleepArming_due start hp hs ht, ha]
  rfl

/-- R500, R501: what ARMING leaves when the prep time has elapsed. -/
theorem State.armed_spec (s : State) (a : Nat) : let t := (s.linesLatched a).armCan.armLin.armPorts.armedCheck
    t.wake.armEt = s.et ∧
    (∀ n, n < 16 → s.curSet.can.testBit n = true → (s.canOf n).cfg.enabled = true →
      (t.canOf n).st = 4 ∧ (t.canOf n).armed = true) ∧
    (∀ n, n < 12 → s.curSet.lin.testBit n = true → (s.linOf n).cfg.enabled = true → (t.linOf n).st = 2) ∧
    (∀ p, p < 12 → s.curSet.ports.testBit p = true → (s.prtOf p).cfg.enabled = true → (s.prtOf p).st ≠ 3 →
      t.wake.phase = 2 ∧ p ∈ t.wake.tc10Wait ∧ (t.prtOf p).sleepDue.isSome = true) ∧
    ((∀ p, p < 12 → s.curSet.ports.testBit p = true → (s.prtOf p).cfg.enabled = true → (s.prtOf p).st = 3) →
      s.wake.tc10Wait = [] → t.wake.phase = 3) := by
  let u := s.linesLatched a
  let v := u.armCan
  let w := v.armLin
  let x := w.armPorts
  have hc : CanArmed u v := u.armCan_frame
  have hl : LinArmed v w := v.armLin_frame
  have hx : PortsArmed w x := w.armPorts_frame
  obtain ⟨ecan, elin, eprt, eet⟩ := x.armedCheck_frame
  have hreq : x.wake.request = u.wake.request := hx.request.trans (hl.request.trans hc.request)
  have hphase : x.wake.phase = 2 := (congrArg Wake.phase hreq :)
  have hvset : v.curSet = u.curSet := State.curSet_congr hc.request
  have hwset : w.curSet = u.curSet := State.curSet_congr (hl.request.trans hc.request)
  have hwprt : ∀ p, w.prtOf p = s.prtOf p := fun p => by unfold State.prtOf; rw [hl.prt, hc.prt]; rfl
  refine ⟨?_, fun n hn hset hen => ?_, fun n hn hset hen => ?_, fun p hp hset hen hst => ?_, fun hall hwait => ?_⟩
  · exact eet.trans (congrArg Wake.armEt hreq :)
  · have e : x.armedCheck.canOf n = v.canOf n := by unfold State.canOf; rw [ecan, hx.can, hl.can]
    rw [e]
    exact u.armCan_asleep n hn hset hen
  · have e : x.armedCheck.linOf n = w.linOf n := by unfold State.linOf; rw [elin, hx.lin]
    have hlin : v.linOf n = s.linOf n := by unfold State.linOf; rw [hc.lin]; rfl
    rw [e]
    exact v.armLin_asleep n hn (by rw [hvset]; exact hset) (by rw [hlin, hen])
  · obtain ⟨hmem, hdue⟩ := w.armPorts_waits p hp (by rw [hwset]; exact hset) (by rw [hwprt, hen]) (by rw [hwprt]; exact hst)
    rw [x.armedCheck_waits (List.ne_nil_of_mem hmem)]
    exact ⟨hphase, hmem, hdue⟩
  · have hnone : x.wake.tc10Wait = [] := by
      have hkeep := w.armPorts_asleep fun p hp hset hen => by
        rw [hwprt] at hen ⊢
        exact hall p hp (by rwa [hwset] at hset) hen
      rw [hkeep, hl.waits, hc.waits]
      exact hwait
    exact x.armedCheck_armed hphase hnone

/-! ### Sleep-abort (R503) -/

/-- The device state `d`, and no sleep request. -/
def State.abortedIn (s : State) (d : DevState) : Prop := s.dev.state = d ∧ s.wake.phase = 0

theorem State.portWake_abortedIn {s : State} {d : DevState} (h : s.abortedIn d) (p : Nat) (remote : Bool) :
    (s.portWake p remote).abortedIn d := by
  obtain ⟨hst, hphase⟩ := h
  unfold State.portWake State.portTrain State.tc10End
  dsimp only
  split
  · refine ⟨?_, ?_⟩
    · rw [State.raise_dev]; exact hst
    · rw [State.raise_wake]; exact hphase
  · split
    · refine ⟨?_, ?_⟩
      · rw [State.finishWhere_devState, State.raise_dev]; exact hst
      · rw [State.finishWhere_wake, State.raise_wake]; exact hphase
    · exact ⟨hst, hphase⟩

theorem State.canUp_abortedIn {s : State} {d : DevState} (h : s.abortedIn d) (n : Nat) : (s.canUp n).abortedIn d := by
  unfold State.canUp
  dsimp only
  split <;> exact h

theorem State.linWaking_abortedIn {s : State} {d : DevState} (h : s.abortedIn d) (n : Nat) (sent : Bool) :
    (s.linWaking n sent).abortedIn d := by
  obtain ⟨hst, hphase⟩ := h
  unfold State.linWaking
  dsimp only
  split
  · refine ⟨?_, ?_⟩
    · rw [State.raise_dev]; exact hst
    · rw [State.raise_wake]; exact hphase
  · exact ⟨hst, hphase⟩

/-- R503: an abort leads back to RUN or DEGRADED, without a request and without its command outstanding. -/
theorem State.sleepAbort_spec (s : State) (code : Nat) (cancel : Bool) :
    ((s.sleepAbort code cancel).dev.state = .run ∨ (s.sleepAbort code cancel).dev.state = .degraded) ∧
      (s.sleepAbort code cancel).wake.phase = 0 ∧
      ∀ o ∈ (s.sleepAbort code cancel).cmd.async, (o.code == 0x0F01 && u8 o.pk.params 0 == 0) = false := by
  unfold State.sleepAbort
  extract_lets armed waits _ _ u v w x y z q
  obtain ⟨d, hd, hv⟩ : ∃ d, (d = .run ∨ d = .degraded) ∧ v.abortedIn d := by
    have hu : u.dev.state = .run := rfl
    show ∃ d, (d = .run ∨ d = .degraded) ∧ (State.degrade u).abortedIn d
    unfold State.degrade
    dsimp only
    split
    · exact ⟨.degraded, .inr rfl, rfl, rfl⟩
    · rw [if_neg (by rw [hu]; simp)]
      exact ⟨.run, .inl rfl, rfl, rfl⟩
  have hw : w.abortedIn d := foldl_keeps (I := (State.abortedIn · d)) State.canUp _ (fun _ n _ h => State.canUp_abortedIn h n) v hv
  have hx : x.abortedIn d := foldl_keeps (I := (State.abortedIn · d)) (fun s n => s.linWaking n true) _
    (fun _ n _ h => State.linWaking_abortedIn h n true) w hw
  have hy : y.abortedIn d := foldl_keeps (I := (State.abortedIn · d)) (fun s p => s.portWake p false) _
    (fun _ p _ h => State.portWake_abortedIn h p false) x hx
  have hq : q.abortedIn d := by
    refine ⟨?_, ?_⟩
    · exact (congrArg Dev.state (State.raise_dev _ _ _ _ _)).trans hy.1
    · exact (congrArg Wake.phase (State.raise_wake _ _ _ _ _)).trans hy.2
  unfold State.sleepEnd
  refine ⟨?_, ?_, q.finishWhere_none _ _ _⟩
  · rw [State.finishWhere_devState, hq.1]; exact hd
  · rw [State.finishWhere_wake]; exact hq.2

/-! ### Wake lines (R507, R508) -/

theorem State.beforeCommit_state (s : State) (h : s.beforeCommit = true) : s.dev.state = .sleepPrep := by
  simp only [State.beforeCommit, Bool.and_eq_true, beq_iff_eq] at h
  obtain ⟨⟨hst, -⟩, -⟩ := h
  exact hst

/-- A change of line `n` is taken: recorded, with its event while palettes run. -/
def State.lineTaken (s : State) (n : Nat) (level : Bool) : State :=
  let s := { s with wake := { s.wake with wkiLevel := setBit s.wake.wkiLevel n level } }
  if s.active then s.raise [0] (0x170 + n) 1 (b2n level) else s

theorem State.lineTaken_spec (s : State) (n : Nat) (level : Bool) : (s.lineTaken n level).dev = s.dev ∧
    (s.lineTaken n level).wake = { s.wake with wkiLevel := setBit s.wake.wkiLevel n level } ∧
    (s.lineTaken n level).rtcNs = s.rtcNs := by
  unfold State.lineTaken
  dsimp only
  split
  · simp
  · exact ⟨rfl, rfl, rfl⟩

theorem setBit_ne {m i : Nat} {b : Bool} (h : m.testBit i ≠ b) : setBit m i b ≠ m := by
  have hpow : 0 < 2 ^ i := Nat.two_pow_pos i
  unfold setBit
  cases hb : m.testBit i with
  | true =>
    have hge : 2 ^ i ≤ m := Nat.ge_two_pow_of_testBit hb
    have hf : b = false := by simpa [hb] using h
    simp only [hf, if_true, Bool.false_eq_true, if_false]
    omega
  | false =>
    have ht : b = true := by simpa [hb] using h
    simp only [ht, if_true, Bool.false_eq_true, if_false]
    omega

/-- A change of an enabled line of a device that is not OFF. -/
theorem State.wakeLine_eq (s : State) (n : Nat) (level : Bool) (hn : n < 4) (hen : (s.wki n).enabled = true)
    (hoff : s.dev.state ≠ .off) (hne : s.wake.wkiLevel.testBit n ≠ level) : s.wakeLine n level =
      if level != (s.wki n).high then s.lineTaken n level
      else if s.beforeCommit && !s.curSet.wki.testBit n then (s.lineTaken n level).noteSource (0x10 + n)
      else (s.lineTaken n level).wakeFrom (0x10 + n) := by
  obtain ⟨hdev, hwake, -⟩ := s.lineTaken_spec n level
  have hwki : (s.lineTaken n level).wki n = s.wki n := by unfold State.wki; rw [hwake]
  have hbc : (s.lineTaken n level).beforeCommit = s.beforeCommit := by unfold State.beforeCommit; rw [hdev, hwake]
  have hset : (s.lineTaken n level).curSet = s.curSet := by unfold State.curSet State.wakeSet; rw [hwake]
  rw [← hwki, ← hbc, ← hset]
  unfold State.wakeLine
  rw [if_neg (by simp [Nat.not_le.mpr hn, hen, hoff, hne])]
  rfl

/-- The row of a wake line leads to STARTING from STANDBY only (R27), and only when the line is asserted. -/
theorem State.wakeLineRow_eq (s : State) (n : Nat) (level : Bool) (h : s.dev.state ≠ .standby ∨ level ≠ (s.wki n).high) :
    s.wakeLineRow n level = s.wakeLine n level := by
  unfold State.wakeLineRow
  dsimp only
  rw [if_neg (by rcases h with h | h <;> simp [h])]

theorem State.wakeLineRow_same (s : State) (n : Nat) (level : Bool) (h : s.wake.wkiLevel.testBit n = level) :
    s.wakeLineRow n level = s := by
  have hsame : s.wakeLine n level = s := by
    unfold State.wakeLine
    rw [if_pos (by simp [h])]
  unfold State.wakeLineRow
  dsimp only
  rw [hsame, if_neg (by simp)]

/-- A wake from a line where no request is in progress: recorded, with a pulse at most. -/
theorem State.wakeFrom_idle (s : State) (code : Nat) (h : s.beforeCommit = false) :
    (s.wakeFrom code).dev = s.dev ∧ ∃ wko, (s.wakeFrom code).wake = { (s.noteSource code).wake with wko := wko } := by
  unfold State.wakeFrom
  dsimp only
  rw [if_neg (by rw [State.noteSource_bc, h]; decide)]
  split
  · exact ⟨rfl, _, rfl⟩
  · exact ⟨rfl, _, rfl⟩

section
variable {s : State} {n : Nat} {level : Bool} (hn : n < 4) (hen : (s.wki n).enabled = true)
  (hne : s.wake.wkiLevel.testBit n ≠ level)
include hn hen hne

/-- R507: a change to the inactive level. -/
theorem State.wakeLineRow_released (hoff : s.dev.state ≠ .off) (hl : level ≠ (s.wki n).high) :
    (s.wakeLineRow n level).wake = { s.wake with wkiLevel := setBit s.wake.wkiLevel n level } ∧
      (s.wakeLineRow n level).dev.state = s.dev.state := by
  obtain ⟨hdev, hwake, -⟩ := s.lineTaken_spec n level
  rw [s.wakeLineRow_eq n level (.inr hl), s.wakeLine_eq n level hn hen hoff hne, if_pos (by simpa using hl)]
  exact ⟨hwake, congrArg Dev.state hdev⟩

/-- R505: an asserted line in SLEEP is recorded. -/
theorem State.wakeLineRow_sleep (hl : level = (s.wki n).high) (hst : s.dev.state = .sleep) :
    (s.wakeLineRow n level).wake.map = setBit s.wake.map (wakeBit (0x10 + n)) true ∧
      (s.wakeLineRow n level).dev.state = .sleep ∧
      (s.wake.map = 0 → (s.wakeLineRow n level).wake.first = 0x10 + n ∧ (s.wakeLineRow n level).wake.firstRtc = s.rtcNs) := by
  obtain ⟨hdev, hwake, hrtc⟩ := s.lineTaken_spec n level
  have hbc : s.beforeCommit = false := by unfold State.beforeCommit; rw [hst]; rfl
  have hbc' : (s.lineTaken n level).beforeCommit = false := by
    rw [← hbc]; unfold State.beforeCommit; rw [hdev, hwake]
  obtain ⟨hd, wko, hw⟩ := (s.lineTaken n level).wakeFrom_idle (0x10 + n) hbc'
  rw [s.wakeLineRow_eq n level (.inl (by rw [hst]; decide)), s.wakeLine_eq n level hn hen (by rw [hst]; decide) hne,
    if_neg (by simp [hl]), if_neg (by simp [hbc]), hd, hw, hdev]
  simp only [State.noteSource, hwake, hrtc]
  exact ⟨trivial, hst, fun h => by simp [h]⟩

/-- R503: an asserted line of the set before the commit point. -/
theorem State.wakeLineRow_aborts (hl : level = (s.wki n).high) (hbc : s.beforeCommit = true)
    (hset : s.curSet.wki.testBit n = true) :
    ((s.wakeLineRow n level).dev.state = .run ∨ (s.wakeLineRow n level).dev.state = .degraded) ∧
      (s.wakeLineRow n level).wake.phase = 0 ∧
      ∀ o ∈ (s.wakeLineRow n level).cmd.async, (o.code == 0x0F01 && u8 o.pk.params 0 == 0) = false := by
  have hst : s.dev.state = .sleepPrep := s.beforeCommit_state hbc
  obtain ⟨hdev, hwake, -⟩ := s.lineTaken_spec n level
  have hbc' : ((s.lineTaken n level).noteSource (0x10 + n)).beforeCommit = true := by
    rw [State.noteSource_bc, ← hbc]; unfold State.beforeCommit; rw [hdev, hwake]
  rw [s.wakeLineRow_eq n level (.inl (by rw [hst]; decide)), s.wakeLine_eq n level hn hen (by rw [hst]; decide) hne,
    if_neg (by simp [hl]), if_neg (by simp [hset])]
  unfold State.wakeFrom
  dsimp only
  rw [if_pos hbc']
  exact State.sleepAbort_spec _ _ _

/-- R504: an asserted line outside the set before the commit point. -/
theorem State.wakeLineRow_noted (hl : level = (s.wki n).high) (hbc : s.beforeCommit = true)
    (hset : s.curSet.wki.testBit n = false) :
    (s.wakeLineRow n level).dev.state = .sleepPrep ∧ (s.wakeLineRow n level).wake.phase = s.wake.phase ∧
      (s.wakeLineRow n level).wake.map = setBit s.wake.map (wakeBit (0x10 + n)) true := by
  have hst : s.dev.state = .sleepPrep := s.beforeCommit_state hbc
  obtain ⟨hdev, hwake, -⟩ := s.lineTaken_spec n level
  rw [s.wakeLineRow_eq n level (.inl (by rw [hst]; decide)), s.wakeLine_eq n level hn hen (by rw [hst]; decide) hne,
    if_neg (by simp [hl]), if_pos (by simp [hbc, hset])]
  simp only [State.noteSource, hdev, hwake]
  exact ⟨hst, trivial, trivial⟩

/-- R27: an asserted line in STANDBY without lock-out. -/
theorem State.wakeLineRow_standby (hl : level = (s.wki n).high) (hst : s.dev.state = .standby)
    (hlock : s.dev.lockout = false) :
    (s.wakeLineRow n level).dev.state = .starting ∧ (s.wakeLineRow n level).dev.startCause = 4 := by
  obtain ⟨hdev, hwake, -⟩ := s.lineTaken_spec n level
  have hbc : s.beforeCommit = false := by unfold State.beforeCommit; rw [hst]; rfl
  have hbc' : (s.lineTaken n level).beforeCommit = false := by
    rw [← hbc]; unfold State.beforeCommit; rw [hdev, hwake]
  obtain ⟨-, wko, hw⟩ := (s.lineTaken n level).wakeFrom_idle (0x10 + n) hbc'
  have hlevel : (s.wakeLine n level).wake.wkiLevel = setBit s.wake.wkiLevel n level := by
    rw [s.wakeLine_eq n level hn hen (by rw [hst]; decide) hne, if_neg (by simp [hl]), if_neg (by simp [hbc]), hw]
    simp only [State.noteSource, hwake]
  unfold State.wakeLineRow
  dsimp only
  rw [if_pos (by simp [hst, hlock, hlevel, setBit_ne hne, ← hl])]
  exact ⟨rfl, rfl⟩

end

theorem State.wkoPulseEnd_spec (s : State) (n : Nat) (h : (s.wko n).pulseEnd ≠ 0) (ht : (s.wko n).pulseEnd ≤ s.rtcNs) :
    ((s.wkoPulseEnd n).wko n).active = false ∧ ((s.wkoPulseEnd n).wko n).pulseEnd = 0 := by
  have e : (s.wkoPulseEnd n).wko n = { s.wko n with active := false, pulseEnd := 0 } := by
    unfold State.wkoPulseEnd
    dsimp only
    rw [if_neg (by simp [h, ht])]
    exact Tab.val_put_same _ _ _ _
  rw [e]
  exact ⟨rfl, rfl⟩

end Sys2Proof.Machine

open Sys2Proof Sys2Proof.Machine

/-- Settles O54: arming is the arming of lines, channels, segments and ports in turn; a line acts by the state it meets. -/
theorem sleepAndWake : Obligations.SleepAndWake := by
  intro s
  refine ⟨?_, ?_, ?_, ?_, ?_, ?_⟩
  · intro hp h3 hfrom ht
    refine ⟨_, rfl, ?_⟩
    unfold State.prepFallback
    dsimp only
    rw [if_pos (by simp [hp, h3, hfrom, nsS, ht])]
    rfl
  · intro start hp hs ht h
    obtain ⟨a, e⟩ := s.sleepArming_eq start hp hs ht h
    exact ⟨_, congrArg Host.Outcome.next e, s.armed_spec a⟩
  · intro hp hst
    refine ⟨_, rfl, ?_⟩
    unfold State.sleepEntered
    rw [if_neg (by simp [hp, hst])]
    exact ⟨rfl, rfl⟩
  · intro n level hn hen hoff
    refine ⟨fun h => congrArg Host.Outcome.next (s.wakeLineRow_same n level h), fun hne => ⟨fun hl => ?_, fun hl hst => ?_,
      fun hl hbc hset => ?_, fun hl hbc hset => ?_, fun hl hst hlock => ?_⟩⟩
    · exact ⟨_, rfl, State.wakeLineRow_released hn hen hne hoff hl⟩
    · exact ⟨_, rfl, State.wakeLineRow_sleep hn hen hne hl hst⟩
    · exact ⟨_, rfl, State.wakeLineRow_aborts hn hen hne hl hbc hset⟩
    · exact ⟨_, rfl, State.wakeLineRow_noted hn hen hne hl hbc hset⟩
    · exact ⟨_, rfl, State.wakeLineRow_standby hn hen hne hl hst hlock⟩
  · intro hst hmap
    refine ⟨_, rfl, ?_⟩
    unfold State.wakeFromSleep
    rw [if_pos (by simp [hst, hmap])]
    simp [State.enterStarting, State.volatileLost, State.wkoAwake, Wake.kept]
  · exact fun n h ht => ⟨_, rfl, s.wkoPulseEnd_spec n h ht⟩

end

