-- ==== Sys2Proof/Proofs/DeviceCommands.lean ====
section
/-!
PROOFS. The actions of the device, time, pulse generator and feed commands (R31, R61 to R63, R92 to R94, R281, R282).
-/

namespace Sys2Proof.Machine

/-! ### Outputs that go inert (R31) -/

theorem State.inertOne_chan (s : State) (k i : Nat) : (s.inertOne k).chan i = if k < 56 ∧ i = k then
    { s.chan i with cmd := 0, duty := 0, curDuty := 0, o := { s.outlet k with
      on := false, pend := false, step := 0, retry := false, acct := none, shed := false } } else s.chan i := by
  unfold State.inertOne
  by_cases hk : k < 56
  · by_cases hi : i = k
    · subst hi
      simp [hk, State.outRelease_chan, State.outOff_chan]
    · simp [hk, hi, State.setChan_chan_ne _ _ _ _ hi, State.outRelease_chan, State.outOff_chan]
  · simp [hk, State.outRelease_chan, State.outOff_chan]

theorem State.inertOne_bridge (s : State) (k b : Nat) : (s.inertOne k).bridge b = if 56 ≤ k ∧ b = k - 56 then
    { s.bridge b with cmd := 0, duty := 0, curDuty := 0, out := 0, o := { s.outlet k with
      on := false, pend := false, step := 0, retry := false, acct := none, shed := false } } else s.bridge b := by
  unfold State.inertOne
  by_cases hk : k < 56
  · simp [hk, Nat.not_le.mpr hk, State.outRelease_bridge, State.outOff_bridge]
  · have h56 : 56 ≤ k := Nat.not_lt.mp hk
    by_cases hb : b = k - 56
    · subst hb
      simp [hk, h56, State.outRelease_bridge, State.outOff_bridge]
    · simp [hk, hb, State.setBridge_bridge_ne _ _ _ _ hb, State.outRelease_bridge, State.outOff_bridge]

theorem State.mem_enabledOuts (s : State) (k : Nat) : k ∈ s.enabledOuts ↔ k < 62 ∧ (s.cfgOf k).enabled = true := by
  simp [State.enabledOuts, mem_upFrom, outCount]

/-- A channel that is commanded off, drives nothing and holds no charge. -/
def Chan.inert (c : Chan) : Prop := c.cmd = 0 ∧ c.o.on = false ∧ c.o.acct = none

/-- A bridge that is commanded to coast, drives nothing and holds no charge. -/
def Bridge.inert (x : Bridge) : Prop := x.cmd = 0 ∧ x.o.on = false ∧ x.o.acct = none

theorem State.inertOne_chan_inert (s : State) (i : Nat) (h : i < 56) : ((s.inertOne i).chan i).inert := by
  rw [State.inertOne_chan, if_pos ⟨h, rfl⟩]
  exact ⟨rfl, rfl, rfl⟩

theorem State.inertOne_chan_keeps (s : State) (k i : Nat) (h : (s.chan i).inert) : ((s.inertOne k).chan i).inert := by
  rw [State.inertOne_chan]
  split
  · exact ⟨rfl, rfl, rfl⟩
  · exact h

theorem State.inertOne_bridge_inert (s : State) (b : Nat) : ((s.inertOne (56 + b)).bridge b).inert := by
  rw [State.inertOne_bridge, if_pos ⟨by omega, by omega⟩]
  exact ⟨rfl, rfl, rfl⟩

theorem State.inertOne_bridge_keeps (s : State) (k b : Nat) (h : (s.bridge b).inert) : ((s.inertOne k).bridge b).inert := by
  rw [State.inertOne_bridge]
  split
  · exact ⟨rfl, rfl, rfl⟩
  · exact h

theorem State.allInert_chan (s : State) (i : Nat) (hi : i < 56) (hen : (s.chan i).cfg.enabled = true) :
    (s.allInert.chan i).inert := by
  have hmem : i ∈ s.enabledOuts := (s.mem_enabledOuts i).mpr ⟨by omega, by simpa [State.cfgOf, hi] using hen⟩
  exact foldl_reaches (I := fun _ => True) (P := fun t => (t.chan i).inert) State.inertOne (fun _ _ _ => trivial)
    (fun t _ => t.inertOne_chan_inert i hi) (fun t k _ h => t.inertOne_chan_keeps k i h)
    (s.enabledOuts.filter fun _ => true) (List.mem_filter.mpr ⟨hmem, rfl⟩) s trivial

theorem State.allInert_bridge (s : State) (b : Nat) (hb : b < 6) (hen : (s.bridge b).cfg.enabled = true) :
    (s.allInert.bridge b).inert := by
  have hcfg : s.cfgOf (56 + b) = (s.bridge b).cfg := by
    unfold State.cfgOf
    rw [if_neg (by omega), Nat.add_sub_cancel_left]
  have hmem : 56 + b ∈ s.enabledOuts := (s.mem_enabledOuts _).mpr ⟨by omega, by rw [hcfg]; exact hen⟩
  exact foldl_reaches (I := fun _ => True) (P := fun t => (t.bridge b).inert) State.inertOne (fun _ _ _ => trivial)
    (fun t _ => t.inertOne_bridge_inert b) (fun t k _ h => t.inertOne_bridge_keeps k b h)
    (s.enabledOuts.filter fun _ => true) (List.mem_filter.mpr ⟨hmem, rfl⟩) s trivial

theorem State.allInert_xo (s : State) (n : Nat) :
    (s.allInert.xo n).cmd = false ∧ (s.allInert.xo n).out = false ∧ (s.allInert.xo n).holdUntil = none := by
  have h : s.allInert.xo n = (s.inertWhere fun _ => true).xosInert.xo n := rfl
  rw [h]
  unfold State.xosInert State.xo
  dsimp only
  rw [Tab.val_mapV _ _ _ _ rfl]
  exact ⟨rfl, rfl, rfl⟩

theorem State.allInert_pg (s : State) (n : Nat) : (s.allInert.pg n).st = 0 ∧ (s.allInert.pg n).active = false := by
  unfold State.allInert State.pgInert State.pg
  dsimp only
  rw [Tab.val_mapV _ _ _ _ rfl]
  exact ⟨rfl, rfl⟩

theorem disarm_act (pk : Packet) (s : State) : ∃ t, disarmSpec.act pk s = ok t ∧ t.dev.armed = false ∧
    (∀ i, i < 56 → (s.chan i).cfg.enabled = true → (t.chan i).inert) ∧
    (∀ b, b < 6 → (s.bridge b).cfg.enabled = true → (t.bridge b).inert) ∧
    (∀ n, (t.xo n).cmd = false ∧ (t.xo n).out = false ∧ (t.xo n).holdUntil = none) ∧
    (∀ n, (t.pg n).st = 0 ∧ (t.pg n).active = false) :=
  ⟨_, rfl, rfl, s.allInert_chan, s.allInert_bridge, s.allInert_xo, s.allInert_pg⟩

/-! ### Selecting a source leaves the settings of time (R74, R92) -/

@[simp] theorem State.degrade_time (s : State) : s.degrade.time = s.time := (State.kAct_ext s.degrade_kAct).2.2.2.2.1

@[simp] theorem State.causeTime_time (s : State) : s.causeTime.time = s.time := State.degrade_time _

@[simp] theorem State.degrade_causeTime (s : State) : s.degrade.dev.causeTime = s.dev.causeTime := by
  obtain ⟨d, h⟩ := s.degrade_eq
  rw [h]

theorem State.setRate_cfg (s : State) (c : Int) : (s.setRate c).time.cfg = s.time.cfg := rfl

theorem State.setTimeSrc_cfg (s : State) (c : Nat) (x : TimeSrc) : (s.setTimeSrc c x).time.cfg = s.time.cfg := rfl

theorem State.steer_cfg (s : State) (err : Int) : (s.steer err).time.cfg = s.time.cfg := by
  unfold State.steer
  dsimp only
  split <;> rfl

theorem State.markRefused_cfg (s : State) (c : Nat) : (s.markRefused c).time.cfg = s.time.cfg := by
  unfold State.markRefused
  split
  · rfl
  · simp [State.setTimeSrc_cfg]

theorem State.enterAcquire_cfg (s : State) : s.enterAcquire.time.cfg = s.time.cfg := by
  unfold State.enterAcquire
  split <;> rfl

theorem State.enterLocked_cfg (s : State) : s.enterLocked.time.cfg = s.time.cfg := by
  unfold State.enterLocked
  simp

theorem State.followErr_cfg (s : State) (err : Int) : (s.followErr err).time.cfg = s.time.cfg := by
  unfold State.followErr
  split
  · rw [State.enterAcquire_cfg, State.setRate_cfg]
  · split
    · rw [State.enterLocked_cfg, State.steer_cfg]
    · rw [State.enterAcquire_cfg, State.steer_cfg]

theorem State.setSource_cfg (s : State) (c : Nat) : (s.setSource c).time.cfg = s.time.cfg := by
  unfold State.setSource
  simp

/-- Holdover begins with the mean rate `r`. -/
def State.holdFrom (s : State) (r : Int) : State :=
  { s with time := { s.time with ztState := 3, heldRate := r, holdoverStart := some s.et } }

theorem State.holdFrom_cfg (s : State) (r : Int) : (s.holdFrom r).time.cfg = s.time.cfg := rfl

theorem State.timeFall_cfg (s : State) (lost : Nat) : (s.timeFall lost).time.cfg = s.time.cfg := by
  unfold State.timeFall
  extract_lets st t rate t1 _ t2 t3
  have ht : t.time.cfg = s.time.cfg := s.setSource_cfg 4
  have ht1 : t1.time.cfg = s.time.cfg := (t.setRate_cfg rate).trans ht
  split
  · rw [State.enterLocked_cfg, State.setRate_cfg, ht]
  · split
    · change ((t1.holdFrom rate).raise [0] 0x008 4 lost).time.cfg = _
      rw [State.raise_time, State.holdFrom_cfg, ht1]
    · exact ht

theorem State.pickSource_cfg (l : List Nat) (s : State) : (State.pickSource l s).1.time.cfg = s.time.cfg := by
  induction l generalizing s with
  | nil => rfl
  | cons c l ih =>
    unfold State.pickSource
    split
    · exact ih s
    · split
      · rw [ih, State.markRefused_cfg]
      · rfl

theorem State.reselect_cfg (s : State) : s.reselect.time.cfg = s.time.cfg := by
  have hpick := State.pickSource_cfg s.byRank s
  unfold State.reselect
  rcases h : s.pickSource s.byRank with ⟨t, best⟩
  rw [h] at hpick
  cases best with
  | none =>
    dsimp only
    split
    · exact hpick
    · rw [State.timeFall_cfg]; exact hpick
  | some c =>
    dsimp only
    split
    · exact hpick
    · rw [State.followErr_cfg]; exact (t.setSource_cfg c).trans hpick

theorem State.timeLost_cfg (s : State) (c : Nat) : (s.timeLost c).time.cfg = s.time.cfg := by
  unfold State.timeLost
  dsimp only
  split
  · rw [State.reselect_cfg]; simp [State.setTimeSrc_cfg]
  · rfl

/-! ### TIME_SET_SOURCES and TIME_SET_HOLDOVER (R92, R93) -/

/-- Every source is disabled: zone time runs free, uncorrected, in no holdover. -/
def State.timeFree (s : State) : State :=
  ({ s.setRate 0 with
    time := { (s.setRate 0).time with ztState := 4, before := 4, heldRate := 0, freq := 0, holdoverStart := none, waitSince := none }
    dev := { s.dev with causeTime := false } }).degrade

theorem State.timeFree_time (s : State) : s.timeFree.time.cfg = s.time.cfg ∧ s.timeFree.time.ztState = 4 ∧
    s.timeFree.time.rateAdj = 0 ∧ s.timeFree.time.holdoverStart = none ∧ s.timeFree.dev.causeTime = false := by
  unfold State.timeFree
  simp [State.setRate]

/-- The new settings are stored, then the sources that they leave are selected from, if any. -/
theorem State.timeSet_eq (s : State) (ps : List Byte) : ∃ u : State, u.time.cfg = timeCfgOf ps s.time.cfg ∧
    s.timeSet ps = if srcAny (timeCfgOf ps s.time.cfg) then u.reselect else u.timeFree := by
  unfold State.timeSet
  extract_lets old g left err _ s1 s2 gone s3 _ s4
  have h2 : s2.time.cfg = g := by
    change (if _ then _ else _ : State).time.cfg = g
    split
    · rfl
    · rw [State.steer_cfg]
  have h3 : s3.time.cfg = g := foldl_keeps (I := fun t => t.time.cfg = g) State.timeLost gone
    (fun t c _ h => (t.timeLost_cfg c).trans h) s2 h2
  have h4 : s4.time.cfg = g := by
    change (if _ then _ else _ : State).time.cfg = g
    split
    · exact h3
    · exact h3
  exact ⟨s4, h4, rfl⟩

theorem State.timeSet_cfg (s : State) (ps : List Byte) : (s.timeSet ps).time.cfg = timeCfgOf ps s.time.cfg := by
  obtain ⟨u, hcfg, heq⟩ := s.timeSet_eq ps
  rw [heq]
  split
  · rw [State.reselect_cfg, hcfg]
  · rw [u.timeFree_time.1, hcfg]

theorem srcAny_timeCfgOf_none {ps : List Byte} (g : TimeCfg) (h0 : u8 ps 0 = 0) (h1 : u8 ps 1 = 0) (h2 : u8 ps 2 = 0) :
    srcAny (timeCfgOf ps g) = false := by
  simp [srcAny, srcEnabled, timeCfgOf, h0, h1, h2]

theorem State.timeSet_none (s : State) (ps : List Byte) (h0 : u8 ps 0 = 0) (h1 : u8 ps 1 = 0) (h2 : u8 ps 2 = 0) :
    (s.timeSet ps).time.ztState = 4 ∧ (s.timeSet ps).time.rateAdj = 0 ∧ (s.timeSet ps).time.holdoverStart = none ∧
    (s.timeSet ps).dev.causeTime = false := by
  obtain ⟨u, -, heq⟩ := s.timeSet_eq ps
  rw [heq, if_neg (by simp [srcAny_timeCfgOf_none _ h0 h1 h2])]
  exact u.timeFree_time.2

theorem State.holdoverExpire_cfg (s : State) : s.holdoverExpire.time.cfg = s.time.cfg := by
  unfold State.holdoverExpire
  split
  · rfl
  · split
    · rfl
    · simp

theorem State.holdoverExpire_due (s : State) {a ms : Nat} (h : s.time.holdoverStart = some a)
    (hms : s.time.cfg.holdoverMs = ms) (hdue : a + ms * 1000000 ≤ s.et) :
    s.holdoverExpire.time.holdoverStart = none ∧ s.holdoverExpire.dev.causeTime = true := by
  unfold State.holdoverExpire
  rw [h]
  dsimp only
  rw [hms, if_neg (by unfold nsMs; omega)]
  simp [State.causeTime]

theorem State.holdoverExpire_early (s : State) {a ms : Nat} (h : s.time.holdoverStart = some a)
    (hms : s.time.cfg.holdoverMs = ms) (hearly : s.et < a + ms * 1000000) : s.holdoverExpire = s := by
  unfold State.holdoverExpire
  rw [h]
  dsimp only
  rw [hms]
  exact if_pos hearly

theorem timeSetHoldover_act (pk : Packet) (s : State) : ∃ t, timeSetHoldoverSpec.act pk s = ok t ∧
    t.time.cfg = { s.time.cfg with holdoverMs := u32 pk.params 0 } ∧
    (∀ a, s.time.holdoverStart = some a → a + u32 pk.params 0 * 1000000 ≤ s.et →
      t.time.holdoverStart = none ∧ t.dev.causeTime = true) ∧
    (∀ a, s.time.holdoverStart = some a → s.et < a + u32 pk.params 0 * 1000000 →
      t.time.holdoverStart = some a ∧ t.dev = s.dev) := by
  let u : State := { s with time := { s.time with cfg := { s.time.cfg with holdoverMs := u32 pk.params 0 } } }
  have hms : u.time.cfg.holdoverMs = u32 pk.params 0 := rfl
  refine ⟨u.holdoverExpire, rfl, u.holdoverExpire_cfg, fun a ha hdue => u.holdoverExpire_due ha hms hdue, fun a ha hearly => ?_⟩
  rw [u.holdoverExpire_early ha hms hearly]
  exact ⟨ha, rfl⟩

/-! ### Pulse generators (R94) -/

theorem pgConfig_act (pk : Packet) (s : State) : ∃ t, pgConfigSpec.act pk s = ok t ∧
    (∀ n, n ≠ u8 pk.params 0 → t.pg n = s.pg n) ∧ t.pg (u8 pk.params 0) = { s.pg (u8 pk.params 0) with
      configured := true, mode := u8 pk.params 1, polarity := u8 pk.params 2, width := u32 pk.params 4,
      period := u32 pk.params 8, count := u32 pk.params 12 } :=
  ⟨_, rfl, fun n h => State.setPg_pg_ne _ _ n _ h, State.setPg_pg _ _ _⟩

theorem pgStart_act_late (pk : Packet) (s : State) (h : diff40 (u40 pk.params 3) s.et ≤ 0) :
    pgStartSpec.act pk s = fail 0x0302 s := if_pos h

theorem pgStart_act_ahead (pk : Packet) (s : State) (h : 0 < diff40 (u40 pk.params 3) s.et) :
    ∃ t, pgStartSpec.act pk s = ok t ∧ (∀ n, n ≠ u8 pk.params 0 → t.pg n = s.pg n) ∧
      t.pg (u8 pk.params 0) = { s.pg (u8 pk.params 0) with
        st := 1, start := full40 (u40 pk.params 3) s.et, next := full40 (u40 pk.params 3) s.et, pulses := 0
        active := false, stopping := false } :=
  ⟨_, if_neg (Int.not_le.mpr h), fun n hn => State.setPg_pg_ne _ _ n _ hn, State.setPg_pg _ _ _⟩

theorem State.pgStop_pg_ne (s : State) {n m : Nat} (h : m ≠ n) : (s.pgStop n).pg m = s.pg m := by
  unfold State.pgStop State.pgIdle
  dsimp only
  split
  · rfl
  · split
    · exact State.setPg_pg_ne _ _ _ _ h
    · rw [State.raise_pg, State.setPg_pg_ne _ _ _ _ h]

theorem State.pgStop_idle (s : State) (n : Nat) (h : (s.pg n).st = 0) : s.pgStop n = s := if_pos (by simp [h])

theorem State.pgStop_active (s : State) (n : Nat) (h : (s.pg n).st ≠ 0) (ha : (s.pg n).active = true) :
    (s.pgStop n).pg n = { s.pg n with stopping := true } := by
  simp [State.pgStop, h, ha]

theorem State.pgStop_between (s : State) (n : Nat) (h : (s.pg n).st ≠ 0) (ha : (s.pg n).active = false) :
    (s.pgStop n).pg n = { s.pg n with st := 0, active := false, stopping := false, next := 0 } := by
  simp [State.pgStop, State.pgIdle, h, ha]

/-! ### Feeds (R281, R282) -/

theorem pwrSetSagThreshold_act (pk : Packet) (s : State) : ∃ t, pwrSetSagThresholdSpec.act pk s = ok t ∧
    t.feed 0 = { s.feed 0 with
      sagTh := (if u16 pk.params 0 = 0 then (s.feed 0).sagTh else u16 pk.params 0),
      crankTh := (if u16 pk.params 2 = 0 then (s.feed 0).crankTh else u16 pk.params 2) } ∧
    t.feed 1 = { s.feed 1 with sagTh := if u16 pk.params 4 = 0 then (s.feed 1).sagTh else u16 pk.params 4 } := by
  refine ⟨_, rfl, ?_, ?_⟩
  · rw [State.setFeed_feed_ne _ _ _ _ (by decide), State.setFeed_feed]
    simp [newThresholds]
  · rw [State.setFeed_feed, State.setFeed_feed_ne _ _ _ _ (by decide)]
    simp [newThresholds]

/-- The UV latch of feed `g` is released and reported. -/
def State.unlatchUv (s : State) (g : Nat) : State :=
  (s.setFeed g { s.feed g with uv := false }).raise (s.feedTo g) g 6 (s.feed g).v

theorem State.unlatchUv_feed (s : State) (g f : Nat) :
    (s.unlatchUv g).feed f = if f = g then { s.feed f with uv := false } else s.feed f := by
  unfold State.unlatchUv
  rw [State.raise_feed]
  split
  · next h => rw [h, State.setFeed_feed]
  · next h => exact State.setFeed_feed_ne _ _ _ _ h

theorem foldl_unlatchUv_feed (l : List Nat) (s : State) (f : Nat) :
    (l.foldl State.unlatchUv s).feed f = if f ∈ l then { s.feed f with uv := false } else s.feed f := by
  induction l generalizing s with
  | nil => rfl
  | cons g l ih =>
    rw [List.foldl_cons, ih, State.unlatchUv_feed]
    by_cases hg : f = g <;> by_cases hl : f ∈ l <;> simp [hg, hl]

theorem pwrUnlatchUv_act (pk : Packet) (s : State) : ∃ t, pwrUnlatchUvSpec.act pk s = ok t ∧
    (∀ f, f < 2 → t.feed f = if (u32 pk.params 0).testBit f then { s.feed f with uv := false } else s.feed f) := by
  refine ⟨_, rfl, fun f hf => (foldl_unlatchUv_feed _ s f).trans ?_⟩
  have hmem : f ∈ ([0, 1].filter fun f => (u32 pk.params 0).testBit f) ↔ (u32 pk.params 0).testBit f = true := by
    rw [List.mem_filter]
    exact and_iff_right (by simp; omega)
  simp only [hmem]

end Sys2Proof.Machine

open Sys2Proof Sys2Proof.Machine

/-- Settles O57: one lemma per command, from what its action stores. -/
theorem deviceTimePowerActions : Obligations.DeviceTimePowerActions := by
  unfold Obligations.DeviceTimePowerActions
  intro pk s
  refine ⟨⟨_, rfl, rfl, rfl⟩, ?_, ⟨_, rfl, rfl, rfl, rfl⟩, disarm_act pk s, ⟨_, rfl, ?_, s.timeSet_none pk.params⟩,
    timeSetHoldover_act pk s, pgConfig_act pk s, ⟨pgStart_act_late pk s, pgStart_act_ahead pk s⟩,
    ⟨_, rfl, fun n h => s.pgStop_pg_ne h, s.pgStop_idle _, s.pgStop_active _, s.pgStop_between _⟩,
    pwrSetSagThreshold_act pk s, pwrUnlatchUv_act pk s⟩
  · simp [armSpec]
  · rw [State.timeSet_cfg]
    exact ⟨rfl, rfl, rfl, rfl, rfl, rfl, rfl, rfl, rfl, rfl, rfl, rfl, rfl, rfl⟩

end

