-- ==== Sys2Proof/Proofs/CommandChecks.lean ====
section
/-!
PROOFS. The step, the reply's layout, the order of the checks of R48, the order of the open-stroke queues (R49, R52), and the
sequence window of a session (R46).
-/

namespace Sys2Proof.Machine

theorem step_pending {c : Instr} {rest : List Instr} {s : State} (h : s.pending = c :: rest) :
    step s = exec c { s with pending := rest } := by
  unfold step
  rw [h]

/-! ### The bytes of a reply (R39) -/

@[simp] theorem Reply.length_bytes (r : Reply) : r.bytes.length = 24 + r.result.length := by
  simp only [Reply.bytes, List.length_append, length_leBytes]

/-- A field of a reply, read where the fields before it end. -/
theorem Reply.fields (r : Reply) : u16 r.bytes 0 = r.status % 256 ^ 2 ∧ u16 r.bytes 2 = r.tag % 256 ^ 2 ∧
    u16 r.bytes 4 = r.result.length % 256 ^ 2 ∧ u16 r.bytes 6 = 0 ∧ u64 r.bytes 8 = r.et % 256 ^ 8 ∧
    u32 r.bytes 16 = r.seq % 256 ^ 4 ∧ u32 r.bytes 20 = 0 := by
  simp [Reply.bytes, u16, u32, u64, rd_behind, rd_first]

theorem Reply.drop_header (r : Reply) : r.bytes.drop 24 = r.result := by
  simp [Reply.bytes, drop_behind]

/-! ### The checks in their order (R48) -/

/-- What makes check 5 refuse the frame (R36 to R38). -/
theorem packetOk_eq_false (pk : Packet) (h : 8 ≤ pk.flags ∨ (isBarrier pk = true ∧ isCheckOnly pk = true) ∨ 16 ≤ pk.part ∨
    ∃ p, pk.src = .ring p ∧ (pk.part ≠ p ∨ pk.cred ≠ 0)) : packetOk pk = false := by
  unfold packetOk
  rcases h with hflags | ⟨hbar, hchk⟩ | hpart | ⟨p, hsrc, hpart | hcred⟩
  · simp [Nat.not_lt.mpr hflags]
  · simp [hbar, hchk]
  · simp [Nat.not_lt.mpr hpart]
  · simp [hsrc, hpart]
  · simp [hsrc, hcred]

/-- The only statuses that the check of issuer and owners answers. -/
theorem State.issuerCheck_cases (s : State) (o : OpSpec) (pk : Packet) :
    s.issuerCheck o pk = stOk ∨ s.issuerCheck o pk = stNotOwner ∨ s.issuerCheck o pk = stOwnedSecure := by
  unfold State.issuerCheck
  cases o.issuer <;> dsimp only <;> (repeat' split) <;> simp

theorem State.stateOk_iff (s : State) (o : OpSpec) (pk : Packet) : s.stateOk o pk = true ↔
    (pk.src = .mp → s.inReset pk.part = false) ∧ o.okState pk s = true := by
  unfold State.stateOk
  cases pk.src <;> simp

/-- The common limits of check 9: a full queue, a source's 17th asynchronous command, a tag in use (R51). -/
theorem State.isBusy_of_limit (s : State) (o : OpSpec) (pk : Packet)
    (h : (o.comp = .O ∧ 64 ≤ (s.queueOf o.cls).length) ∨
      (o.comp = .A ∧ 16 ≤ (s.cmd.async.filter fun a => a.pk.src == pk.src).length) ∨
      (o.comp = .A ∧ ∃ a ∈ s.cmd.async, a.pk.src = pk.src ∧ a.pk.tag = pk.tag)) : s.isBusy o pk = true := by
  unfold State.isBusy
  rcases h with ⟨hc, hn⟩ | ⟨hc, hn⟩ | ⟨hc, a, hmem, hsrc, htag⟩
  · simp [hc, hn]
  · simp [hc, hn]
  · have hany : ((s.cmd.async.filter fun a => a.pk.src == pk.src).any fun a => a.pk.tag == pk.tag) = true :=
      List.any_eq_true.mpr ⟨a, List.mem_filter.mpr ⟨hmem, beq_iff_eq.mpr hsrc⟩, beq_iff_eq.mpr htag⟩
    simp [hc, hany]

section
variable {s : State} {o : OpSpec} {pk : Packet}

/-- Check 3: FLT_INJECT is an opcode in the life-cycle states 0 and 3 only (R540). -/
def State.knows (s : State) (o : OpSpec) : Prop := o.code ≠ 0x1003 ∨ s.bam.lc = 0 ∨ s.bam.lc = 3

theorem State.validate_unknown (hc : o.code = 0x1003) (h0 : s.bam.lc ≠ 0) (h3 : s.bam.lc ≠ 3) :
    s.validate o pk = stBadOpcode := by
  unfold State.validate
  exact if_pos (by simp [hc, h0, h3])

/-- A known opcode meets the checks from the fourth on. -/
theorem State.validate_known (hk : s.knows o) : s.validate o pk =
    if !o.len pk.params then stBadLength
    else if !packetOk pk || !o.fields pk.params s then stBadParam
    else if o.locked pk s then stLocked
    else if s.issuerCheck o pk != stOk then s.issuerCheck o pk
    else if !s.stateOk o pk then stWrongState
    else if s.isBusy o pk then stBusy
    else s.lastCheck o pk := by
  unfold State.validate
  exact if_neg (by rcases hk with h | h | h <;> simp [h])

theorem State.validate_badLength (hk : s.knows o) (hl : o.len pk.params = false) : s.validate o pk = stBadLength := by
  rw [State.validate_known hk, hl]; rfl

theorem State.validate_badParam (hk : s.knows o) (hl : o.len pk.params = true)
    (h : packetOk pk = false ∨ o.fields pk.params s = false) : s.validate o pk = stBadParam := by
  rw [State.validate_known hk, hl]
  rcases h with h | h <;> simp [h]

/-- A packet whose fields are good meets the checks from the sixth on. -/
theorem State.validate_wellFormed (hk : s.knows o) (hl : o.len pk.params = true) (hp : packetOk pk = true)
    (hf : o.fields pk.params s = true) : s.validate o pk =
    if o.locked pk s then stLocked
    else if s.issuerCheck o pk != stOk then s.issuerCheck o pk
    else if !s.stateOk o pk then stWrongState
    else if s.isBusy o pk then stBusy
    else s.lastCheck o pk := by
  rw [State.validate_known hk, hl, hp, hf]; rfl

end

/-! ### The order of a queue (R25, R49, R52) -/

theorem pkBefore_iff (a b : Packet) :
    pkBefore a b = true ↔ a.stamp < b.stamp ∨ (a.stamp = b.stamp ∧ srcId a.src < srcId b.src) := by
  simp [pkBefore]

/-- `x` is on the resource of `q` and goes after it. -/
def Queued.follows (x q : Queued) : Prop := x.res ≠ 0 ∧ x.res = q.res ∧ pkBefore q.pk x.pk = true

theorem queuePut_cons_follows {q x : Queued} (l : List Queued) (h : x.follows q) : queuePut q (x :: l) = q :: x :: l := by
  obtain ⟨h0, hres, hb⟩ := h
  exact if_pos (by simp [← hres, h0, hb])

theorem queuePut_cons_not_follows {q x : Queued} (l : List Queued) (h : ¬ x.follows q) :
    queuePut q (x :: l) = x :: queuePut q l := by
  refine if_neg fun hc => h ?_
  simp only [Bool.and_eq_true, bne_iff_ne, beq_iff_eq] at hc
  obtain ⟨⟨h0, hres⟩, hb⟩ := hc
  exact ⟨h0, hres, hb⟩

/-- A command goes in front of the first one that follows it. -/
theorem queuePut_splits (q : Queued) (l : List Queued) : ∃ a b, l = a ++ b ∧ queuePut q l = a ++ q :: b ∧
    (∀ x ∈ a, ¬ x.follows q) ∧ (b = [] ∨ ∃ x c, b = x :: c ∧ x.follows q) := by
  induction l with
  | nil => exact ⟨[], [], rfl, rfl, nofun, .inl rfl⟩
  | cons x l ih =>
    by_cases h : x.follows q
    · exact ⟨[], x :: l, rfl, queuePut_cons_follows l h, nofun, .inr ⟨x, l, rfl, h⟩⟩
    · obtain ⟨a, b, hl, hput, ha, hb⟩ := ih
      refine ⟨x :: a, b, by rw [hl]; rfl, by rw [queuePut_cons_not_follows l h, hput]; rfl, ?_, hb⟩
      simpa using ⟨h, ha⟩

/-! ### The sequence window (R46) -/

theorem Session.accepts_iff (x : Session) (n : Nat) : x.accepts n = true ↔
    n ≠ 0 ∧ x.high ≠ 0xFFFFFFFF ∧ (x.high < n ∨ (x.high ≤ n + 63 ∧ x.window.testBit (x.high - n) = false)) := by
  simp [Session.accepts, and_assoc]

/-- Setting a clear bit adds no carry into the others. -/
theorem testBit_setBit_true {m i : Nat} (h : m.testBit i = false) (j : Nat) :
    (setBit m i true).testBit j = (decide (j = i) || m.testBit j) := by
  have hset : setBit m i true = 2 ^ i + m := by simp [setBit, h, Nat.add_comm]
  rw [hset]
  rcases Nat.lt_trichotomy j i with hlt | rfl | hgt
  · simp [Nat.testBit_two_pow_add_gt hlt, Nat.ne_of_lt hlt]
  · simp [Nat.testBit_two_pow_add_eq, h]
  · obtain ⟨k, rfl⟩ : ∃ k, j = k + 1 + i := ⟨j - i - 1, by omega⟩
    have heven : m / 2 ^ i % 2 = 0 := by simpa [Nat.testBit_eq_decide_div_mod_eq] using h
    have hhalf : (2 ^ i + m) / 2 ^ i / 2 = m / 2 ^ i / 2 := by
      rw [Nat.add_div_left _ (Nat.two_pow_pos i)]
      omega
    rw [← Nat.testBit_div_two_pow, Nat.testBit_succ, hhalf, ← Nat.testBit_succ, Nat.testBit_div_two_pow]
    simp

/-- The window moved up by `k` numbers, without the bit of the newest. -/
def slideWindow (w k : Nat) : Nat := if k < 64 then w * 2 ^ k % 2 ^ 64 else 0

theorem testBit_slideWindow (w k j : Nat) :
    (slideWindow w k).testBit j = (decide (j < 64) && decide (k ≤ j) && w.testBit (j - k)) := by
  unfold slideWindow
  split
  · rw [Nat.testBit_mod_two_pow, Nat.testBit_mul_two_pow, Bool.and_assoc]
  · simp; omega

theorem Session.mark_above {x : Session} {n : Nat} (h : x.high < n) :
    x.mark n = { x with high := n, window := setBit (slideWindow x.window (n - x.high)) 0 true } := by
  have hbit : (slideWindow x.window (n - x.high)).testBit 0 = false := by
    rw [testBit_slideWindow]
    simp; omega
  unfold Session.mark setBit
  rw [if_pos h, hbit]
  rfl

theorem Session.mark_within {x : Session} {n : Nat} (h : n ≤ x.high) :
    x.mark n = { x with window := setBit x.window (x.high - n) true } := if_neg (Nat.not_lt.mpr h)

theorem Session.mark_high (x : Session) (n : Nat) : (x.mark n).high = max x.high n := by
  rcases Nat.lt_or_ge x.high n with h | h
  · rw [Session.mark_above h, Nat.max_eq_right (Nat.le_of_lt h)]
  · rw [Session.mark_within h, Nat.max_eq_left h]

/-- After `n` is marked, the bit of a number within 63 below the new high one is set for `n` and for those set before. -/
theorem Session.mark_bit {x : Session} {n : Nat} (h : x.accepts n = true) {m : Nat} (hm : m ≤ max x.high n)
    (hd : max x.high n ≤ m + 63) : (x.mark n).window.testBit (max x.high n - m) =
      (decide (m = n) || (decide (m ≤ x.high) && x.window.testBit (x.high - m))) := by
  obtain ⟨-, -, hw⟩ := x.accepts_iff n |>.mp h
  rcases Nat.lt_or_ge x.high n with hlt | hge
  · rw [Nat.max_eq_right (Nat.le_of_lt hlt)] at hm hd ⊢
    rw [Session.mark_above hlt, testBit_setBit_true (by rw [testBit_slideWindow]; simp; omega), testBit_slideWindow,
      show n - m - (n - x.high) = x.high - m by omega]
    congr 1
    · exact decide_eq_decide.mpr (by omega)
    · rw [decide_eq_true (by omega : n - m < 64), Bool.true_and]
      congr 1
      exact decide_eq_decide.mpr (by omega)
  · obtain ⟨-, hclear⟩ := hw.resolve_left (Nat.not_lt.mpr hge)
    rw [Nat.max_eq_left hge] at hm hd ⊢
    rw [Session.mark_within hge, testBit_setBit_true hclear, decide_eq_true hm, Bool.true_and]
    congr 1
    exact decide_eq_decide.mpr (by omega)

theorem Session.mark_window_lt {x : Session} {n : Nat} (h64 : x.window < 2 ^ 64) (h : x.accepts n = true) :
    (x.mark n).window < 2 ^ 64 := by
  obtain ⟨-, -, hw⟩ := x.accepts_iff n |>.mp h
  refine Nat.lt_pow_two_of_testBit _ fun j hj => ?_
  rcases Nat.lt_or_ge x.high n with hlt | hge
  · rw [Session.mark_above hlt, testBit_setBit_true (by rw [testBit_slideWindow]; simp; omega), testBit_slideWindow]
    simp; omega
  · obtain ⟨hnear, hclear⟩ := hw.resolve_left (Nat.not_lt.mpr hge)
    have hold : x.window.testBit j = false :=
      Nat.testBit_lt_two_pow (Nat.lt_of_lt_of_le h64 (Nat.pow_le_pow_right (by decide) hj))
    rw [Session.mark_within hge, testBit_setBit_true hclear, hold]
    simp; omega

/-- What the window accepts once `n` is taken. -/
theorem Session.mark_accepts {x : Session} {n : Nat} (h : x.accepts n = true) (m : Nat) : (x.mark n).accepts m = true ↔
    m ≠ n ∧ x.accepts m = true ∧ max x.high n ≤ m + 63 ∧ max x.high n ≠ 0xFFFFFFFF := by
  obtain ⟨hn0, hnf, -⟩ := x.accepts_iff n |>.mp h
  rw [Session.accepts_iff, Session.accepts_iff, Session.mark_high]
  rcases Nat.lt_or_ge (max x.high n) m with habove | hle
  · omega
  · rcases Nat.lt_or_ge (m + 63) (max x.high n) with hfar | hnear
    · omega
    · have hx : x.high ≤ m + 63 := Nat.le_trans (Nat.le_max_left _ _) hnear
      have hbit : (x.mark n).window.testBit (max x.high n - m) = false ↔
          m ≠ n ∧ (x.high < m ∨ x.window.testBit (x.high - m) = false) := by
        rw [Session.mark_bit h hle hnear, Bool.or_eq_false_iff, Bool.and_eq_false_iff, decide_eq_false_iff_not,
          decide_eq_false_iff_not, Nat.not_le]
      constructor
      · rintro ⟨h0, hf, habove | ⟨-, hclear⟩⟩
        · exact absurd hle (Nat.not_le.mpr habove)
        · obtain ⟨hne, hold⟩ := hbit.mp hclear
          exact ⟨hne, ⟨h0, hnf, hold.imp_right fun hb => ⟨hx, hb⟩⟩, hnear, hf⟩
      · rintro ⟨hne, ⟨h0, -, hold⟩, -, hf⟩
        exact ⟨h0, hf, .inr ⟨hnear, hbit.mpr ⟨hne, hold.imp_right And.right⟩⟩⟩

end Sys2Proof.Machine

open Sys2Proof Sys2Proof.Machine

/-- Settles O1: the step's own case for a queue that is not empty. -/
theorem stepRunsFront : Obligations.StepRunsFront := fun _ _ _ => step_pending

/-- Settles O11: each field is read where the fields before it end. -/
theorem replyHeaderLayout : Obligations.ReplyHeaderLayout := by
  intro r hst htag het hseq hlen
  obtain ⟨h0, h2, h4, h6, h8, h16, h20⟩ := r.fields
  refine ⟨r.length_bytes, h0.trans (Nat.mod_eq_of_lt hst), h2.trans (Nat.mod_eq_of_lt htag), h4.trans (Nat.mod_eq_of_lt hlen), h6,
    h8.trans (Nat.mod_eq_of_lt het), h16.trans (Nat.mod_eq_of_lt hseq), h20, r.drop_header⟩

/-- Settles O18: the queue splits in front of the first command that follows. -/
theorem openQueueOrder : Obligations.OpenQueueOrder := by
  intro q l
  obtain ⟨a, b, hl, hput, ha, hb⟩ := queuePut_splits q l
  refine ⟨a, b, hl, hput, fun x hx h0 hres hlt => ha x hx ⟨h0, hres, (pkBefore_iff _ _).mpr hlt⟩, hb.imp_right ?_⟩
  rintro ⟨x, c, hbc, h0, hres, hlt⟩
  exact ⟨x, c, hbc, h0, hres, (pkBefore_iff _ _).mp hlt⟩

/-- Settles O17: the checks one after the other, each met where those before it pass. -/
theorem checksInOrder : Obligations.ChecksInOrder := by
  intro o pk s
  refine ⟨State.validate_unknown, fun hk => ⟨State.validate_badLength hk, fun hl => ⟨fun hbad => ?_, fun hp hf => ?_⟩⟩⟩
  · refine State.validate_badParam hk hl ?_
    rcases hbad with ⟨-, hflags⟩ | hflags | hpart | hring | hfields
    · exact .inl (packetOk_eq_false pk (.inl hflags))
    · exact .inl (packetOk_eq_false pk (.inr (.inl hflags)))
    · exact .inl (packetOk_eq_false pk (.inr (.inr (.inl hpart))))
    · exact .inl (packetOk_eq_false pk (.inr (.inr (.inr hring))))
    · exact .inr hfields
  · rw [State.validate_wellFormed hk hl hp hf]
    refine ⟨fun hlock => if_pos hlock, fun hlock => ?_⟩
    rw [hlock, if_neg Bool.false_ne_true]
    refine ⟨fun hi => ⟨if_pos (bne_iff_ne.mpr hi), (s.issuerCheck_cases o pk).resolve_left hi⟩, fun hi => ?_⟩
    rw [hi]
    refine ⟨fun hs => ?_, fun hs hr hb => ?_⟩
    · have : s.stateOk o pk = false := by
        rw [Bool.eq_false_iff, ne_eq, State.stateOk_iff]
        rintro ⟨hr, hok⟩
        rcases hs with h | ⟨hsrc, h⟩
        · simp [hok] at h
        · simp [hr hsrc] at h
      rw [this]; rfl
    · rw [(s.stateOk_iff o pk).mpr ⟨hr, hs⟩, s.isBusy_of_limit o pk hb]; rfl

/-- Settles O19: a marked number is the one bit that the window gains. -/
theorem replayWindowAccepts : Obligations.ReplayWindowAccepts := by
  intro x n h64 _ hacc
  obtain ⟨hn0, hnf, hw⟩ := x.accepts_iff n |>.mp hacc
  refine ⟨⟨hn0, hnf, ?_⟩, x.mark_high n, Session.mark_window_lt h64 hacc, ?_, fun m hm => ?_⟩
  · rcases Nat.lt_or_ge x.high n with hlt | hge
    · exact .inl hlt
    · exact .inr ⟨hge, hw.resolve_left (Nat.not_lt.mpr hge)⟩
  · rw [Bool.eq_false_iff, ne_eq, Session.mark_accepts hacc]
    exact fun h => h.1 rfl
  · rw [Session.mark_accepts hacc]
    exact and_iff_right hm

end

