-- ==== Sys2Proof/Proofs/CommandIntake.lean ====
section
/-!
PROOFS. What intake makes of a packet: left where it is (R42, R43, R54), run, queued or started (R48 to R51), or refused for its
credential (R45 to R47).
-/

namespace Sys2Proof.Machine

/-! ### A packet that is not taken (R42, R43, R54) -/

theorem State.command_not_taken {s : State} {o : OpSpec} {pk : Packet} (h : s.takes o pk = false) : s.command o pk = s :=
  if_pos (by rw [h]; rfl)

theorem State.takes_of_intake_closed {s : State} (o : OpSpec) (pk : Packet) (h : s.intakeOpen = false) :
    s.takes o pk = false := by
  unfold State.takes
  rw [h, Bool.false_and]

theorem State.takes_ring (s : State) (o : OpSpec) {pk : Packet} {p : Nat} (h : pk.src = .ring p) :
    s.takes o pk = (s.intakeOpen && s.ringTakes p o.comp) := by
  unfold State.takes
  rw [h]

theorem State.takes_mp (s : State) (o : OpSpec) {pk : Packet} (h : pk.src = .mp) : s.takes o pk = s.intakeOpen := by
  unfold State.takes
  rw [h, Bool.and_true]

/-- What keeps the M-core from taking a packet from the ring of partition `p`. -/
theorem State.ringTakes_eq_false {s : State} {p : Nat} {comp : Comp}
    (h : (s.ring (2 * p + 1)).depth < (s.ring (2 * p + 1)).fill + s.unanswered (.ring p) + (if comp = .A then 2 else 1) ∨
      (s.ring (2 * p)).fill = 0 ∨ (s.ring (2 * p)).enabled = false ∨ (s.part p).st ≠ 1) : s.ringTakes p comp = false := by
  unfold State.ringTakes
  rcases h with hroom | hempty | hoff | hstopped
  · simp only [← Nat.not_le] at hroom
    simp [hroom]
  · simp [hempty]
  · simp [hoff]
  · simp [hstopped]

/-! ### An accepted packet executes as its completion type says (R48 to R51) -/

/-- Taking a packet touches memory's, rings', commands' and partitions' registers alone. -/
theorem State.taken_kRing (s : State) (pk : Packet) : (s.taken pk).kRing = s.kRing := by
  unfold State.taken
  split <;> simp

theorem State.ready_kRing (s : State) (pk : Packet) : (s.ready pk).kRing = s.kRing := by
  unfold State.ready
  split
  · exact s.taken_kRing pk
  · exact (State.kRing_mk ..).trans (s.taken_kRing pk)

theorem State.ready_et (s : State) (pk : Packet) : (s.ready pk).et = s.et := congrArg KRing.et (s.ready_kRing pk)

section
variable {s : State} {o : OpSpec} {pk : Packet} (hw : s.mustWait o pk s.cmd.held = false)
include hw

theorem State.dispatch_immediate (hc : o.comp = .S) : s.dispatch o pk = s.runNow o pk := by
  unfold State.dispatch
  rw [hw, hc]
  rfl

theorem State.dispatch_openStroke (hc : o.comp = .O) :
    s.dispatch o pk = s.setQueue o.cls (queuePut ⟨o.code, o.res pk, pk⟩ (s.queueOf o.cls)) := by
  unfold State.dispatch
  rw [hw, hc]
  rfl

theorem State.dispatch_async (hc : o.comp = .A) (hchk : isCheckOnly pk = false) :
    s.dispatch o pk = (s.acceptReply pk).startAsync o pk := by
  unfold State.dispatch
  rw [hw, hc, hchk]
  rfl

end

section
variable {i : Instr} {o : OpSpec} {pk : Packet} {s : State} (hi : i.packetRow = some (o, pk)) (h : s.accepts o pk)
include hi h

theorem exec_immediate (hc : o.comp = .S) : exec i s = .next ((s.ready pk).runNow o (cutBlock pk)) := by
  obtain ⟨hd, hw⟩ := process_valid h
  rw [exec_packet s hi, hd, State.dispatch_immediate hw hc]

theorem exec_openStroke (hc : o.comp = .O) : exec i s = .next
    ((s.ready pk).setQueue o.cls (queuePut ⟨o.code, o.res (cutBlock pk), cutBlock pk⟩ ((s.ready pk).queueOf o.cls))) := by
  obtain ⟨hd, hw⟩ := process_valid h
  rw [exec_packet s hi, hd, State.dispatch_openStroke hw hc]

theorem exec_async (hc : o.comp = .A) :
    exec i s = .next (((s.ready pk).acceptReply (cutBlock pk)).startAsync o (cutBlock pk)) := by
  obtain ⟨hd, hw⟩ := process_valid h
  obtain ⟨-, hchk, -⟩ := h
  rw [exec_packet s hi, hd, State.dispatch_async hw hc hchk]

end

theorem State.ready_queueOf (s : State) (pk : Packet) (c : Nat) : (s.ready pk).queueOf c = s.queueOf c := by
  unfold State.queueOf
  rw [(ready_cmd s pk).1]

/-- The status and the result with which a command of type S ends. -/
theorem State.runNow_done (s : State) (o : OpSpec) (pk : Packet) : ∃ c r,
    ((o.act pk s).done = some (c, r) ∨ ((o.act pk s).done = none ∧ c = stOk ∧ r = [])) ∧
      s.runNow o pk = (o.act pk s).st.finalReply o.code pk c r := by
  unfold State.runNow
  dsimp only
  cases (o.act pk s).done with
  | none => exact ⟨stOk, [], .inr ⟨rfl, rfl, rfl⟩, rfl⟩
  | some cr => exact ⟨cr.1, cr.2, .inl rfl, rfl⟩

theorem State.acceptReply_quiet {s : State} {pk : Packet} (h : isQuiet pk = true) : s.acceptReply pk = s := if_pos h

theorem State.acceptReply_answered {s : State} {pk : Packet} (h : isQuiet pk = false) :
    (s.acceptReply pk).answered pk stAccepted [] := by
  unfold State.acceptReply
  rw [h, if_neg Bool.false_ne_true]
  exact ⟨_, _, s.writeReply_replies pk stAccepted [], rfl, rfl, rfl, rfl, rfl⟩

theorem State.acceptReply_async (s : State) (pk : Packet) : (s.acceptReply pk).cmd.async = s.cmd.async := by
  unfold State.acceptReply
  split
  · rfl
  · exact s.writeReply_async pk stAccepted []

theorem State.startAsync_later {s : State} {o : OpSpec} {pk : Packet} (h : (o.act pk (s.outstand o pk true)).done = none) :
    s.startAsync o pk = (o.act pk (s.outstand o pk true)).st := by
  unfold State.startAsync
  dsimp only
  rw [h]

theorem State.startAsync_ends {s : State} {o : OpSpec} {pk : Packet} {c : Nat} {r : List Byte}
    (h : (o.act pk (s.outstand o pk true)).done = some (c, r)) : s.startAsync o pk =
      (o.act pk (s.outstand o pk true)).st.finishWhere (fun a => a.code == o.code && a.pk == pk) c r := by
  unfold State.startAsync
  dsimp only
  rw [h]

/-! ### A packet from MP with a bad credential (R45 to R47) -/

/-- A failing packet ends in AUTH_FAIL, as a replay where the window refuses it. -/
theorem command_authFail {s : State} {o : OpSpec} {pk : Packet} (hsrc : pk.src = .mp) (hopen : s.intakeOpen = true)
    (hlen : lenOk pk = true) (hcred : s.credOk o pk = false) :
    ∃ replay, s.command o pk = (s.taken pk).authFail o.code (cutBlock pk) replay := by
  have hbad : s.slotBad pk = false := by unfold State.slotBad; rw [hsrc]
  have hses : (s.taken pk).cmd.sessions = s.cmd.sessions := by unfold State.taken; rw [hsrc]
  have hcmd : s.command o pk = (s.taken pk).fromMp o (cutBlock pk) := by
    unfold State.command
    rw [s.takes_mp o hsrc, hopen, hbad, hlen, hsrc]
    rfl
  rw [hcmd]
  unfold State.credOk at hcred
  simp only [hsrc, Bool.and_eq_false_iff] at hcred
  unfold State.fromMp
  dsimp only
  rw [hses, show (cutBlock pk).part = pk.part from rfl, show (cutBlock pk).cred = pk.cred from rfl,
    show (cutBlock pk).seq = pk.seq from rfl]
  rcases hcred with (hclosed | hmac) | hwin
  · exact ⟨false, by simp [hclosed]⟩
  · exact ⟨false, by simp [bne, hmac]⟩
  · rw [hwin]
    split
    · exact ⟨false, rfl⟩
    · exact ⟨true, rfl⟩

/-- A final reply is a change of the source's statistics at most, then the reply, which QUIET can withhold (R37, R68). -/
theorem finalReply_steps (s : State) (code : Nat) (pk : Packet) (c : Nat) (r : List Byte) :
    ∃ t, (t = s ∨ ∃ p x, t = s.setStat p x) ∧
      s.finalReply code pk c r = if isQuiet pk && c == stOk then t else t.writeReply pk c r := by
  refine ⟨_, ?_, rfl⟩
  split
  · split
    · exact .inl rfl
    · exact .inr ⟨_, _, rfl⟩
  · exact .inl rfl

theorem finalReply_sessions (s : State) (code : Nat) (pk : Packet) (c : Nat) (r : List Byte) :
    (s.finalReply code pk c r).cmd.sessions = s.cmd.sessions := by
  obtain ⟨t, ht, hreply⟩ := finalReply_steps s code pk c r
  have hses : t.cmd.sessions = s.cmd.sessions := by
    rcases ht with rfl | ⟨p, x, rfl⟩ <;> rfl
  rw [hreply]
  split
  · exact hses
  · rw [State.writeReply_cmd]
    exact hses

section
variable (s : State) (code : Nat) (pk : Packet) (replay : Bool)

/-- AUTH_FAIL changes counters, the record of the last such reply, and the replies. -/
theorem State.authFail_keeps : (s.authFail code pk replay).cmd.sessions = s.cmd.sessions ∧
    (s.authFail code pk replay).cmd.queues = s.cmd.queues ∧ (s.authFail code pk replay).cmd.held = s.cmd.held ∧
    (s.authFail code pk replay).cmd.async = s.cmd.async := by
  unfold State.authFail
  extract_lets ms c again t
  split
  · exact ⟨rfl, rfl, rfl, rfl⟩
  · obtain ⟨hq, hh, ha⟩ := finalReply_rest t code pk stAuthFail []
    exact ⟨finalReply_sessions t code pk stAuthFail [], hq, hh, ha⟩

theorem State.authFail_first (h : s.cmd.authMs.val 0 pk.mac ≠ pk.stamp / 1000000 + 1) :
    (s.authFail code pk replay).answered pk stAuthFail [] := by
  unfold State.authFail
  dsimp only
  rw [if_neg (by simpa [nsMs] using h)]
  exact finalReply_answered _ _ _ _ _ (.inr (by decide))

theorem State.authFail_again (h : s.cmd.authMs.val 0 pk.mac = pk.stamp / 1000000 + 1) :
    (s.authFail code pk replay).cmd.replies = s.cmd.replies ∧
      (s.authFail code pk replay).cmd.mpSuppressed = (s.cmd.mpSuppressed + 1) % 2 ^ 32 := by
  unfold State.authFail
  dsimp only
  have : (s.cmd.authMs.val 0 pk.mac == pk.stamp / nsMs + 1) = true := by simpa [nsMs] using h
  rw [this]
  exact ⟨rfl, rfl⟩

end

end Sys2Proof.Machine

open Sys2Proof Sys2Proof.Machine

/-- Settles O12: a packet that is not taken leaves the state as it is. -/
theorem commandPacketStallsOrWaits : Obligations.CommandPacketStallsOrWaits := by
  intro i o pk s hi
  have hstays (h : s.takes o pk = false) : exec i s = .next s := by rw [exec_packet s hi, State.command_not_taken h]
  refine ⟨fun h => hstays ?_, fun h => hstays ?_, fun p hsrc h => hstays ?_⟩
  · exact State.takes_of_intake_closed o pk (by simp [State.intakeOpen, h])
  · exact State.takes_of_intake_closed o pk (by simp [State.intakeOpen, h])
  · rw [s.takes_ring o hsrc, State.ringTakes_eq_false h, Bool.and_false]

/-- Settles O13: the action runs on the state with the packet taken, and its outcome is replied. -/
theorem immediateCommandsReply : Obligations.ImmediateCommandsReply := by
  intro i o pk s hi hc h
  obtain ⟨c, r, hdone, hrun⟩ := (s.ready pk).runNow_done o (cutBlock pk)
  refine ⟨_, c, r, exec_immediate hi h hc, hdone, hrun, fun hq => ?_⟩
  rw [hrun]
  exact finalReply_answered _ o.code (cutBlock pk) c r hq

/-- Settles O14: of the command registers, the entry changes the queue of its class alone. -/
theorem openStrokeCommandsQueue : Obligations.OpenStrokeCommandsQueue := by
  intro i o pk s hi hc h
  obtain ⟨-, hasync, hheld, hreplies⟩ := ready_cmd s pk
  refine ⟨_, exec_openStroke hi h hc, ?_, fun c hne => ?_, hheld, hasync, hreplies⟩
  · rw [State.setQueue_queueOf, State.ready_queueOf]
  · rw [State.setQueue_queueOf_ne _ _ _ _ hne, State.ready_queueOf]

/-- Settles O15: ACCEPTED is written, the command joins the outstanding ones, and its action runs on that. -/
theorem asyncCommandsAreAccepted : Obligations.AsyncCommandsAreAccepted := by
  intro i o pk s hi hc h
  obtain ⟨-, hasync, -, -⟩ := ready_cmd s pk
  let u := (s.ready pk).acceptReply (cutBlock pk)
  have hu : u.cmd.async = s.cmd.async := (State.acceptReply_async _ _).trans hasync
  have het : u.et = s.et := (State.acceptReply_et _ _).trans (s.ready_et pk)
  refine ⟨_, u, u.outstand o (cutBlock pk) true, exec_async hi h hc, State.acceptReply_answered (pk := cutBlock pk),
    State.acceptReply_quiet (pk := cutBlock pk), hu, rfl, ?_, State.startAsync_later, fun c r => State.startAsync_ends⟩
  rw [← hu, ← het]
  rfl

/-- Settles O20: the packet ends in AUTH_FAIL on the state with it taken. -/
theorem badCredentialsLeaveSessions : Obligations.BadCredentialsLeaveSessions := by
  intro i o pk s hi hsrc hopen hlen hcred
  obtain ⟨replay, hcmd⟩ := command_authFail hsrc hopen hlen hcred
  have htaken : (s.taken pk).cmd = { s.cmd with mpCmdRx := wrap32 s.cmd.mpCmdRx } := by unfold State.taken; rw [hsrc]
  obtain ⟨hses, hq, hh, ha⟩ := (s.taken pk).authFail_keeps o.code (cutBlock pk) replay
  have hfirst := (s.taken pk).authFail_first o.code (cutBlock pk) replay
  have hagain := (s.taken pk).authFail_again o.code (cutBlock pk) replay
  rw [htaken] at hses hq hh ha hfirst hagain
  exact ⟨_, (exec_packet s hi).trans (congrArg _ hcmd), hses, hq, hh, ha, hfirst, hagain⟩

end

