-- ==== Sys2Proof/Proofs/StatusReads.lean ====
section
/-!
PROOFS. The frame of the status reads (R39, R41, R42, R425).
-/

namespace Sys2Proof.Machine

/-- A status read is of completion type S, and its action leaves the state alone and returns a result. -/
theorem readRow_act {i : Instr} {o : OpSpec} {pk : Packet} (hi : i.packetRow = some (o, pk)) (hr : i.readRow = true) :
    o.comp = .S ∧ ∀ q s, ∃ r, o.act q s = okWith r s := by
  cases i with
  | nop | identify | getState | timeGetStatus | easelGetStatus | easelGetOverruns | gwGetStatus | gwRouteRead | gwSignalRead
  | lswGetStatus | mbrGetStatus | pwrGetStatus | pwrGetThermal | pwrGetLedger | swcGetCounters | swcFdbRead | prtGetStatus
  | canGetStatus | fryGetStatus | linGetStatus | dioGetInputs | partGetStatus | ringGetStatus | partReadPostedErrors
  | updGetStatus | wakeGetSource | fltGetStatus | fltReadLog => cases hi; exact ⟨rfl, fun _ _ => ⟨_, rfl⟩⟩
  | _ => cases hr

section
variable (s : State) {pk : Packet} {p : Nat} (h : pk.src = .ring p)
include h

/-- A packet is taken from a ring by giving its slot back and counting it. -/
theorem State.ready_ring : s.ready pk = (s.ringPop (2 * p)).setStat p
    { (s.ringPop (2 * p)).stat p with taken := wrap32 ((s.ringPop (2 * p)).stat p).taken } := by
  unfold State.ready State.taken
  rw [h]

theorem State.ready_mem : (s.ready pk).mem = s.mem := by
  rw [s.ready_ring h, State.setStat_mem, State.ringPop_mem]

theorem State.ready_replyRing : (s.ready pk).ring (2 * p + 1) = s.ring (2 * p + 1) := by
  rw [s.ready_ring h, State.setStat_ring, State.ringPop_ring_ne _ (by omega)]

theorem State.ready_devState : (s.ready pk).dev.state = s.dev.state := by
  rw [s.ready_ring h, State.setStat_dev, (s.ringPop_devState _).1]

theorem State.ready_armed : (s.ready pk).dev.armed = s.dev.armed := by
  rw [s.ready_ring h, State.setStat_dev, (s.ringPop_devState _).2]

/-- A reply of status OK to a ring is the reply itself, or nothing under QUIET. -/
theorem State.finalReply_ok_outside (code : Nat) (r : List Byte) {a : Nat}
    (ha : a < (s.ring (2 * p + 1)).nextSlot ∨ (s.ring (2 * p + 1)).nextSlot + 24 + r.length ≤ a) :
    memGet (s.finalReply code pk stOk r).mem a = memGet s.mem a := by
  obtain ⟨t, ht, hreply⟩ := finalReply_steps s code pk stOk r
  have hkeeps : t.mem = s.mem ∧ t.ring (2 * p + 1) = s.ring (2 * p + 1) := by
    rcases ht with rfl | ⟨q, x, rfl⟩
    · exact ⟨rfl, rfl⟩
    · exact ⟨rfl, s.setStat_ring q _ x⟩
  obtain ⟨hmem, hring⟩ := hkeeps
  rw [hreply, ← hmem]
  split
  · rfl
  · rw [← hring] at ha
    exact writeReply_outside t pk stOk r h ha

end

end Sys2Proof.Machine

open Sys2Proof Sys2Proof.Machine

/-- Settles O25: the action returns the state with the packet taken, and the final reply writes its slot alone. -/
theorem statusReadsFrame : Obligations.StatusReadsFrame := by
  intro i o pk p s hi hr hsrc h
  obtain ⟨hc, hact⟩ := readRow_act hi hr
  obtain ⟨r, hres⟩ := hact (cutBlock pk) (s.ready pk)
  have hrun : (s.ready pk).runNow o (cutBlock pk) = (s.ready pk).finalReply o.code (cutBlock pk) stOk r := by
    unfold State.runNow
    rw [hres]
    rfl
  refine ⟨(s.ready pk).finalReply o.code (cutBlock pk) stOk r, stOk, r, ?_, by rw [hres]; rfl, fun a ha => ?_, ?_⟩
  · rw [exec_immediate hi h hc, hrun]
  · rw [← s.ready_replyRing hsrc] at ha
    rw [State.finalReply_ok_outside _ (pk := cutBlock pk) hsrc o.code r ha, s.ready_mem hsrc]
  · have hstate := (State.finalReply_devState _ o.code (cutBlock pk) stOk r).trans (s.ready_devState hsrc)
    have harmed := (congrArg Base.armed (State.finalReply_base _ o.code (cutBlock pk) stOk r)).trans (s.ready_armed hsrc)
    obtain ⟨hq, hh, ha⟩ := finalReply_rest (s.ready pk) o.code (cutBlock pk) stOk r
    obtain ⟨hq', ha', hh', -⟩ := ready_cmd s pk
    obtain ⟨-, het, hrtc, hfree, htime, heasel, hgw, hlsw, hpwr, hdio, hwake, hswc, hprt, hcan, hfry, hlin, hbam, hupd⟩ :=
      State.kRing_ext ((State.finalReply_kRing _ o.code (cutBlock pk) stOk r).trans (s.ready_kRing pk))
    exact ⟨het, hrtc, hfree, htime, heasel, hgw, hlsw, hpwr, hdio, hwake, hswc, hprt, hcan, hfry, hlin, hbam, hupd,
      hstate, harmed, hq.trans hq', hh.trans hh', ha.trans ha'⟩

end

