-- ==== Sys2Proof/Proofs/RingRows.lean ====
section
/-!
PROOFS. Doorbells, virtual interrupts, event delivery, the ring engine, and accesses to the status windows (R64 to R66, R425 to
R434, R525).
-/

namespace Sys2Proof.Machine

/-! ### What the shared ring operations make of a ring -/

@[simp] theorem State.ringEvent_ring (s : State) (n kind data m : Nat) : (s.ringEvent n kind data).ring m = s.ring m :=
  State.ring_congr (State.raiseOnce_rings _ _ _ _ _).1 m

theorem State.indexError_ring (s : State) (n v : Nat) (producer : Bool) :
    (s.indexError n v producer).ring n = { s.ring n with indexErrors := sat16 (s.ring n).indexErrors } := by
  unfold State.indexError
  rw [State.ringEvent_ring, State.setRing_ring]

/-- LOST goes into the next slot, and the drops that it reports are settled (R85, R432). -/
theorem State.ringFreed_ring (s : State) (n : Nat) (h : (s.ring n).lost ≠ 0) : ((s.ringFreed n).ring n).cons = (s.ring n).cons ∧
    ((s.ringFreed n).ring n).lost = 0 ∧ ((s.ringFreed n).ring n).prod = ((s.ring n).prod + 1) % 65536 := by
  unfold State.ringFreed
  extract_lets r e
  rw [if_neg (by simpa using h)]
  obtain ⟨_, _, _, hpush⟩ := State.ringPush_ring (s.setRing n { r with lost := 0, lostEt := 0 }) n (fit r.slotSize e.bytes)
  rw [hpush, State.setRing_ring]
  exact ⟨rfl, rfl, rfl⟩

theorem State.ringFreed_none (s : State) (n : Nat) (h : (s.ring n).lost = 0) : s.ringFreed n = s := if_pos (by simp [h])

/-- A raise where the owner takes interrupts and its table has room. -/
theorem State.raiseVi_room {s : State} {n : Nat} (hreset : (s.part (s.ring n).owner).inReset = false)
    (hroom : (s.part (s.ring n).owner).vi.length < 32) : s.raiseVi n =
      s.setPart (s.ring n).owner { s.part (s.ring n).owner with vi := (s.part (s.ring n).owner).vi ++ [n] } := by
  unfold State.raiseVi
  dsimp only
  rw [hreset, if_neg Bool.false_ne_true, if_pos hroom]

theorem State.ringIrq_disarmed {s : State} {n : Nat} (h : (s.ring n).armed = false) : s.ringIrq n = s :=
  if_neg (by simp [h])

theorem State.chargeDram_evq (s : State) (n bytes : Nat) : (s.chargeDram n bytes).evq = s.evq := by
  unfold State.chargeDram
  dsimp only
  split <;> rfl

theorem State.ringPush_evq {s : State} {n : Nat} (bs : List Byte) (h : (s.ring n).armed = false) :
    (s.ringPush n bs).evq = s.evq := by
  unfold State.ringPush
  extract_lets r a bad u r'
  rw [State.ringIrq_disarmed (by rw [State.chargeDram_ring, State.setRing_ring]; exact h), State.chargeDram_evq]
  change u.evq = s.evq
  unfold u
  split <;> rfl

/-- The bytes of a record in its slot, where no poison reaches into it. -/
theorem State.ringPush_record {s : State} {n : Nat} {bs : List Byte} (h : s.poisonLeft (s.ring n).nextSlot bs.length = false) :
    memRead (s.ringPush n bs).mem (s.ring n).nextSlot bs.length = bs := by
  rw [State.ringPush_mem, h]
  exact memRead_memWrite bs s.mem _

/-- A record goes into its ring while one slot stays free for LOST and no drop is to be reported. -/
theorem State.ringRecord_room {s : State} {n : Nat} (et : Nat) (bs : List Byte) (hen : (s.ring n).enabled = true)
    (hroom : (s.ring n).fill + 1 < (s.ring n).depth) (hlost : (s.ring n).lost = 0) : s.ringRecord n et bs = s.ringPush n bs := by
  unfold State.ringRecord
  dsimp only
  rw [hen, if_neg (by decide), if_pos (by simp [hroom, hlost])]

/-! ### Doorbells (R425, R426, R431) -/

/-- A doorbell page of ring `n` that acts for partition `p` (R409, R422). -/
def State.doorOpen (s : State) (p n : Nat) : Prop :=
  n < 128 ∧ s.active = true ∧ (s.ring n).enabled = true ∧ (s.ring n).owner = p ∧ s.inReset p = false

/-- How far an index write moves past the consumer index. -/
def Ring.ahead (r : Ring) (v : Nat) : Nat := (v % 65536 + 65536 - r.cons) % 65536

section
variable {s : State} {p n v : Nat} (ho : s.doorOpen p n)
include ho

theorem State.doorbellWrite_open (f : State → State) : s.doorbellWrite p n f = f s := by
  obtain ⟨hn, hact, hen, hown, hreset⟩ := ho
  exact if_neg (by simp [hn, hact, hen, hown, hreset])

theorem State.dbProducer_advances (hm : (s.ring n).hostMade = true) (hback : (s.ring n).fill ≤ (s.ring n).ahead v)
    (hdepth : (s.ring n).ahead v ≤ (s.ring n).depth) : s.dbProducer p n v = s.setRing n
      { s.ring n with prod := v % 65536, peak := max (s.ring n).peak ((s.ring n).ahead v) } := by
  unfold State.dbProducer
  rw [State.doorbellWrite_open ho]
  dsimp only
  rw [hm, if_neg (by decide)]
  exact if_neg (by simpa using ⟨hback, hdepth⟩)

theorem State.dbProducer_refused (hm : (s.ring n).hostMade = true)
    (hbad : (s.ring n).ahead v < (s.ring n).fill ∨ (s.ring n).depth < (s.ring n).ahead v) :
    s.dbProducer p n v = s.indexError n (v % 65536) true := by
  unfold State.dbProducer
  rw [State.doorbellWrite_open ho]
  dsimp only
  rw [hm, if_neg (by decide)]
  exact if_pos (by simpa [Ring.ahead] using hbad)

theorem State.dbConsumer_refused (hm : (s.ring n).hostMade = false) (hbad : (s.ring n).fill < (s.ring n).ahead v) :
    s.dbConsumer p n v = s.indexError n (v % 65536) false := by
  unfold State.dbConsumer
  rw [State.doorbellWrite_open ho]
  dsimp only
  rw [hm, if_neg Bool.false_ne_true]
  exact if_pos hbad

theorem State.dbConsumer_frees (hm : (s.ring n).hostMade = false) (hfill : (s.ring n).ahead v ≤ (s.ring n).fill) :
    s.dbConsumer p n v = if (s.ring n).ahead v = 0 then s.setRing n { s.ring n with cons := v % 65536 }
      else (s.setRing n { s.ring n with cons := v % 65536 }).ringFreed n := by
  unfold State.dbConsumer
  rw [State.doorbellWrite_open ho]
  dsimp only
  rw [hm, if_neg Bool.false_ne_true]
  refine (if_neg (Nat.not_lt.mpr hfill)).trans ?_
  simp only [beq_iff_eq]
  rfl

/-- Where no drop is to be reported, freed slots change the consumer index alone. -/
theorem State.dbConsumer_plain (hm : (s.ring n).hostMade = false) (hfill : (s.ring n).ahead v ≤ (s.ring n).fill)
    (hlost : (s.ring n).lost = 0) : s.dbConsumer p n v = s.setRing n { s.ring n with cons := v % 65536 } := by
  rw [State.dbConsumer_frees ho hm hfill, State.ringFreed_none _ _ (by rw [State.setRing_ring]; exact hlost), ite_self]

theorem State.dbConsumer_lost (hm : (s.ring n).hostMade = false) (hpos : 0 < (s.ring n).ahead v)
    (hfill : (s.ring n).ahead v ≤ (s.ring n).fill) (hlost : (s.ring n).lost ≠ 0) :
    ((s.dbConsumer p n v).ring n).cons = v % 65536 ∧ ((s.dbConsumer p n v).ring n).lost = 0 ∧
      ((s.dbConsumer p n v).ring n).prod = ((s.ring n).prod + 1) % 65536 := by
  have h := State.ringFreed_ring (s.setRing n { s.ring n with cons := v % 65536 }) n (by rw [State.setRing_ring]; exact hlost)
  rw [State.setRing_ring] at h
  rw [State.dbConsumer_frees ho hm hfill, if_neg (by omega)]
  exact h

theorem State.irqAck_open (hv : v % 2 = 1) : s.irqAck p n v =
    (let t := s.setRing n { s.ring n with pendingLost := false, armed := (s.ring n).irqEn }
     if !(s.ring n).hostMade && (s.ring n).fill != 0 then t.ringIrq n else t) := by
  unfold State.irqAck
  rw [if_neg (by simp [hv]), State.doorbellWrite_open ho]

theorem State.irqAck_arms (hv : v % 2 = 1) (h : (s.ring n).hostMade = true ∨ (s.ring n).fill = 0) :
    s.irqAck p n v = s.setRing n { s.ring n with pendingLost := false, armed := (s.ring n).irqEn } := by
  rw [State.irqAck_open ho hv]
  exact if_neg (by rcases h with h | h <;> simp [h])

theorem State.irqAck_raises (hv : v % 2 = 1) (hm : (s.ring n).hostMade = false) (hfill : (s.ring n).fill ≠ 0)
    (hen : (s.ring n).irqEn = true) (hreset : (s.part p).inReset = false) (hroom : (s.part p).vi.length < 32) :
    ((s.irqAck p n v).part p).vi = (s.part p).vi ++ [n] ∧
      (s.irqAck p n v).ring n = { s.ring n with pendingLost := false, armed := false } := by
  obtain ⟨-, -, -, rfl, -⟩ := id ho
  rw [State.irqAck_open ho hv]
  dsimp only
  rw [if_pos (by simp [hm, hfill])]
  unfold State.ringIrq
  rw [State.setRing_ring, if_pos hen, State.raiseVi_room (by simpa using hreset) (by simpa using hroom)]
  simp

end

/-! ### The acknowledge page (R427) -/

section
variable {s : State} {p : Nat} (hp : p < 16) (hact : s.active = true) (hreset : s.inReset p = false) (hst : (s.part p).st ≠ 0)
include hp hact hreset hst

theorem State.viConsume_open (v : Nat) :
    s.viConsume p v = s.setPart p { s.part p with vi := (s.part p).vi.drop (v % 64) } :=
  if_neg (by simp [hp, hact, hreset, hst])

theorem State.viOvfAck_open {v : Nat} (hv : v % 2 = 1) : s.viOvfAck p v = s.setPart p { s.part p with viOvf := false } :=
  if_neg (by simp [hp, hact, hreset, hst, hv])

end

/-! ### Event delivery (R434) -/

theorem State.eventDeliver_push {s : State} {e : Raised} (he : s.nextEvent = some e)
    (hen : (s.ring (s.part e.dest).eventRing).enabled = true)
    (hroom : (s.ring (s.part e.dest).eventRing).fill + 1 < (s.ring (s.part e.dest).eventRing).depth)
    (hlost : (s.ring (s.part e.dest).eventRing).lost = 0) :
    s.eventDeliver = ({ s with evq := s.evq.erase e } : State).ringPush (s.part e.dest).eventRing e.ev.bytes := by
  unfold State.eventDeliver
  rw [he]
  exact State.ringRecord_room e.ev.et e.ev.bytes hen hroom hlost

/-! ### The ring engine (R429, R432, R433) -/

/-- A waiting frame is taken from its queue alone. -/
theorem State.nextFrame_keeps {s t : State} {n : Nat} {bs : List Byte} (h : s.nextFrame n = some (bs, t)) :
    t.flt = s.flt ∧ t.par.rings = s.par.rings := by
  unfold State.nextFrame at h
  split at h
  · cases h
    exact ⟨rfl, rfl⟩
  · split at h
    · obtain ⟨f, -, hf⟩ := Option.map_eq_some_iff.mp h
      cases hf
      exact ⟨rfl, rfl⟩
    · split at h
      · obtain ⟨f, -, hf⟩ := Option.map_eq_some_iff.mp h
        cases hf
        exact ⟨rfl, rfl⟩
      · split at h
        · obtain ⟨f, -, hf⟩ := Option.map_eq_some_iff.mp h
          cases hf
          exact ⟨rfl, rfl⟩
        · cases h

section
variable {s u : State} {n : Nat} {bs : List Byte}

/-- The engine serves ring `n`, and moves a frame of FRAME_RX or a slot of FRAME_TX. -/
theorem State.ringMove_open (hn : n < 128) (hact : s.active = true) (hen : (s.ring n).enabled = true)
    (hstop : s.ringStopped n = false) : ((s.ring n).type = 4 → s.ringMove n = s.moveRx n) ∧
      ((s.ring n).type = 5 → s.ringMove n = s.moveTx n) := by
  have hopen : s.ringMove n =
      if (s.ring n).type == 4 then s.moveRx n else if (s.ring n).type == 5 then s.moveTx n else s := by
    unfold State.ringMove
    exact if_neg (by simp [hn, hact, hen, hstop])
  rw [hopen]
  exact ⟨fun h => by simp [h], fun h => by simp [h]⟩

theorem State.moveRx_fits (hfull : (s.ring n).full = false) (hf : s.nextFrame n = some (bs, u))
    (hfit : bs.length ≤ (s.ring n).slotSize) : s.moveRx n = u.ringPush n bs := by
  unfold State.moveRx
  dsimp only
  rw [hfull, if_neg Bool.false_ne_true, hf]
  exact if_neg (Nat.not_lt.mpr hfit)

theorem State.moveRx_tooLong (hfull : (s.ring n).full = false) (hf : s.nextFrame n = some (bs, u))
    (hlong : (s.ring n).slotSize < bs.length) : s.moveRx n =
      (u.setRing n { u.ring n with tooSmall := sat16 (u.ring n).tooSmall }).ringEvent n 3 (bs.length - 32) := by
  unfold State.moveRx
  dsimp only
  rw [hfull, if_neg Bool.false_ne_true, hf]
  exact if_pos hlong

/-- A slot of a FRAME_TX ring that poison does not reach: its length decides. -/
theorem State.moveTx_clean {a len : Nat} (hfill : (s.ring n).fill ≠ 0)
    (ha : a = (s.ring n).base + (s.ring n).cons % (s.ring n).depth * (s.ring n).slotSize)
    (hclean : s.poisoned a (s.ring n).slotSize = false) (hlen : len = leNat (memRead s.mem a 2)) : s.moveTx n =
      if len = 0 ∨ (s.ring n).slotSize < len + 32 then (s.ringPop n).indexError n (s.ring n).cons true
      else (s.ringPop n).frameIn (parseFrame (s.ring n).binding (memRead s.mem (a + 32) len)) := by
  subst hlen ha
  unfold State.moveTx
  dsimp only
  rw [if_neg (by simpa using hfill), hclean, if_neg Bool.false_ne_true]
  simp

end

/-! ### The status windows (R65, R66, R525) -/

section
variable {s : State} {p a : Nat} (hp : p < 16) (hpow : s.powered = true)
include hp hpow

theorem State.lowRead_shown (ha : a % 4 = 0) (hvis : s.winVisible p a = true) : s.lowRead p a =
    { s with dev := { s.dev with
      latch := s.dev.latch.put (0, 0) p (a + 4, s.winWord (a + 4)), lastLoad := some (s.winWord a) } } := by
  unfold State.lowRead
  rw [if_neg (by simp [hp, hpow]), if_pos (by simp [ha, hvis])]

theorem State.lowRead_failed (h : a % 4 ≠ 0 ∨ s.winVisible p a = false) :
    (s.lowRead p a).dev = { s.dev with lastLoad := none } := by
  unfold State.lowRead
  rw [if_neg (by simp [hp, hpow]), if_neg (by rcases h with h | h <;> simp [h])]
  dsimp only
  rw [State.fault_dev, State.setFltPart_dev]

end

theorem State.windowStore_dead {s : State} {w : BusWrite} (hpow : s.powered = true) (hw : w.isWrite = true) (hi : w.init < 16)
    (hd : s.deadRegister w.init w.addr = true) :
    s.windowStore w = s.postFail w.init w.addr (Nat.log2 w.size) 0 1 (s.pairOf w.init) 0 := by
  unfold State.windowStore
  rw [if_neg (by simp [hpow, hw]), if_pos hi, if_pos hd]

end Sys2Proof.Machine

open Sys2Proof Sys2Proof.Machine

/-- Settles O50: each row by the rule of its operation. -/
theorem ringsAndWindows : Obligations.RingsAndWindows := by
  intro s
  refine ⟨?_, ?_, ?_, ?_, ?_, ?_⟩
  · rintro p n v f hn hact hen hown hreset rfl
    have ho : s.doorOpen p n := ⟨hn, hact, hen, hown, hreset⟩
    refine ⟨fun hm => ⟨fun hback hdepth => ⟨_, rfl, ?_⟩, fun hbad => ⟨_, rfl, ?_⟩⟩,
      fun hm => ⟨fun hfill hlost => ⟨_, rfl, ?_⟩, fun hpos hfill hlost => ⟨_, rfl, State.dbConsumer_lost ho hm hpos hfill hlost⟩,
        fun hbad => ⟨_, rfl, ?_⟩⟩,
      fun hv => ⟨fun h => ⟨_, rfl, ?_⟩, fun hm hfill hirq hres hroom =>
        ⟨_, rfl, State.irqAck_raises ho hv hm hfill hirq hres hroom⟩⟩⟩
    · rw [State.dbProducer_advances ho hm hback hdepth, State.setRing_ring]
      exact ⟨rfl, rfl, rfl⟩
    · rw [State.dbProducer_refused ho hm hbad, State.indexError_ring]
      exact ⟨rfl, rfl, rfl⟩
    · rw [State.dbConsumer_plain ho hm hfill hlost, State.setRing_ring]
      exact ⟨rfl, rfl, rfl⟩
    · rw [State.dbConsumer_refused ho hm hbad, State.indexError_ring]
      exact ⟨rfl, rfl, rfl⟩
    · rw [State.irqAck_arms ho hv h, State.setRing_ring]
  · intro p v hp hact hreset hst
    refine ⟨⟨_, rfl, ?_⟩, fun hv => ⟨_, rfl, ?_⟩⟩
    · rw [State.viConsume_open hp hact hreset hst, State.setPart_part]
    · rw [State.viOvfAck_open hp hact hreset hst hv, State.setPart_part]
  · rintro e r he rfl hen hroom hlost hpoison hlen
    refine ⟨_, rfl, ?_⟩
    rw [State.eventDeliver_push he hen hroom hlost]
    obtain ⟨_, _, _, hring⟩ := State.ringPush_ring { s with evq := s.evq.erase e } (s.part e.dest).eventRing e.ev.bytes
    refine ⟨by rw [hring]; rfl, ?_, fun harmed => State.ringPush_evq e.ev.bytes harmed⟩
    have hslot := State.ringPush_record (s := { s with evq := s.evq.erase e }) (n := (s.part e.dest).eventRing) (bs := e.ev.bytes)
    rw [hlen] at hslot
    exact hslot hpoison
  · intro n hn hact hen hstop
    obtain ⟨hrx, htx⟩ := State.ringMove_open hn hact hen hstop
    refine ⟨fun bs u htype hfull hf => ⟨fun hfit => ⟨_, rfl, ?_⟩, fun hlong => ⟨_, rfl, ?_⟩⟩,
      fun a len htype hfill ha hclean hlen => ⟨fun hbad => ⟨_, rfl, ?_⟩, fun hpos hfit => ?_⟩⟩
    · obtain ⟨hflt, hrings⟩ := State.nextFrame_keeps hf
      have hring : u.ring n = s.ring n := State.ring_congr hrings n
      rw [hrx htype, State.moveRx_fits hfull hf hfit]
      obtain ⟨_, _, _, hpush⟩ := State.ringPush_ring u n bs
      refine ⟨by rw [hpush, hring], by rw [hpush, hring], fun hclean => ?_⟩
      rw [← hring] at hclean ⊢
      exact State.ringPush_record (by unfold State.poisonLeft; rw [hflt]; exact hclean)
    · have hring : u.ring n = s.ring n := State.ring_congr (State.nextFrame_keeps hf).2 n
      rw [hrx htype, State.moveRx_tooLong hfull hf hlong, State.ringEvent_ring, State.setRing_ring, hring]
      exact ⟨rfl, rfl⟩
    · obtain ⟨_, _, hpop⟩ := State.ringPop_ring s n
      rw [htx htype, State.moveTx_clean hfill ha hclean hlen, if_pos hbad,
        State.indexError_ring, hpop]
      exact ⟨rfl, rfl⟩
    · change Host.Outcome.next (s.ringMove n) = _
      rw [htx htype, State.moveTx_clean hfill ha hclean hlen, if_neg (by omega)]
  · intro p a hp hpow
    refine ⟨fun ha hvis => ⟨_, rfl, ?_⟩, fun h => ⟨_, rfl, ?_⟩⟩
    · rw [State.lowRead_shown hp hpow ha hvis]
      exact ⟨rfl, Tab.val_put_same _ _ _ _, rfl⟩
    · rw [State.lowRead_failed hp hpow h]
      exact ⟨rfl, rfl⟩
  · intro w hpow hw hi hd
    refine ⟨_, rfl, ?_⟩
    rw [State.windowStore_dead hpow hw hi hd]
    exact State.postedError_count s _

end

