-- ==== Sys2Proof/Proofs/TimeSources.lean ====
section
/-!
PROOFS. Sources of zone time gained and lost, and the selection among them (R73 to R75, R77 to R79).
-/

namespace Sys2Proof.Machine

/-! ### What selection leaves of the sources' records (R74, R77) -/

/-- The record of source `c` without the refusal mark, which is all that selection changes in it. -/
def State.srcCount (s : State) (c : Nat) : TimeSrc := { s.timeSrc c with refused := false }

theorem State.srcCount_fields {s : State} {c : Nat} {x : TimeSrc} (h : s.srcCount c = x) : (s.timeSrc c).good = x.good ∧
    (s.timeSrc c).lastErr = x.lastErr ∧ (s.timeSrc c).lastAt = x.lastAt ∧ (s.timeSrc c).qualified = x.qualified := by
  subst h
  exact ⟨rfl, rfl, rfl, rfl⟩

theorem State.srcCount_congr {s t : State} (h : t.time.srcs = s.time.srcs) (c : Nat) : t.srcCount c = s.srcCount c := by
  unfold State.srcCount State.timeSrc
  rw [h]

/-- Marking a source, or taking its mark away, leaves every count. -/
theorem State.setRefused_srcCount (s : State) (m : Nat) (b : Bool) (c : Nat) :
    (s.setTimeSrc m { s.timeSrc m with refused := b }).srcCount c = s.srcCount c := by
  unfold State.srcCount
  by_cases h : c = m
  · rw [h, State.setTimeSrc_timeSrc]
  · rw [State.setTimeSrc_timeSrc_ne _ _ _ _ h]

theorem State.raise_srcCount (s : State) (tos : List Nat) (src kind data c : Nat) :
    (s.raise tos src kind data).srcCount c = s.srcCount c :=
  State.srcCount_congr (by rw [State.raise_time]) c

theorem State.markRefused_srcCount (s : State) (m c : Nat) : (s.markRefused m).srcCount c = s.srcCount c := by
  unfold State.markRefused
  split
  · rfl
  · rw [State.raise_srcCount, State.setRefused_srcCount]

/-- Following a phase error changes rates and the state of zone time, no source. -/
theorem State.followErr_sources (s : State) (err : Int) :
    (s.followErr err).time.source = s.time.source ∧ (s.followErr err).time.srcs = s.time.srcs := by
  have hsteer : (s.steer err).time.source = s.time.source ∧ (s.steer err).time.srcs = s.time.srcs := by
    unfold State.steer
    dsimp only
    split <;> exact ⟨rfl, rfl⟩
  have hacq (u : State) : u.enterAcquire.time.source = u.time.source ∧ u.enterAcquire.time.srcs = u.time.srcs := by
    unfold State.enterAcquire
    split <;> exact ⟨rfl, rfl⟩
  unfold State.followErr
  split
  · exact hacq _
  · split
    · simpa [State.enterLocked] using hsteer
    · exact ⟨(hacq _).1.trans hsteer.1, (hacq _).2.trans hsteer.2⟩

theorem State.setSource_sources (s : State) (c : Nat) : (s.setSource c).time.source = c ∧
    (s.setSource c).time.srcs = s.time.srcs ∧ (s.setSource c).time.gm = s.time.gm ∧ (s.setSource c).et = s.et := by
  unfold State.setSource
  rw [State.raise_time, State.raise_et]
  exact ⟨rfl, rfl, rfl, rfl⟩

theorem State.setRate_sources (s : State) (r : Int) : (s.setRate r).time.source = s.time.source ∧
    (s.setRate r).time.srcs = s.time.srcs ∧ (s.setRate r).et = s.et := ⟨rfl, rfl, rfl⟩

theorem State.holdFrom_sources (s : State) (r : Int) : (s.holdFrom r).time.source = s.time.source ∧
    (s.holdFrom r).time.srcs = s.time.srcs ∧ (s.holdFrom r).time.ztState = 3 ∧
    (s.holdFrom r).time.holdoverStart = some s.et := ⟨rfl, rfl, rfl, rfl⟩

theorem State.timeFall_srcs (s : State) (lost : Nat) : (s.timeFall lost).time.srcs = s.time.srcs := by
  unfold State.timeFall
  extract_lets st t rate t1 _ t2 t3
  have ht : t.time.srcs = s.time.srcs := (s.setSource_sources 4).2.1
  have ht1 : t1.time.srcs = s.time.srcs := (t.setRate_sources rate).2.1.trans ht
  split
  · simpa [State.enterLocked, State.setRate] using ht
  · split
    · change ((t1.holdFrom rate).raise [0] 0x008 4 lost).time.srcs = _
      rw [State.raise_time, (t1.holdFrom_sources rate).2.1, ht1]
    · exact ht

theorem State.pickSource_srcCount (l : List Nat) (s : State) (c : Nat) : (State.pickSource l s).1.srcCount c = s.srcCount c := by
  induction l generalizing s with
  | nil => rfl
  | cons m l ih =>
    unfold State.pickSource
    split
    · exact ih s
    · split
      · rw [ih, State.markRefused_srcCount]
      · rfl

theorem State.reselect_srcCount (s : State) (c : Nat) : s.reselect.srcCount c = s.srcCount c := by
  have hpick := s.pickSource_srcCount s.byRank c
  unfold State.reselect
  rcases h : s.pickSource s.byRank with ⟨t, best⟩
  rw [h] at hpick
  cases best with
  | none =>
    dsimp only
    split
    · exact hpick
    · rw [State.srcCount_congr (t.timeFall_srcs _), hpick]
  | some m =>
    dsimp only
    split
    · exact hpick
    · rw [State.srcCount_congr (State.followErr_sources _ _).2]
      exact (State.srcCount_congr (State.setSource_sources _ _).2.1 c).trans hpick

theorem State.timeRef_srcCount (s : State) (m : Nat) (err : Int) (freq : Option Int) (was c : Nat) :
    (s.timeRef m err freq was).srcCount c = s.srcCount c := by
  unfold State.timeRef
  split
  · extract_lets u
    split
    · rw [State.reselect_srcCount, State.markRefused_srcCount]; rfl
    · split
      · rfl
      · exact State.srcCount_congr (State.followErr_sources _ _).2 c
  · split
    · rw [State.reselect_srcCount, State.setRefused_srcCount]
    · rfl

/-! ### References (R73) -/

/-- A source's record after a reference: the error, the time, the count, and whether it qualifies. -/
theorem State.timeGood_srcCount (s : State) (c good need : Nat) (err : Int) : ∃ at_, (s.timeGood c good need err).srcCount c =
    { s.timeSrc c with good := good, lastErr := err, adj := 0, lastAt := s.et, refused := false, qualAt := at_
                       qualified := (s.timeSrc c).qualified || decide (need ≤ good) } := by
  have hq (a b : Bool) : (a || (b && !a)) = (a || b) := by cases a <;> cases b <;> rfl
  unfold State.timeGood
  extract_lets x q u _ v
  have hu : u.srcCount c = { x with
      good := good, lastErr := err, adj := 0, lastAt := s.et, refused := false, qualAt := if q then s.et else x.qualAt
      qualified := x.qualified || decide (need ≤ good) } := by
    simp only [State.srcCount, u, q, State.setTimeSrc_timeSrc, hq]
  have hv : v.srcCount c = u.srcCount c := by
    change (if _ then _ else _ : State).srcCount c = _
    split <;> rfl
  refine ⟨if q then s.et else x.qualAt, Eq.trans ?_ hu⟩
  split
  · rw [State.reselect_srcCount, State.raise_srcCount, hv]
  · rfl

/-- What a reference of source `c` leaves in its record, whatever it makes of the selection. -/
theorem State.reference_fields {s u t : State} {c good need was : Nat} {err : Int} {freq : Option Int}
    (ht : (u.timeGood c good need err).timeRef c err freq was = t) (het : u.et = s.et)
    (hqual : (u.timeSrc c).qualified = (s.timeSrc c).qualified) :
    (t.timeSrc c).good = good ∧ (t.timeSrc c).lastErr = err ∧ (t.timeSrc c).lastAt = s.et ∧
      (t.timeSrc c).qualified = ((s.timeSrc c).qualified || decide (need ≤ good)) := by
  obtain ⟨a, h⟩ := u.timeGood_srcCount c good need err
  rw [het, hqual] at h
  rw [← ht]
  exact State.srcCount_fields ((State.timeRef_srcCount _ _ _ _ _ _).trans h)

theorem State.gptpSync_good (s : State) {c : Nat} (gm : Nat) {err rate : Int} (hc : c ≤ 1)
    (hen : srcEnabled s.time.cfg c = true) (hrate : rate.natAbs ≤ 50000) (hgood : (s.timeSrc c).good ≠ 0)
    (hrun : (err - (s.timeSrc c).lastErr).natAbs ≤ 1000) :
    ((s.gptpSync c err rate gm).timeSrc c).good = (s.timeSrc c).good + 1 ∧
    ((s.gptpSync c err rate gm).timeSrc c).lastErr = err ∧ ((s.gptpSync c err rate gm).timeSrc c).lastAt = s.et ∧
    ((s.gptpSync c err rate gm).timeSrc c).qualified =
      ((s.timeSrc c).qualified || decide (4 ≤ (s.timeSrc c).good + 1)) := by
  unfold State.gptpSync
  rw [if_neg (by simp [hen]; omega)]
  extract_lets x was rateOk run good u _ v
  have hcount : good = x.good + 1 := by simp [good, rateOk, run, x, hrate, hgood, hrun]
  have hu : u.et = s.et ∧ (u.timeSrc c).qualified = x.qualified := by
    change (if _ then _ else _ : State).et = _ ∧ (State.timeSrc (if _ then _ else _ : State) c).qualified = _
    split
    · rw [State.raise_et, State.raise_timeSrc, State.setTimeSrc_timeSrc]
      exact ⟨rfl, rfl⟩
    · exact ⟨rfl, rfl⟩
  have hv : v.et = u.et ∧ (v.timeSrc c).qualified = (u.timeSrc c).qualified := by
    change (if _ then _ else _ : State).et = _ ∧ (State.timeSrc (if _ then _ else _ : State) c).qualified = _
    split <;> exact ⟨rfl, rfl⟩
  rw [hcount]
  exact State.reference_fields rfl (hv.1.trans hu.1) (hv.2.trans hu.2)

theorem State.ppsEdge_good (s : State) (err : Int) {spacing width : Nat} (hen : srcEnabled s.time.cfg 3 = true)
    (hwidth : 1000 ≤ width) (hgood : (s.timeSrc 3).good ≠ 0) (hlo : 999990000 ≤ spacing) (hhi : spacing ≤ 1000010000) :
    ((s.ppsEdge err spacing width).timeSrc 3).good = (s.timeSrc 3).good + 1 ∧
    ((s.ppsEdge err spacing width).timeSrc 3).lastErr = ambig 1000000000 err ∧
    ((s.ppsEdge err spacing width).timeSrc 3).qualified =
      ((s.timeSrc 3).qualified || decide (3 ≤ (s.timeSrc 3).good + 1)) := by
  unfold State.ppsEdge
  rw [if_neg (by simp [hen])]
  extract_lets e x was run good freq _ u
  have hcount : good = x.good + 1 := by simp [good, run, x, hgood, hlo, hhi, Nat.not_lt.mpr hwidth]
  have hu : u.et = s.et ∧ (u.timeSrc 3).qualified = x.qualified := by
    change (if _ then _ else _ : State).et = _ ∧ (State.timeSrc (if _ then _ else _ : State) 3).qualified = _
    split <;> exact ⟨rfl, rfl⟩
  rw [hcount]
  generalize ht : (u.timeGood 3 (x.good + 1) 3 e).timeRef 3 e freq was = t
  obtain ⟨hcounted, herr, -, hqual⟩ := State.reference_fields ht hu.1 hu.2
  exact ⟨hcounted, herr, hqual⟩

/-! ### Selection (R74) -/

theorem State.pickSource_none {s : State} (h : ∀ c, s.candidate c = false) (l : List Nat) : s.pickSource l = (s, none) := by
  induction l with
  | nil => rfl
  | cons c l ih =>
    unfold State.pickSource
    rw [if_pos (by simp [h c]), ih]

/-- The first candidate of the list is picked where its selection needs no refused realignment. -/
theorem State.pickSource_first {s : State} {c : Nat} (href : s.refusable (s.timeSrc c).err = false) {l : List Nat}
    (h : l.find? s.candidate = some c) : s.pickSource l = (s, some c) := by
  induction l with
  | nil => cases h
  | cons m l ih =>
    unfold State.pickSource
    by_cases hm : s.candidate m = true
    · rw [List.find?_cons_of_pos hm] at h
      cases h
      rw [if_neg (by simp [hm]), if_neg (by simp [href])]
    · rw [List.find?_cons_of_neg hm] at h
      rw [if_pos (by simpa using hm), ih h]

theorem State.reselect_falls {s : State} (h : ∀ c, s.candidate c = false) (hsrc : s.time.source ≠ 4) :
    s.reselect = s.timeFall s.time.source := by
  unfold State.reselect
  rw [State.pickSource_none h]
  exact if_neg (by simpa using hsrc)

/-- At the end of its hold-off the best source is selected. -/
theorem State.reselect_source {s : State} {c : Nat} (hbest : s.byRank.find? s.candidate = some c) (hne : s.time.source ≠ c)
    (href : s.refusable (s.timeSrc c).err = false)
    (hdue : (s.timeSrc c).qualAt + s.time.cfg.revertMs * 1000000 ≤ s.et) : s.reselect.time.source = c := by
  unfold State.reselect
  rw [State.pickSource_first href hbest]
  dsimp only
  rw [if_neg (by simp [nsMs, Ne.symm hne, Nat.not_lt.mpr hdue]), (State.followErr_sources _ _).1]
  exact (s.setSource_sources c).1

/-! ### Losses (R73, R78, R79) -/

/-- The state in which a lost source is deselected: nothing counted, not qualified. -/
def State.unqualified (s : State) (c : Nat) : State :=
  s.setTimeSrc c { s.timeSrc c with good := 0, qualified := false, refused := false }

theorem State.timeLost_qualified {s : State} {c : Nat} (h : (s.timeSrc c).qualified = true) :
    s.timeLost c = ((s.unqualified c).raise [0] (timeSrcId c) 2 c).reselect := if_pos h

theorem State.timeLost_record (s : State) (c : Nat) :
    ((s.timeLost c).timeSrc c).good = 0 ∧ ((s.timeLost c).timeSrc c).qualified = false := by
  have h : (s.timeLost c).srcCount c = (s.unqualified c).srcCount c := by
    by_cases hq : (s.timeSrc c).qualified = true
    · rw [State.timeLost_qualified hq, State.reselect_srcCount, State.raise_srcCount]
    · exact congrArg (State.srcCount · c) (if_neg hq)
  obtain ⟨hgood, -, -, hqual⟩ := State.srcCount_fields h
  rw [hgood, hqual]
  unfold State.srcCount State.unqualified
  rw [State.setTimeSrc_timeSrc]
  exact ⟨rfl, rfl⟩

/-- In LOCKED a device that is no grandmaster falls back to the TCXO in holdover. -/
theorem State.timeFall_holdover {s : State} (lost : Nat) (hst : s.time.ztState = 2) (hgm : s.time.gm = false) :
    (s.timeFall lost).time.source = 4 ∧ (s.timeFall lost).time.ztState = 3 ∧
    (s.timeFall lost).time.holdoverStart = some s.et := by
  obtain ⟨hset, -, hsetGm, het⟩ := s.setSource_sources 4
  unfold State.timeFall
  extract_lets st u rate u1 _ u2 u3
  obtain ⟨hsrc, -, hu1⟩ := u.setRate_sources rate
  obtain ⟨hholdSrc, -, hholdSt, hhold⟩ := u1.holdFrom_sources rate
  rw [if_neg (by simp [u, hsetGm, hgm]), if_pos (by simp [st, hst])]
  change ((u1.holdFrom rate).raise [0] 0x008 4 lost).time.source = 4 ∧
    ((u1.holdFrom rate).raise [0] 0x008 4 lost).time.ztState = 3 ∧
    ((u1.holdFrom rate).raise [0] 0x008 4 lost).time.holdoverStart = some s.et
  rw [State.raise_time]
  exact ⟨hholdSrc.trans (hsrc.trans hset), hholdSt, hhold.trans (congrArg some (hu1.trans het))⟩

theorem State.unqualified_candidate {s : State} {c : Nat} (h : ∀ d, d ≠ c → s.candidate d = false) (d : Nat) :
    ((s.unqualified c).raise [0] (timeSrcId c) 2 c).candidate d = false := by
  unfold State.candidate
  rw [State.raise_timeSrc, State.raise_time]
  unfold State.unqualified
  by_cases hd : d = c
  · rw [hd, State.setTimeSrc_timeSrc]
    simp
  · rw [State.setTimeSrc_timeSrc_ne _ _ _ _ hd]
    exact h d hd

/-- The locked source is lost and no other is a candidate: holdover begins. -/
theorem State.timeLost_holdover {s : State} {c : Nat} (hc : c ≠ 4) (hsrc : s.time.source = c)
    (hqual : (s.timeSrc c).qualified = true) (hst : s.time.ztState = 2) (hgm : s.time.gm = false)
    (h : ∀ d, d ≠ c → s.candidate d = false) : (s.timeLost c).time.source = 4 ∧ (s.timeLost c).time.ztState = 3 ∧
      (s.timeLost c).time.holdoverStart = some s.et := by
  rw [State.timeLost_qualified hqual]
  have htime : ((s.unqualified c).raise [0] (timeSrcId c) 2 c).time = (s.unqualified c).time := State.raise_time _ _ _ _ _
  have het : ((s.unqualified c).raise [0] (timeSrcId c) 2 c).et = s.et := State.raise_et _ _ _ _ _
  generalize hu : (s.unqualified c).raise [0] (timeSrcId c) 2 c = u at htime het
  have hnone : ∀ d, u.candidate d = false := hu ▸ State.unqualified_candidate h
  have husrc : u.time.source = c := by rw [htime]; exact hsrc
  rw [State.reselect_falls hnone (by rw [husrc]; exact hc), ← het]
  exact State.timeFall_holdover _ (by rw [htime]; exact hst) (by rw [htime]; exact hgm)

/-- The domain is lost, whether or not the device becomes its grandmaster (R81); with priority1 255 it cannot. -/
theorem State.syncTimeout_loses {s : State} {c : Nat} (hc : c ≤ 1) (hen : srcEnabled s.time.cfg c = true) :
    (∃ u : State, (s.syncTimeout c).time.srcs = (u.timeLost c).time.srcs) ∧
    (s.time.cfg.priority1 = 255 → s.syncTimeout c = s.timeLost c) := by
  unfold State.syncTimeout
  rw [if_neg (by simp [hen]; omega)]
  extract_lets capable _ u v
  refine ⟨⟨u, ?_⟩, fun hp => ?_⟩
  · split
    · simp [State.enterLocked, State.setRate, v]
    · rfl
  · have hcap : capable = false := by simp [capable, hp]
    have hu : u = s := if_neg (by simp [hcap])
    rw [if_neg (by simp [hcap])]
    change u.timeLost c = _
    rw [hu]

theorem State.syncTimeout_record {s : State} {c : Nat} (hc : c ≤ 1) (hen : srcEnabled s.time.cfg c = true) :
    ((s.syncTimeout c).timeSrc c).good = 0 ∧ ((s.syncTimeout c).timeSrc c).qualified = false := by
  obtain ⟨⟨u, hu⟩, -⟩ := State.syncTimeout_loses hc hen
  unfold State.timeSrc
  rw [hu]
  exact u.timeLost_record c

theorem State.ppsTimeout_due {s : State} (h : (s.timeSrc 3).good ≠ 0 ∨ (s.timeSrc 3).qualified = true)
    (hdue : (s.timeSrc 3).lastAt + 1100000000 ≤ s.et) : s.ppsTimeout = s.timeLost 3 := by
  unfold State.ppsTimeout
  refine if_neg ?_
  have hearly : ¬ s.et < (s.timeSrc 3).lastAt + 1100 * nsMs := Nat.not_lt.mpr hdue
  rcases h with h | h <;> simp [h, hearly]

end Sys2Proof.Machine

open Sys2Proof Sys2Proof.Machine

/-- Settles O40: a reference counts in its source's record whatever selection follows, a loss clears the record and leaves the
first candidate or holdover, and the end of a hold-off selects the first candidate. -/
theorem timeSources : Obligations.TimeSources := by
  intro s hpow
  refine ⟨fun c gm err rate hc hen hrate hgood hrun => ⟨_, rfl, ?_⟩,
    fun err spacing width hen hwidth hgood hlo hhi => ⟨_, rfl, ?_⟩, fun c hc hen => ⟨_, rfl, ?_⟩, fun h hdue => ⟨_, rfl, ?_⟩,
    fun c hbest hne href hdue => ⟨_, rfl, ?_⟩⟩
  · rw [hpow]
    exact s.gptpSync_good gm hc hen hrate hgood hrun
  · rw [hpow]
    exact s.ppsEdge_good err hen hwidth hgood hlo hhi
  · rw [hpow]
    obtain ⟨hgood, hqual⟩ := State.syncTimeout_record hc hen
    refine ⟨hgood, hqual, fun hsrc hq hst hgm hp hnone => ?_⟩
    have htime := State.timeLost_holdover (by omega) hsrc hq hst hgm hnone
    rwa [← (State.syncTimeout_loses hc hen).2 hp] at htime
  · rw [hpow]
    change ((s.ppsTimeout.timeSrc 3).good = 0 ∧ _)
    rw [State.ppsTimeout_due h hdue]
    exact s.timeLost_record 3
  · rw [hpow, List.find?_some hbest]
    exact State.reselect_source hbest hne href hdue

end

