-- ==== Sys2Proof/Proofs/TimeRows.lean ====
section
/-!
PROOFS. The clocks in an idle cycle, the bytes of an event record, and the rows that the passing of time brings about
(R70, R72, R78 to R80, R84, R89, R90).
-/

namespace Sys2Proof.Machine

/-! ### One cycle of the time PLL (R70, R72) -/

/-- A cycle advances ET by 0, 2 or 4 ns, and no part of the correction is lost. -/
theorem cycleStep_spec (acc rate : Int) : ((cycleStep acc rate).1 = 0 ∨ (cycleStep acc rate).1 = 2 ∨ (cycleStep acc rate).1 = 4) ∧
    ((cycleStep acc rate).1 : Int) * 1000000000 + (cycleStep acc rate).2 = acc + 2000000000 + 2 * rate := by
  unfold cycleStep
  dsimp only
  split
  · exact ⟨.inr (.inr rfl), by omega⟩
  · split
    · exact ⟨.inl rfl, by omega⟩
    · exact ⟨.inr (.inl rfl), by omega⟩

/-- What an idle cycle leaves alone. -/
def State.idleView (s : State) : List Instr × Dev × List Host.Cell × Cmd × List Raised := (s.pending, s.dev, s.mem, s.cmd, s.evq)

theorem State.clock_idleView (s : State) : s.clock.idleView = s.idleView := by
  unfold State.clock
  dsimp only
  split <;> split <;> rfl

theorem State.clock_on (s : State) (h : s.powered = true) :
    s.clock.et = s.et + (cycleStep s.time.rateAcc s.time.rateAdj).1 ∧
    s.clock.time.rateAcc = (cycleStep s.time.rateAcc s.time.rateAdj).2 := by
  unfold State.clock
  dsimp only
  rw [if_pos h]
  split <;> exact ⟨rfl, rfl⟩

theorem State.clock_off (s : State) (h : s.powered = false) : s.clock.et = s.et := by
  have hunpowered : ¬ s.powered = true := by simp [h]
  unfold State.clock
  dsimp only
  rw [if_neg hunpowered]
  split <;> rfl

theorem State.clock_rtc (s : State) : s.clock.rtcNs = if s.dev.state = .off then s.rtcNs else s.rtcNs + 2 := by
  unfold State.clock
  dsimp only
  by_cases hon : s.powered = true <;> by_cases hoff : s.dev.state = .off <;> simp [hon, hoff]

/-- The end of a slew changes the rate from now on, not what this cycle has counted. -/
theorem State.slewDone_keeps (s : State) : s.slewDone.idleView = s.idleView ∧ s.slewDone.et = s.et ∧
    s.slewDone.rtcNs = s.rtcNs ∧ s.slewDone.time.rateAcc = s.time.rateAcc := by
  unfold State.slewDone
  split <;> exact ⟨rfl, rfl, rfl, rfl⟩

theorem State.release_none {s : State} (h : s.cmd.held = []) : s.release = s := by
  unfold State.release
  rw [h]
  rfl

theorem State.tick_idle {s : State} (h : s.cmd.held = []) : s.tick = s.clock.slewDone := by
  unfold State.tick
  rw [State.release_none h]
  cases s.intakeOpen <;> rfl

theorem step_idle {s : State} (h : s.pending = []) : step s = .next s.tick := by
  unfold step
  rw [h]

/-! ### The bytes of an event record (R84) -/

@[simp] theorem EventRec.length_bytes (e : EventRec) : e.bytes.length = 16 := by
  simp only [EventRec.bytes, List.length_append, length_leBytes]

/-- A field of a record, read where the fields before it end. -/
theorem EventRec.fields (e : EventRec) : u64 e.bytes 0 = e.et % 256 ^ 8 ∧ u16 e.bytes 8 = e.src % 1024 % 256 ^ 2 ∧
    u16 e.bytes 10 = e.kind % 256 ^ 2 ∧ u32 e.bytes 12 = e.data % 256 ^ 4 := by
  simp [EventRec.bytes, u16, u32, u64, rd_behind, rd_first, rd_only]

/-! ### Holdover, waiting and the RTC (R72, R78, R79) -/

theorem State.holdoverExpire_state {s : State} {a : Nat} (h : s.time.holdoverStart = some a)
    (hdue : a + s.time.cfg.holdoverMs * 1000000 ≤ s.et) :
    s.holdoverExpire.time.ztState = (if s.time.ztState = 3 then 4 else s.time.ztState) ∧
    s.holdoverExpire.time.before = (if s.time.before = 3 then 4 else s.time.before) := by
  have hearly : ¬ s.et < a + s.time.cfg.holdoverMs * nsMs := Nat.not_lt.mpr hdue
  unfold State.holdoverExpire
  rw [h]
  dsimp only
  rw [if_neg hearly, State.causeTime_time]
  simp only [State.raise_time, beq_iff_eq, and_self]

@[simp] theorem State.causeTime_set (s : State) : s.causeTime.dev.causeTime = true := by
  unfold State.causeTime
  rw [State.degrade_causeTime]

theorem State.waitTimeout_due {s : State} {a : Nat} (h : s.time.waitSince = some a) (hdue : a + 20000000000 ≤ s.et)
    (hst : s.time.ztState = 0) : s.waitTimeout.time.ztState = 4 ∧ s.waitTimeout.time.rateAdj = 0 ∧
      s.waitTimeout.time.waitSince = none ∧ s.waitTimeout.dev.causeTime = true := by
  have hearly : ¬ s.et < a + 20 * nsS := Nat.not_lt.mpr hdue
  unfold State.waitTimeout
  rw [h]
  dsimp only
  rw [if_neg hearly, if_pos (by simp [hst]), State.causeTime_time, State.causeTime_set]
  exact ⟨rfl, rfl, rfl, rfl⟩

theorem State.rtcWrite_locked {s : State} (hst : s.time.ztState = 2) (hsrc : s.time.source ≠ 4) :
    s.rtcWrite.rtcNs = ((s.et + s.time.ztOffset) / 1000000000).toNat * 1000000000 := by
  unfold State.rtcWrite
  rw [if_pos (by simp [hst, hsrc])]
  rfl

theorem State.rtcWrite_unlocked {s : State} (h : s.time.ztState ≠ 2 ∨ s.time.source = 4) : s.rtcWrite = s := by
  unfold State.rtcWrite
  rw [if_neg (by rcases h with h | h <;> simp [h])]

/-! ### Edges of a pulse generator (R89, R90) -/

theorem State.pgIdle_pg (s : State) (n kind : Nat) : (s.pgIdle n kind).pg n =
    { s.pg n with st := 0, active := false, stopping := false, next := 0 } := by
  unfold State.pgIdle
  rw [State.raise_pg, State.setPg_pg]

theorem exec_pgEdge {s : State} {n : Nat} (hpow : s.powered = true) (hn : n < 16) :
    exec (.pgEdge n) s = .next (s.pgEdge n) := by
  change Host.Outcome.next (onlyIf (s.powered && n < 16) s (s.pgEdge n)) = _
  rw [hpow, decide_eq_true hn]
  rfl

section
variable {s : State} {n : Nat} (hst : (s.pg n).st ≠ 0) (hdue : (s.pg n).next ≤ s.et)
include hst hdue

theorem State.pgEdge_rise (ha : (s.pg n).active = false) : (s.pgEdge n).pg n =
    { s.pg n with st := 2, active := true, next := (s.pg n).next + (s.pg n).width } := by
  unfold State.pgEdge
  rw [if_neg (by simp [hst, hdue]), if_pos (by simp [ha]), State.setPg_pg]

/-- The end of a pulse: counted, and the next one follows a period after its start unless the generator goes idle. -/
theorem State.pgEdge_fall (ha : (s.pg n).active = true) : (s.pgEdge n).pg n =
    if (s.pg n).stopping = true ∨ (s.pg n).mode = 0 ∨ (s.pg n).pulses + 1 = (s.pg n).count then
      { s.pg n with st := 0, active := false, stopping := false, next := 0, pulses := ((s.pg n).pulses + 1) % 2 ^ 32 }
    else { s.pg n with active := false, pulses := ((s.pg n).pulses + 1) % 2 ^ 32,
                       next := (s.pg n).next - (s.pg n).width + (s.pg n).period } := by
  unfold State.pgEdge
  rw [if_neg (by simp [hst, hdue]), if_neg (by simp [ha])]
  dsimp only
  by_cases hstop : (s.pg n).stopping = true
  · rw [if_pos hstop, if_pos (.inl hstop), State.pgIdle_pg, State.setPg_pg]
  · rw [if_neg hstop]
    by_cases hlast : (s.pg n).mode = 0 ∨ (s.pg n).pulses + 1 = (s.pg n).count
    · rw [if_pos (by simpa using hlast), if_pos (.inr hlast), State.pgIdle_pg, State.setPg_pg]
    · rw [if_neg (by simpa using hlast), if_neg (not_or.mpr ⟨hstop, hlast⟩), State.setPg_pg]

end

/-! ### Sync on a master port (R80) -/

theorem State.syncTransmit_master {s : State} {p : Nat} (hp : p < 12) (hmask : s.time.cfg.portMask.testBit p = true)
    (hrole : s.time.cfg.roles.getD p 0 = 1) (hup : s.portUp p = true)
    (htime : (s.timeSrc 0).qualified = true ∨ s.time.gm = true) :
    (s.syncTransmit p).time.syncSent.val 0 p = s.time.syncSent.val 0 p + 1 := by
  unfold State.syncTransmit
  dsimp only
  rw [hrole, if_pos (by rcases htime with h | h <;> simp [h, hp, hmask, hup])]
  exact Tab.val_put_same _ _ _ _

end Sys2Proof.Machine

open Sys2Proof Sys2Proof.Machine

/-- Settles O2: with nothing held an idle cycle is the clocks' advance and the end of a slew. -/
theorem idleCycleAdvancesClocks : Obligations.IdleCycleAdvancesClocks := by
  intro s hpend hheld
  obtain ⟨hview, het, hrtc, hacc⟩ := s.clock.slewDone_keeps
  obtain ⟨hpending, hdev, hmem, hcmd, hevq⟩ : s.clock.slewDone.pending = s.pending ∧ s.clock.slewDone.dev = s.dev ∧
      s.clock.slewDone.mem = s.mem ∧ s.clock.slewDone.cmd = s.cmd ∧ s.clock.slewDone.evq = s.evq := by
    simpa [State.idleView] using hview.trans s.clock_idleView
  refine ⟨s.clock.slewDone, by rw [step_idle hpend, State.tick_idle hheld], hpending.trans hpend, hdev, hmem, hcmd, hevq,
    fun hon => ?_, fun hoff => het.trans (s.clock_off hoff), hrtc.trans s.clock_rtc⟩
  obtain ⟨hetOn, haccOn⟩ := s.clock_on hon
  obtain ⟨hsize, hsum⟩ := cycleStep_spec s.time.rateAcc s.time.rateAdj
  exact ⟨_, hsize, het.trans hetOn, by rw [hacc, haccOn, hsum]⟩

/-- Settles O10: each field is read where the fields before it end. -/
theorem eventRecordRoundTrip : Obligations.EventRecordRoundTrip := by
  intro e het hsrc hkind hdata
  obtain ⟨h0, h8, h10, h12⟩ := e.fields
  have het' : u64 e.bytes 0 = e.et := h0.trans (Nat.mod_eq_of_lt het)
  have hsrc' : u16 e.bytes 8 = e.src := by rw [h8, Nat.mod_eq_of_lt hsrc, Nat.mod_eq_of_lt (by omega)]
  have hkind' : u16 e.bytes 10 = e.kind := h10.trans (Nat.mod_eq_of_lt hkind)
  have hdata' : u32 e.bytes 12 = e.data := h12.trans (Nat.mod_eq_of_lt hdata)
  refine ⟨e.length_bytes, ?_, het', hsrc', hkind', hdata'⟩
  change EventRec.mk (u64 e.bytes 0) (u16 e.bytes 8 % 1024) (u16 e.bytes 10) (u32 e.bytes 12) = e
  rw [het', hsrc', hkind', hdata', Nat.mod_eq_of_lt hsrc]

/-- Settles O41: each row by the rule of its operation. -/
theorem timeRows : Obligations.TimeRows := by
  intro s hpow
  refine ⟨fun a ha hdue => ⟨_, rfl, ?_⟩, fun a ha hdue hst => ⟨_, rfl, ?_⟩, fun hst hsrc => ⟨_, rfl, ?_⟩, fun h => ?_,
    fun n hn hst hdue => ⟨fun hlow => ⟨_, exec_pgEdge hpow hn, ?_⟩, fun hhigh => ⟨_, exec_pgEdge hpow hn, ?_⟩⟩,
    fun p hact hp hmask hrole hup htime => ⟨_, rfl, ?_⟩⟩
  · rw [hpow]
    obtain ⟨hnone, hcause⟩ := s.holdoverExpire_due ha rfl hdue
    obtain ⟨hst, hbefore⟩ := State.holdoverExpire_state ha hdue
    exact ⟨hnone, hst, hbefore, hcause⟩
  · rw [hpow]
    exact State.waitTimeout_due ha hdue hst
  · rw [hpow]
    exact State.rtcWrite_locked hst hsrc
  · change Host.Outcome.next (onlyIf s.powered s s.rtcWrite) = _
    rw [hpow, State.rtcWrite_unlocked h]
    rfl
  · rw [State.pgEdge_rise hst hdue hlow]
    exact ⟨rfl, rfl, rfl⟩
  · rw [State.pgEdge_fall hst hdue hhigh]
    split
    · rename_i hidle
      exact ⟨rfl, rfl, fun _ => rfl, fun hmode hstop hcount => absurd hidle (by simp [hmode, hstop, hcount])⟩
    · rename_i hgoes
      exact ⟨rfl, rfl, fun hidle => absurd (or_left_comm.mp hidle) hgoes, fun _ _ _ => ⟨rfl, rfl⟩⟩
  · rw [hact]
    exact State.syncTransmit_master hp hmask hrole hup htime

end

