-- ==== Sys2Proof/Proofs/StrokeRows.lean ====
section
/-!
PROOFS. The bytes of a stroke (R101), the rows of strokes that are dispatched in time (R102 to R107), and the commands that an
OPEN stroke executes (R49, R116).
-/

namespace Sys2Proof.Machine

/-! ### The bytes of a stroke (R101) -/

/-- Word 0 of a stroke. -/
def strokeWord (h : StrokeHd) (st : Stroke) : Nat := pack [(0, 27, h.phase), (27, 3, st.lane), (30, 2, h.ovr)]

/-- Word 0 packs phase, lane and overrun class side by side, and each comes back from its bits. -/
theorem strokeWord_fields {h : StrokeHd} {st : Stroke} (hphase : h.phase < 2 ^ 27) (hlane : st.lane < 8) (hovr : h.ovr < 4) :
    strokeWord h st < 256 ^ 4 ∧ strokeWord h st % 2 ^ 27 = h.phase ∧ bits (strokeWord h st) 27 3 = st.lane ∧
      bits (strokeWord h st) 30 2 = h.ovr := by
  have hword : strokeWord h st = h.phase + 2 ^ 27 * st.lane + 2 ^ 30 * h.ovr := by
    simp only [strokeWord, pack]
    omega
  simp only [bits]
  omega

/-- A field of a stroke, read where the fields before it end. -/
theorem strokeBytes_fields (h : StrokeHd) (st : Stroke) : u32 (strokeBytes h st) 0 = strokeWord h st % 256 ^ 4 ∧
    u8 (strokeBytes h st) 4 = st.kind % 256 ^ 1 ∧ u8 (strokeBytes h st) 5 = b2n h.trace % 256 ^ 1 ∧
    u16 (strokeBytes h st) 6 = st.res % 256 ^ 2 ∧ (strokeBytes h st).drop 8 = fit 8 st.arg := by
  simp [strokeBytes, strokeWord, u8, u16, u32, rd_behind, rd_first, drop_behind]

theorem fit_eight {bs : List Byte} (h : bs.length = 8) : fit 8 bs = bs := h ▸ fit_length bs

theorem length_strokeBytes {h : StrokeHd} {st : Stroke} (harg : st.arg.length = 8) : (strokeBytes h st).length = 16 := by
  simp [strokeBytes, fit_eight harg, harg]

/-! ### Rows of strokes in time (R102, R104, R105) -/

/-- The row of a stroke other than ROUTE dispatches that stroke with the effect of its kind; OPEN does with a count of 1 to 8. -/
theorem exec_strokeRow {i : Instr} {h : StrokeHd} {st : Stroke} {act : State → State} (s : State)
    (hi : i.strokeRow = some (h, st)) (ha : i.strokeAct = some act)
    (hopen : ∀ h' cls count, i = .openStroke h' cls count → 1 ≤ count ∧ count ≤ 8) :
    st.kind ≠ 0x01 ∧ exec i s = .next (s.strokeDo h st fun _ => act) := by
  cases i with
  | openStroke h' cls count =>
    obtain ⟨hpos, hmax⟩ := hopen h' cls count rfl
    cases hi
    cases ha
    refine ⟨by simp, congrArg Host.Outcome.next (if_neg ?_)⟩
    simp [Nat.ne_of_gt hpos, Nat.not_lt.mpr hmax]
  | inputLatch | loadSet | loadApply | bridgeSet | bridgeApply | xoSet | pgTrigger | gateSet | canRelease | fryCommit
  | linRelease | window | pfRoute | pfStroke =>
    cases hi
    cases ha
    exact ⟨by simp, rfl⟩
  | _ => cases ha

/-! ### Open strokes (R49, R116) -/

theorem State.openOne_empty {u : State} {cls : Nat} (h : u.queueOf cls = []) : u.openOne cls = u := by
  unfold State.openOne
  rw [h]

theorem State.openRun_empty {u : State} {cls : Nat} (h : u.queueOf cls = []) (n : Nat) : State.openRun cls n u = u := by
  induction n with
  | zero => rfl
  | succ n ih => rw [State.openRun, State.openOne_empty h, ih]

section
variable {u : State} {cls : Nat} {q : Queued} {rest : List Queued} {o : OpSpec} (hq : u.queueOf cls = q :: rest)
  (ho : specOf q.code = some o)
include hq ho

/-- The head of a queue leaves it, and runs where its checks still pass. -/
theorem State.openOne_head : u.openOne cls =
    if (u.setQueue cls rest).recheck o q.pk = stOk then (u.setQueue cls rest).runNow o q.pk
    else (u.setQueue cls rest).finalReply o.code q.pk ((u.setQueue cls rest).recheck o q.pk) [] := by
  unfold State.openOne
  rw [hq]
  dsimp only
  rw [ho]
  simp only [beq_iff_eq]

end

theorem State.finalReply_queueOf (s : State) (code : Nat) (pk : Packet) (c : Nat) (r : List Byte) (cls : Nat) :
    (s.finalReply code pk c r).queueOf cls = s.queueOf cls := by
  unfold State.queueOf
  rw [(finalReply_rest s code pk c r).1]

end Sys2Proof.Machine

open Sys2Proof Sys2Proof.Machine

/-- Settles O9: each field is read where the fields before it end, and word 0 holds three of them side by side. -/
theorem strokeBytesRoundTrip : Obligations.StrokeBytesRoundTrip := by
  intro h st hhd hst
  simp only [StrokeHd.wf, Stroke.wf, Bool.and_eq_true, decide_eq_true_eq, beq_iff_eq] at hhd hst
  obtain ⟨hphase, hovr⟩ := hhd
  obtain ⟨⟨⟨hkind, hlane⟩, hres⟩, harg⟩ := hst
  obtain ⟨hlt, h0, h27, h30⟩ := strokeWord_fields hphase hlane hovr
  obtain ⟨r0, r4, r5, r6, r8⟩ := strokeBytes_fields h st
  rw [Nat.mod_eq_of_lt hlt] at r0
  rw [fit_eight harg] at r8
  have hkind4 := r4.trans (Nat.mod_eq_of_lt hkind)
  have hres6 := r6.trans (Nat.mod_eq_of_lt hres)
  have htrace : u8 (strokeBytes h st) 5 = if h.trace then 1 else 0 := by
    rw [r5]
    cases h.trace <;> rfl
  refine ⟨length_strokeBytes harg, ?_, r0 ▸ h0, r0 ▸ h27, r0 ▸ h30, hkind4, htrace, hres6, r8⟩
  have hbit : (u8 (strokeBytes h st) 5).testBit 0 = h.trace := by
    rw [htrace]
    cases h.trace <;> rfl
  simp only [strokeOf, r0, h0, h27, h30, hkind4, hres6, r8, hbit]
  rw [List.take_of_length_le (Nat.le_of_eq harg)]

/-- Settles O29: the row dispatches its stroke, which in time reaches its executor. -/
theorem strokesDispatchedInTime : Obligations.StrokesDispatchedInTime := by
  refine ⟨fun i h st act s hi ha htime hcount hbound => ?_, fun h pipe first count s htime => ?_, fun s h st => ?_⟩
  · have hopen : ∀ h' cls count, i = .openStroke h' cls count → 1 ≤ count ∧ count ≤ 8 := by
      rintro h' cls count rfl
      cases hi
      have hread : u32 (leBytes 4 count) 0 = count := (rd_only 4 count).trans (Nat.mod_eq_of_lt (hbound _ _ _ rfl))
      exact hread ▸ hcount rfl
    obtain ⟨hkind, hexec⟩ := exec_strokeRow s hi ha hopen
    rw [hexec, s.strokeDo_onTime h st _ htime, if_neg (by simpa using hkind)]
    simp only [Bool.and_eq_true, beq_iff_eq, bne_iff_ne, and_assoc]
  · exact congrArg Host.Outcome.next ((s.strokeDo_onTime h _ _ htime).trans (if_pos rfl))
  · obtain ⟨e, hst, -, hidx, hphase, -, -, -, hlast, -⟩ := s.dispatched_eq h st
    exact ⟨e, hst, hidx, hphase, hlast⟩

/-- Settles O30: the head of the queue leaves it, meets its checks again, and runs to its final reply. -/
theorem openStrokeRunsHead : Obligations.OpenStrokeRunsHead := by
  intro u cls
  refine ⟨rfl, fun n => rfl, State.openRun_empty, fun q rest o hq ho => ⟨fun hok => ?_, fun hbad => ?_⟩⟩
  · rw [State.openOne_head hq ho, if_pos hok]
    rfl
  · rw [State.openOne_head hq ho, if_neg hbad]
    refine ⟨finalReply_answered _ _ _ _ _ (.inr hbad), ?_⟩
    rw [State.finalReply_queueOf, State.setQueue_queueOf]

end

