-- ==== Sys2Proof/Proofs/OutputRows.lean ====
section
/-!
PROOFS. The frame of the rows of doorbells, time sources, load protection, feeds, inputs and outputs, and the fault collector.
-/

namespace Sys2Proof.Machine

/-- Each row of the class is an operation that leaves the view `State.kOut` alone. -/
theorem exec_outRow {i : Instr} (s : State) (h : i.outRow = true) : ∃ t, exec i s = .next t ∧ t.kOut = s.kOut := by
  cases i with
  | dbProducer | irqAck | viConsume | viOvfAck | lowWordRead
  | gptpSyncReceived | ppsEdge | syncReceiptTimeout | ppsTimeout | revertHoldoffExpiry | holdoverExpired | timeWaitTimeout | pgEdge
  | syncTransmit
  | ocTrip | ocPauseElapsed | ocRetry | ocRecovered | pourStepEnd | thermalShutdown | thermalRestart | cooldownOverrun
  | pwmPeriodStart | senseMillisecond | openLoad | openLoadCleared | stall | xcondFault | shedResume
  | sagEnter | sagExit | crankStart | crankEnd | uvLatch | overvoltage | overvoltageEnd | overload | overloadClass2Shed
  | overloadEnd | thermalModelEval | deratingStepFall | deratingStep3Entry
  | diEdge | diFeedLow | diSamplingResume | wireBreak | wireOk | barrierLost | barrierRestored | xoFault | xoRetry | xvsLost
  | xvsReturn | fieldHoldExpiry
  | pairHalted | pairResumed | secureInterrupt | bridgeRetry | patrolScrub | poisonRead | faultReport | logFlush =>
    exact ⟨_, rfl, by simp⟩
  | _ => cases h

end Sys2Proof.Machine

open Sys2Proof Sys2Proof.Machine

/-- Settles O22: the view that these rows leave alone, field by field. -/
theorem outputEventsFrame : Obligations.OutputEventsFrame := by
  intro i s h
  obtain ⟨t, hexec, hview⟩ := exec_outRow s h
  obtain ⟨hpending, het, hrtc, hfree, hmem, hrest⟩ := State.kOut_ext hview
  exact ⟨t, hexec, fun a => congrArg (memGet · a) hmem, hmem, hpending, het, hrtc, hfree, hrest⟩

end

