-- ==== Sys2Proof/Proofs/SystemCommands.lean ====
section
/-!
PROOFS. What the commands of palettes, inputs, isolated outputs, partitions, rings, sleep, wake, the fault collector and updates do
when they run (R130, R404, R405, R422, R435, R486, R495 to R497, R499, R503, R515, R539).
-/

namespace Sys2Proof.Machine

/-! ### PALETTE_SWITCH (R130) -/

/-- R130: the earlier switches that no decision point has taken are ended. -/
theorem paletteSwitch_waits (pk : Packet) (s : State) : ∃ t, paletteSwitchSpec.act pk s = later t ∧
    t.easel.normal = u8 pk.params 0 ∧ ∀ o ∈ t.cmd.async, o.code = 0x0202 → o.started = true →
      o.pk = pk ∨ s.easel.switchDue = some o.pk := by
  refine ⟨_, rfl, rfl, fun o ho hcode hstarted => ?_⟩
  have hkept := s.finishWhere_none _ _ _ o ho
  simp only [hcode, hstarted, beq_self_eq_true, Bool.true_and, Bool.and_eq_false_iff, bne_eq_false_iff_eq] at hkept
  exact hkept

/-! ### DIO_SET_XO (R395, R405) -/

theorem State.xoSet_barrierDown {s : State} (h : s.dio.barrierOk = false) (n : Nat) (level : Bool) :
    (s.xoSet n level).dio.xos = s.dio.xos := by
  unfold State.xoSet
  rw [h]
  split <;> rfl

theorem State.xoSet_drives {s : State} {n : Nat} (hen : (s.xo n).enabled = true) (hinert : s.xoInert = false)
    (hlink : s.dio.barrierOk = true) (level : Bool) : s.xoSet n level = s.xoPut n level := by
  unfold State.xoSet
  rw [hen, hinert, hlink]
  rfl

section
variable (pk : Packet) {s : State}

theorem dioSetXo_inert (h : s.xoInert = true) : dioSetXoSpec.act pk s = fail 0x0D02 s := if_pos h

theorem dioSetXo_barrierDown (hinert : s.xoInert = false) (h : s.dio.barrierOk = false) :
    dioSetXoSpec.act pk s = fail 0x0D03 (s.xoSet (u8 pk.params 0) false) :=
  (if_neg (by simp [hinert])).trans (if_pos (by simp [h]))

theorem dioSetXo_drives (hinert : s.xoInert = false) (hlink : s.dio.barrierOk = true)
    (hen : (s.xo (u8 pk.params 0)).enabled = true) :
    dioSetXoSpec.act pk s = ok (s.xoPut (u8 pk.params 0) (u8 pk.params 1 == 1)) :=
  (if_neg (by simp [hinert])).trans <| (if_neg (by simp [hlink])).trans <|
    congrArg ok (State.xoSet_drives hen hinert hlink _)

end

/-! ### DIO_CONFIG (R404) -/

/-- A k above the image's is asked for on a pin that a ristretto trigger uses. -/
def State.beyondImage (s : State) (ps : List Byte) : Bool :=
  (u8 ps 2).testBit 1 && (s.gw.triggers.any fun e => e.2.used && e.2.kind == 0 && e.2.source == u16 ps 0) &&
    decide ((s.din (u16 ps 0)).imageK < u8 ps 4)

/-- The input with the parameters that the block selects. -/
def Din.configured (x : Din) (ps : List Byte) : Din :=
  let sel := u8 ps 2
  { x with
    wetting := if sel.testBit 0 then u8 ps 3 else x.wetting
    k := if sel.testBit 1 then u8 ps 4 else x.k
    cnt := if sel.testBit 1 then 0 else x.cnt
    debounce := if sel.testBit 2 then u16 ps 6 else x.debounce
    rise := if sel.testBit 3 then (u8 ps 5).testBit 0 else x.rise
    fall := if sel.testBit 3 then (u8 ps 5).testBit 1 else x.fall
    breakFilter := if sel.testBit 4 then u16 ps 10 else x.breakFilter
    wbEn := if sel.testBit 4 then u16 ps 10 != 0 else x.wbEn
    brkRun := if sel.testBit 4 then 0 else x.brkRun
    shortRun := if sel.testBit 4 then 0 else x.shortRun
    okRun := if sel.testBit 4 then 0 else x.okRun
    wb := if sel.testBit 4 then (if u16 ps 10 = 0 then 0 else x.wb) else x.wb
    sensorThr := if sel.testBit 5 then u16 ps 8 else x.sensorThr
    xiType := if sel.testBit 6 then u8 ps 12 else x.xiType }

theorem dioConfig_contract {pk : Packet} {s : State} (h : s.beyondImage pk.params = true) :
    dioConfigSpec.act pk s = fail stContract s := if_pos h

/-- The action selects one parameter after the other; together they are the input as configured. -/
theorem dioConfig_configures {pk : Packet} {s : State} (h : s.beyondImage pk.params = false) :
    dioConfigSpec.act pk s = ok (s.setDin (u16 pk.params 0) ((s.din (u16 pk.params 0)).configured pk.params)) := by
  unfold dioConfigSpec
  dsimp -zeta only
  extract_lets ps n sel x pinned x1 x2 x3 x4 x5 x6 x7
  have hwetting : x1 = { x with wetting := if sel.testBit 0 then u8 ps 3 else x.wetting } := by
    cases hb : sel.testBit 0 <;> simp only [x1, hb] <;> rfl
  have hk : x2 = { x1 with k := if sel.testBit 1 then u8 ps 4 else x1.k, cnt := if sel.testBit 1 then 0 else x1.cnt } := by
    cases hb : sel.testBit 1 <;> simp only [x2, hb] <;> rfl
  have hdebounce : x3 = { x2 with debounce := if sel.testBit 2 then u16 ps 6 else x2.debounce } := by
    cases hb : sel.testBit 2 <;> simp only [x3, hb] <;> rfl
  have hedges : x4 = { x3 with
      rise := if sel.testBit 3 then (u8 ps 5).testBit 0 else x3.rise
      fall := if sel.testBit 3 then (u8 ps 5).testBit 1 else x3.fall } := by
    cases hb : sel.testBit 3 <;> simp only [x4, hb] <;> rfl
  have hbreak : x5 = { x4 with
      breakFilter := if sel.testBit 4 then u16 ps 10 else x4.breakFilter
      wbEn := if sel.testBit 4 then u16 ps 10 != 0 else x4.wbEn
      brkRun := if sel.testBit 4 then 0 else x4.brkRun
      shortRun := if sel.testBit 4 then 0 else x4.shortRun
      okRun := if sel.testBit 4 then 0 else x4.okRun
      wb := if sel.testBit 4 then (if u16 ps 10 = 0 then 0 else x4.wb) else x4.wb } := by
    cases hb : sel.testBit 4 <;> simp only [x5, hb, beq_iff_eq] <;> rfl
  have hsensor : x6 = { x5 with sensorThr := if sel.testBit 5 then u16 ps 8 else x5.sensorThr } := by
    cases hb : sel.testBit 5 <;> simp only [x6, hb] <;> rfl
  have htype : x7 = { x6 with xiType := if sel.testBit 6 then u8 ps 12 else x6.xiType } := by
    cases hb : sel.testBit 6 <;> simp only [x7, hb] <;> rfl
  have hx : x7 = x.configured ps := by
    simp only [htype, hsensor, hbreak, hedges, hdebounce, hk, hwetting, Din.configured, sel]
  rw [hx]
  exact if_neg (ne_true_of_eq_false h)

theorem Din.configured_spec (x : Din) (ps : List Byte) :
    let sel := u8 ps 2
    let y := x.configured ps
    y.wetting = (if sel.testBit 0 then u8 ps 3 else x.wetting) ∧
    (y.k, y.cnt) = (if sel.testBit 1 then (u8 ps 4, 0) else (x.k, x.cnt)) ∧
    y.debounce = (if sel.testBit 2 then u16 ps 6 else x.debounce) ∧
    (y.rise, y.fall) = (if sel.testBit 3 then ((u8 ps 5).testBit 0, (u8 ps 5).testBit 1) else (x.rise, x.fall)) ∧
    (y.breakFilter, y.wb) =
      (if sel.testBit 4 then (u16 ps 10, if u16 ps 10 = 0 then 0 else x.wb) else (x.breakFilter, x.wb)) ∧
    y.sensorThr = (if sel.testBit 5 then u16 ps 8 else x.sensorThr) ∧
    y.xiType = (if sel.testBit 6 then u8 ps 12 else x.xiType) ∧
    y.filt = x.filt ∧ y.qual = x.qual := by
  intro sel y
  refine ⟨rfl, ?_, rfl, ?_, ?_, rfl, rfl, rfl, rfl⟩ <;>
  · simp only [y, Din.configured, sel]
    split <;> rfl

/-! ### PART_RESET (R422) -/

/-- The record that a reset writes for a RUNNING partition stays, but for the counters that events and interrupts write. -/
theorem State.partReset_core {s : State} {p : Nat} (hp : p < 16) (hst : (s.part p).st = 1) (cause : Nat) (restart : Bool) :
    ∃ x : Part, ((s.partReset p cause restart).part p).core = x.core ∧ x.st = 2 ∧ x.inReset = true ∧ x.lastCause = cause ∧
      x.resets = sat16 (s.part p).resets := by
  unfold State.partReset
  extract_lets x again n gone marked dropped raised idled drained stopped safe
  rw [if_neg (by simp [x, hst]; omega), if_neg (by simp [x, hst])]
  have hb : (safe.escalate p (resetLevel cause)).kPs = idled.kPs := by simp [safe, stopped, drained]
  obtain ⟨-, -, hcore⟩ := State.kPs_ext hb
  have hraise : raised.kPs = dropped.kPs := by simp [raised]
  obtain ⟨-, -, hcore'⟩ := State.kPs_ext hraise
  have hy : idled.part p = raised.part p := foldl_keeps (I := fun t => t.part p = raised.part p) _ _ (fun t k _ ht => by
    unfold State.predClear
    rw [State.setPair_part]
    split <;> exact ht) raised rfl
  have hu : dropped.part p = marked.part p := rfl
  refine ⟨marked.part p, (hcore p).trans (by rw [hy, hcore', hu]), ?_⟩
  rw [State.setPart_part]
  exact ⟨rfl, rfl, rfl, rfl⟩

/-! ### RING_RESET (R435) -/

theorem ringReset_resets (pk : Packet) (s : State) : ∃ t, ringResetSpec.act pk s = ok t ∧
    (t.ring (u8 pk.params 0)).prod = 0 ∧ (t.ring (u8 pk.params 0)).cons = 0 ∧
    (t.ring (u8 pk.params 0)).armed = (s.ring (u8 pk.params 0)).irqEn ∧
    (t.ring (u8 pk.params 0)).drops = satAdd 32 (s.ring (u8 pk.params 0)).drops (s.ring (u8 pk.params 0)).fill ∧
    ∀ q, q ≠ u8 pk.params 0 → t.ring q = s.ring q := by
  refine ⟨_, rfl, ?_⟩
  dsimp only
  rw [State.setRing_ring]
  unfold State.ringStop
  simp only [State.setRing_ring]
  refine ⟨trivial, trivial, trivial, trivial, fun q hq => ?_⟩
  rw [State.setRing_ring_ne _ _ _ _ hq, State.setRing_ring_ne _ _ _ _ hq]

/-! ### SLEEP_REQUEST (R499) -/

theorem State.sleepRequest_enters (s : State) (set prep : Nat) : (s.sleepRequest set prep).dev.state = .sleepPrep ∧
    (s.sleepRequest set prep).wake.phase = 1 ∧ (s.sleepRequest set prep).wake.set = set ∧
    (s.sleepRequest set prep).wake.prepMs = prep ∧ (s.sleepRequest set prep).wake.acceptEt = s.et := by
  unfold State.sleepRequest
  dsimp only
  rw [State.raise_dev, State.raise_wake]
  exact ⟨rfl, rfl, rfl, rfl, rfl⟩

/-! ### Wake sources (R515) -/

theorem mapBits_lt (f : Nat → Bool) (n : Nat) : mapBits f n < 2 ^ n := by
  induction n with
  | zero => exact Nat.one_pos
  | succ n ih =>
    rw [mapBits, Nat.pow_succ]
    have hbit : b2n (f n) * 2 ^ n ≤ 2 ^ n := by cases f n <;> simp [b2n]
    omega

theorem testBit_mapBits (f : Nat → Bool) {n i : Nat} (hi : i < n) : (mapBits f n).testBit i = f i := by
  induction n with
  | zero => cases hi
  | succ n ih =>
    rw [mapBits, Nat.add_comm, Nat.mul_comm, Nat.testBit_two_pow_mul_add _ (mapBits_lt f n)]
    by_cases h : i < n
    · rw [if_pos h, ih h]
    · obtain rfl : i = n := by omega
      rw [if_neg h, Nat.sub_self]
      cases f i <;> rfl

theorem wakeClearSource_clears (pk : Packet) (s : State) : ∃ t, wakeClearSourceSpec.act pk s = ok t ∧
    (∀ i, i < 48 → t.wake.map.testBit i = (s.wake.map.testBit i && !(u64 pk.params 0).testBit i)) ∧
    (t.wake.map = 0 → t.wake.first = 0 ∧ t.wake.late = false) ∧
    (t.wake.map ≠ 0 → t.wake.first = s.wake.first ∧ t.wake.late = s.wake.late) := by
  refine ⟨_, rfl, ?_⟩
  have hbits := fun i (hi : i < 48) => testBit_mapBits (fun i => s.wake.map.testBit i && !(u64 pk.params 0).testBit i) hi
  dsimp only
  split
  · rename_i hnone
    rw [beq_iff_eq.mp hnone] at hbits
    exact ⟨hbits, fun _ => ⟨rfl, rfl⟩, fun h => absurd rfl h⟩
  · rename_i hsome
    exact ⟨hbits, fun h => absurd (beq_iff_eq.mpr h) hsome, fun _ => ⟨rfl, rfl⟩⟩

/-! ### FLT_CLEAR (R539) -/

theorem fltClear_clears (pk : Packet) (s : State) : ∃ t, fltClearSpec.act pk s = ok t ∧
    t.flt.parts = (s.setFltPart (u8 pk.params 0) { strokes := (s.fltPart (u8 pk.params 0)).strokes }).flt.parts ∧
    (t.flt.count, t.flt.esc) = (if u8 pk.params 1 = 1 then ([], []) else (s.flt.count, s.flt.esc)) := by
  by_cases h : u8 pk.params 1 = 1
  · exact ⟨_, if_pos (beq_iff_eq.mpr h), rfl, (if_pos h).symm⟩
  · exact ⟨_, if_neg (mt beq_iff_eq.mp h), rfl, (if_neg h).symm⟩

theorem State.fltPart_congr {s t : State} (h : t.flt.parts = s.flt.parts) (p : Nat) : t.fltPart p = s.fltPart p := by
  unfold State.fltPart
  rw [h]

/-! ### Updates (R482, R486, R495 to R497) -/

theorem State.relayPump_upd (s : State) : ({ s.relayPump.upd with relayFull := 0, relayNext := 0 } : Upd) =
    { s.upd with relayFull := 0, relayNext := 0 } := congrArg (fun v => v.2.2.2) s.relayPump_relayView

theorem State.relayPump_record (s : State) : s.relayPump.upd.record = s.upd.record := (congrArg Upd.record s.relayPump_upd :)

theorem State.relayPump_healthEnd (s : State) : s.relayPump.upd.healthEnd = s.upd.healthEnd :=
  (congrArg Upd.healthEnd s.relayPump_upd :)

theorem State.slotRec_of_record {s t : State} (h : t.upd.record = s.upd.record) (n : Nat) : t.slotRec n = s.slotRec n := by
  rw [State.slotRec_eq_at, State.slotRec_eq_at, h]

theorem State.spareSlot_pair {s : State} (h : s.dev.activeSlot ≤ 1) : SlotPair s.spareSlot s.dev.activeSlot := by
  unfold SlotPair State.spareSlot
  omega

/-- R495: a sketch that the spare slot does not hold starts in it from nothing. -/
theorem State.updBegin_new {s : State} {ps : List Byte} (hnew : (s.slotRec s.spareSlot).sketch ≠ u32 ps 0) :
    ∃ t r, s.updBegin ps = (t, stOk, r) ∧ t.upd.record = (s.setSlotRec s.spareSlot
      { st := 1, sketch := u32 ps 0, version := u32 ps 4, chunks := u16 ps 8 }).upd.record := by
  unfold State.updBegin
  extract_lets i x id u a b w v t
  have hv : v = _ := (if_neg (by simp [x, i, id, hnew])).trans (if_neg (by simp [x, i, id, hnew]))
  refine ⟨t, _, rfl, ?_⟩
  rw [show t = v.relayPump from rfl, State.relayPump_record, hv, State.raise_upd]
  rfl

/-- R486: the running slot becomes ACTIVE, and an ACTIVE spare slot PREVIOUS. -/
def State.promoted (s : State) : State :=
  (s.setSlotRec s.dev.activeSlot { s.slotRec s.dev.activeSlot with st := 5 }).setSlotRec s.spareSlot
    { s.slotRec s.spareSlot with st := if (s.slotRec s.spareSlot).st == 5 then 6 else (s.slotRec s.spareSlot).st }

theorem State.updVarnish_promotes (s : State) (ps : List Byte) : ∃ t, s.updVarnish ps = (t, stOk, []) ∧
    t.upd.healthEnd = none ∧
    t.upd.record = { s.promoted.upd.record with varnished := (s.slotRec s.dev.activeSlot).version } := by
  refine ⟨_, rfl, ?_, ?_⟩
  · rw [State.relayPump_healthEnd, State.raise_upd]
  · rw [State.relayPump_record, State.raise_upd]
    rfl

theorem slotAt_varnished (r : SlotRecord) (version n : Nat) : slotAt { r with varnished := version } n = slotAt r n := rfl

theorem State.promoted_slots {s : State} (h : SlotPair s.spareSlot s.dev.activeSlot) :
    (s.promoted.slotRec s.dev.activeSlot).st = 5 ∧ (s.promoted.slotRec s.spareSlot).st =
      if (s.slotRec s.spareSlot).st = 5 then 6 else (s.slotRec s.spareSlot).st := by
  unfold State.promoted
  rw [State.setSlotRec_other h, State.setSlotRec_slotRec, State.setSlotRec_slotRec]
  simp only [beq_iff_eq, and_self]

section
variable {pk : Packet} {s : State} (hfeed : s.feedBelow6 = false)
include hfeed

/-- An update command that writes the record runs at once with FEED12 at 6.0 V or more. -/
theorem updRunOr_runs (code : Nat) : updRunOr code pk s = ⟨(updAct code pk.params s).1, some (updAct code pk.params s).2⟩ :=
  if_neg (by simp [hfeed])

variable (hslot : SlotPair s.spareSlot s.dev.activeSlot)
include hslot

theorem updBegin_begins (hnew : (s.slotRec s.spareSlot).sketch ≠ u32 pk.params 0) :
    ∃ t r, updBeginSpec.act pk s = ⟨t, some (stOk, r)⟩ ∧
      t.slotRec s.spareSlot = { st := 1, sketch := u32 pk.params 0, version := u32 pk.params 4, chunks := u16 pk.params 8 } ∧
      t.slotRec s.dev.activeSlot = s.slotRec s.dev.activeSlot := by
  obtain ⟨t, r, hrun, hrec⟩ := State.updBegin_new hnew
  refine ⟨t, r, ?_, ?_, ?_⟩
  · refine (updRunOr_runs hfeed 0x0E01).trans ?_
    change ActRes.mk (s.updBegin pk.params).1 (some (s.updBegin pk.params).2) = _
    rw [hrun]
  · rw [State.slotRec_of_record hrec, State.setSlotRec_slotRec]
  · rw [State.slotRec_of_record hrec, State.setSlotRec_other hslot]

theorem updActivate_activates : ∃ t, updActivateSpec.act pk s = ⟨t, some (stOk, [])⟩ ∧
    t.slotRec s.spareSlot = { s.slotRec s.spareSlot with st := 3 } ∧
    t.slotRec s.dev.activeSlot = s.slotRec s.dev.activeSlot ∧
    t.upd.activateAt = (if u8 pk.params 4 = 1 then some (s.et + 1000000) else none) := by
  refine ⟨_, updRunOr_runs hfeed 0x0E03, ?_, ?_, ?_⟩
  · exact State.setSlotRec_slotRec s s.spareSlot _
  · exact State.setSlotRec_other hslot s _
  · simp only [updAct, State.updActivate, beq_iff_eq, nsMs]
    rfl

theorem updVarnish_varnishes : ∃ t, updVarnishSpec.act pk s = ⟨t, some (stOk, [])⟩ ∧ (t.slotRec s.dev.activeSlot).st = 5 ∧
    (t.slotRec s.spareSlot).st = (if (s.slotRec s.spareSlot).st = 5 then 6 else (s.slotRec s.spareSlot).st) ∧
    t.upd.record.varnished = (s.slotRec s.dev.activeSlot).version ∧ t.upd.healthEnd = none := by
  obtain ⟨t, hrun, hend, hrec⟩ := s.updVarnish_promotes pk.params
  have hslots : ∀ n, t.slotRec n = s.promoted.slotRec n := fun n => by
    rw [State.slotRec_eq_at, hrec, slotAt_varnished, ← State.slotRec_eq_at]
  obtain ⟨hactive, hspare⟩ := State.promoted_slots hslot
  refine ⟨t, ?_, hslots _ ▸ hactive, hslots _ ▸ hspare, by rw [hrec], hend⟩
  refine (updRunOr_runs hfeed 0x0E04).trans ?_
  change ActRes.mk (s.updVarnish pk.params).1 (some (s.updVarnish pk.params).2) = _
  rw [hrun]

end

end Sys2Proof.Machine

open Sys2Proof Sys2Proof.Machine

/-- Settles O60: each command by the rule of its operation. -/
theorem systemCommandActions : Obligations.SystemCommandActions := by
  intro pk s
  refine ⟨⟨_, rfl, State.setSlot_slot _ _ _, fun n => State.setSlot_slot_ne s _ n _⟩, paletteSwitch_waits pk s,
    ⟨dioConfig_contract, fun h => ?_⟩, ⟨dioSetXo_inert pk, fun hinert hdown => ?_, fun hinert hlink hen => ?_⟩,
    ⟨fun hp hst => ?_, ?_, ringReset_resets pk s⟩, ⟨fun hreq => ?_, fun hcancel => ?_, wakeClearSource_clears pk s⟩, ?_,
    fun hlow => ⟨if_pos hlow, if_pos hlow, if_pos hlow, if_pos hlow⟩, fun hfeed hactive => ?_⟩
  · refine ⟨_, dioConfig_configures h, fun m hm => State.setDin_din_ne s _ m _ hm, ?_⟩
    rw [State.setDin_din]
    exact (s.din (u16 pk.params 0)).configured_spec pk.params
  · exact ⟨_, dioSetXo_barrierDown pk hinert hdown, State.xoSet_barrierDown hdown _ _⟩
  · refine ⟨_, dioSetXo_drives pk hinert hlink hen, ?_⟩
    unfold State.xoPut
    rw [State.setXo_xo]
    exact ⟨rfl, rfl, rfl, fun n hn => State.setXo_xo_ne s _ n _ hn⟩
  · obtain ⟨x, hcore, hst2, hreset, hcause, hcount⟩ := State.partReset_core hp hst 1 (u8 pk.params 1 == 1)
    exact ⟨_, rfl, (congrArg Part.st hcore).trans hst2, (congrArg Part.inReset hcore).trans hreset,
      (congrArg Part.lastCause hcore).trans hcause, (congrArg Part.resets hcore).trans hcount⟩
  · refine ⟨_, rfl, ?_⟩
    unfold State.restartBegin
    rw [State.setPart_part]
    exact ⟨rfl, rfl, fun q hq => State.setPart_part_ne s _ q _ hq⟩
  · exact ⟨_, if_neg (mt beq_iff_eq.mp hreq), s.sleepRequest_enters _ _⟩
  · obtain ⟨hstate, hphase, hasync⟩ := s.sleepAbort_spec 0 true
    exact ⟨_, if_pos (beq_iff_eq.mpr hcancel), hphase, hstate, hasync⟩
  · obtain ⟨t, hrun, hparts, hdev⟩ := fltClear_clears pk s
    refine ⟨t, hrun, ?_, fun q hq => ?_, hdev⟩
    · rw [State.fltPart_congr hparts, State.setFltPart_fltPart]
    · rw [State.fltPart_congr hparts, State.setFltPart_fltPart_ne _ _ _ _ hq]
  · have hslot := State.spareSlot_pair hactive
    exact ⟨updBegin_begins hfeed hslot, updActivate_activates hfeed hslot, updVarnish_varnishes hfeed hslot⟩

end

