-- ==== Sys2Proof/Proofs/BridgeOutlets.lean ====
section
/-!
PROOFS. A motor bridge as an outlet: what the operations that turn it off, arm it and turn it on do to it and leave alone
(R236, R243, R244).
-/

namespace Sys2Proof.Machine

/-! ### Bridge `b` as an outlet -/

theorem State.outlet_bridge (s : State) (b : Nat) : s.outlet (56 + b) = (s.bridge b).o := by
  unfold State.outlet
  rw [if_neg (by omega), Nat.add_sub_cancel_left]

theorem State.setOutlet_eq_setBridge (s : State) (b : Nat) (o : Outlet) :
    s.setOutlet (56 + b) o = s.setBridge b { s.bridge b with o := o } := by
  unfold State.setOutlet
  rw [if_neg (by omega), Nat.add_sub_cancel_left]

/-- All bridges are on FEED12 (R236). -/
theorem feedOf_bridge (b : Nat) : feedOf (56 + b) = 0 := by
  unfold feedOf
  simp

theorem State.setOutlet_pwr (s : State) (k : Nat) (o : Outlet) : (s.setOutlet k o).pwr = s.pwr := by
  unfold State.setOutlet
  split <;> rfl

theorem State.markOk_pwr (s : State) (k : Nat) (t : Option Nat) : (s.markOk k t).pwr = s.pwr := by
  obtain ⟨q, h⟩ := s.markOk_eq k t
  rw [h]

theorem State.outOff_pwr (s : State) (k : Nat) : (s.outOff k).pwr = s.pwr := by
  unfold State.outOff
  dsimp only
  rw [State.markOk_pwr]
  split
  · exact s.setOutlet_pwr k _
  · exact s.setOutlet_pwr k _

/-- An outlet that is released leaves the resume list of its feed. -/
theorem State.outRelease_pwr (s : State) (k : Nat) : ∃ l, (s.outRelease k).pwr =
    (s.setFeed (feedOf k) { s.feed (feedOf k) with resume := l }).pwr := by
  refine ⟨(s.feed (feedOf k)).resume.filter (· != k), ?_⟩
  unfold State.outRelease State.setFeed State.feed
  dsimp only
  rw [State.setOutlet_pwr]

/-- A turn-on that is armed: off, waiting, with its charge. -/
theorem State.outArm_bridge (s : State) (b : Nat) (a : Option Nat) (p r : Bool) : ∃ o : Outlet,
    (s.outArm (56 + b) a p r).bridge b = { s.bridge b with o := o } ∧ o.on = false ∧ o.pend = true ∧ o.acct = a := by
  unfold State.outArm
  rw [State.setOutlet_eq_setBridge, State.setBridge_bridge]
  exact ⟨_, rfl, rfl, rfl, rfl⟩

theorem State.outGo_bridge (s : State) (b : Nat) : ∃ o : Outlet, (s.outGo (56 + b)).bridge b = { s.bridge b with o := o } ∧
    o.on = true ∧ o.acct = (s.bridge b).o.acct := by
  unfold State.outGo
  dsimp only
  rw [State.markOk_bridge, State.setOutlet_eq_setBridge, State.setBridge_bridge]
  exact ⟨_, rfl, rfl, by rw [State.outlet_bridge]⟩

theorem State.outOn_bridge (s : State) (b : Nat) (a : Option Nat) (p r : Bool) : ∃ o : Outlet,
    (s.outOn (56 + b) a p r).bridge b = { s.bridge b with o := o } ∧ o.on = true ∧ o.acct = a := by
  obtain ⟨o, harm, -, -, hacct⟩ := s.outArm_bridge b a p r
  obtain ⟨o', hgo, hon, hacct'⟩ := (s.outArm (56 + b) a p r).outGo_bridge b
  rw [harm] at hgo hacct'
  exact ⟨o', hgo, hon, hacct'.trans hacct⟩

/-- The outlet of a bridge turned off and released. -/
def State.released (s : State) (b : Nat) : State := (s.outOff (56 + b)).outRelease (56 + b)

/-- A bridge whose output is off and that holds no charge. -/
def Bridge.released (x : Bridge) : Bridge :=
  { x with out := 0, o := { x.o with on := false, pend := false, step := 0, retry := false, acct := none, shed := false } }

theorem State.released_bridge (s : State) (b : Nat) : (s.released b).bridge b = (s.bridge b).released := by
  unfold State.released Bridge.released
  rw [State.outRelease_bridge, if_pos ⟨by omega, by omega⟩, State.outOff_outlet, State.outOff_bridge,
    if_pos ⟨by omega, by omega⟩, State.outlet_bridge]

theorem State.refused_bridge (s : State) (k a origin amount b : Nat) : (s.refused k a origin amount).bridge b = s.bridge b := by
  unfold State.refused
  dsimp only
  split
  · rfl
  · rw [State.raise_bridge]
    rfl

/-- A refusal counts in the feed of its outlet (R266). -/
theorem State.refused_refusals (s : State) (b a origin amount : Nat) :
    ((s.refused (56 + b) a origin amount).feed 0).refusals = sat16 (s.feed 0).refusals := by
  have hpwr : (s.refused (56 + b) a origin amount).pwr = (s.setFeed 0 { s.feed 0 with refusals := sat16 (s.feed 0).refusals }).pwr := by
    unfold State.refused
    dsimp only
    rw [feedOf_bridge]
    split
    · rfl
    · rw [State.raise_pwr]
  have hfeed : (s.refused (56 + b) a origin amount).feed 0 =
      (s.setFeed 0 { s.feed 0 with refusals := sat16 (s.feed 0).refusals }).feed 0 := by
    unfold State.feed at hpwr ⊢
    rw [hpwr]
  rw [hfeed, State.setFeed_feed]

/-! ### What the operations on bridge `b` leave alone -/

/-- `t` is `s` but for what bridge `b` is set to, the feeds' resume lists, and the marks that its machines' states do not show. -/
structure RestSame (b : Nat) (s t : State) : Prop where
  bridges : ∀ c, c ≠ b → t.bridge c = s.bridge c
  chans : ∀ i, t.chan i = s.chan i
  cfg : (t.bridge b).cfg = (s.bridge b).cfg
  permits : ∀ i, (t.prot i).permits = (s.prot i).permits
  dev : t.dev = s.dev
  pwr : { t.pwr with feeds := [] } = { s.pwr with feeds := [] }
  feeds : ∀ f, { t.feed f with resume := [] } = { s.feed f with resume := [] }

namespace RestSame

variable {b : Nat} {s t u : State}

theorem trans (h : RestSame b s t) (g : RestSame b t u) : RestSame b s u where
  bridges c hc := (g.bridges c hc).trans (h.bridges c hc)
  chans i := (g.chans i).trans (h.chans i)
  cfg := g.cfg.trans h.cfg
  permits i := (g.permits i).trans (h.permits i)
  dev := g.dev.trans h.dev
  pwr := g.pwr.trans h.pwr
  feeds f := (g.feeds f).trans (h.feeds f)

/-- What changes neither the switches nor the feeds nor the device keeps the rest. -/
theorem of_eq (hlsw : t.lsw = s.lsw) (hdev : t.dev = s.dev) (hpwr : t.pwr = s.pwr) : RestSame b s t := by
  refine ⟨fun c _ => ?_, fun i => ?_, ?_, fun i => ?_, hdev, by rw [hpwr], fun f => ?_⟩
  · unfold State.bridge; rw [hlsw]
  · unfold State.chan; rw [hlsw]
  · unfold State.bridge; rw [hlsw]
  · unfold State.prot; rw [hlsw]
  · unfold State.feed; rw [hpwr]

theorem setBridge (s : State) {x : Bridge} (h : x.cfg = (s.bridge b).cfg) : RestSame b s (s.setBridge b x) where
  bridges c hc := State.setBridge_bridge_ne s b c x hc
  chans _ := rfl
  cfg := by rw [State.setBridge_bridge, h]
  permits _ := rfl
  dev := rfl
  pwr := rfl
  feeds _ := rfl

theorem unstall (s : State) (b mode : Nat) : RestSame b s (s.unstall b mode) := by
  unfold State.unstall
  dsimp only
  split
  · exact of_eq rfl rfl rfl
  · refine (setBridge s (x := { s.bridge b with stalled := 0 }) rfl).trans (of_eq ?_ ?_ ?_)
    · exact State.raise_lsw ..
    · exact State.raise_dev ..
    · exact State.raise_pwr ..

theorem outOff (s : State) (b : Nat) : RestSame b s (s.outOff (56 + b)) where
  bridges c hc := by rw [State.outOff_bridge, if_neg (by omega)]
  chans i := by rw [State.outOff_chan, if_neg (by omega)]
  cfg := by rw [State.outOff_bridge, if_pos ⟨by omega, by omega⟩]
  permits i := by rw [State.outOff_prot]; split <;> rfl
  dev := (State.outOff_feedSame s _).dev
  pwr := by rw [State.outOff_pwr]
  feeds f := by unfold State.feed; rw [State.outOff_pwr]

theorem outRelease (s : State) (b : Nat) : RestSame b s (s.outRelease (56 + b)) := by
  obtain ⟨l, hpwr⟩ := s.outRelease_pwr (56 + b)
  refine ⟨fun c hc => ?_, fun i => ?_, ?_, fun i => ?_, (s.outRelease_feedSame _).dev, by rw [hpwr]; rfl, fun f => ?_⟩
  · rw [State.outRelease_bridge, if_neg (by omega)]
  · rw [State.outRelease_chan, if_neg (by omega)]
  · rw [State.outRelease_bridge, if_pos ⟨by omega, by omega⟩]
  · rw [State.outRelease_prot]
  · have hfeed : (s.outRelease (56 + b)).feed f = 
        (s.setFeed (feedOf (56 + b)) { s.feed (feedOf (56 + b)) with resume := l }).feed f := by
      unfold State.feed at hpwr ⊢
      rw [hpwr]
    rw [hfeed]
    by_cases hf : f = feedOf (56 + b)
    · subst hf
      rw [State.setFeed_feed]
    · rw [State.setFeed_feed_ne _ _ _ _ hf]

theorem released (s : State) (b : Nat) : RestSame b s (s.released b) := (outOff s b).trans (outRelease _ b)

variable (h : RestSame b s t)
include h

theorem protHeld (k : Nat) : t.protHeld k = s.protHeld k := by
  simp only [State.protHeld, Prot.fault, h.permits]

theorem feedUv (f : Nat) : (t.feed f).uv = (s.feed f).uv := (congrArg Feed.uv (h.feeds f) :)

theorem refusals (f : Nat) : (t.feed f).refusals = (s.feed f).refusals := (congrArg Feed.refusals (h.feeds f) :)

theorem inertOut (k : Nat) : t.inertOut k = s.inertOut k := by
  simp only [State.inertOut, State.active, h.dev, h.feedUv]

theorem pwrStep : t.pwr.step = s.pwr.step := (congrArg Pwr.step h.pwr :)

theorem classShed (f c : Nat) : t.classShed f c = s.classShed f c := by
  have hsag : (t.feed f).sag = (s.feed f).sag := (congrArg Feed.sag (h.feeds f) :)
  have hover : (t.feed f).overload = (s.feed f).overload := (congrArg Feed.overload (h.feeds f) :)
  have hover2 : (t.feed f).overload2 = (s.feed f).overload2 := (congrArg Feed.overload2 (h.feeds f) :)
  simp only [State.classShed, State.shedCauses, h.pwrStep, hsag, hover, hover2]

theorem acctLimit (f a : Nat) : t.acctLimit f a = s.acctLimit f a := by
  have hbudget : (t.feed f).budget = (s.feed f).budget := (congrArg Feed.budget (h.feeds f) :)
  have hreserve : (t.feed f).reserve = (s.feed f).reserve := (congrArg Feed.reserve (h.feeds f) :)
  have hfrac2 : t.pwr.frac2 = s.pwr.frac2 := (congrArg Pwr.frac2 h.pwr :)
  have hfrac3 : t.pwr.frac3 = s.pwr.frac3 := (congrArg Pwr.frac3 h.pwr :)
  simp only [State.acctLimit, State.fraction, h.pwrStep, hbudget, hreserve, hfrac2, hfrac3]

/-- The ledger charges the other outlets the same, and a bridge without a charge nothing. -/
theorem outCharge (hs : (s.bridge b).o.acct = none) (ht : (t.bridge b).o.acct = none) (k a : Nat) :
    t.outCharge k a = s.outCharge k a := by
  unfold State.outCharge State.outlet State.cfgOf
  by_cases hk : k < 56
  · simp only [if_pos hk, h.chans]
  · by_cases hkb : k - 56 = b
    · simp only [if_neg hk, hkb, Outlet.chargeIn, hs, ht]
    · simp only [if_neg hk, h.bridges _ hkb]

theorem admits (hs : (s.bridge b).o.acct = none) (ht : (t.bridge b).o.acct = none) (f a amount : Nat) :
    t.admits f a amount = s.admits f a amount := by
  have hcharge : t.charge f a = s.charge f a := by simp only [State.charge, h.outCharge hs ht]
  unfold State.admits
  rw [hcharge, h.acctLimit]

end RestSame

/-! ### The machines behind bridge `b` -/

/-- Every machine behind an outlet changes by `g`; no other machine does. -/
theorem foldl_machines_prot (g : Prot → Prot) (s : State) (k i : Nat) :
    ((machines k).foldl (fun s i => s.setProt i (g (s.prot i))) s).prot i = if i ∈ machines k then g (s.prot i) else s.prot i := by
  unfold machines
  split
  · by_cases hi : i = k
    · subst hi
      simp
    · simp [hi, State.setProt_prot_ne _ _ _ _ hi]
  · by_cases hB : i = 57 + 2 * (k - 56)
    · subst hB
      have hne : 57 + 2 * (k - 56) ≠ 56 + 2 * (k - 56) := by omega
      simp [State.setProt_prot_ne _ _ _ _ hne]
    · by_cases hA : i = 56 + 2 * (k - 56)
      · subst hA
        simp [State.setProt_prot_ne _ _ _ _ hB]
      · simp [hA, hB, State.setProt_prot_ne _ _ _ _ hA, State.setProt_prot_ne _ _ _ _ hB]


/-- Other machine states. -/
def State.withProt (s : State) (q : Tab Prot) : State := { s with lsw := { s.lsw with prot := q } }

theorem State.withProt_bridge (s : State) (q : Tab Prot) (b : Nat) : (s.withProt q).bridge b = s.bridge b := rfl

theorem State.withProt_chan (s : State) (q : Tab Prot) (i : Nat) : (s.withProt q).chan i = s.chan i := rfl

theorem State.withProt_inertOut (s : State) (q : Tab Prot) (k : Nat) : (s.withProt q).inertOut k = s.inertOut k := rfl

theorem foldl_machines_eq (g : Prot → Prot) (s : State) (k : Nat) : ∃ q,
    (machines k).foldl (fun s i => s.setProt i (g (s.prot i))) s = s.withProt q := by
  unfold machines
  split <;> exact ⟨_, rfl⟩

/-- A machine without its deferred retry and its waiting restart (R244). -/
def Prot.retryDropped (p : Prot) : Prot := { p with oc := if p.oc == 2 then 3 else p.oc, thWait := none }

/-- The same of a machine whose outlet goes off. -/
def Prot.turnedOff (p : Prot) : Prot := ({ p with okSince := none } : Prot).retryDropped

theorem Prot.turnedOff_oc_ne {p : Prot} (h : p.oc ≠ 4) : p.turnedOff.oc ≠ 4 := by
  unfold Prot.turnedOff Prot.retryDropped
  dsimp only
  split
  · decide
  · exact h

theorem Prot.turnedOff_permits {p : Prot} (h : p.permits = true) : p.turnedOff.permits = true := by
  unfold Prot.permits at h ⊢
  unfold Prot.turnedOff Prot.retryDropped
  cases hoc : p.oc == 2 <;> simp_all

/-! ### COAST and BRAKE (R244) -/

theorem State.restoreOut_bridge_ne (s : State) (b c : Nat) (h : c ≠ b) : (s.restoreOut (56 + b)).bridge c = s.bridge c := by
  unfold State.restoreOut
  rw [if_neg (by omega), Nat.add_sub_cancel_left]
  dsimp only
  split
  · exact State.setBridge_bridge_ne _ _ _ _ h
  · rfl

theorem State.restoreOut_chan (s : State) (k i : Nat) : (s.restoreOut k).chan i = s.chan i := by
  unfold State.restoreOut
  dsimp only
  split
  · rfl
  · split <;> rfl

theorem State.restoreOut_pwr (s : State) (k : Nat) : (s.restoreOut k).pwr = s.pwr := by
  unfold State.restoreOut
  dsimp only
  split
  · rfl
  · split <;> rfl

/-- Nothing keeps a bridge that is commanded to BRAKE from braking. -/
def State.brakes (s : State) (b : Nat) : Bool :=
  (s.bridge b).cmd == 3 && !s.protHeld (56 + b) && !(s.bridge b).xlock && !(s.bridge b).o.shed && !s.inertOut (56 + b)

theorem State.restoreOut_bridge (s : State) (b : Nat) : (s.restoreOut (56 + b)).bridge b =
    { s.bridge b with out := if s.brakes b then 3 else (s.bridge b).out } := by
  unfold State.restoreOut State.brakes
  rw [if_neg (by omega), Nat.add_sub_cancel_left]
  dsimp only
  split
  · rw [State.setBridge_bridge]
  · rfl

/-- A bridge in COAST or BRAKE, with its legs in `out`. -/
def Bridge.turnedOff (x : Bridge) (mode out : Nat) : Bridge :=
  { x.released with cmd := mode, duty := 0, curDuty := 0, out := out }

/-- A bridge set to COAST or BRAKE, before BRAKE drives its legs. -/
def State.offHeld (s : State) (b mode : Nat) : State :=
  (machines (56 + b)).foldl (fun s i => s.setProt i (s.prot i).retryDropped)
    ((s.released b).setBridge b { (s.released b).bridge b with cmd := mode, duty := 0, curDuty := 0 })

theorem State.bridgeOff_eq (s : State) (b mode : Nat) : s.bridgeOff b mode = (s.offHeld b mode).restoreOut (56 + b) := rfl

theorem State.offHeld_eq (s : State) (b mode : Nat) : ∃ q,
    s.offHeld b mode = ((s.released b).setBridge b ((s.bridge b).turnedOff mode 0)).withProt q := by
  unfold State.offHeld
  rw [State.released_bridge]
  exact foldl_machines_eq Prot.retryDropped _ _

theorem State.offHeld_bridge (s : State) (b mode : Nat) : (s.offHeld b mode).bridge b = (s.bridge b).turnedOff mode 0 := by
  obtain ⟨q, h⟩ := s.offHeld_eq b mode
  rw [h, State.withProt_bridge, State.setBridge_bridge]

theorem State.offHeld_prot (s : State) (b mode i : Nat) : (s.offHeld b mode).prot i =
    if i ∈ machines (56 + b) then (s.prot i).turnedOff else s.prot i := by
  unfold State.offHeld
  rw [foldl_machines_prot, State.setBridge_prot, State.released, State.outRelease_prot, State.outOff_prot]
  split <;> rfl

theorem State.offHeld_inertOut (s : State) (b mode k : Nat) : (s.offHeld b mode).inertOut k = s.inertOut k := by
  obtain ⟨q, h⟩ := s.offHeld_eq b mode
  have hset : RestSame b (s.released b) ((s.released b).setBridge b ((s.bridge b).turnedOff mode 0)) :=
    .setBridge _ (RestSame.released s b).cfg.symm
  rw [h, State.withProt_inertOut, hset.inertOut, (RestSame.released s b).inertOut]

theorem State.offHeld_protHeld {s : State} {b mode : Nat} (h : s.protHeld (56 + b) = false) :
    (s.offHeld b mode).protHeld (56 + b) = false := by
  unfold State.protHeld at h ⊢
  rw [List.any_eq_false] at h ⊢
  intro i hi
  have hpermits : (s.prot i).permits = true := by simpa [Prot.fault] using h i hi
  rw [State.offHeld_prot, if_pos hi, Prot.fault, Prot.turnedOff_permits hpermits]
  decide

/-- The bridge is off in `mode`; its legs brake unless something holds them. -/
theorem State.bridgeOff_bridge (s : State) (b mode : Nat) : ∃ out, (s.bridgeOff b mode).bridge b = (s.bridge b).turnedOff mode out ∧
    (s.inertOut (56 + b) = false → (s.protHeld (56 + b) || (s.bridge b).xlock) = false → out = if mode = 3 then 3 else 0) := by
  refine ⟨if (s.offHeld b mode).brakes b then 3 else 0, ?_, fun hinert hheld => ?_⟩
  · rw [State.bridgeOff_eq, State.restoreOut_bridge, State.offHeld_bridge]
    rfl
  · obtain ⟨hprot, hlock⟩ := Bool.or_eq_false_iff.mp hheld
    have hbrakes : (s.offHeld b mode).brakes b = (mode == 3) := by
      unfold State.brakes
      rw [State.offHeld_bridge, State.offHeld_protHeld hprot, State.offHeld_inertOut, hinert]
      simp [Bridge.turnedOff, Bridge.released, hlock]
    simp only [hbrakes, beq_iff_eq]

theorem State.bridgeOff_bridge_ne (s : State) (b mode c : Nat) (h : c ≠ b) : (s.bridgeOff b mode).bridge c = s.bridge c := by
  rw [State.bridgeOff_eq, State.restoreOut_bridge_ne _ _ _ h]
  obtain ⟨q, hq⟩ := s.offHeld_eq b mode
  rw [hq, State.withProt_bridge, State.setBridge_bridge_ne _ _ _ _ h, (RestSame.released s b).bridges c h]

theorem State.bridgeOff_chan (s : State) (b mode i : Nat) : (s.bridgeOff b mode).chan i = s.chan i := by
  rw [State.bridgeOff_eq, State.restoreOut_chan]
  obtain ⟨q, hq⟩ := s.offHeld_eq b mode
  rw [hq, State.withProt_chan, State.setBridge_chan, (RestSame.released s b).chans]

theorem State.bridgeOff_prot (s : State) (b mode i : Nat) : (s.bridgeOff b mode).prot i =
    if i ∈ machines (56 + b) then (s.prot i).turnedOff else s.prot i := by
  rw [State.bridgeOff_eq, State.restoreOut_prot, State.offHeld_prot]

theorem State.bridgeOff_refusals (s : State) (b mode f : Nat) :
    ((s.bridgeOff b mode).feed f).refusals = (s.feed f).refusals := by
  obtain ⟨q, hq⟩ := s.offHeld_eq b mode
  have hpwr : (s.bridgeOff b mode).pwr = (s.released b).pwr := by
    rw [State.bridgeOff_eq, State.restoreOut_pwr, hq]
    rfl
  refine Eq.trans ?_ ((RestSame.released s b).refusals f)
  unfold State.feed
  rw [hpwr]

end Sys2Proof.Machine
end

