-- ==== Sys2Proof/Proofs/BridgeDrive.lean ====
section
/-!
PROOFS. What a mode and a duty do to a motor bridge, and MBR_DRIVE and MBR_BRAKE (R156, R238, R239, R243, R244, R248, R253, R266).
-/

namespace Sys2Proof.Machine

/-! ### A command with a mode (R238, R244, R248) -/

theorem State.unstall_bridge (s : State) (b mode : Nat) : (s.unstall b mode).bridge b =
    { s.bridge b with stalled := if (s.bridge b).stalled = mode then mode else 0 } := by
  unfold State.unstall
  dsimp only
  by_cases hmode : (s.bridge b).stalled = mode
  · subst hmode
    simp
  · by_cases hzero : (s.bridge b).stalled = 0
    · rw [if_pos (by simp [hzero]), if_neg hmode, ← hzero]
    · rw [if_neg (by simp [hzero, hmode]), State.raise_bridge, State.setBridge_bridge, if_neg hmode]

/-- A bridge that a command reaches: no longer in its safe state, nor stalled in a direction other than `mode`. -/
def State.readied (s : State) (b mode : Nat) : State := (s.setBridge b { s.bridge b with safe := false }).unstall b mode

theorem RestSame.readied (s : State) (b mode : Nat) : RestSame b s (s.readied b mode) :=
  (RestSame.setBridge s (x := { s.bridge b with safe := false }) rfl).trans (RestSame.unstall _ b mode)

theorem State.readied_bridge (s : State) (b mode : Nat) : (s.readied b mode).bridge b =
    { s.bridge b with safe := false, stalled := if (s.bridge b).stalled = mode then mode else 0 } := by
  unfold State.readied
  rw [State.unstall_bridge, State.setBridge_bridge]

/-- Protection or the interlock latch holds the legs of a bridge (R243). -/
def State.mbrHeld (s : State) (b : Nat) : Bool := s.protHeld (56 + b) || (s.bridge b).xlock

/-- The mode that a mode code and a duty set (R238). -/
def Bridge.modeOf (x : Bridge) (mode d : Nat) : Nat := if (mode == 1 || mode == 2) && d == 0 then x.zero else mode

theorem Bridge.modeOf_zero (x : Bridge) {mode : Nat} (h : mode = 1 ∨ mode = 2) : x.modeOf mode 0 = if x.zeroBrake then 3 else 0 := by
  rcases h with rfl | rfl <;> rfl

theorem Bridge.modeOf_drives (x : Bridge) (mode : Nat) {d : Nat} (h : d ≠ 0) : x.modeOf mode d = mode := by
  simp [Bridge.modeOf, h]

section
variable {s : State} {b : Nat} (hen : (s.bridge b).cfg.enabled = true)
include hen

theorem State.bridgeCommand_off {mode d z : Nat} (hmode : (s.bridge b).modeOf mode d = z) (hz : z = 0 ∨ z = 3) (acct origin : Nat) :
    s.bridgeCommand b mode d acct origin = ((s.readied b z).bridgeOff b z, if s.mbrHeld b then 0x0680 else stOk) := by
  have hheld : (s.readied b z).protHeld (56 + b) = s.protHeld (56 + b) := (RestSame.readied s b z).protHeld _
  unfold State.bridgeCommand State.mbrHeld
  rw [← hheld, if_neg (by simp [hen])]
  subst hmode
  exact if_neg (by rcases hz with h | h <;> simp [Bridge.modeOf] at h <;> simp [h])

theorem State.bridgeCommand_drive {m d : Nat} (hm : m = 1 ∨ m = 2) (hd : d ≠ 0) (acct origin : Nat) :
    s.bridgeCommand b m d acct origin = (s.readied b m).bridgeDrive b m d acct origin := by
  have hmode : (s.bridge b).modeOf m d = m := Bridge.modeOf_drives _ _ hd
  unfold State.bridgeCommand
  rw [if_neg (by simp [hen])]
  unfold Bridge.modeOf at hmode
  dsimp only
  rw [hmode]
  exact if_pos (by simpa using hm)

end

/-- A bridge commanded into COAST or BRAKE, in a state `u` that is `s` but for the period. -/
theorem State.bridgeCommand_offInto {s u : State} {b z per : Nat} (hsame : RestSame b s u)
    (hu : u.bridge b = { s.bridge b with period := per }) (hen : (s.bridge b).cfg.enabled = true)
    (hinert : s.inertOut (56 + b) = false) {mode d : Nat} (hmode : (s.bridge b).modeOf mode d = z) (hz : z = 0 ∨ z = 3) :
    offInto s b z per ⟨(u.bridgeCommand b mode d 1 1).1, some ((u.bridgeCommand b mode d 1 1).2, [])⟩ := by
  have hmodeU : (u.bridge b).modeOf mode d = z := by rw [hu]; exact hmode
  have hheld : u.mbrHeld b = (s.protHeld (56 + b) || (s.bridge b).xlock) := by
    unfold State.mbrHeld
    rw [hsame.protHeld, hu]
  have hr : RestSame b s (u.readied b z) := hsame.trans (.readied u b z)
  obtain ⟨out, hbridge, hout⟩ := (u.readied b z).bridgeOff_bridge b z
  rw [State.readied_bridge, hu] at hbridge hout
  rw [State.bridgeCommand_off (by rw [hu]; exact hen) hmodeU hz, hheld]
  refine ⟨_, rfl, ?_⟩
  rw [hbridge]
  refine ⟨rfl, rfl, rfl, rfl, rfl, fun hstall => ?_, fun hfree => ?_⟩
  · change (if (s.bridge b).stalled = z then z else 0) = 0
    split <;> omega
  · refine hout ?_ ?_
    · rw [hr.inertOut]; exact hinert
    · rw [hr.protHeld]; exact hfree

/-! ### A driving mode with a duty (R243, R244, R248) -/

/-- A driving mode in the stalled direction is stored and drives nothing (R248). -/
theorem State.bridgeDrive_stalled {s : State} {b m : Nat} (h : (s.bridge b).stalled = m) (d acct origin : Nat) :
    ∃ t, s.bridgeDrive b m d acct origin = (t, 0x0687) ∧ (t.bridge b).cmd = m ∧ (t.bridge b).duty = d ∧
      (t.bridge b).stalled = m ∧ (t.bridge b).o = (s.bridge b).o ∧ (t.bridge b).out = (s.bridge b).out := by
  refine ⟨_, if_pos (beq_iff_eq.mpr h), ?_⟩
  rw [State.setBridge_bridge]
  exact ⟨rfl, rfl, h, rfl, rfl⟩

/-- What a driving mode with a duty stores in a bridge (R238, R239). -/
def Bridge.driven (x : Bridge) (m d : Nat) : Bridge :=
  { x with
    cmd := m, duty := d, curDuty := if d != 65535 && x.period != 0 then x.curDuty else 65535
    clamps := if d != 65535 && x.period == 0 then sat16 x.clamps else x.clamps }

/-- Bridge `b` off and without a charge, the driving mode stored: what shedding, a hold or the turn-on starts from. -/
def State.waiting (s : State) (b m d : Nat) : State := (s.released b).setBridge b ((s.bridge b).released.driven m d)

theorem State.waiting_bridge (s : State) (b m d : Nat) : (s.waiting b m d).bridge b = (s.bridge b).released.driven m d :=
  State.setBridge_bridge _ _ _

theorem State.waiting_setOutlet_bridge (s : State) (b m d : Nat) (o : Outlet) :
    ((s.waiting b m d).setOutlet (56 + b) o).bridge b = { (s.bridge b).released.driven m d with o := o } := by
  rw [State.setOutlet_eq_setBridge, State.setBridge_bridge, State.waiting_bridge]

/-- The charge that a driving mode asks for (R243). -/
def State.mbrAmount (s : State) (b : Nat) : Nat := if s.mbrHeld b then (s.bridge b).cfg.steady else (s.bridge b).cfg.largest

/-- Bridge `x` takes driving mode `m` from COAST or BRAKE. -/
structure Bridge.Starts (x : Bridge) (m : Nat) : Prop where
  stalled : x.stalled ≠ m
  cmd : x.cmd ≠ m
  out : x.out = 0 ∨ x.out = 3
  acct : x.o.acct = none

section
variable {s : State} {b m : Nat} (hx : (s.bridge b).Starts m) (d acct origin : Nat)
include hx

/-- R243, R244: its class shed, the charge refused, held, waiting for the period start, or on at once. -/
theorem State.bridgeDrive_starts : s.bridgeDrive b m d acct origin =
    if s.classShed 0 (s.bridge b).cfg.loadClass then
      let t := s.waiting b m d
      (t.setOutlet (56 + b) { t.outlet (56 + b) with shed := true, shedAcct := acct }, if s.mbrHeld b then 0x0680 else stOk)
    else if !s.admits 0 acct (s.mbrAmount b) then
      (((s.released b).refused (56 + b) acct origin (s.mbrAmount b)).bridgeOff b (s.bridge b).zero, stNoResource)
    else if s.mbrHeld b then
      let t := s.waiting b m d
      (t.setOutlet (56 + b) { t.outlet (56 + b) with acct := some acct }, 0x0680)
    else if d != 65535 && (s.bridge b).period != 0 then
      let t := (s.waiting b m d).outArm (56 + b) (some acct) true false
      (t.setBridge b { t.bridge b with out := 0 }, stOk)
    else
      let t := (s.waiting b m d).outOn (56 + b) (some acct) true false
      (t.setBridge b { t.bridge b with out := m }, stOk) := by
  obtain ⟨hstall, hcmd, hout, hacct⟩ := hx
  have hwas : ((s.bridge b).out == 1 || (s.bridge b).out == 2) = false := by rcases hout with h | h <;> rw [h] <;> rfl
  have hsame := RestSame.released s b
  have hfree : ((s.released b).bridge b).o.acct = none := by rw [State.released_bridge]; rfl
  have hwait : s.waiting b m d = (s.released b).setBridge b (((s.released b).bridge b).driven m d) := by
    rw [State.released_bridge]; rfl
  have hperiod : (s.bridge b).period = ((s.released b).bridge b).period := by rw [State.released_bridge]; rfl
  rw [← hsame.classShed, ← hsame.admits hacct hfree, hwait]
  unfold State.bridgeDrive
  dsimp only
  rw [if_neg (by simpa using hstall), if_neg (by simpa using hcmd), hwas, Bool.false_and, Bool.or_false, hperiod]
  rfl

theorem State.bridgeDrive_shed (hshed : s.classShed 0 (s.bridge b).cfg.loadClass = true) :
    ∃ t, s.bridgeDrive b m d acct origin = (t, if s.mbrHeld b then 0x0680 else stOk) ∧ (t.bridge b).cmd = m ∧
      (t.bridge b).o.on = false ∧ (t.bridge b).o.shed = true ∧ (t.bridge b).o.acct = none := by
  rw [State.bridgeDrive_starts hx, if_pos hshed]
  refine ⟨_, rfl, ?_⟩
  rw [State.waiting_setOutlet_bridge, State.outlet_bridge, State.waiting_bridge]
  exact ⟨rfl, rfl, rfl, rfl⟩

theorem State.bridgeDrive_refused (hshed : s.classShed 0 (s.bridge b).cfg.loadClass = false)
    (hadmits : s.admits 0 acct (s.mbrAmount b) = false) :
    ∃ t out, s.bridgeDrive b m d acct origin = (t, stNoResource) ∧
      t.bridge b = (s.bridge b).released.turnedOff (s.bridge b).zero out ∧
      (t.feed 0).refusals = sat16 (s.feed 0).refusals := by
  obtain ⟨out, hbridge, -⟩ := ((s.released b).refused (56 + b) acct origin (s.mbrAmount b)).bridgeOff_bridge b (s.bridge b).zero
  rw [State.bridgeDrive_starts hx, if_neg (by simp [hshed]), if_pos (by simp [hadmits])]
  refine ⟨_, out, rfl, ?_, ?_⟩
  · rw [hbridge, State.refused_bridge, State.released_bridge]
  · rw [State.bridgeOff_refusals, State.refused_refusals, (RestSame.released s b).refusals]

theorem State.bridgeDrive_held (hshed : s.classShed 0 (s.bridge b).cfg.loadClass = false)
    (hadmits : s.admits 0 acct (s.mbrAmount b) = true) (hheld : s.mbrHeld b = true) :
    ∃ t, s.bridgeDrive b m d acct origin = (t, 0x0680) ∧ (t.bridge b).cmd = m ∧ (t.bridge b).duty = d ∧
      (t.bridge b).o.on = false ∧ (t.bridge b).o.acct = some acct := by
  rw [State.bridgeDrive_starts hx, if_neg (by simp [hshed]), if_neg (by simp [hadmits]), if_pos hheld]
  refine ⟨_, rfl, ?_⟩
  rw [State.waiting_setOutlet_bridge, State.outlet_bridge, State.waiting_bridge]
  exact ⟨rfl, rfl, rfl, rfl⟩

theorem State.bridgeDrive_on (hshed : s.classShed 0 (s.bridge b).cfg.loadClass = false)
    (hadmits : s.admits 0 acct (s.mbrAmount b) = true) (hheld : s.mbrHeld b = false) :
    ∃ t, s.bridgeDrive b m d acct origin = (t, stOk) ∧ (t.bridge b).cmd = m ∧ (t.bridge b).duty = d ∧
      (t.bridge b).period = (s.bridge b).period ∧ (t.bridge b).o.acct = some acct ∧
      (if d ≠ 65535 ∧ (s.bridge b).period ≠ 0 then
        (t.bridge b).o.on = false ∧ (t.bridge b).o.pend = true ∧ (t.bridge b).out = 0
       else (t.bridge b).o.on = true ∧ (t.bridge b).out = m) := by
  rw [State.bridgeDrive_starts hx, if_neg (by simp [hshed]), if_neg (by simp [hadmits]), if_neg (by simp [hheld])]
  by_cases hpwm : d ≠ 65535 ∧ (s.bridge b).period ≠ 0
  · obtain ⟨o, harm, hon, hpend, ho⟩ := (s.waiting b m d).outArm_bridge b (some acct) true false
    rw [if_pos (by simpa using hpwm)]
    refine ⟨_, rfl, ?_⟩
    rw [if_pos hpwm, State.setBridge_bridge, harm, State.waiting_bridge]
    exact ⟨rfl, rfl, rfl, ho, hon, hpend, rfl⟩
  · obtain ⟨o, hgo, hon, ho⟩ := (s.waiting b m d).outOn_bridge b (some acct) true false
    rw [if_neg (by simpa using hpwm)]
    refine ⟨_, rfl, ?_⟩
    rw [if_neg hpwm, State.setBridge_bridge, hgo, State.waiting_bridge]
    exact ⟨rfl, rfl, rfl, ho, hon, rfl⟩

end

/-! ### MBR_DRIVE (R253) -/

/-- A command's period, where it gives one. -/
def State.takePeriod (s : State) (b p : Nat) : State := if p == 0 then s else s.setBridge b { s.bridge b with period := p }

theorem State.takePeriod_bridge (s : State) (b p : Nat) :
    (s.takePeriod b p).bridge b = { s.bridge b with period := if p = 0 then (s.bridge b).period else p } := by
  unfold State.takePeriod
  by_cases hp : p = 0
  · rw [if_pos (beq_iff_eq.mpr hp), if_pos hp]
  · rw [if_neg (mt beq_iff_eq.mp hp), if_neg hp, State.setBridge_bridge]

theorem RestSame.takePeriod (s : State) (b p : Nat) : RestSame b s (s.takePeriod b p) := by
  unfold State.takePeriod
  split
  · exact .of_eq rfl rfl rfl
  · exact .setBridge s rfl

/-- What MBR_DRIVE does with its mode, duty and period once its bridge is not inert; a refused period is given back (R253, R266). -/
def State.mbrRun (s : State) (b m d p : Nat) : ActRes :=
  let r := (s.takePeriod b p).bridgeCommand b m d 1 1
  if r.2 == stNoResource then ⟨r.1.setBridge b { r.1.bridge b with period := (s.bridge b).period }, some (r.2, [])⟩
  else ⟨r.1, some (r.2, [])⟩

/-- Period `p` is shorter than the shortest that the image schedules (R156). -/
def Bridge.short (x : Bridge) (p : Nat) : Prop := p ≠ 0 ∧ x.cfg.minPeriod ≠ 0 ∧ p < x.cfg.minPeriod

theorem mbrDrive_short {pk : Packet} {s : State} (h : (s.bridge (u8 pk.params 0)).short (u32 pk.params 4)) :
    mbrDriveSpec.act pk s = fail stContract s := by
  obtain ⟨hp, hmin, hlt⟩ := h
  exact if_pos (by simp [hp, hmin, hlt])

theorem mbrDrive_long {pk : Packet} {s : State} (h : ¬ (s.bridge (u8 pk.params 0)).short (u32 pk.params 4)) :
    mbrDriveSpec.act pk s =
      if s.inertOut (56 + u8 pk.params 0) then (if u8 pk.params 1 == 0 then ok s else fail 0x0688 s)
      else s.mbrRun (u8 pk.params 0) (u8 pk.params 1) (u16 pk.params 2) (u32 pk.params 4) :=
  if_neg (by simpa [Bridge.short, and_assoc] using h)

theorem mbrDrive_inert {pk : Packet} {s : State} (h : ¬ (s.bridge (u8 pk.params 0)).short (u32 pk.params 4))
    (hinert : s.inertOut (56 + u8 pk.params 0) = true) :
    mbrDriveSpec.act pk s = if u8 pk.params 1 = 0 then ok s else fail 0x0688 s := by
  rw [mbrDrive_long h, if_pos hinert]
  simp only [beq_iff_eq]

theorem mbrDrive_runs {pk : Packet} {s : State} (h : ¬ (s.bridge (u8 pk.params 0)).short (u32 pk.params 4))
    (hinert : s.inertOut (56 + u8 pk.params 0) = false) :
    mbrDriveSpec.act pk s = s.mbrRun (u8 pk.params 0) (u8 pk.params 1) (u16 pk.params 2) (u32 pk.params 4) := by
  rw [mbrDrive_long h, if_neg (by simp [hinert])]

theorem mbrBrake_inert {pk : Packet} {s : State} (hinert : s.inertOut (56 + u8 pk.params 0) = true) :
    mbrBrakeSpec.act pk s = fail 0x0688 s := if_pos hinert

theorem mbrBrake_runs {pk : Packet} {s : State} (hinert : s.inertOut (56 + u8 pk.params 0) = false) :
    mbrBrakeSpec.act pk s = ⟨(s.bridgeCommand (u8 pk.params 0) 3 0 1 1).1, some ((s.bridgeCommand (u8 pk.params 0) 3 0 1 1).2, [])⟩ :=
  if_neg (by simp [hinert])

theorem State.mbrRun_answers {s : State} {b m d p : Nat} (hc : ((s.takePeriod b p).bridgeCommand b m d 1 1).2 ≠ stNoResource) :
    s.mbrRun b m d p =
      ⟨((s.takePeriod b p).bridgeCommand b m d 1 1).1, some (((s.takePeriod b p).bridgeCommand b m d 1 1).2, [])⟩ :=
  if_neg (mt beq_iff_eq.mp hc)

/-- A command into COAST or BRAKE, for a mode code or for a duty 0 (R238, R244). -/
theorem State.mbrRun_offInto {s : State} {b m d : Nat} (p : Nat) {z : Nat} (hen : (s.bridge b).cfg.enabled = true)
    (hinert : s.inertOut (56 + b) = false) (hmode : (s.bridge b).modeOf m d = z) (hz : z = 0 ∨ z = 3) :
    offInto s b z (if p = 0 then (s.bridge b).period else p) (s.mbrRun b m d p) := by
  have htaken := s.takePeriod_bridge b p
  have hoff := State.bridgeCommand_off (s := s.takePeriod b p) (by rw [htaken]; exact hen) (by rw [htaken]; exact hmode) hz 1 1
  rw [State.mbrRun_answers]
  · exact State.bridgeCommand_offInto (RestSame.takePeriod s b p) htaken hen hinert hmode hz
  · rw [hoff]
    dsimp only
    split <;> decide

/-- The state from which MBR_DRIVE drives its bridge. -/
def State.mbrTaken (s : State) (b m p : Nat) : State := (s.takePeriod b p).readied b m

theorem RestSame.mbrTaken (s : State) (b m p : Nat) : RestSame b s (s.mbrTaken b m p) :=
  (RestSame.takePeriod s b p).trans (.readied _ b m)

theorem State.mbrTaken_bridge (s : State) (b m p : Nat) : (s.mbrTaken b m p).bridge b =
    { s.bridge b with
      period := if p = 0 then (s.bridge b).period else p
      safe := false
      stalled := if (s.bridge b).stalled = m then m else 0 } := by
  unfold State.mbrTaken
  rw [State.readied_bridge, State.takePeriod_bridge]

theorem State.mbrTaken_mbrHeld (s : State) (b m p : Nat) : (s.mbrTaken b m p).mbrHeld b = s.mbrHeld b := by
  unfold State.mbrHeld
  rw [(RestSame.mbrTaken s b m p).protHeld, State.mbrTaken_bridge]

theorem State.mbrTaken_mbrAmount (s : State) (b m p : Nat) : (s.mbrTaken b m p).mbrAmount b = s.mbrAmount b := by
  unfold State.mbrAmount
  rw [State.mbrTaken_mbrHeld, (RestSame.mbrTaken s b m p).cfg]

theorem State.mbrTaken_classShed (s : State) (b m p : Nat) :
    (s.mbrTaken b m p).classShed 0 ((s.mbrTaken b m p).bridge b).cfg.loadClass = s.classShed 0 (s.bridge b).cfg.loadClass := by
  rw [(RestSame.mbrTaken s b m p).classShed, (RestSame.mbrTaken s b m p).cfg]

theorem State.mbrTaken_admits {s : State} {b : Nat} (hacct : (s.bridge b).o.acct = none) (m p amount : Nat) :
    (s.mbrTaken b m p).admits 0 1 amount = s.admits 0 1 amount :=
  (RestSame.mbrTaken s b m p).admits hacct (by rw [State.mbrTaken_bridge]; exact hacct) 0 1 amount

theorem State.mbrTaken_starts {s : State} {b m : Nat} (p : Nat) (hm : m = 1 ∨ m = 2) (h : (s.bridge b).Starts m) :
    ((s.mbrTaken b m p).bridge b).Starts m := by
  obtain ⟨hstall, hcmd, hout, hacct⟩ := h
  have hzero : 0 ≠ m := by omega
  rw [State.mbrTaken_bridge, if_neg hstall]
  exact ⟨hzero, hcmd, hout, hacct⟩

section
variable {s : State} {b m d : Nat} (p : Nat) (hen : (s.bridge b).cfg.enabled = true) (hm : m = 1 ∨ m = 2) (hd : d ≠ 0)
include hen hm hd

theorem State.mbrRun_drives {t : State} {c : Nat} (hc : c ≠ stNoResource)
    (h : (s.mbrTaken b m p).bridgeDrive b m d 1 1 = (t, c)) : s.mbrRun b m d p = ⟨t, some (c, [])⟩ := by
  have hrun : (s.takePeriod b p).bridgeCommand b m d 1 1 = (t, c) :=
    (State.bridgeCommand_drive (by rw [State.takePeriod_bridge]; exact hen) hm hd 1 1).trans h
  rw [State.mbrRun_answers (by rw [hrun]; exact hc), hrun]

theorem State.mbrRun_noResource {t : State} (h : (s.mbrTaken b m p).bridgeDrive b m d 1 1 = (t, stNoResource)) :
    s.mbrRun b m d p = ⟨t.setBridge b { t.bridge b with period := (s.bridge b).period }, some (stNoResource, [])⟩ := by
  have hrun : (s.takePeriod b p).bridgeCommand b m d 1 1 = (t, stNoResource) :=
    (State.bridgeCommand_drive (by rw [State.takePeriod_bridge]; exact hen) hm hd 1 1).trans h
  unfold State.mbrRun
  rw [hrun]
  exact if_pos rfl

theorem State.mbrRun_stalled (hstall : (s.bridge b).stalled = m) : ∃ t, s.mbrRun b m d p = ⟨t, some (0x0687, [])⟩ ∧
    (t.bridge b).cmd = m ∧ (t.bridge b).duty = d ∧ (t.bridge b).stalled = m ∧ (t.bridge b).o = (s.bridge b).o ∧
    (t.bridge b).out = (s.bridge b).out := by
  have htaken : ((s.mbrTaken b m p).bridge b).stalled = m := by
    rw [State.mbrTaken_bridge]
    exact if_pos hstall
  obtain ⟨t, hrun, hbridge⟩ := State.bridgeDrive_stalled htaken d 1 1
  rw [State.mbrTaken_bridge] at hbridge
  exact ⟨t, State.mbrRun_drives p hen hm hd (by decide) hrun, hbridge⟩

variable (hx : (s.bridge b).Starts m)
include hx

theorem State.mbrRun_shed (hshed : s.classShed 0 (s.bridge b).cfg.loadClass = true) :
    ∃ t, s.mbrRun b m d p = ⟨t, some (if s.mbrHeld b then 0x0680 else stOk, [])⟩ ∧
      (t.bridge b).cmd = m ∧ (t.bridge b).o.on = false ∧ (t.bridge b).o.shed = true ∧ (t.bridge b).o.acct = none := by
  obtain ⟨t, hrun, hbridge⟩ := State.bridgeDrive_shed (State.mbrTaken_starts p hm hx) d 1 1
    (by rw [State.mbrTaken_classShed]; exact hshed)
  rw [State.mbrTaken_mbrHeld] at hrun
  exact ⟨t, State.mbrRun_drives p hen hm hd (by split <;> decide) hrun, hbridge⟩

variable (hshed : s.classShed 0 (s.bridge b).cfg.loadClass = false)
include hshed

theorem State.mbrRun_refused (hadmits : s.admits 0 1 (s.mbrAmount b) = false) :
    ∃ t, s.mbrRun b m d p = ⟨t, some (stNoResource, [])⟩ ∧ (t.bridge b).cmd = (s.bridge b).zero ∧ (t.bridge b).o.on = false ∧
      (t.bridge b).o.acct = none ∧ (t.bridge b).period = (s.bridge b).period ∧
      (t.feed 0).refusals = sat16 (s.feed 0).refusals := by
  obtain ⟨t, out, hrun, hbridge, hcount⟩ := State.bridgeDrive_refused (State.mbrTaken_starts p hm hx) d 1 1
    (by rw [State.mbrTaken_classShed]; exact hshed)
    (by rw [State.mbrTaken_mbrAmount, State.mbrTaken_admits hx.acct]; exact hadmits)
  refine ⟨_, State.mbrRun_noResource p hen hm hd hrun, ?_⟩
  rw [State.setBridge_bridge, hbridge, State.mbrTaken_bridge]
  refine ⟨rfl, rfl, rfl, rfl, ?_⟩
  rw [← (RestSame.mbrTaken s b m p).refusals]
  exact hcount

theorem State.mbrRun_held (hadmits : s.admits 0 1 (s.mbrAmount b) = true) (hheld : s.mbrHeld b = true) :
    ∃ t, s.mbrRun b m d p = ⟨t, some (0x0680, [])⟩ ∧
      (t.bridge b).cmd = m ∧ (t.bridge b).duty = d ∧ (t.bridge b).o.on = false ∧ (t.bridge b).o.acct = some 1 := by
  obtain ⟨t, hrun, hbridge⟩ := State.bridgeDrive_held (State.mbrTaken_starts p hm hx) d 1 1
    (by rw [State.mbrTaken_classShed]; exact hshed)
    (by rw [State.mbrTaken_mbrAmount, State.mbrTaken_admits hx.acct]; exact hadmits)
    (by rw [State.mbrTaken_mbrHeld]; exact hheld)
  exact ⟨t, State.mbrRun_drives p hen hm hd (by decide) hrun, hbridge⟩

theorem State.mbrRun_on (hadmits : s.admits 0 1 (s.mbrAmount b) = true) (hheld : s.mbrHeld b = false) :
    let per := if p = 0 then (s.bridge b).period else p
    ∃ t, s.mbrRun b m d p = ⟨t, some (stOk, [])⟩ ∧ (t.bridge b).cmd = m ∧ (t.bridge b).duty = d ∧
      (t.bridge b).period = per ∧ (t.bridge b).o.acct = some 1 ∧
      (if d ≠ 65535 ∧ per ≠ 0 then (t.bridge b).o.on = false ∧ (t.bridge b).o.pend = true ∧ (t.bridge b).out = 0
       else (t.bridge b).o.on = true ∧ (t.bridge b).out = m) := by
  obtain ⟨t, hrun, hbridge⟩ := State.bridgeDrive_on (State.mbrTaken_starts p hm hx) d 1 1
    (by rw [State.mbrTaken_classShed]; exact hshed)
    (by rw [State.mbrTaken_mbrAmount, State.mbrTaken_admits hx.acct]; exact hadmits)
    (by rw [State.mbrTaken_mbrHeld]; exact hheld)
  rw [State.mbrTaken_bridge] at hbridge
  exact ⟨t, State.mbrRun_drives p hen hm hd (by decide) hrun, hbridge⟩

end

end Sys2Proof.Machine
end

