-- ==== Sys2Proof/Proofs/BridgeCommands.lean ====
section
/-!
PROOFS. The latch clears and parameters of MBR_CONFIG (R242, R243, R252), and the motor bridge commands together.
-/

namespace Sys2Proof.Machine

/-! ### Latch clears (R242, R243, R252) -/

/-- A bridge in COAST that drives nothing and holds no charge. -/
def Bridge.coasts (x : Bridge) : Prop := x.cmd = 0 ∧ x.duty = 0 ∧ x.o.on = false ∧ x.o.acct = none

/-- What MBR_CONFIG sets in a bridge. -/
def Bridge.params (x : Bridge) : LoadCfg × Option Nat × Nat × Nat × Nat × Bool :=
  (x.cfg, x.nextLimit, x.dead, x.stallThr, x.stallFilter, x.stallEn)

/-- What a latch clear of bridge `b` leaves alone: the rest, the parameters, COAST, and whatever is not latched. -/
structure ClearStep (b : Nat) (s t : State) : Prop where
  bridges : ∀ c, c ≠ b → t.bridge c = s.bridge c
  chans : ∀ i, t.chan i = s.chan i
  params : (t.bridge b).params = (s.bridge b).params
  coasts : (s.bridge b).coasts → (t.bridge b).coasts
  oc : ∀ i, (s.prot i).oc ≠ 4 → (t.prot i).oc ≠ 4
  th : ∀ i, (s.prot i).th ≠ 2 → (t.prot i).th ≠ 2
  xlock : (s.bridge b).xlock = false → (t.bridge b).xlock = false

theorem ClearStep.refl (b : Nat) (s : State) : ClearStep b s s :=
  ⟨fun _ _ => rfl, fun _ => rfl, rfl, id, fun _ => id, fun _ => id, id⟩

theorem ClearStep.trans {b : Nat} {s t u : State} (h : ClearStep b s t) (g : ClearStep b t u) : ClearStep b s u where
  bridges c hc := (g.bridges c hc).trans (h.bridges c hc)
  chans i := (g.chans i).trans (h.chans i)
  params := g.params.trans h.params
  coasts := g.coasts ∘ h.coasts
  oc i := g.oc i ∘ h.oc i
  th i := g.th i ∘ h.th i
  xlock := g.xlock ∘ h.xlock

theorem ClearStep.of_lsw {b : Nat} {s t : State} (h : t.lsw = s.lsw) : ClearStep b s t := by
  have hbridge : ∀ c, t.bridge c = s.bridge c := fun c => by unfold State.bridge; rw [h]
  have hprot : ∀ i, t.prot i = s.prot i := fun i => by unfold State.prot; rw [h]
  refine ⟨fun c _ => hbridge c, fun i => by unfold State.chan; rw [h], ?_, ?_, fun i => ?_, fun i => ?_, ?_⟩ <;>
    simp only [hbridge, hprot, imp_self]

theorem ClearStep.ite {b : Nat} {s t : State} (c : Bool) (h : ClearStep b s t) : ClearStep b s (if c then t else s) := by
  split
  · exact h
  · exact .refl b s

theorem State.bridgeOff_coasts (s : State) (b : Nat) : ((s.bridgeOff b 0).bridge b).coasts := by
  obtain ⟨out, hbridge, -⟩ := s.bridgeOff_bridge b 0
  rw [hbridge]
  exact ⟨rfl, rfl, rfl, rfl⟩

theorem State.bridgeOff_clearStep (s : State) (b : Nat) : ClearStep b s (s.bridgeOff b 0) := by
  obtain ⟨out, hbridge, -⟩ := s.bridgeOff_bridge b 0
  refine ⟨fun c => s.bridgeOff_bridge_ne b 0 c, s.bridgeOff_chan b 0, ?_, fun _ => s.bridgeOff_coasts b, fun i h => ?_, fun i h => ?_,
    fun h => ?_⟩
  · rw [hbridge]
    rfl
  · rw [State.bridgeOff_prot]
    split
    · exact Prot.turnedOff_oc_ne h
    · exact h
  · rw [State.bridgeOff_prot]
    split <;> exact h
  · rw [hbridge]
    exact h

/-- One machine after its over-current latch, or its thermal latch, is cleared. -/
def Prot.cleared (p : Prot) (oc : Bool) : Prot :=
  if oc && p.oc == 4 then { p with oc := 0, att := 0 }
  else if !oc && p.th == 2 then { p with th := if p.cooled then 0 else 1, shutdowns := [] } else p

theorem Prot.cleared_oc_ne {p : Prot} {oc : Bool} (h : oc = true ∨ p.oc ≠ 4) : (p.cleared oc).oc ≠ 4 := by
  unfold Prot.cleared
  split
  · dsimp only
    decide
  · rename_i hkeep
    have hoc : p.oc ≠ 4 := h.elim (fun hoc => by simpa [hoc] using hkeep) id
    split <;> exact hoc

theorem Prot.cleared_th_ne {p : Prot} {oc : Bool} (h : oc = false ∨ p.th ≠ 2) : (p.cleared oc).th ≠ 2 := by
  unfold Prot.cleared
  split
  · rename_i hoc
    exact h.elim (fun hoc' => by simp [hoc'] at hoc) id
  · split
    · dsimp only
      split <;> decide
    · rename_i hkeep
      exact h.elim (fun hoc => by simpa [hoc] using hkeep) id

/-- What MBR_CONFIG's clear does to one machine `i` of bridge `b`. -/
def State.latchClear (s : State) (b : Nat) (oc : Bool) (i : Nat) : State :=
  let p := s.prot i
  if oc && p.oc == 4 then (s.setProt i { p with oc := 0, att := 0 }).raise (s.outTo (56 + b)) (0x10 + i) 0xA 1
  else if !oc && p.th == 2 then
    (s.setProt i { p with th := if p.cooled then 0 else 1, shutdowns := [] }).raise (s.outTo (56 + b)) (0x10 + i) 0xA 2
  else s

theorem State.mbrClear_eq (s : State) (b : Nat) (oc : Bool) :
    s.mbrClear b oc = (machines (56 + b)).foldl (fun s i => s.latchClear b oc i) (s.bridgeOff b 0) := rfl

theorem State.latchClear_spec (s : State) (b : Nat) (oc : Bool) (i : Nat) : (∀ c, (s.latchClear b oc i).bridge c = s.bridge c) ∧
    (∀ j, (s.latchClear b oc i).chan j = s.chan j) ∧ (s.latchClear b oc i).prot i = (s.prot i).cleared oc ∧
    ∀ j, j ≠ i → (s.latchClear b oc i).prot j = s.prot j := by
  unfold State.latchClear Prot.cleared
  dsimp only
  split
  · simp +contextual [State.setProt_prot_ne]
  · split
    · simp +contextual [State.setProt_prot_ne]
    · simp

theorem State.latchClear_clearStep (s : State) (b : Nat) (oc : Bool) (i : Nat) : ClearStep b s (s.latchClear b oc i) := by
  obtain ⟨hbridge, hchan, hprot, hother⟩ := s.latchClear_spec b oc i
  refine ⟨fun c _ => hbridge c, hchan, by rw [hbridge], by rw [hbridge]; exact id, fun j h => ?_, fun j h => ?_,
    by rw [hbridge]; exact id⟩
  · by_cases hj : j = i
    · subst hj
      rw [hprot]
      exact Prot.cleared_oc_ne (.inr h)
    · rw [hother j hj]
      exact h
  · by_cases hj : j = i
    · subst hj
      rw [hprot]
      exact Prot.cleared_th_ne (.inr h)
    · rw [hother j hj]
      exact h

/-- A latch clear sets its bridge to COAST and then clears machine by machine. -/
theorem State.mbrClear_after_off (s : State) (b : Nat) (oc : Bool) : ClearStep b (s.bridgeOff b 0) (s.mbrClear b oc) := by
  rw [State.mbrClear_eq]
  exact foldl_keeps (I := ClearStep b (s.bridgeOff b 0)) _ _ (fun t i _ h => h.trans (t.latchClear_clearStep b oc i)) _ (.refl b _)

theorem State.mbrClear_clearStep (s : State) (b : Nat) (oc : Bool) : ClearStep b s (s.mbrClear b oc) :=
  (s.bridgeOff_clearStep b).trans (s.mbrClear_after_off b oc)

theorem State.mbrClear_coasts (s : State) (b : Nat) (oc : Bool) : ((s.mbrClear b oc).bridge b).coasts :=
  (s.mbrClear_after_off b oc).coasts (s.bridgeOff_coasts b)

theorem State.mbrClear_oc (s : State) (b : Nat) {i : Nat} (hi : i ∈ machines (56 + b)) : ((s.mbrClear b true).prot i).oc ≠ 4 := by
  rw [State.mbrClear_eq]
  refine foldl_reaches (I := fun _ => True) (P := fun t => (t.prot i).oc ≠ 4) _ (fun _ _ _ => trivial) (fun t _ => ?_)
    (fun t j _ h => (t.latchClear_clearStep b true j).oc i h) _ hi _ trivial
  obtain ⟨-, -, hprot, -⟩ := t.latchClear_spec b true i
  rw [hprot]
  exact Prot.cleared_oc_ne (.inl rfl)

theorem State.mbrClear_th (s : State) (b : Nat) {i : Nat} (hi : i ∈ machines (56 + b)) : ((s.mbrClear b false).prot i).th ≠ 2 := by
  rw [State.mbrClear_eq]
  refine foldl_reaches (I := fun _ => True) (P := fun t => (t.prot i).th ≠ 2) _ (fun _ _ _ => trivial) (fun t _ => ?_)
    (fun t j _ h => (t.latchClear_clearStep b false j).th i h) _ hi _ trivial
  obtain ⟨-, -, hprot, -⟩ := t.latchClear_spec b false i
  rw [hprot]
  exact Prot.cleared_th_ne (.inl rfl)

theorem State.unlock_clearStep (s : State) (b : Nat) : ClearStep b s (s.setBridge b { s.bridge b with xlock := false }) := by
  refine ⟨fun c hc => State.setBridge_bridge_ne s b c _ hc, fun _ => rfl, ?_, ?_, fun _ => id, fun _ => id, ?_⟩ <;>
    rw [State.setBridge_bridge]
  · rfl
  · exact id
  · exact fun _ => rfl

/-- The interlock's clear: unlocked, then COAST, then its event. -/
theorem State.xlockClear_after_off (s : State) (b : Nat) :
    ClearStep b ((s.setBridge b { s.bridge b with xlock := false }).bridgeOff b 0) (s.xlockClear b) := by
  unfold State.xlockClear
  exact .of_lsw (State.raise_lsw ..)

theorem State.xlockClear_clearStep (s : State) (b : Nat) : ClearStep b s (s.xlockClear b) :=
  (s.unlock_clearStep b).trans ((State.bridgeOff_clearStep _ b).trans (s.xlockClear_after_off b))

theorem State.xlockClear_coasts (s : State) (b : Nat) : ((s.xlockClear b).bridge b).coasts :=
  (s.xlockClear_after_off b).coasts (State.bridgeOff_coasts _ b)

theorem State.xlockClear_xlock (s : State) (b : Nat) : ((s.xlockClear b).bridge b).xlock = false := by
  refine (s.xlockClear_after_off b).xlock ((State.bridgeOff_clearStep _ b).xlock ?_)
  rw [State.setBridge_bridge]

/-! ### MBR_CONFIG (R252) -/

/-- The clears that MBR_CONFIG selects, in their order. -/
def State.mbrCleared (s : State) (b sel : Nat) : State :=
  let s := if sel.testBit 8 then s.mbrClear b true else s
  let s := if sel.testBit 9 then s.mbrClear b false else s
  if sel.testBit 10 then s.xlockClear b else s

section
variable (s : State) (b : Nat) {sel : Nat}

theorem State.mbrCleared_clearStep (sel : Nat) : ClearStep b s (s.mbrCleared b sel) :=
  (ClearStep.ite _ (s.mbrClear_clearStep b true)).trans
    ((ClearStep.ite _ (State.mbrClear_clearStep _ b false)).trans (.ite _ (State.xlockClear_clearStep _ b)))

theorem State.mbrCleared_none (h : (sel.testBit 8 || sel.testBit 9 || sel.testBit 10) = false) : s.mbrCleared b sel = s := by
  simp only [Bool.or_eq_false_iff] at h
  obtain ⟨⟨h8, h9⟩, h10⟩ := h
  simp [State.mbrCleared, h8, h9, h10]

theorem State.mbrCleared_coasts (h : (sel.testBit 8 || sel.testBit 9 || sel.testBit 10) = true) :
    ((s.mbrCleared b sel).bridge b).coasts := by
  unfold State.mbrCleared
  dsimp only
  split
  · exact State.xlockClear_coasts _ b
  · rename_i h10
    split
    · exact State.mbrClear_coasts _ b false
    · rename_i h9
      have h8 : sel.testBit 8 = true := by simpa [h9, h10] using h
      rw [if_pos h8]
      exact State.mbrClear_coasts s b true

theorem State.mbrCleared_oc (h : sel.testBit 8 = true) {i : Nat} (hi : i ∈ machines (56 + b)) :
    ((s.mbrCleared b sel).prot i).oc ≠ 4 := by
  unfold State.mbrCleared
  rw [if_pos h]
  exact ((ClearStep.ite _ (State.mbrClear_clearStep _ b false)).trans (.ite _ (State.xlockClear_clearStep _ b))).oc i
    (s.mbrClear_oc b hi)

theorem State.mbrCleared_th (h : sel.testBit 9 = true) {i : Nat} (hi : i ∈ machines (56 + b)) :
    ((s.mbrCleared b sel).prot i).th ≠ 2 := by
  unfold State.mbrCleared
  dsimp only
  rw [if_pos h]
  exact (ClearStep.ite _ (State.xlockClear_clearStep _ b)).th i (State.mbrClear_th _ b hi)

theorem State.mbrCleared_xlock (h : sel.testBit 10 = true) : ((s.mbrCleared b sel).bridge b).xlock = false := by
  unfold State.mbrCleared
  rw [if_pos h]
  exact State.xlockClear_xlock _ b

end

/-- MBR_CONFIG asks for more retries, or a higher envelope, than the image (R156). -/
def Bridge.beyond (x : Bridge) (ps : List Byte) : Bool :=
  ((u16 ps 2).testBit 3 && decide (x.cfg.imgRetry < u8 ps 5)) ||
    ((u16 ps 2).testBit 2 && !envWithin x.cfg (u16 ps 8) (u16 ps 10) (u16 ps 12) (u16 ps 14))

theorem mbrConfig_beyond {pk : Packet} {s : State} (h : (s.bridge (u8 pk.params 0)).beyond pk.params = true) :
    mbrConfigSpec.act pk s = fail stContract s := if_pos h

theorem mbrConfig_within {pk : Packet} {s : State} (h : (s.bridge (u8 pk.params 0)).beyond pk.params = false) :
    mbrConfigSpec.act pk s = ok ((s.setBridge (u8 pk.params 0) (mbrConfigured pk.params (s.bridge (u8 pk.params 0)))).mbrCleared
      (u8 pk.params 0) (u16 pk.params 2)) :=
  if_neg (by rw [Bool.not_eq_true]; exact h)

/-- What MBR_CONFIG's parameters say of a bridge `y` that was `x` (R252). -/
structure Bridge.ConfiguredFrom (ps : List Byte) (x y : Bridge) : Prop where
  slew : y.cfg.slew = if (u16 ps 2).testBit 0 then u8 ps 4 else x.cfg.slew
  limit : y.cfg.limit = if (u16 ps 2).testBit 1 && x.o.step == 0 then u16 ps 6 else x.cfg.limit
  nextLimit : (u16 ps 2).testBit 1 = true → x.o.step ≠ 0 → y.nextLimit = some (u16 ps 6)
  pour : (y.cfg.s1c, y.cfg.s1d, y.cfg.s2c, y.cfg.s2d) =
    if (u16 ps 2).testBit 2 then (u16 ps 8, u16 ps 10, u16 ps 12, u16 ps 14) else (x.cfg.s1c, x.cfg.s1d, x.cfg.s2c, x.cfg.s2d)
  retryN : y.cfg.retryN = if (u16 ps 2).testBit 3 then u8 ps 5 else x.cfg.retryN
  dead : y.dead = if (u16 ps 2).testBit 4 then u16 ps 16 else x.dead
  stall : (y.stallThr, y.stallFilter, y.stallEn) =
    if (u16 ps 2).testBit 5 then (u16 ps 18, u16 ps 20, u8 ps 22 == 1) else (x.stallThr, x.stallFilter, x.stallEn)

theorem mbrConfigured_from (ps : List Byte) (x : Bridge) : x.ConfiguredFrom ps (mbrConfigured ps x) := by
  have hpour : (!(x.o.step != 0)) = (x.o.step == 0) := by cases h : x.o.step == 0 <;> simp [bne, h]
  constructor
  · simp only [mbrConfigured, apply_ite Bridge.cfg, apply_ite LoadCfg.slew, ite_self]
  · simp only [mbrConfigured, apply_ite Bridge.cfg, apply_ite LoadCfg.limit, ite_self, hpour]
  · intro hsel hstep
    simp [mbrConfigured, apply_ite Bridge.nextLimit, hsel, hstep]
  · cases h : (u16 ps 2).testBit 2 <;> simp [mbrConfigured, h, apply_ite Bridge.cfg, apply_ite LoadCfg.s1c, apply_ite LoadCfg.s1d,
      apply_ite LoadCfg.s2c, apply_ite LoadCfg.s2d]
  · simp only [mbrConfigured, apply_ite Bridge.cfg, apply_ite LoadCfg.retryN, ite_self]
  · simp only [mbrConfigured, apply_ite Bridge.dead, ite_self]
  · cases h : (u16 ps 2).testBit 5 <;> simp [mbrConfigured, h]

theorem mbrConfigured_cmd (ps : List Byte) (x : Bridge) : (mbrConfigured ps x).cmd = x.cmd := by
  simp only [mbrConfigured, apply_ite Bridge.cmd, ite_self]

theorem mbrConfigured_o (ps : List Byte) (x : Bridge) : (mbrConfigured ps x).o = x.o := by
  simp only [mbrConfigured, apply_ite Bridge.o, ite_self]

theorem Bridge.ConfiguredFrom.of_params {ps : List Byte} {x y z : Bridge} (h : z.params = y.params) (hy : x.ConfiguredFrom ps y) :
    x.ConfiguredFrom ps z := by
  simp only [Bridge.params, Prod.mk.injEq] at h
  obtain ⟨hcfg, hnext, hdead, hthr, hfilter, hen⟩ := h
  obtain ⟨hslew, hlimit, hnextLimit, hpour, hretryN, hdeadOf, hstall⟩ := hy
  constructor <;> simp only [hcfg, hnext, hdead, hthr, hfilter, hen] <;> assumption

/-- MBR_CONFIG within the image's contract: its bridge is configured, the rest of the bridges and the channels stay. -/
theorem State.mbrConfigure_spec (s : State) (b sel : Nat) (ps : List Byte) :
    let t := (s.setBridge b (mbrConfigured ps (s.bridge b))).mbrCleared b sel
    (∀ c, c ≠ b → t.bridge c = s.bridge c) ∧ (∀ i, t.chan i = s.chan i) ∧ (s.bridge b).ConfiguredFrom ps (t.bridge b) := by
  have hclear := (s.setBridge b (mbrConfigured ps (s.bridge b))).mbrCleared_clearStep b sel
  refine ⟨fun c hc => ?_, hclear.chans, .of_params hclear.params ?_⟩
  · rw [hclear.bridges c hc, State.setBridge_bridge_ne _ _ _ _ hc]
  · rw [State.setBridge_bridge]
    exact mbrConfigured_from ps _

end Sys2Proof.Machine

open Sys2Proof Sys2Proof.Machine

/-- Settles O58: MBR_DRIVE and MBR_BRAKE by what the bridge does with its mode and duty, MBR_CONFIG by its parameters and its clears. -/
theorem bridgeCommandActions : Obligations.BridgeCommandActions := by
  intro pk s b _ hen hb
  subst hb
  refine ⟨⟨mbrDrive_short, mbrDrive_inert, mbrBrake_inert, fun hinert => ⟨?_, fun hlong => ?_⟩⟩, mbrConfig_beyond,
    fun hwithin => ?_⟩
  · rw [mbrBrake_runs hinert]
    exact State.bridgeCommand_offInto (.of_eq rfl rfl rfl) rfl hen hinert rfl (.inr rfl)
  · rw [mbrDrive_runs hlong hinert]
    refine ⟨fun hm => ?_, fun hm hd => ?_, fun hm hd hstall => State.mbrRun_stalled _ hen hm hd hstall,
      fun hm hd hstall hcmd hout hacct => ?_⟩
    · exact State.mbrRun_offInto _ hen hinert (by rw [hm]; rfl) (.inl rfl)
    · refine State.mbrRun_offInto _ hen hinert (by rw [hd, Bridge.modeOf_zero _ hm]) ?_
      split
      · exact .inr rfl
      · exact .inl rfl
    · have hx : (s.bridge (u8 pk.params 0)).Starts (u8 pk.params 1) := ⟨by omega, by omega, hout, hacct⟩
      refine ⟨State.mbrRun_shed _ hen hm hd hx, fun hshed => ⟨State.mbrRun_refused _ hen hm hd hx hshed, fun hheld hadmits => ?_,
        fun hheld hadmits => ?_⟩⟩
      · exact State.mbrRun_held _ hen hm hd hx hshed ((congrArg _ (if_pos hheld)).trans hadmits) hheld
      · exact State.mbrRun_on _ hen hm hd hx hshed ((congrArg _ (if_neg (ne_true_of_eq_false hheld))).trans hadmits) hheld
  · obtain ⟨hbridges, hchans, hparams⟩ := s.mbrConfigure_spec (u8 pk.params 0) (u16 pk.params 2) pk.params
    refine ⟨_, mbrConfig_within hwithin, hbridges, hchans, hparams.slew, hparams.limit, hparams.nextLimit, hparams.pour, hparams.retryN,
      hparams.dead, hparams.stall, fun hclear => ?_, State.mbrCleared_coasts _ _, fun h8 i hi => State.mbrCleared_oc _ _ h8 hi,
      fun h9 i hi => State.mbrCleared_th _ _ h9 hi, State.mbrCleared_xlock _ _⟩
    rw [State.mbrCleared_none _ _ hclear, State.setBridge_bridge]
    exact ⟨mbrConfigured_cmd _ _, mbrConfigured_o _ _, rfl⟩

end

