-- ==== Sys2Proof/Proofs/RoutePipelines.lean ====
section
/-!
PROOFS. The pipelines of the signal gateway: a ROUTE stroke converts its entries without writing a destination, and its completion
commits the writes to actuator records and destination mailboxes (R178 to R183, R422).
-/

namespace Sys2Proof.Machine

/-! ### What the conversion of an entry leaves alone (R173 to R178) -/

/-- Memory, the transmit buffers, the actuator records and the pipelines. -/
def State.convView (s : State) : List Host.Cell × Tab TxBuf × Tab ActRec × Tab Pipe := (s.mem, s.gw.tx, s.gw.recs, s.gw.pipes)

@[simp] theorem State.gwEvent_mem (s : State) (src kind sig data : Nat) : (s.gwEvent src kind sig data).mem = s.mem :=
  s.raiseOnce_mem _ src kind data

@[simp] theorem State.gwEvent_gw (s : State) (src kind sig data : Nat) : (s.gwEvent src kind sig data).gw = s.gw :=
  s.raiseOnce_gw _ src kind data

theorem State.gwEvent_convView (s : State) (src kind sig data : Nat) : (s.gwEvent src kind sig data).convView = s.convView := by
  simp [State.convView]

theorem State.mailboxRead_convView (s : State) (n : Nat) : (s.mailboxRead n).1.convView = s.convView := by
  simp only [State.mailboxRead, apply_ite Prod.fst, apply_ite State.convView]
  exact ite_self _

/-- Only a source mailbox notes that it was read (R171). -/
theorem State.sourceRead_convView (s : State) (e : List Byte) (edge : Option (Nat × Nat)) :
    (s.sourceRead e edge).1.convView = s.convView := by
  unfold State.sourceRead
  dsimp only
  split
  case h_4 => exact s.mailboxRead_convView _
  all_goals rfl

/-- The writes of an entry are its result; the state keeps them out of every destination. -/
theorem State.execEntry_convView (s : State) (sig src : Nat) (edge : Option (Nat × Nat)) :
    (s.execEntry sig src edge).1.convView = s.convView := by
  unfold State.execEntry
  extract_lets e st rdv s₁ raw val empty gw s₂ st₂ forced res
  have hread : s₁.convView = s.convView := s.sourceRead_convView e edge
  have hreport : s₂.convView = s₁.convView := by
    unfold s₂
    split
    · exact State.gwEvent_convView _ src 3 sig sig
    · split
      · exact State.gwEvent_convView _ src 2 sig sig
      · rfl
  rw [← hread, ← hreport]
  cases res with
  | none => rfl
  | some r =>
    dsimp only
    split
    · exact State.gwEvent_convView _ src 1 sig _
    · rfl

theorem State.routeLoad_convView (s : State) (sig : Nat) : (s.routeLoad sig).convView = s.convView := by
  unfold State.routeLoad
  split <;> rfl

theorem State.routeMiss_convView (s : State) (sig : Nat) : (s.routeMiss sig).convView = s.convView := by
  rw [← s.routeLoad_convView sig]
  simp [State.routeMiss, State.convView]

/-! ### What a stroke's entries leave alone (R178, R182) -/

/-- What the conversion of a stroke of pipeline `p` keeps: the destinations, the waiting strokes, and when the stroke started. -/
def State.strokeView (s : State) (p : Nat) :
    (List Host.Cell × Tab TxBuf × Tab ActRec) × List RouteStroke × Bool × Nat × Nat :=
  ((s.mem, s.gw.tx, s.gw.recs), (s.pipe p).queue, (s.pipe p).busy, (s.pipe p).start, (s.pipe p).strokes)

theorem State.strokeView_of_convView {s t : State} (h : t.convView = s.convView) (p : Nat) : t.strokeView p = s.strokeView p := by
  simp only [State.convView, Prod.mk.injEq] at h
  obtain ⟨hmem, htx, hrecs, hpipes⟩ := h
  simp only [State.strokeView, State.pipe, hmem, htx, hrecs, hpipes]

theorem State.setPipe_strokeView (s : State) (p : Nat) (x : Pipe) :
    (s.setPipe p x).strokeView p = ((s.mem, s.gw.tx, s.gw.recs), x.queue, x.busy, x.start, x.strokes) := by
  rw [State.strokeView, State.setPipe_pipe]
  rfl

theorem State.routeOne_strokeView (p : Nat) (acc : State × List GwWrite) (sig : Nat) :
    (State.routeOne p acc sig).1.strokeView p = acc.1.strokeView p := by
  unfold State.routeOne
  extract_lets s₀ s₁ r s₂ gw s₃ x
  have hfetch : s₁.convView = s₀.convView := by
    simp only [s₁, apply_ite State.convView, State.routeMiss_convView, ite_self]
  have hconv : s₃.convView = s₁.convView := s₁.execEntry_convView sig (0x121 + p) none
  split
  · exact State.strokeView_of_convView hfetch p
  · exact (s₃.setPipe_strokeView p _).trans (State.strokeView_of_convView (hconv.trans hfetch) p)

theorem State.foldl_routeOne_strokeView (p : Nat) (sigs : List Nat) (acc : State × List GwWrite) :
    (sigs.foldl (State.routeOne p) acc).1.strokeView p = acc.1.strokeView p := by
  induction sigs generalizing acc with
  | nil => rfl
  | cons sig sigs ih => exact (ih _).trans (State.routeOne_strokeView p acc sig)

/-- An idle pipeline takes its next stroke; the conversion of the entries keeps what was set at the start. -/
theorem State.routeStart_strokeView {s : State} {p : Nat} {q : RouteStroke} {rest : List RouteStroke}
    (hqueue : (s.pipe p).queue = q :: rest) (hidle : (s.pipe p).busy = false) :
    (s.routeStart p).strokeView p = ((s.mem, s.gw.tx, s.gw.recs), rest, true, s.et, wrap32 (s.pipe p).strokes) := by
  unfold State.routeStart
  extract_lets x
  have hx : x.queue = q :: rest := hqueue
  rw [hx]
  dsimp only
  rw [if_neg (by simp [x, hidle])]
  exact (State.setPipe_strokeView _ p _).trans ((State.foldl_routeOne_strokeView p _ _).trans (State.setPipe_strokeView s p _))

/-! ### Completion of a stroke (R178, R182) -/

/-- The pipeline of a stroke that completes at ET `et`. -/
def Pipe.completed (x : Pipe) (et : Nat) : Pipe :=
  { x with busy := false, writes := [], trace := none, maxExec := max x.maxExec (clip 16 (et - x.start)) }

theorem State.routeCommit_busy {s : State} {p : Nat} (h : (s.pipe p).busy = true) : s.routeCommit p =
    ((s.pipe p).writes.foldl (fun s w => s.commitWrite (0x121 + p) w) (s.setPipe p ((s.pipe p).completed s.et))).traceLog 0
      (s.pipe p).trace :=
  if_neg (by simp [h])

/-! ### Writes to actuator records (R179, R422) -/

theorem State.commitWrite_actuator (s : State) (src : Nat) {w : GwWrite} (h : w.kind = 2 ∨ w.kind = 3) :
    s.commitWrite src w = s.writeRec src w := by
  unfold State.commitWrite
  rcases h with h | h <;> simp only [h]

theorem State.writeRec_free {s : State} {w : GwWrite} (src : Nat) (hfree : (s.actRec (recOf w)).hold = 0)
    (hruns : (s.part (s.destOwner w.kind w.id)).inReset = false) : s.writeRec src w = s.putRec w 0 := by
  simp [State.writeRec, hfree, hruns]

theorem State.writeRec_held {s : State} {w : GwWrite} (src : Nat) (hheld : (s.actRec (recOf w)).hold ≠ 0) :
    (s.writeRec src w).gw = { s.gw with heldDrops := sat32 s.gw.heldDrops } := by
  simp [State.writeRec, hheld]

theorem State.putRec_actRec_same (s : State) (w : GwWrite) (hold : Nat) : (s.putRec w hold).actRec (recOf w) =
    { has := true, value := w.value, age := w.age, since := 0, et := s.et, hold := hold } :=
  Tab.val_put_same _ _ _ _

theorem State.putRec_actRec_ne (s : State) (w : GwWrite) (hold : Nat) {k : Nat} (h : k ≠ recOf w) :
    (s.putRec w hold).actRec k = s.actRec k :=
  Tab.val_put_ne _ _ _ _ _ h

/-! ### Writes to destination mailboxes (R171, R180) -/

/-- A write leaves a read beside it alone. -/
theorem memRead_memWrite_outside (bs : List Byte) (m : List Host.Cell) (a n : Nat) : ∀ c, c + n ≤ a ∨ a + bs.length ≤ c →
    memRead (memWrite m a bs) c n = memRead m c n := by
  induction n with
  | zero => intros; rfl
  | succ n ih =>
    intro c h
    rw [memRead, memRead, ih _ (by omega), memGet_memWrite_outside _ _ _ _ (by omega)]

/-- A VALUE of 8 bytes, AGE and MB_FLAGS, and SEQ, written one behind the other from `a` up. -/
def mailboxMem (m : List Host.Cell) (a : Nat) (value ageFlags seq : List Byte) : List Host.Cell :=
  memWrite (memWrite (memWrite m a value) (a + 8) ageFlags) (a + 10) seq

/-- Each field of a written mailbox reads back, and no byte outside the 12 changes. -/
theorem mailboxMem_reads (m : List Host.Cell) (a : Nat) {value ageFlags seq : List Byte} (hvalue : value.length = 8)
    (hage : ageFlags.length = 2) (hseq : seq.length = 2) : memRead (mailboxMem m a value ageFlags seq) a 8 = value ∧
    memRead (mailboxMem m a value ageFlags seq) (a + 8) 2 = ageFlags ∧
    memRead (mailboxMem m a value ageFlags seq) (a + 10) 2 = seq ∧
    ∀ b, b < a ∨ a + 12 ≤ b → memGet (mailboxMem m a value ageFlags seq) b = memGet m b := by
  unfold mailboxMem
  refine ⟨?_, ?_, ?_, fun b hb => ?_⟩
  · rw [memRead_memWrite_outside _ _ _ _ _ (by omega), memRead_memWrite_outside _ _ _ _ _ (by omega)]
    exact hvalue ▸ memRead_memWrite value m a
  · rw [memRead_memWrite_outside _ _ _ _ _ (by omega)]
    exact hage ▸ memRead_memWrite ageFlags _ (a + 8)
  · exact hseq ▸ memRead_memWrite seq _ (a + 10)
  · rw [memGet_memWrite_outside _ _ _ _ (by omega), memGet_memWrite_outside _ _ _ _ (by omega),
      memGet_memWrite_outside _ _ _ _ (by omega)]

theorem State.commitWrite_mailbox (s : State) (src : Nat) {w : GwWrite} (h : w.kind = 4) :
    s.commitWrite src w = s.writeMailbox w := by
  simp only [State.commitWrite, h]

theorem State.writeMailbox_mem {s : State} {w : GwWrite} (hplaced : (s.gw.mbx.val {} w.id).placed = true)
    (hdest : (s.gw.mbx.val {} w.id).dest = true) :
    (s.writeMailbox w).mem = mailboxMem s.mem (s.gw.mbx.val {} w.id).addr
      (leBytes 8 (if w.outType = 1 then twos 64 w.value else w.value.toNat))
      (leBytes 1 w.age ++ leBytes 1 (pack [(0, 1, b2n w.sat), (1, 1, b2n w.forced)]))
      (leBytes 2 (u16 (memRead s.mem ((s.gw.mbx.val {} w.id).addr + 10) 2) 0 + 1)) := by
  unfold State.writeMailbox
  simp only [hplaced, hdest, Bool.not_true, Bool.or_self, Bool.false_eq_true, if_false, beq_iff_eq]
  rfl

/-! ### Strokes that wait (R182, R183) -/

theorem State.routeQueue_room {s : State} {p : Nat} (first count : Nat) (tr : Option TraceOf) (hp : p < 4)
    (hroom : (s.pipe p).queue.length < 16) :
    ((s.routeQueue p first count tr).pipe p).queue = (s.pipe p).queue ++ [⟨first, count, tr⟩] := by
  unfold State.routeQueue
  dsimp only
  rw [if_neg (by simp; omega), State.setPipe_pipe]

end Sys2Proof.Machine

open Sys2Proof Sys2Proof.Machine

/-- Settles O34: the start by what the conversion leaves alone, the completion as its list of writes, and the writes to records and
mailboxes by what they store. -/
theorem routePipelines : Obligations.RoutePipelines := by
  refine ⟨fun s p q rest hqueue hidle => ?_, fun s p hbusy => ?_, fun s src w hkind => ?_, fun s src w hkind hplaced hdest => ?_,
    fun s p first count tr hp hroom => State.routeQueue_room first count tr hp hroom⟩
  · have hview := State.routeStart_strokeView hqueue hidle
    simp only [State.strokeView, Prod.mk.injEq] at hview
    obtain ⟨⟨hmem, htx, hrecs⟩, hrest, hnow, hstart, hstrokes⟩ := hview
    exact ⟨_, rfl, hrest, hnow, hstart, hstrokes, htx, hrecs, hmem⟩
  · refine ⟨s.setPipe p ((s.pipe p).completed s.et), congrArg Host.Outcome.next (State.routeCommit_busy hbusy), ?_⟩
    rw [State.setPipe_pipe]
    exact ⟨rfl, rfl, rfl, rfl⟩
  · rw [s.commitWrite_actuator src hkind]
    refine ⟨fun hfree hruns => ?_, fun hheld => ?_⟩
    · rw [State.writeRec_free src hfree hruns]
      exact ⟨s.putRec_actRec_same w 0, fun k hk => s.putRec_actRec_ne w 0 hk⟩
    · rw [State.writeRec_held src hheld]
      exact ⟨rfl, rfl⟩
  · extract_lets a t
    have hmem : t.mem = _ := (congrArg State.mem (s.commitWrite_mailbox src hkind)).trans (State.writeMailbox_mem hplaced hdest)
    rw [hmem]
    exact mailboxMem_reads s.mem a (length_leBytes 8 _) rfl (length_leBytes 2 _)

end

