-- ==== Sys2Proof/Proofs/NetworkRows.lean ====
section
/-!
PROOFS. The frame of the rows of networks, the gateway, time sources, partitions, rings, sleep and the fault collector.
-/

namespace Sys2Proof.Machine

/-- Each row of the class is an operation that leaves the view `State.kNet` alone. -/
theorem exec_netRow {i : Instr} (s : State) (h : i.netRow = true) : ∃ t, exec i s = .next t ∧ t.kNet = s.kNet := by
  cases i with
  | dbProducer | dbConsumer | irqAck | viConsume | viOvfAck | lowWordRead | statusWindowStore
  | routeExecution | routeCommit | strokeBlockArrived | ristrettoSlot | decisionPoint
  | gptpSyncReceived | ppsEdge | syncReceiptTimeout | ppsTimeout | revertHoldoffExpiry | holdoverExpired | timeWaitTimeout | pgEdge
  | syncTransmit | crankStart | crankEnd | overvoltage | overvoltageEnd
  | frameDecisionPoint | frameEnd | transmissionSelect | fdbAgeing | cbResetTimeout
  | linkUp | linkDown | trainFail | tc10Asleep | tc10SleepTimeout | tc10RemoteSleep | tc10Wake | phyFault
  | plcaBeaconLost | plcaBeaconReceived | segmentAlone | cableDiagDone | prtTrainTimeout
  | canFrameReceived | canFrameValid | canAttemptStart | canArbitrationLost | canBusError | canTxSuccess | canIntegrated
  | busOffRecovered | canWake
  | fryCycleStart | fryActionPoint | fryFrameReceived | branchTxStart | branchTruncated | pocState | frAlone | coldstartRetry
  | fryStartTimeout
  | linFrameEnd | linResponseTimeout | linHeaderReceived | linIdleSleep | linWake | linWakingEnd | linWakeNoHeader
  | wirebreakTestDone | pairHalted | pairResumed | secureInterrupt | partResetDone | partRestarted | supervisionTimeout
  | eventDelivery | ringSlotMove | keyRegisterRemask | mkaSakInstall | tamperBootRetry
  | startLoadComplete | prepFallbackTimeout | sleepArming | tc10SleepForced | wkoPulseEnd
  | bridgeRetry | busTimeout | holdBufferDrain | cdcOverrun | patrolScrub | eccCorrected | poisonRead | faultReport | logFlush =>
    exact ⟨_, rfl, by simp⟩
  | _ => cases h

end Sys2Proof.Machine

open Sys2Proof Sys2Proof.Machine

/-- Settles O23: the view that these rows leave alone, field by field. -/
theorem networkEventsFrame : Obligations.NetworkEventsFrame := by
  intro i s h
  obtain ⟨t, hexec, hview⟩ := exec_netRow s h
  exact ⟨t, hexec, State.kNet_ext hview⟩

end

