-- ==== Sys2Proof/Proofs/ChannelOutlets.lean ====
section
/-!
PROOFS. A load channel as an outlet: what the operations that turn it off, arm it, turn it on and refuse it do to it, and what
the ledger sees of it (R206, R207, R264, R266).
-/

namespace Sys2Proof.Machine

/-! ### Channel `i` as an outlet -/

theorem State.protLive_lt {s : State} {i : Nat} (h : s.protLive i = true) : i < 68 := by
  simp only [State.protLive, Bool.and_eq_true, decide_eq_true_eq] at h
  omega

section
variable (s : State) {i : Nat} (hi : i < 56)
include hi

theorem outletOf_chan : outletOf i = i := if_pos hi

theorem mem_machines_chan : i ∈ machines i := by
  simp [machines, hi]

theorem State.outlet_chan : s.outlet i = (s.chan i).o := if_pos hi

theorem State.setOutlet_eq_setChan (o : Outlet) : s.setOutlet i o = s.setChan i { s.chan i with o := o } := if_pos hi

/-- A turn-on that is armed waits, with its charge. -/
theorem State.outArm_chan (a : Option Nat) (p r : Bool) : ∃ o : Outlet,
    (s.outArm i a p r).chan i = { s.chan i with o := o } ∧ o.pend = true ∧ o.acct = a := by
  unfold State.outArm
  rw [State.setOutlet_eq_setChan _ hi, State.setChan_chan]
  exact ⟨_, rfl, rfl, rfl⟩

theorem State.outGo_chan : ∃ o : Outlet,
    (s.outGo i).chan i = { s.chan i with o := o } ∧ o.on = true ∧ o.pend = false ∧ o.acct = (s.chan i).o.acct := by
  unfold State.outGo
  dsimp only
  rw [State.markOk_chan, State.setOutlet_eq_setChan _ hi, State.setChan_chan]
  exact ⟨_, rfl, rfl, rfl, by rw [State.outlet_chan s hi]⟩

theorem State.outOn_chan (a : Option Nat) (p r : Bool) : ∃ o : Outlet,
    (s.outOn i a p r).chan i = { s.chan i with o := o } ∧ o.on = true ∧ o.acct = a := by
  obtain ⟨o, harm, -, hacct⟩ := s.outArm_chan hi a p r
  obtain ⟨o', hgo, hon, -, hacct'⟩ := (s.outArm i a p r).outGo_chan hi
  rw [harm] at hgo hacct'
  exact ⟨o', hgo, hon, hacct'.trans hacct⟩

end

/-! ### A refusal (R266) -/

theorem State.refused_chan (s : State) (k a origin amount i : Nat) : (s.refused k a origin amount).chan i = s.chan i := by
  unfold State.refused
  dsimp only
  split
  · rfl
  · rw [State.raise_chan]
    rfl

theorem State.refused_feed (s : State) (k a origin amount : Nat) : (s.refused k a origin amount).feed (feedOf k) =
    { s.feed (feedOf k) with refusals := sat16 (s.feed (feedOf k)).refusals } := by
  unfold State.refused
  dsimp only
  split
  · exact State.setFeed_feed ..
  · rw [State.raise_feed]
    exact State.setFeed_feed ..

/-- A retry's refusal is counted and changes no machine. -/
theorem State.refusedQuiet_prot (s : State) (k i : Nat) : (s.refusedQuiet k).prot i = s.prot i := rfl

/-! ### Off (R206) -/

/-- A channel that is commanded off: its output off, its envelope released. -/
def Chan.turnedOff (x : Chan) : Chan :=
  { x with
    cmd := 0, duty := 0, curDuty := 0
    o := { x.o with on := false, pend := false, step := 0, retry := false, acct := none, shed := false } }

theorem State.loadOff_chan (s : State) {i : Nat} (hi : i < 56) : (s.loadOff i).chan i = (s.chan i).turnedOff := by
  unfold State.loadOff
  dsimp only
  rw [State.setProt_chan, State.setChan_chan, State.outRelease_chan, if_pos ⟨hi, rfl⟩, State.outOff_outlet, State.outOff_chan,
    if_pos ⟨hi, rfl⟩, State.outlet_chan s hi]
  rfl

theorem State.loadOff_prot (s : State) {i : Nat} (hi : i < 56) : (s.loadOff i).prot i = (s.prot i).turnedOff := by
  unfold State.loadOff
  dsimp only
  rw [State.setProt_prot, State.setChan_prot, State.outRelease_prot, State.outOff_prot, if_pos (mem_machines_chan hi)]
  rfl

/-! ### What the commanded state of a channel does not enter into -/

section
variable (s : State) (i : Nat) (x : Chan)

theorem State.setChan_classShed (f c : Nat) : (s.setChan i x).classShed f c = s.classShed f c := rfl

theorem State.setChan_protHeld (k : Nat) : (s.setChan i x).protHeld k = s.protHeld k := rfl

/-- The ledger sees of a channel its outlet and its configuration. -/
theorem State.setChan_admits (ho : x.o = (s.chan i).o) (hcfg : x.cfg = (s.chan i).cfg) (f a amount : Nat) :
    (s.setChan i x).admits f a amount = s.admits f a amount := by
  have hcharge (k : Nat) : (s.setChan i x).outCharge k a = s.outCharge k a := by
    unfold State.outCharge State.outlet State.cfgOf
    by_cases hk : k = i
    · subst hk
      rw [State.setChan_chan, ho, hcfg]
      rfl
    · rw [State.setChan_chan_ne _ _ _ _ hk]
      rfl
  unfold State.admits State.charge
  simp only [hcharge]
  rfl

end

end Sys2Proof.Machine
end

