-- ==== Sys2Proof/Proofs/ProtectionMachines.lean ====
section
/-!
PROOFS. The over-current and thermal machines of a channel or leg (R213 to R217, R232).
-/

namespace Sys2Proof.Machine

/-! ### A trip (R213, R215) -/

theorem State.ocTripRow_trips {s : State} {i current : Nat} (hlive : s.protLive i = true) (hpermits : (s.prot i).permits = true)
    (hconducts : s.conducts i = true) (hover : s.tripLevel i < current) : s.ocTripRow i current = s.ocTrip i :=
  if_pos (by simp [hlive, hpermits, hconducts, hover])

theorem State.ocTrip_prot (s : State) {i : Nat} (hi : i < 68) : (s.ocTrip i).prot i =
    { s.prot i with
      oc := if (s.cfgOf (outletOf i)).retryN ≤ (s.prot i).att then 4 else 1
      okSince := none, pauseEnd := s.et + 2 ^ (s.prot i).att * nsMs, trips := sat32 (s.prot i).trips, lastTrip := s.et } := by
  unfold State.ocTrip
  dsimp only
  split <;> simp_all [State.outOff_prot, mem_machines hi]

theorem State.ocTrip_off (s : State) (i : Nat) : ((s.ocTrip i).outlet (outletOf i)).on = false := by
  unfold State.ocTrip
  dsimp only
  split <;> simp

/-! ### A pause that ends, and a deferred retry (R214, R215) -/

theorem State.ocPauseRow_hot {s : State} {i : Nat} (hth : (s.prot i).th ≠ 0) : s.ocPauseRow i = s :=
  if_neg (by simp [hth])

theorem State.ocPauseRow_cool {s : State} {i : Nat} (hlive : s.protLive i = true) (hoc : (s.prot i).oc = 1)
    (hend : (s.prot i).pauseEnd ≤ s.et) (hth : (s.prot i).th = 0) : s.ocPauseRow i = s.ocPauseEnd i :=
  if_pos (by simp [hlive, hoc, hend, hth])

/-- A retry is given up because the outlet is commanded off. -/
def State.retryGivenUp (s : State) (i : Nat) : State := (s.setProt i { s.prot i with oc := 3 }).restoreOut (outletOf i)

theorem State.retryGivenUp_prot (s : State) (i : Nat) : (s.retryGivenUp i).prot i = { s.prot i with oc := 3 } := by
  unfold State.retryGivenUp
  rw [State.restoreOut_prot, State.setProt_prot]

theorem State.ocPauseEnd_off {s : State} {i : Nat} (hoff : s.wanted (outletOf i) = false) : s.ocPauseEnd i = s.retryGivenUp i :=
  if_pos (by simp [hoff])

/-- A retry begins to wait (R214). -/
def State.deferred (s : State) (i : Nat) : State :=
  s.setProt i { s.prot i with
    oc := 2, deferAt := s.et, deferNb := s.nbPour (outletOf i) && s.tp (outletOf i) != 0 }

theorem State.ocPauseEnd_admitted {s : State} {i : Nat} (hon : s.wanted (outletOf i) = true) {pour : Bool}
    (h : s.retryVerdict (outletOf i) s.et true = some pour) : s.ocPauseEnd i = (s.deferred i).ocRetry i pour := by
  unfold State.ocPauseEnd
  dsimp only
  rw [if_neg (by simp [hon]), State.setProt_retryVerdict, State.setProt_et, h]
  rfl

theorem State.ocPauseEnd_waits {s : State} {i : Nat} (hon : s.wanted (outletOf i) = true)
    (h : s.retryVerdict (outletOf i) s.et true = none) : (s.ocPauseEnd i).prot i =
      { (s.deferred i).prot i with deferrals := sat16 (s.prot i).deferrals } := by
  unfold State.ocPauseEnd State.deferred
  dsimp only
  rw [if_neg (by simp [hon]), State.setProt_retryVerdict, State.setProt_et, h]
  dsimp only
  rw [State.setProt_prot]
  split <;> simp [State.refusedQuiet_prot]

theorem State.ocRetry_prot (s : State) (i : Nat) (pour : Bool) : ∃ since, (s.ocRetry i pour).prot i =
    { s.prot i with oc := 3, att := (s.prot i).att + 1, okSince := since } := by
  unfold State.ocRetry
  obtain ⟨since, hback⟩ :=
    (s.setProt i { s.prot i with oc := 3, att := (s.prot i).att + 1 }).outBack_prot (outletOf i) i pour
  refine ⟨since, ?_⟩
  dsimp only
  rw [State.raise_prot, hback, State.setProt_prot]

section
variable {s : State} {i : Nat} (hlive : s.protLive i = true) (hoc : (s.prot i).oc = 2)
include hlive hoc

theorem State.ocRetryRow_off (hoff : s.wanted (outletOf i) = false) : s.ocRetryRow i = s.retryGivenUp i := by
  simp [State.ocRetryRow, State.retryGivenUp, hlive, hoc, hoff]

theorem State.ocRetryRow_admitted (hon : s.wanted (outletOf i) = true) {pour : Bool}
    (h : s.retryVerdict (outletOf i) (s.prot i).deferAt true = some pour) : s.ocRetryRow i = s.ocRetry i pour := by
  simp [State.ocRetryRow, hlive, hoc, hon, h]

end

theorem State.ocRecovered_prot {s : State} {i m : Nat} (hlive : s.protLive i = true) (hoc : (s.prot i).oc = 3)
    (hsince : (s.prot i).okSince = some m) (hlong : m + nsS ≤ s.et) :
    (s.ocRecovered i).prot i = { s.prot i with oc := 0, att := 0 } := by
  simp [State.ocRecovered, hlive, hoc, hsince, hlong]

/-! ### A thermal shutdown (R216) -/

theorem State.prot_congr {s t : State} (h : t.lsw.prot = s.lsw.prot) (i : Nat) : t.prot i = s.prot i := by
  unfold State.prot
  rw [h]

theorem State.outlet_congr {s t : State} (hchans : t.lsw.chans = s.lsw.chans) (hbridges : t.lsw.bridges = s.lsw.bridges) (k : Nat) :
    t.outlet k = s.outlet k := by
  unfold State.outlet State.chan State.bridge
  rw [hchans, hbridges]

/-- A machine after a thermal shutdown at ET `et` with the stored shutdowns `list`, this one among them. -/
def Prot.shutDown (p : Prot) (et : Nat) (list : List Nat) (tj dt : Int) : Prot :=
  { p with
    th := if 4 ≤ list.length then 2 else 1, shutdowns := list, thAt := et, thOver := false, thWait := none, tj := tj, dt := dt
    oc := if p.oc = 2 then 1 else p.oc
    pauseEnd := if p.oc = 2 then et else p.pauseEnd
    thShutdowns := sat16 p.thShutdowns }

/-- The outlet off and the machine shut down, before the reference temperature and the events. -/
def State.shutDown (s : State) (i : Nat) (tj dt : Int) : State :=
  (s.outOff (outletOf i)).setProt i
    (((s.outOff (outletOf i)).prot i).shutDown s.et (s.et :: s.recentShutdowns i) tj dt)

theorem State.thShutdown_keeps (s : State) (i : Nat) (tj dt : Int) :
    (s.thShutdown i tj dt).prot i = (s.shutDown i tj dt).prot i ∧
      ∀ k, (s.thShutdown i tj dt).outlet k = (s.shutDown i tj dt).outlet k := by
  unfold State.thShutdown
  extract_lets k list latch off p set lsw ref told
  have hset : set = s.shutDown i tj dt := by
    simp [set, p, off, latch, list, k, State.shutDown, Prot.shutDown]
  have href : ref.lsw.prot = set.lsw.prot ∧ ref.lsw.chans = set.lsw.chans ∧ ref.lsw.bridges = set.lsw.bridges := by
    unfold ref
    split <;> exact ⟨rfl, rfl, rfl⟩
  obtain ⟨hprot, hchans, hbridges⟩ := href
  have htold : told.prot i = set.prot i ∧ ∀ k, told.outlet k = set.outlet k :=
    ⟨(State.raise_prot ..).trans (State.prot_congr hprot i),
      fun k => (State.raise_outlet ..).trans (State.outlet_congr hchans hbridges k)⟩
  rw [← hset]
  split
  · exact ⟨(State.raise_prot ..).trans htold.1, fun k => (State.raise_outlet ..).trans (htold.2 k)⟩
  · exact htold

theorem State.thShutdown_prot (s : State) {i : Nat} (hi : i < 68) (tj dt : Int) : (s.thShutdown i tj dt).prot i =
    { (s.prot i).shutDown s.et (s.et :: s.recentShutdowns i) tj dt with okSince := none } := by
  obtain ⟨hprot, -⟩ := s.thShutdown_keeps i tj dt
  rw [hprot, State.shutDown, State.setProt_prot, State.outOff_prot, if_pos (mem_machines hi)]
  rfl

theorem State.thShutdown_off (s : State) (i : Nat) (tj dt : Int) : ((s.thShutdown i tj dt).outlet (outletOf i)).on = false := by
  obtain ⟨-, houtlet⟩ := s.thShutdown_keeps i tj dt
  rw [houtlet, State.shutDown, State.setProt_outlet, State.outOff_outlet]

theorem State.thShutRow_shuts {s : State} {i : Nat} {tj dt : Int} (hlive : s.protLive i = true) (hth : (s.prot i).th = 0)
    (h : 1700 ≤ tj ∨ 600 ≤ dt) : s.thShutRow i tj dt = s.thShutdown i tj dt :=
  if_pos (by simp [hlive, hth, h])

theorem State.thShutRow_below {s : State} {i : Nat} {tj dt : Int} (htj : tj < 1700) (hdt : dt < 600) : s.thShutRow i tj dt = s :=
  if_neg (by simp [htj, hdt])

/-! ### A thermal restart, and one that is late (R214, R216) -/

theorem State.thRestart_prot (s : State) (i : Nat) (tj dt : Int) : ∃ since wait, (s.thRestart i tj dt).prot i =
    { s.prot i with th := 0, tj := tj, dt := dt, okSince := since, thWait := wait } := by
  unfold State.thRestart
  extract_lets k p set cool
  have hcool : cool.prot i = { s.prot i with th := 0, tj := tj, dt := dt } :=
    (State.raise_prot ..).trans (State.setProt_prot ..)
  split
  · split
    next pour _ =>
      obtain ⟨since, hback⟩ := cool.outBack_prot k i pour
      exact ⟨since, (s.prot i).thWait, by rw [hback, hcool]⟩
    next =>
      refine ⟨(s.prot i).okSince, some cool.et, ?_⟩
      change ((cool.refusedQuiet k).setProt i { cool.prot i with thWait := some cool.et }).prot i = _
      rw [State.setProt_prot, hcool]
  · refine ⟨(s.prot i).okSince, (s.prot i).thWait, ?_⟩
    rw [State.restoreOut_prot, hcool]

theorem State.thRestartRow_restarts {s : State} {i : Nat} {tj dt : Int} (hlive : s.protLive i = true) (hth : (s.prot i).th = 1)
    (htj : tj ≤ 1500) (hdt : dt ≤ 400) : s.thRestartRow i tj dt = s.thRestart i tj dt :=
  if_pos (by simp [hlive, hth, htj, hdt])

theorem State.thRestartRow_above {s : State} {i : Nat} {tj dt : Int} (h : 1500 < tj ∨ 400 < dt) : s.thRestartRow i tj dt = s :=
  if_neg (by simp only [Bool.and_eq_true, decide_eq_true_eq]; omega)

theorem State.cooldownOverrun_prot {s : State} {i : Nat} (hlive : s.protLive i = true) (hth : (s.prot i).th = 1)
    (hover : (s.prot i).thOver = false) (hlate : (s.prot i).thAt + 500 * nsMs ≤ s.et) :
    (s.cooldownOverrun i).prot i = { s.prot i with thOver := true } := by
  simp [State.cooldownOverrun, hlive, hth, hover, hlate]

/-! ### Clears and starts (R31, R232) -/

section
variable (pk : Packet) (s : State)

/-- What LSW_CLEAR_OC_LATCH leaves: an answer OK, the channel off, its machine as after a turn-off but READY. -/
theorem lswClearOcLatch_spec {i : Nat} (hi : i < 56) (hpk : u16 pk.params 0 = i) : ∃ t, lswClearOcLatchSpec.act pk s = ok t ∧
    t.chan i = (s.chan i).turnedOff ∧ t.prot i = { (s.prot i).turnedOff with oc := 0, att := 0 } := by
  subst hpk
  refine ⟨_, rfl, ?_, ?_⟩
  · rw [State.raise_chan, State.setProt_chan, State.loadOff_chan s hi]
  · rw [State.raise_prot, State.setProt_prot, State.loadOff_prot s hi]

/-- What LSW_CLEAR_THERMAL_LATCH leaves: the machine COOL where its last readings meet both restart thresholds. -/
theorem lswClearThermalLatch_spec {i : Nat} (hi : i < 56) (hpk : u16 pk.params 0 = i) :
    ∃ t, lswClearThermalLatchSpec.act pk s = ok t ∧ t.chan i = (s.chan i).turnedOff ∧ t.prot i = { (s.prot i).turnedOff with
      th := if (s.prot i).tj ≤ 1500 ∧ (s.prot i).dt ≤ 400 then 0 else 1, shutdowns := [] } := by
  subst hpk
  refine ⟨_, rfl, ?_, ?_⟩
  · rw [State.raise_chan, State.setProt_chan, State.loadOff_chan s hi]
  · rw [State.raise_prot, State.setProt_prot, State.loadOff_prot s hi]
    simp [Prot.cooled, Prot.turnedOff, Prot.retryDropped]

end

/-- Entry to STARTING: every machine at its reset value (R31). -/
theorem State.enterStarting_prot (s : State) (cause i : Nat) : (s.enterStarting cause).prot i = {} := rfl

end Sys2Proof.Machine

open Sys2Proof Sys2Proof.Machine

/-- Settles O26: each row is one transition of the machine, said of the whole machine. -/
theorem overCurrentMachine : Obligations.OverCurrentMachine := by
  refine ⟨fun s i current hlive hpermits hconducts hover => ?_,
    fun s i hlive hoc hend => ⟨fun hth => ?_, fun hth hoff => ?_, fun hth hon => ?_⟩,
    fun s i hlive hoc => ⟨fun hoff => ?_, fun hon pour hverdict => ?_⟩,
    fun s i m hlive hoc hsince hlong => ?_, fun s pk hi => ?_, fun s i tj dt hlive hth h => ?_, fun s cause i => ?_⟩
  · refine ⟨_, congrArg Host.Outcome.next (State.ocTripRow_trips hlive hpermits hconducts hover), ?_⟩
    rw [State.ocTrip_prot s (State.protLive_lt hlive)]
    exact ⟨rfl, rfl, rfl, s.ocTrip_off i, rfl, rfl, rfl⟩
  · exact congrArg Host.Outcome.next (State.ocPauseRow_hot hth)
  · refine ⟨_, congrArg Host.Outcome.next ((State.ocPauseRow_cool hlive hoc hend hth).trans (State.ocPauseEnd_off hoff)), ?_⟩
    rw [State.retryGivenUp_prot]
    exact ⟨rfl, rfl⟩
  · refine ⟨_, congrArg Host.Outcome.next (State.ocPauseRow_cool hlive hoc hend hth), fun hwaits => ?_, fun pour hverdict => ?_⟩
    · rw [State.ocPauseEnd_waits hon hwaits, State.deferred, State.setProt_prot]
      exact ⟨rfl, rfl, rfl⟩
    · obtain ⟨since, hprot⟩ := (s.deferred i).ocRetry_prot i pour
      rw [State.ocPauseEnd_admitted hon hverdict, hprot, State.deferred, State.setProt_prot]
      exact ⟨rfl, rfl⟩
  · refine ⟨_, congrArg Host.Outcome.next (State.ocRetryRow_off hlive hoc hoff), ?_⟩
    rw [State.retryGivenUp_prot]
    exact ⟨rfl, rfl⟩
  · obtain ⟨since, hprot⟩ := s.ocRetry_prot i pour
    refine ⟨_, congrArg Host.Outcome.next (State.ocRetryRow_admitted hlive hoc hon hverdict), ?_⟩
    rw [hprot]
    exact ⟨rfl, rfl⟩
  · refine ⟨_, rfl, ?_⟩
    rw [State.ocRecovered_prot hlive hoc hsince hlong]
    exact ⟨rfl, rfl⟩
  · obtain ⟨t, hact, hchan, hprot⟩ := lswClearOcLatch_spec pk s hi rfl
    rw [hact, ok, hchan, hprot]
    exact ⟨rfl, rfl, rfl⟩
  · refine ⟨_, congrArg Host.Outcome.next (State.thShutRow_shuts hlive hth h), ?_⟩
    rw [State.thShutdown_prot s (State.protLive_lt hlive)]
    exact ⟨rfl, rfl, fun hoc => if_pos hoc, fun hoc => if_neg hoc⟩
  · rw [State.enterStarting_prot]
    exact ⟨rfl, rfl, rfl⟩

/-- Settles O27, transition by transition. -/
theorem thermalMachine : Obligations.ThermalMachine := by
  refine ⟨fun s i tj dt hlive hth h => ?_, fun s i tj dt htj hdt => congrArg Host.Outcome.next (State.thShutRow_below htj hdt),
    fun s i tj dt hlive hth htj hdt => ?_, fun s i tj dt h => congrArg Host.Outcome.next (State.thRestartRow_above h),
    fun s i hlive hth hover hlate => ?_, fun s pk hi => ?_, fun s cause i => ?_⟩
  · refine ⟨_, congrArg Host.Outcome.next (State.thShutRow_shuts hlive hth h), s.thShutdown_off i tj dt, ?_⟩
    rw [State.thShutdown_prot s (State.protLive_lt hlive)]
    refine ⟨?_, rfl, rfl, rfl⟩
    rw [Nat.add_comm]
    rfl
  · obtain ⟨since, wait, hprot⟩ := s.thRestart_prot i tj dt
    refine ⟨_, congrArg Host.Outcome.next (State.thRestartRow_restarts hlive hth htj hdt), ?_⟩
    rw [hprot]
    exact ⟨rfl, rfl⟩
  · refine ⟨_, rfl, ?_⟩
    rw [State.cooldownOverrun_prot hlive hth hover hlate]
    exact ⟨hth, rfl⟩
  · obtain ⟨t, hact, hchan, hprot⟩ := lswClearThermalLatch_spec pk s hi rfl
    rw [hact, ok, hchan, hprot]
    exact ⟨rfl, rfl, rfl⟩
  · rw [State.enterStarting_prot]
    exact ⟨rfl, rfl⟩

end

