-- ==== Sys2Proof/Proofs/ChannelTimers.lean ====
section
/-!
PROOFS. What time does to a channel or leg: pour steps, PWM periods, sense milliseconds and the open-load filter (R206, R207,
R210, R212, R219, R230, R402).
-/

namespace Sys2Proof.Machine

/-! ### Pour steps (R212, R230) -/

/-- An outlet after its last pour step. -/
def Outlet.pourOver (o : Outlet) : Outlet := { o with step := 0, retry := false }

/-- A configuration in which a limit that waited for the end of the pour takes its place (R230). -/
def LoadCfg.takeLimit (c : LoadCfg) (next : Option Nat) : LoadCfg := { c with limit := next.getD c.limit }

/-- An outlet in the last step of its pour. -/
def Outlet.LastStep (o : Outlet) : Prop := o.step = 2 ∨ (o.step = 1 ∧ o.d2 = 0)

theorem Outlet.LastStep.running {o : Outlet} (h : o.LastStep) : o.step ≠ 0 := by
  rcases h with h | ⟨h, -⟩ <;> omega

theorem Outlet.LastStep.not_first {o : Outlet} (h : o.LastStep) : ¬ (o.step == 1 && o.d2 != 0) = true := by
  rcases h with h | ⟨h, hd2⟩ <;> simp [*]

theorem State.pourRow_ends {s : State} {i : Nat} (hlive : s.protLive i = true) (hon : (s.outlet (outletOf i)).on = true)
    (hend : (s.outlet (outletOf i)).stepEnd ≤ s.et) (hstep : (s.outlet (outletOf i)).step ≠ 0) :
    s.pourRow i = s.pourStepEnd (outletOf i) :=
  if_pos (by simp [hlive, hon, hend, hstep])

section
variable {s : State} {k : Nat}

theorem State.pourStepEnd_first (hstep : (s.outlet k).step = 1) (hd2 : (s.outlet k).d2 ≠ 0) : s.pourStepEnd k =
    s.setOutlet k { s.outlet k with step := 2, stepEnd := (s.outlet k).stepEnd + (s.outlet k).d2 * 100000 } :=
  if_pos (by simp [hstep, hd2])

variable (hlast : (s.outlet k).LastStep)
include hlast

theorem State.pourStepEnd_chan (hk : k < 56) : (s.pourStepEnd k).chan k =
    { s.chan k with
      o := (s.outlet k).pourOver, nextLimit := none, cfg := (s.chan k).cfg.takeLimit (s.chan k).nextLimit } := by
  unfold State.pourStepEnd
  dsimp only
  rw [if_neg hlast.not_first, if_pos hk, State.markOk_chan, State.setOutlet_chan, if_pos ⟨hk, rfl⟩]
  cases hnext : (s.chan k).nextLimit <;> simp [hnext, hk, State.setOutlet_chan, Outlet.pourOver, LoadCfg.takeLimit]

theorem State.pourStepEnd_bridge (hk : 56 ≤ k) : (s.pourStepEnd k).bridge (k - 56) =
    { s.bridge (k - 56) with
      o := (s.outlet k).pourOver, nextLimit := none
      cfg := (s.bridge (k - 56)).cfg.takeLimit (s.bridge (k - 56)).nextLimit } := by
  unfold State.pourStepEnd
  dsimp only
  rw [if_neg hlast.not_first, if_neg (by omega), State.markOk_bridge, State.setOutlet_bridge, if_pos ⟨hk, rfl⟩]
  cases hnext : (s.bridge (k - 56)).nextLimit <;>
    simp [hnext, hk, State.setOutlet_bridge, Outlet.pourOver, LoadCfg.takeLimit]

theorem State.pourStepEnd_outlet : (s.pourStepEnd k).outlet k = (s.outlet k).pourOver := by
  by_cases hk : k < 56
  · rw [State.outlet_chan _ hk, State.pourStepEnd_chan hlast hk]
  · rw [State.outlet, if_neg hk, State.pourStepEnd_bridge hlast (by omega)]

end

/-- Out of a pour the over-current limit is the trip level (R212). -/
theorem State.tripLevel_chan {s : State} {i : Nat} (hi : i < 56) (hstep : (s.chan i).o.step = 0) :
    s.tripLevel i = (s.chan i).cfg.limit := by
  simp [State.tripLevel, State.cfgOf, outletOf_chan hi, State.outlet_chan s hi, hstep, hi]

/-! ### PWM periods (R207, R263) -/

/-- A channel whose PWM period starts with duty `d`; a clamp of its on time counts. -/
def Chan.inPeriod (x : Chan) (d : Nat) : Chan :=
  { x with
    curDuty := d, curPeriod := x.period
    clamps := if (pwmOn (x.period * 1000) d (slewMin x.cfg.slew)).2 then sat16 x.clamps else x.clamps }

/-- The duty and the period of channel `i` take effect. -/
def State.inPeriod (s : State) (i : Nat) : State := s.setChan i ((s.chan i).inPeriod (s.lampDuty i))

/-- At the period start of a channel in PWM an armed turn-on takes place. -/
theorem State.periodRow_starts {s : State} {i : Nat} (hlive : s.protLive i = true) (hi : i < 56) (hcmd : (s.chan i).cmd = 2)
    (hgate : ((s.chan i).o.on || (s.chan i).o.pend) = true) :
    s.periodRow i = if (s.chan i).o.pend then (s.inPeriod i).outGo i else s.inPeriod i := by
  unfold State.periodRow State.loadPeriod
  rw [if_neg (by simp [hlive]), if_pos hi]
  exact if_neg (by simp [hcmd, hgate])

/-! ### Sense milliseconds (R210, R402) -/

theorem State.olMs_prot (s : State) (i mean n j : Nat) : (s.olMs i mean n).prot j = s.prot j := by
  unfold State.olMs
  dsimp only
  split
  · split <;> rfl
  · split <;> rfl

theorem State.stallMs_prot (s : State) (i avg : Nat) (drove : Bool) (j : Nat) : (s.stallMs i avg drove).prot j = s.prot j := by
  unfold State.stallMs
  dsimp only
  split <;> rfl

theorem State.senseMs_prot {s : State} {i : Nat} {m : SenseMs} (hactive : s.active = true) (hdi : m.di = false) (hi : i < 68) :
    ∃ on, (s.senseMs i m).prot i = { s.prot i with sense := m.code, avg := m.avg, senseOn := on } := by
  unfold State.senseMs
  rw [if_neg (by simp [hactive]), if_neg (by simp [hdi]), if_neg (by omega)]
  dsimp only
  split
  · exact ⟨_, by rw [State.olMs_prot, State.setProt_prot]⟩
  · exact ⟨_, by rw [State.stallMs_prot, State.setProt_prot]⟩

theorem State.senseMs_measure {s : State} {i : Nat} {m : SenseMs} (hactive : s.active = true) (hdi : m.di = true) (hi : i < 64)
    (hen : (s.din i).enabled = true) : ((s.senseMs i m).din i).measure = m.measure := by
  unfold State.senseMs State.dinMs
  rw [if_neg (by simp [hactive]), if_pos hdi]
  dsimp only
  rw [if_neg (by simp [hen, hi]), State.setDin_din]

/-! ### The open-load filter (R219) -/

theorem State.openLoad_chan {s : State} {i : Nat} (hi : i < 56) (hol : (s.chan i).ol = 2)
    (hrun : (s.chan i).olFilter ≤ (s.chan i).olRun) :
    (s.openLoad i).chan i = { s.chan i with ol := 3, olRun := 0, olOk := 0 } := by
  simp [State.openLoad, hi, hol, hrun]

theorem State.openLoadCleared_chan {s : State} {i : Nat} (hi : i < 56) (hol : (s.chan i).ol = 3)
    (hrun : (s.chan i).olFilter ≤ (s.chan i).olOk) :
    (s.openLoadCleared i).chan i = { s.chan i with ol := 1, olRun := 0, olOk := 0 } := by
  simp [State.openLoadCleared, hi, hol, hrun]

end Sys2Proof.Machine

open Sys2Proof Sys2Proof.Machine

/-- Settles O28: each row by the entry of the channel, machine or input that it changes. -/
theorem channelTimers : Obligations.ChannelTimers := by
  refine ⟨fun s i hlive hon hend => ⟨fun hstep hd2 => ?_, fun hlast => ?_⟩, fun s i hlive hi hcmd hgate => ?_,
    fun s i m hactive => ⟨fun hdi hi => ?_, fun hdi hi hen => ⟨_, rfl, State.senseMs_measure hactive hdi hi hen⟩⟩,
    fun s i hi hol hrun => ?_, fun s i hi hol hrun => ?_⟩
  · refine ⟨_, congrArg Host.Outcome.next ((State.pourRow_ends hlive hon hend (by omega)).trans (State.pourStepEnd_first hstep hd2)),
      ?_⟩
    rw [State.setOutlet_outlet]
    exact ⟨rfl, rfl⟩
  · have hlast : (s.outlet (outletOf i)).LastStep := hlast
    refine ⟨_, congrArg Host.Outcome.next (State.pourRow_ends hlive hon hend hlast.running), ?_, fun hi => ?_⟩
    · rw [State.pourStepEnd_outlet hlast]
      rfl
    · rw [outletOf_chan hi] at hlast ⊢
      have hchan := State.pourStepEnd_chan hlast hi
      rw [State.tripLevel_chan hi (by rw [hchan]; rfl), hchan]
      rfl
  · refine ⟨_, congrArg Host.Outcome.next (State.periodRow_starts hlive hi hcmd hgate), ?_⟩
    have hchan : (s.inPeriod i).chan i = (s.chan i).inPeriod (s.lampDuty i) := State.setChan_chan ..
    cases hpend : (s.chan i).o.pend with
    | true =>
      obtain ⟨o, hgo, hon, hoff, -⟩ := (s.inPeriod i).outGo_chan hi
      rw [if_pos rfl, hgo, hchan]
      exact ⟨rfl, rfl, fun _ => ⟨hon, hoff⟩, nofun⟩
    | false =>
      rw [if_neg nofun, hchan]
      exact ⟨rfl, rfl, nofun, fun _ => rfl⟩
  · obtain ⟨on, hprot⟩ := State.senseMs_prot hactive hdi hi
    refine ⟨_, rfl, ?_⟩
    rw [hprot]
    exact ⟨rfl, rfl⟩
  · refine ⟨_, rfl, ?_⟩
    rw [State.openLoad_chan hi hol hrun]
  · refine ⟨_, rfl, ?_⟩
    rw [State.openLoadCleared_chan hi hol hrun]

end

