-- ==== Sys2Proof/Proofs/LoadCommands.lean ====
section
/-!
PROOFS. What the LSW commands do to their channel (R205, R206, R228 to R233, R264, R266).
-/

namespace Sys2Proof.Machine

/-! ### On, or to PWM, from off (R206, R264) -/

/-- The charge that a turn-on asks for: held by protection the steady current, else the largest step of the envelope. -/
def State.lswAmount (s : State) (i : Nat) : Nat := if s.protHeld i then (s.chan i).cfg.steady else (s.chan i).cfg.largest

/-- Channel `i`, off and of a class that is not shed, asks account `acct` for its charge, and the ledger answers `yes`. -/
structure State.Asks (s : State) (i acct : Nat) (yes : Bool) : Prop where
  cmd : (s.chan i).cmd = 0
  shed : s.classShed (feedOf i) (s.chan i).cfg.loadClass = false
  admits : s.admits (feedOf i) acct (s.lswAmount i) = yes

theorem State.asks_of_amount {s : State} {i a : Nat} {yes : Bool} (hcmd : (s.chan i).cmd = 0)
    (hshed : s.classShed (feedOf i) (s.chan i).cfg.loadClass = false) (hadmits : s.admits (feedOf i) 1 a = yes)
    (ha : s.lswAmount i = a) : s.Asks i 1 yes :=
  ⟨hcmd, hshed, ha ▸ hadmits⟩

/-- The answer depends on the channel's commanded state, outlet and configuration only. -/
theorem State.Asks.setChan {s : State} {i acct : Nat} {yes : Bool} (h : s.Asks i acct yes) {x : Chan} (hcmd : x.cmd = (s.chan i).cmd)
    (ho : x.o = (s.chan i).o) (hcfg : x.cfg = (s.chan i).cfg) : (s.setChan i x).Asks i acct yes := by
  refine ⟨?_, ?_, ?_⟩
  · rw [State.setChan_chan, hcmd, h.cmd]
  · rw [State.setChan_chan, hcfg, State.setChan_classShed, h.shed]
  · rw [State.setChan_admits s i x ho hcfg, State.lswAmount, State.setChan_chan, hcfg, State.setChan_protHeld]
    exact h.admits

/-- A channel with its commanded state stored: 1 on, 2 PWM. -/
def Chan.commanded (x : Chan) (mode duty : Nat) : Chan :=
  { x with cmd := mode, duty := duty, curDuty := if mode == 1 then 65535 else x.curDuty }

def State.commanded (s : State) (i mode duty : Nat) : State := s.setChan i ((s.chan i).commanded mode duty)

theorem State.commanded_chan (s : State) (i mode duty : Nat) : (s.commanded i mode duty).chan i = (s.chan i).commanded mode duty :=
  State.setChan_chan ..

section
variable {s : State} {i acct : Nat} {yes : Bool} (h : s.Asks i acct yes) (mode duty origin : Nat)
include h

/-- A turn-on from off: refused, held by protection with its steady current charged, or taking place. -/
theorem State.loadOn_asks : s.loadOn i mode duty acct origin =
    if !yes then (s.refused i acct origin (s.lswAmount i), stNoResource)
    else if s.protHeld i then
      ((s.commanded i mode duty).setOutlet i { (s.commanded i mode duty).outlet i with acct := some acct }, 0x0600)
    else (if mode == 1 then (s.commanded i mode duty).outOn i (some acct) true false
      else (s.commanded i mode duty).outArm i (some acct) true false, stOk) := by
  obtain ⟨hcmd, hshed, rfl⟩ := h
  unfold State.lswAmount State.loadOn
  dsimp only
  rw [if_neg (by simp [hcmd]), if_neg (by simp [hshed])]
  cases s.protHeld i with
  | true =>
    simp only [if_true]
    cases s.admits (feedOf i) acct (s.chan i).cfg.steady <;> rfl
  | false =>
    simp only [Bool.false_eq_true, if_false]
    cases s.admits (feedOf i) acct (s.chan i).cfg.largest <;> rfl

end

section
variable {s : State} {i acct : Nat} (hi : i < 56) (duty origin : Nat)
include hi

theorem State.loadOn_held (h : s.Asks i acct true) (hheld : s.protHeld i = true) (mode : Nat) :
    ∃ t, s.loadOn i mode duty acct origin = (t, 0x0600) ∧
      t.chan i = { (s.chan i).commanded mode duty with o := { (s.chan i).o with acct := some acct } } := by
  rw [State.loadOn_asks h, if_neg nofun, if_pos hheld]
  refine ⟨_, rfl, ?_⟩
  rw [State.setOutlet_eq_setChan _ hi, State.setChan_chan, State.outlet_chan _ hi, State.commanded_chan]
  rfl

theorem State.loadOn_on (h : s.Asks i acct true) (hfree : s.protHeld i = false) :
    ∃ t o, s.loadOn i 1 duty acct origin = (t, stOk) ∧ t.chan i = { (s.chan i).commanded 1 duty with o := o } ∧
      o.on = true ∧ o.acct = some acct := by
  rw [State.loadOn_asks h, if_neg nofun, if_neg (ne_true_of_eq_false hfree), if_pos (beq_self_eq_true 1), ← State.commanded_chan]
  obtain ⟨o, hon⟩ := (s.commanded i 1 duty).outOn_chan hi (some acct) true false
  exact ⟨_, o, rfl, hon⟩

/-- Into PWM a turn-on waits for the period start (R207). -/
theorem State.loadOn_pwm (h : s.Asks i acct true) (hfree : s.protHeld i = false) :
    ∃ t o, s.loadOn i 2 duty acct origin = (t, stOk) ∧ t.chan i = { (s.chan i).commanded 2 duty with o := o } ∧
      o.pend = true ∧ o.acct = some acct := by
  rw [State.loadOn_asks h, if_neg nofun, if_neg (ne_true_of_eq_false hfree), if_neg nofun, ← State.commanded_chan]
  obtain ⟨o, harm⟩ := (s.commanded i 2 duty).outArm_chan hi (some acct) true false
  exact ⟨_, o, rfl, harm⟩

end

theorem State.loadOn_refused {s : State} {i acct : Nat} (h : s.Asks i acct false) (mode duty origin : Nat) :
    s.loadOn i mode duty acct origin = (s.refused i acct origin (s.lswAmount i), stNoResource) := by
  rw [State.loadOn_asks h]
  rfl

/-! ### A command with a mode and a duty (R205) -/

/-- Channel `i` takes an outlet command: its safe state is over. -/
def State.reached (s : State) (i : Nat) : State := s.setChan i { s.chan i with safe := false }

theorem State.reached_chan (s : State) (i : Nat) : (s.reached i).chan i = { s.chan i with safe := false } :=
  State.setChan_chan ..

theorem State.Asks.reached {s : State} {i acct : Nat} {yes : Bool} (h : s.Asks i acct yes) : (s.reached i).Asks i acct yes :=
  h.setChan rfl rfl rfl

section
variable {s : State} {i : Nat} (hen : (s.chan i).cfg.enabled = true)
include hen

theorem State.loadCommand_off (duty acct origin : Nat) :
    s.loadCommand i 0 duty acct origin = ((s.reached i).loadOff i, if s.protHeld i then 0x0600 else stOk) := by
  unfold State.loadCommand
  rw [if_neg (by simp [hen])]
  rfl

theorem State.loadCommand_on (duty acct origin : Nat) :
    s.loadCommand i 1 duty acct origin = (s.reached i).loadOn i 1 65535 acct origin := by
  unfold State.loadCommand
  rw [if_neg (by simp [hen])]
  rfl

theorem State.loadCommand_pwm {duty : Nat} (hduty : duty ≠ 0) (hfull : duty ≠ 65535) (hperiod : (s.chan i).period ≠ 0)
    (acct origin : Nat) : s.loadCommand i 2 duty acct origin = (s.reached i).loadOn i 2 duty acct origin := by
  unfold State.loadCommand
  rw [if_neg (by simp [hen])]
  exact (if_neg (by simp [hduty])).trans ((if_neg (by simp [hfull])).trans (if_neg (by simp [hperiod])))

end

/-! ### LSW_SET (R229) -/

section
variable {pk : Packet} {s : State}

theorem lswSet_inert (hinert : s.inertOut (u16 pk.params 0) = true) :
    lswSetSpec.act pk s = if u8 pk.params 2 = 1 then fail 0x0606 s else ok s :=
  (if_pos hinert).trans (by simp only [beq_iff_eq])

/-- The answer of an LSW command whose channel has taken its mode: a status without a result. -/
def answerOf (r : State × Nat) : ActRes := ⟨r.1, some (r.2, [])⟩

variable (hinert : s.inertOut (u16 pk.params 0) = false) (hen : (s.chan (u16 pk.params 0)).cfg.enabled = true)
include hinert hen

theorem lswSet_off (hset : u8 pk.params 2 ≠ 1) : lswSetSpec.act pk s =
    answerOf ((s.reached (u16 pk.params 0)).loadOff (u16 pk.params 0), if s.protHeld (u16 pk.params 0) then 0x0600 else stOk) := by
  rw [← State.loadCommand_off hen 0 1 1]
  refine (if_neg (by simp [hinert])).trans ?_
  simp only [beq_iff_eq, hset, if_false]
  rfl

theorem lswSet_on (hset : u8 pk.params 2 = 1) :
    lswSetSpec.act pk s = answerOf ((s.reached (u16 pk.params 0)).loadOn (u16 pk.params 0) 1 65535 1 1) := by
  rw [← State.loadCommand_on hen 65535 1 1]
  refine (if_neg (by simp [hinert])).trans ?_
  simp only [beq_iff_eq, hset, if_true]
  rfl

end

/-! ### LSW_SET_PWM (R229) -/

/-- Channel `i` with the period of a command. -/
def State.withPeriod (s : State) (i p : Nat) : State := s.setChan i { s.chan i with period := p }

theorem State.withPeriod_chan (s : State) (i p : Nat) : (s.withPeriod i p).chan i = { s.chan i with period := p } :=
  State.setChan_chan ..

section
variable {pk : Packet} {s : State}

theorem lswSetPwm_short (hmin : (s.chan (u16 pk.params 0)).cfg.minPeriod ≠ 0)
    (hshort : u16 pk.params 6 < (s.chan (u16 pk.params 0)).cfg.minPeriod) : lswSetPwmSpec.act pk s = fail stContract s :=
  if_pos (by simp [hmin, hshort])

/-- Into PWM with a period that the image allows; a refused period is given back (R266). -/
theorem lswSetPwm_pwm (hen : (s.chan (u16 pk.params 0)).cfg.enabled = true)
    (hlong : (s.chan (u16 pk.params 0)).cfg.minPeriod = 0 ∨ (s.chan (u16 pk.params 0)).cfg.minPeriod ≤ u16 pk.params 6)
    (hinert : s.inertOut (u16 pk.params 0) = false) (hduty : u16 pk.params 4 ≠ 0) (hfull : u16 pk.params 4 ≠ 65535)
    (hperiod : u16 pk.params 6 ≠ 0) : lswSetPwmSpec.act pk s =
      let r := ((s.withPeriod (u16 pk.params 0) (u16 pk.params 6)).reached (u16 pk.params 0)).loadOn (u16 pk.params 0) 2
        (u16 pk.params 4) 1 1
      if r.2 == stNoResource then
        answerOf (r.1.withPeriod (u16 pk.params 0) (s.chan (u16 pk.params 0)).period, stNoResource)
      else answerOf r := by
  have hchan := s.withPeriod_chan (u16 pk.params 0) (u16 pk.params 6)
  rw [← State.loadCommand_pwm (by rw [hchan]; exact hen) hduty hfull (by rw [hchan]; exact hperiod)]
  refine (if_neg (by simp; omega)).trans ((if_neg (by simp [hinert])).trans ?_)
  simp only [beq_iff_eq, hduty, hfull, if_false]
  rfl

end

/-! ### LSW_CONFIG (R156, R230) -/

/-- LSW_CONFIG asks for more retries, or a higher envelope, than the image. -/
def LoadCfg.beyond (c : LoadCfg) (ps : List Byte) : Bool :=
  ((u8 ps 2).testBit 3 && decide (c.imgRetry < u8 ps 14)) ||
    ((u8 ps 2).testBit 2 && !envWithin c (u16 ps 6) (u16 ps 8) (u16 ps 10) (u16 ps 12))

theorem lswConfig_beyond {pk : Packet} {s : State} (h : (s.chan (u16 pk.params 0)).cfg.beyond pk.params = true) :
    lswConfigSpec.act pk s = fail stContract s := if_pos h

theorem lswConfig_within {pk : Packet} {s : State} (h : (s.chan (u16 pk.params 0)).cfg.beyond pk.params = false) :
    lswConfigSpec.act pk s = ok (s.setChan (u16 pk.params 0) (lswConfigured pk.params (s.chan (u16 pk.params 0)))) :=
  if_neg (ne_true_of_eq_false h)

/-- What LSW_CONFIG's parameters say of a channel `y` that was `x` (R230). -/
structure Chan.ConfiguredFrom (ps : List Byte) (x y : Chan) : Prop where
  cmd : y.cmd = x.cmd
  o : y.o = x.o
  slew : y.cfg.slew = if (u8 ps 2).testBit 0 then u8 ps 3 else x.cfg.slew
  limit : y.cfg.limit = if (u8 ps 2).testBit 1 && x.o.step == 0 then u16 ps 4 else x.cfg.limit
  nextLimit : (u8 ps 2).testBit 1 = true → x.o.step ≠ 0 → y.nextLimit = some (u16 ps 4)
  pour : (y.cfg.s1c, y.cfg.s1d, y.cfg.s2c, y.cfg.s2d) =
    if (u8 ps 2).testBit 2 then (u16 ps 6, u16 ps 8, u16 ps 10, u16 ps 12) else (x.cfg.s1c, x.cfg.s1d, x.cfg.s2c, x.cfg.s2d)
  retryN : y.cfg.retryN = if (u8 ps 2).testBit 3 then u8 ps 14 else x.cfg.retryN
  openLoad : (y.olEn, y.olThr, y.olFilter) =
    if (u8 ps 2).testBit 4 then (u8 ps 15 == 1, u16 ps 16, u16 ps 18) else (x.olEn, x.olThr, x.olFilter)

theorem lswConfigured_from (ps : List Byte) (x : Chan) : x.ConfiguredFrom ps (lswConfigured ps x) := by
  have hpour : (!(x.o.step != 0)) = (x.o.step == 0) := by simp [bne]
  constructor
  · simp only [lswConfigured, apply_ite Chan.cmd, ite_self]
  · simp only [lswConfigured, apply_ite Chan.o, ite_self]
  · simp only [lswConfigured, apply_ite Chan.cfg, apply_ite LoadCfg.slew, ite_self]
  · simp only [lswConfigured, apply_ite Chan.cfg, apply_ite LoadCfg.limit, ite_self, hpour]
  · intro hsel hstep
    simp [lswConfigured, apply_ite Chan.nextLimit, hsel, hstep]
  · cases h : (u8 ps 2).testBit 2 <;> simp [lswConfigured, h, apply_ite Chan.cfg, apply_ite LoadCfg.s1c, apply_ite LoadCfg.s1d,
      apply_ite LoadCfg.s2c, apply_ite LoadCfg.s2d]
  · simp only [lswConfigured, apply_ite Chan.cfg, apply_ite LoadCfg.retryN, ite_self]
  · cases h : (u8 ps 2).testBit 4 <;> simp [lswConfigured, h]

/-! ### LSW_ISM_SELECT (R233) -/

theorem lswIsmSelect_spec (pk : Packet) (s : State) : ∃ t, lswIsmSelectSpec.act pk s = ok t ∧
    t.lsw = { s.lsw with ism := if u16 pk.params 0 = 0xFFFF then 0xFF else u16 pk.params 0 } :=
  ⟨_, rfl, by simp only [beq_iff_eq]⟩

end Sys2Proof.Machine

open Sys2Proof Sys2Proof.Machine

/-- Settles O56: LSW_SET and LSW_SET_PWM by what the turn-on asks of the ledger, LSW_CONFIG by its parameters, the latch clears by
what they leave of channel and machine. -/
theorem loadCommandActions : Obligations.LoadCommandActions := by
  intro pk s i hi hen hpk
  subst hpk
  refine ⟨lswSet_inert, fun hinert => ⟨fun hset => ?_, fun hset hcmd hshed => ⟨fun hfree hadmits => ?_, fun hheld hadmits => ?_,
    fun hadmits => ?_⟩⟩, lswSetPwm_short, fun hlong hinert hduty hfull hperiod hcmd hshed hfree => ?_,
    ⟨lswConfig_beyond, fun hwithin => ?_⟩, ?_, ?_, fun q => ?_⟩
  · refine ⟨_, lswSet_off hinert hen hset, ?_⟩
    rw [State.loadOff_chan _ hi]
    exact ⟨rfl, rfl, rfl, rfl⟩
  · have h := (State.asks_of_amount hcmd hshed hadmits (if_neg (ne_true_of_eq_false hfree))).reached
    obtain ⟨t, o, hrun, hchan, hon, hacct⟩ := State.loadOn_on hi 65535 1 h hfree
    refine ⟨t, (lswSet_on hinert hen hset).trans (congrArg answerOf hrun), ?_⟩
    rw [hchan]
    exact ⟨rfl, rfl, hon, hacct⟩
  · have h := (State.asks_of_amount hcmd hshed hadmits (if_pos hheld)).reached
    obtain ⟨t, hrun, hchan⟩ := State.loadOn_held hi 65535 1 h hheld 1
    refine ⟨t, (lswSet_on hinert hen hset).trans (congrArg answerOf hrun), ?_⟩
    rw [hchan, State.reached_chan]
    exact ⟨rfl, rfl⟩
  · have h := (State.asks_of_amount hcmd hshed hadmits rfl).reached
    refine ⟨_, (lswSet_on hinert hen hset).trans (congrArg answerOf (State.loadOn_refused h 1 65535 1)), ?_, ?_⟩
    · rw [State.refused_chan, State.reached_chan]
    · rw [State.refused_feed]
      rfl
  · have hact := lswSetPwm_pwm hen hlong hinert hduty hfull hperiod
    have hask {yes : Bool} (hadmits : s.admits (feedOf (u16 pk.params 0)) 1 (s.chan (u16 pk.params 0)).cfg.largest = yes) :
        ((s.withPeriod (u16 pk.params 0) (u16 pk.params 6)).reached (u16 pk.params 0)).Asks (u16 pk.params 0) 1 yes :=
      State.Asks.reached ((State.asks_of_amount hcmd hshed hadmits (if_neg (ne_true_of_eq_false hfree))).setChan rfl rfl rfl)
    refine ⟨fun hadmits => ?_, fun hadmits => ?_⟩
    · obtain ⟨t, o, hrun, hchan, hpend, hacct⟩ := State.loadOn_pwm hi (u16 pk.params 4) 1 (hask hadmits) hfree
      rw [hrun] at hact
      refine ⟨t, hact, ?_⟩
      rw [hchan, State.reached_chan, State.withPeriod_chan]
      exact ⟨rfl, rfl, rfl, hpend, hacct⟩
    · rw [State.loadOn_refused (hask hadmits)] at hact
      refine ⟨_, hact, ?_⟩
      rw [State.withPeriod_chan, State.refused_chan, State.reached_chan, State.withPeriod_chan]
  · have hfrom := lswConfigured_from pk.params (s.chan (u16 pk.params 0))
    refine ⟨_, lswConfig_within hwithin, fun j hj => State.setChan_chan_ne _ _ _ _ hj, rfl, ?_⟩
    rw [State.setChan_chan]
    exact ⟨hfrom.cmd, hfrom.o, hfrom.slew, hfrom.limit, hfrom.nextLimit, hfrom.pour, hfrom.retryN, hfrom.openLoad⟩
  · obtain ⟨t, hact, hchan, hprot⟩ := lswClearOcLatch_spec pk s hi rfl
    refine ⟨t, hact, ?_⟩
    rw [hchan, hprot]
    exact ⟨rfl, rfl, rfl, rfl, rfl⟩
  · obtain ⟨t, hact, hchan, hprot⟩ := lswClearThermalLatch_spec pk s hi rfl
    refine ⟨t, hact, ?_⟩
    rw [hchan, hprot]
    exact ⟨rfl, rfl, rfl, rfl, rfl⟩
  · obtain ⟨t, hact, hlsw⟩ := lswIsmSelect_spec q s
    refine ⟨t, hact, ?_⟩
    rw [hlsw]
    exact ⟨rfl, rfl, rfl⟩

end

