-- ==== Sys2Proof/Proofs/BridgeRows.lean ====
section
/-!
PROOFS. A bridge's stall, its interlock fault and its PWM period, and the resumption of a shed outlet (R239, R242, R247, R266, R268).
-/

namespace Sys2Proof.Machine

/-! ### A stall (R247) -/

/-- A bridge after its stall action. -/
def Bridge.stall (x : Bridge) : Bridge :=
  { x.released with stalled := x.out, stallRun := 0, stalls := sat16 x.stalls, out := if x.stallBrake then 3 else 0 }

theorem State.stall_bridge (s : State) (b : Nat) : (s.stall b).bridge b = (s.bridge b).stall := by
  have hreleased : ((s.outOff (56 + b)).outRelease (56 + b)).bridge b = (s.bridge b).released := s.released_bridge b
  unfold State.stall
  dsimp only
  rw [State.raise_bridge, State.setBridge_bridge, hreleased]
  rfl

theorem State.stallRow_stalls {s : State} {b : Nat} (hactive : s.active = true) (hb : b < 6) (hen : (s.bridge b).stallEn = true)
    (hrun : (s.bridge b).stallFilter ≤ (s.bridge b).stallRun) (hdrives : (s.bridge b).out = 1 ∨ (s.bridge b).out = 2) :
    s.stallRow b = s.stall b :=
  if_pos (by simpa [hactive, hb, hen, hrun] using hdrives)

/-! ### An interlock fault (R242) -/

/-- A bridge locked out: off, the fault counted. -/
def Bridge.lockedOut (x : Bridge) : Bridge :=
  { x with
    out := 0, xlock := true, xcond := sat16 x.xcond
    o := { x.o with on := false, pend := false, step := 0, retry := false } }

theorem State.xcondFault_bridge (s : State) (b leg side : Nat) : (s.xcondFault b leg side).bridge b = (s.bridge b).lockedOut := by
  unfold State.xcondFault
  dsimp only
  rw [State.fault_bridge, State.raise_bridge, State.setBridge_bridge, State.outOff_bridge, if_pos ⟨by omega, by omega⟩,
    State.outlet_bridge]
  rfl

theorem State.xcondRow_locks {s : State} {b leg side : Nat} (hactive : s.active = true) (hb : b < 6)
    (hen : (s.bridge b).cfg.enabled = true) (hlock : (s.bridge b).xlock = false) (hleg : leg ≤ 1) (hside : side ≤ 1) :
    s.xcondRow b leg side = s.xcondFault b leg side :=
  if_pos (by simp [hactive, hb, hen, hlock, hleg, hside])

/-! ### The PWM period of a leg (R239, R240) -/

theorem outletOf_leg {i : Nat} (h : 56 ≤ i) : outletOf i = 56 + (i - 56) / 2 := if_neg (by omega)

theorem State.cfgOf_bridge (s : State) (b : Nat) : s.cfgOf (56 + b) = (s.bridge b).cfg := by
  unfold State.cfgOf
  rw [if_neg (by omega), Nat.add_sub_cancel_left]

/-- A bridge whose PWM period starts; a clamp of its on time counts. -/
def Bridge.inPeriod (x : Bridge) : Bridge :=
  { x with
    curDuty := x.duty
    clamps := if x.duty != 65535 && (pwmOn x.period x.duty (max (mbrSlewMin x.cfg.slew) (2 * x.dead * 8))).2 then sat16 x.clamps
      else x.clamps }

/-- The duty of bridge `b` takes effect. -/
def State.inBridgePeriod (s : State) (b : Nat) : State := s.setBridge b (s.bridge b).inPeriod

theorem State.inBridgePeriod_bridge (s : State) (b : Nat) : (s.inBridgePeriod b).bridge b = (s.bridge b).inPeriod :=
  State.setBridge_bridge ..

/-- A direction that waited is driven. -/
def State.takeDirection (s : State) (b : Nat) : State :=
  (s.outGo (56 + b)).setBridge b { (s.outGo (56 + b)).bridge b with out := (s.bridge b).cmd }

theorem State.takeDirection_bridge (s : State) (b : Nat) : ∃ o : Outlet,
    (s.takeDirection b).bridge b = { s.bridge b with o := o, out := (s.bridge b).cmd } ∧ o.on = true := by
  obtain ⟨o, hgo, hon, -⟩ := s.outGo_bridge b
  refine ⟨o, ?_, hon⟩
  unfold State.takeDirection
  rw [State.setBridge_bridge, hgo]

section
variable {s : State} {b : Nat} (hperiod : (s.bridge b).period ≠ 0) (hgate : ((s.bridge b).o.on || (s.bridge b).o.pend) = true)
include hperiod hgate

theorem State.bridgePeriod_starts : s.bridgePeriod b =
    if (s.bridge b).o.pend then (s.inBridgePeriod b).takeDirection b else s.inBridgePeriod b := by
  have hcmd : ((s.inBridgePeriod b).bridge b).cmd = (s.bridge b).cmd := by
    rw [State.inBridgePeriod_bridge]
    rfl
  unfold State.bridgePeriod State.takeDirection
  dsimp only
  rw [if_neg (by simp [hperiod, hgate]), hcmd]
  rfl

/-- Whether or not a direction waited, the commanded duty takes effect. -/
theorem State.bridgePeriod_bridge : ((s.bridgePeriod b).bridge b).curDuty = (s.bridge b).duty ∧
    ((s.bridge b).o.pend = true →
      ((s.bridgePeriod b).bridge b).out = (s.bridge b).cmd ∧ ((s.bridgePeriod b).bridge b).o.on = true) := by
  rw [State.bridgePeriod_starts hperiod hgate]
  cases (s.bridge b).o.pend with
  | true =>
    obtain ⟨o, hdir, hon⟩ := (s.inBridgePeriod b).takeDirection_bridge b
    rw [if_pos rfl, hdir, State.inBridgePeriod_bridge]
    exact ⟨rfl, fun _ => ⟨rfl, hon⟩⟩
  | false =>
    rw [if_neg nofun, State.inBridgePeriod_bridge]
    exact ⟨rfl, nofun⟩

end

theorem State.periodRow_leg {s : State} {i : Nat} (hactive : s.active = true) (hlow : 56 ≤ i) (hhigh : i < 68)
    (hen : (s.bridge (outletOf i - 56)).cfg.enabled = true) : s.periodRow i = s.bridgePeriod (outletOf i - 56) := by
  have hlive : s.protLive i = true := by
    rw [outletOf_leg hlow, Nat.add_sub_cancel_left] at hen
    simp [State.protLive, hactive, hhigh, outletOf_leg hlow, State.cfgOf_bridge, hen]
  unfold State.periodRow
  rw [if_neg (by simp [hlive]), if_neg (by omega)]

/-! ### The resume order of a feed (R268) -/

/-- The order of feed `f` is `rest` and its next resumption is due in 1 ms. -/
def State.popped (s : State) (f : Nat) (rest : List Nat) : State :=
  s.setFeed f { s.feed f with resume := rest, resumeAt := s.et + nsMs }

section
variable (s : State) (f : Nat) (rest : List Nat)

theorem State.popped_feed : (s.popped f rest).feed f = { s.feed f with resume := rest, resumeAt := s.et + nsMs } :=
  State.setFeed_feed ..

theorem State.popped_feedSame : FeedSame s (s.popped f rest) := State.setFeed_feedSame _ _ _ rfl

theorem State.popped_inertOut (k : Nat) : (s.popped f rest).inertOut k = s.inertOut k := by
  have huv (g : Nat) : ((s.popped f rest).feed g).uv = (s.feed g).uv := (congrArg Feed.uv ((s.popped_feedSame f rest).core g) :)
  simp only [State.inertOut, huv]
  rfl

theorem State.popped_admits (g a amount : Nat) : (s.popped f rest).admits g a amount = s.admits g a amount := by
  have hbudget : ((s.popped f rest).feed g).budget = (s.feed g).budget :=
    (congrArg Feed.budget ((s.popped_feedSame f rest).core g) :)
  have hreserve : ((s.popped f rest).feed g).reserve = (s.feed g).reserve :=
    (congrArg Feed.reserve ((s.popped_feedSame f rest).core g) :)
  have hcharge : (s.popped f rest).charge g a = s.charge g a := rfl
  have hlimit : (s.popped f rest).acctLimit g a = s.acctLimit g a := by
    simp only [State.acctLimit, hbudget, hreserve]
    rfl
  unfold State.admits
  rw [hcharge, hlimit]

end

/-- Outlet `k` is shed, commanded on and not inert: its turn to resume is not skipped. -/
def State.resumable (s : State) (k : Nat) : Bool := (s.outlet k).shed && s.wanted k && !s.inertOut k

theorem State.popped_resumable (s : State) (f : Nat) (rest : List Nat) (k : Nat) :
    (s.popped f rest).resumable k = s.resumable k := by
  unfold State.resumable
  rw [State.popped_inertOut]
  rfl

/-- Protection, or a bridge's interlock latch, holds outlet `k`. -/
def State.resumeHeld (s : State) (k : Nat) : Bool := s.protHeld k || (decide (56 ≤ k) && (s.bridge (k - 56)).xlock)

/-- The charge that a resumption asks for. -/
def State.resumeAmount (s : State) (k : Nat) : Nat := if s.resumeHeld k then (s.cfgOf k).steady else (s.cfgOf k).largest

/-- Outlet `k` leaves shedding with its charge back in the account that held it. -/
def State.unshed (s : State) (k : Nat) : State :=
  s.setOutlet k { s.outlet k with shed := false, acct := some (s.outlet k).shedAcct }

/-- An outlet that leaves shedding goes on, unless it is held or stalled (R248, R268). -/
def State.resumed (s : State) (k : Nat) : State :=
  if s.resumeHeld k then s.unshed k
  else if k < 56 then
    if ((s.unshed k).chan k).cmd == 2 then (s.unshed k).outArm k (some (s.outlet k).shedAcct) true false
    else (s.unshed k).outOn k (some (s.outlet k).shedAcct) true false
  else if (s.bridge (k - 56)).stalled == (s.bridge (k - 56)).cmd then s.unshed k
  else
    let t := (s.unshed k).outOn k (some (s.outlet k).shedAcct) true false
    t.setBridge (k - 56) { t.bridge (k - 56) with out := (s.bridge (k - 56)).cmd }

/-- A refused resumption counts, and its outlet goes to the end of the order. -/
def State.putBack (s : State) (f k : Nat) (rest : List Nat) : State :=
  let t := s.refused k (s.outlet k).shedAcct 3 (s.resumeAmount k)
  t.setFeed f { t.feed f with resume := rest ++ [k] }

section
variable {s : State} {f k : Nat} {rest : List Nat} (horder : (s.feed f).resume = k :: rest) (hdue : (s.feed f).resumeAt ≤ s.et)
include horder hdue

/-- The first outlet leaves the order, resumes, or goes to its end. -/
theorem State.shedResume_due : s.shedResume f =
    if !s.resumable k then s.popped f rest
    else if s.admits f (s.outlet k).shedAcct (s.resumeAmount k) then (s.popped f rest).resumed k
    else (s.popped f rest).putBack f k rest := by
  rw [← State.popped_resumable s f rest, ← State.popped_admits s f rest]
  unfold State.shedResume
  dsimp only
  rw [horder]
  dsimp only
  rw [if_neg (by omega)]
  simp only [State.resumable, Bool.not_and, Bool.not_not]
  refine ite_congr rfl (fun _ => rfl) fun _ => ?_
  cases hadmits : (s.popped f rest).admits f (s.outlet k).shedAcct (s.resumeAmount k) with
  | true => exact if_neg (ne_true_of_eq_false (congrArg not hadmits))
  | false => exact if_pos (congrArg not hadmits)

theorem State.shedResume_skips (hskip : s.resumable k = false) : s.shedResume f = s.popped f rest := by
  rw [State.shedResume_due horder hdue, if_pos (by simp [hskip])]

end

/-! ### A refused resumption (R266, R268) -/

theorem State.refused_feed_ne (s : State) (k a origin amount : Nat) {f : Nat} (h : f ≠ feedOf k) :
    (s.refused k a origin amount).feed f = s.feed f := by
  unfold State.refused
  dsimp only
  split
  · exact State.setFeed_feed_ne _ _ _ _ h
  · rw [State.raise_feed]
    exact State.setFeed_feed_ne _ _ _ _ h

theorem State.refused_resumeAt (s : State) (k a origin amount f : Nat) :
    ((s.refused k a origin amount).feed f).resumeAt = (s.feed f).resumeAt := by
  by_cases hf : f = feedOf k
  · subst hf
    rw [State.refused_feed]
  · rw [State.refused_feed_ne _ _ _ _ _ hf]

section
variable (s : State) (f k : Nat) (rest : List Nat)

theorem State.putBack_resumeAt : ((s.putBack f k rest).feed f).resumeAt = (s.feed f).resumeAt := by
  unfold State.putBack
  dsimp only
  rw [State.setFeed_feed, State.refused_resumeAt]

theorem State.putBack_feed (h : feedOf k = f) : (s.putBack f k rest).feed f =
    { s.feed f with resume := rest ++ [k], refusals := sat16 (s.feed f).refusals } := by
  subst h
  unfold State.putBack
  dsimp only
  rw [State.setFeed_feed, State.refused_feed]

end

/-! ### A resumption that is admitted (R268) -/

section
variable (s : State) (k : Nat) (a : Option Nat) (p r : Bool)

theorem State.outArm_pwr : (s.outArm k a p r).pwr = s.pwr := State.setOutlet_pwr ..

theorem State.outGo_pwr : (s.outGo k).pwr = s.pwr := (State.markOk_pwr ..).trans (State.setOutlet_pwr ..)

theorem State.outOn_pwr : (s.outOn k a p r).pwr = s.pwr := (State.outGo_pwr ..).trans (State.outArm_pwr ..)

theorem State.outArm_shed : ((s.outArm k a p r).outlet k).shed = (s.outlet k).shed := by
  unfold State.outArm
  dsimp only
  rw [State.setOutlet_outlet]

theorem State.outGo_shed : ((s.outGo k).outlet k).shed = (s.outlet k).shed := by
  unfold State.outGo
  dsimp only
  rw [State.markOk_outlet, State.setOutlet_outlet]

theorem State.outOn_shed : ((s.outOn k a p r).outlet k).shed = (s.outlet k).shed :=
  (State.outGo_shed ..).trans (State.outArm_shed ..)

end

/-- The legs of a bridge take another state: no outlet's entry changes. -/
theorem State.setBridge_out_outlet (s : State) (b out k : Nat) :
    (s.setBridge b { s.bridge b with out := out }).outlet k = s.outlet k := by
  unfold State.outlet
  by_cases hb : k - 56 = b
  · rw [hb, State.setBridge_bridge]
    rfl
  · rw [State.setBridge_bridge_ne _ _ _ _ hb]
    rfl

theorem State.unshed_shed (s : State) (k : Nat) : ((s.unshed k).outlet k).shed = false := by
  unfold State.unshed
  rw [State.setOutlet_outlet]

theorem State.resumed_shed (s : State) (k : Nat) : ((s.resumed k).outlet k).shed = false := by
  unfold State.resumed
  split
  · exact s.unshed_shed k
  · split
    · split
      · rw [State.outArm_shed, State.unshed_shed]
      · rw [State.outOn_shed, State.unshed_shed]
    · split
      · exact s.unshed_shed k
      · rw [State.setBridge_out_outlet, State.outOn_shed, State.unshed_shed]

theorem State.resumed_pwr (s : State) (k : Nat) : (s.resumed k).pwr = s.pwr := by
  have hunshed : (s.unshed k).pwr = s.pwr := State.setOutlet_pwr ..
  unfold State.resumed
  split
  · exact hunshed
  · split
    · split
      · rw [State.outArm_pwr, hunshed]
      · rw [State.outOn_pwr, hunshed]
    · split
      · exact hunshed
      · exact (State.outOn_pwr ..).trans hunshed

theorem State.resumed_feed (s : State) (k f : Nat) : (s.resumed k).feed f = s.feed f := by
  unfold State.feed
  rw [State.resumed_pwr]

/-! ### What each resumption does to its feed (R268) -/

section
variable {s : State} {f k : Nat} {rest : List Nat} (horder : (s.feed f).resume = k :: rest) (hdue : (s.feed f).resumeAt ≤ s.et)
include horder hdue

/-- Whatever becomes of the first outlet, the next resumption is due 1 ms later. -/
theorem State.shedResume_resumeAt : ((s.shedResume f).feed f).resumeAt = s.et + nsMs := by
  have hpopped : ((s.popped f rest).feed f).resumeAt = s.et + nsMs := by rw [State.popped_feed]
  rw [State.shedResume_due horder hdue]
  split
  · exact hpopped
  · split
    · rw [State.resumed_feed, hpopped]
    · rw [State.putBack_resumeAt, hpopped]

theorem State.shedResume_refused (hready : s.resumable k = true) (hfeed : feedOf k = f)
    (hno : s.admits f (s.outlet k).shedAcct (s.resumeAmount k) = false) :
    ((s.shedResume f).feed f).resume = rest ++ [k] ∧ ((s.shedResume f).feed f).refusals = sat16 (s.feed f).refusals := by
  rw [State.shedResume_due horder hdue, if_neg (by simp [hready]), if_neg (ne_true_of_eq_false hno),
    State.putBack_feed _ _ _ _ hfeed, State.popped_feed]
  exact ⟨rfl, rfl⟩

theorem State.shedResume_admitted (hready : s.resumable k = true)
    (hyes : s.admits f (s.outlet k).shedAcct (s.resumeAmount k) = true) :
    ((s.shedResume f).feed f).resume = rest ∧ ((s.shedResume f).outlet k).shed = false := by
  rw [State.shedResume_due horder hdue, if_neg (by simp [hready]), if_pos hyes, State.resumed_feed, State.popped_feed]
  exact ⟨rfl, State.resumed_shed _ _⟩

end

theorem State.resumable_of {s : State} {k : Nat} (hshed : (s.outlet k).shed = true) (hwanted : s.wanted k = true)
    (hinert : s.inertOut k = false) : s.resumable k = true := by
  simp [State.resumable, hshed, hwanted, hinert]

theorem State.not_resumable_of {s : State} {k : Nat}
    (h : (s.outlet k).shed = false ∨ s.wanted k = false ∨ s.inertOut k = true) : s.resumable k = false := by
  rcases h with h | h | h <;> simp [State.resumable, h]

theorem State.shedRow_resumes {s : State} {f : Nat} (hactive : s.active = true) (hf : f ≤ 1) : s.shedRow f = s.shedResume f :=
  if_pos (by simp [hactive, hf])

end Sys2Proof.Machine

open Sys2Proof Sys2Proof.Machine

/-- Settles O39: stall, interlock fault and period by the bridge that each leaves, a resumption by what becomes of the first outlet
in the order. -/
theorem bridgeRows : Obligations.BridgeRows := by
  intro s hactive
  refine ⟨fun b hb hen hrun hdrives => ?_, fun b leg side hb hen hlock hleg hside => ?_, fun i hlow hhigh hen hperiod hgate => ?_,
    fun f k rest hf horder hdue => ?_⟩
  · refine ⟨_, congrArg Host.Outcome.next (State.stallRow_stalls hactive hb hen hrun hdrives), ?_⟩
    rw [State.stall_bridge]
    exact ⟨rfl, rfl, rfl, rfl, rfl⟩
  · refine ⟨_, congrArg Host.Outcome.next (State.xcondRow_locks hactive hb hen hlock hleg hside), ?_⟩
    rw [State.outlet_bridge, State.xcondFault_bridge]
    exact ⟨rfl, rfl, rfl, rfl⟩
  · exact ⟨_, congrArg Host.Outcome.next (State.periodRow_leg hactive hlow hhigh hen), State.bridgePeriod_bridge hperiod hgate⟩
  · refine ⟨_, congrArg Host.Outcome.next (State.shedRow_resumes hactive hf), State.shedResume_resumeAt horder hdue,
      fun hskip => ?_, fun hshed hwanted hinert => ?_, fun hshed hwanted hinert => ?_⟩
    · rw [State.shedResume_skips horder hdue (State.not_resumable_of hskip), State.popped_feed]
    · exact State.shedResume_refused horder hdue (State.resumable_of hshed hwanted hinert)
    · exact State.shedResume_admitted horder hdue (State.resumable_of hshed hwanted hinert)

end

