-- ==== Sys2Proof/Proofs/FeedMonitors.lean ====
section
/-!
PROOFS. The feeds' monitors: sag, crank, the UV latch, overvoltage and overload (R257 to R261).
-/

namespace Sys2Proof.Machine

theorem next_onlyIf {c : Bool} (h : c = true) (s t : State) :
    (.next (onlyIf c s t) : Host.Outcome State Fault Refusal) = .next t := by
  rw [h]
  rfl

/-! ### A filtered value is taken (R256) -/

/-- Feed `f` with filtered voltage `v`. -/
def Feed.measured (x : Feed) (f v : Nat) : Feed :=
  { x with v := v, vMin := min x.vMin v, uvNow := x.uvNow && decide (v < if f == 0 then 450 else 2400) }

/-- A feed with filtered current `i`. -/
def Feed.drawing (x : Feed) (i : Nat) : Feed := { x with i := i, iPeak := max x.iPeak i }

theorem State.feedV_feed (s : State) (f v : Nat) : (s.feedV f v).feed f = (s.feed f).measured f v := State.setFeed_feed ..

theorem State.feedI_feed (s : State) (f i : Nat) : (s.feedI f i).feed f = (s.feed f).drawing i := State.setFeed_feed ..

/-! ### An entry is stored, its event raised, and shedding follows (R267, R277) -/

/-- Entry `x` of feed `f` is stored and its event raised. -/
def State.feedTold (s : State) (f : Nat) (x : Feed) (kind data : Nat) : State :=
  (s.setFeed f x).raise (s.feedTo f) f kind data

section
variable (s : State) (f : Nat) (x : Feed) (kind data : Nat)

theorem State.feedTold_feed : (s.feedTold f x kind data).feed f = x := by
  unfold State.feedTold
  rw [State.raise_feed, State.setFeed_feed]

theorem State.feedTold_lsw : (s.feedTold f x kind data).lsw = s.lsw := by
  unfold State.feedTold
  rw [State.raise_lsw, State.setFeed_lsw]

end

/-- `y` is in the sag, crank and overload of `x`. -/
structure Feed.SameAlarms (x y : Feed) : Prop where
  v : y.v = x.v
  sag : y.sag = x.sag
  sagAt : y.sagAt = x.sagAt
  crank : y.crank = x.crank
  overload : y.overload = x.overload
  overload2 : y.overload2 = x.overload2
  overAt : y.overAt = x.overAt

/-- Shedding follows the causes of a feed and changes none of them. -/
theorem State.reshed_alarms {s : State} {f : Nat} {x : Feed} (h : s.feed f = x) (old : State) (cause : Nat) :
    x.SameAlarms ((s.reshed old f cause).feed f) := by
  subst h
  obtain ⟨hsag, hsagAt, hcrank, -, -, -, hover, hover2, hoverAt, -, hv, -⟩ := (s.reshed_feedSame old f cause).feed f
  exact ⟨hv, hsag, hsagAt, hcrank, hover, hover2, hoverAt⟩

/-! ### Sag (R257, R258, R260) -/

/-- CAUSE_SAG follows the sag of FEED12; FEED48 never changes the device state (R260). -/
def State.sagCause (s : State) (f : Nat) (on : Bool) : State :=
  if f == 0 then ({ s with dev := { s.dev with causeSag := on } }).degrade else s

theorem State.sagCause_feed (s : State) (f : Nat) (on : Bool) (g : Nat) : (s.sagCause f on).feed g = s.feed g := by
  unfold State.sagCause
  split
  · exact State.degrade_feed _ g
  · rfl

theorem State.sagCause_dev (s : State) (on : Bool) : (s.sagCause 0 on).dev.causeSag = on := by
  obtain ⟨hsag, -, -⟩ := State.degrade_causes { s with dev := { s.dev with causeSag := on } }
  exact hsag

/-- A feed whose sag begins at `et`. -/
def Feed.sagging (x : Feed) (et : Nat) : Feed := { x with sag := true, sagAt := et, sagCount := sat16 x.sagCount }

theorem State.sagEnter_eq (s : State) (f v : Nat) : s.sagEnter f v =
    let u := s.feedV f v
    let x := u.feed f
    if 1 < f || x.sag || x.sagTh ≤ v then u
    else ((u.feedTold f (x.sagging u.et) 1 v).reshed u f 0).sagCause f true := by
  unfold State.sagCause State.feedTold Feed.sagging
  rfl

theorem State.sagEnter_below {s : State} {f v : Nat} (hf : f ≤ 1) (hsag : (s.feed f).sag = false) (hv : v < (s.feed f).sagTh) :
    ((s.sagEnter f v).feed f).sag = true ∧ ((s.sagEnter f v).feed f).sagAt = s.et ∧ ((s.sagEnter f v).feed f).v = v ∧
      (f = 0 → (s.sagEnter f v).dev.causeSag = true) := by
  have hstored := (s.feedV f v).feedTold_feed f (((s.feed f).measured f v).sagging (s.feedV f v).et) 1 v
  have hkept := State.reshed_alarms hstored (s.feedV f v) 0
  rw [State.sagEnter_eq]
  dsimp only
  rw [State.feedV_feed, if_neg (by simp [Feed.measured, hsag]; omega), State.sagCause_feed]
  refine ⟨hkept.sag, hkept.sagAt, hkept.v, fun h => ?_⟩
  rw [h, State.sagCause_dev]

/-- A feed whose sag has ended. -/
def Feed.unsagged (x : Feed) : Feed := { x with sag := false }

/-- A feed whose crank has ended. -/
def Feed.uncranked (x : Feed) : Feed := { x with crank := false }

theorem State.crankStop_feed (s : State) (v : Nat) : (s.crankStop v).feed 0 = (s.feed 0).uncranked := by
  unfold State.crankStop
  dsimp only
  rw [State.raise_feed]
  exact State.setFeed_feed ..

theorem State.crankStop_dev (s : State) (v : Nat) : (s.crankStop v).dev.causeCrank = false := by
  unfold State.crankStop
  dsimp only
  rw [State.raise_dev]

/-- Feed `f` out of sag: crank that FEED12 still reports ends with it, CRANK_END raised before SAG_EXIT (R258). -/
def State.sagEnded (s : State) (f v : Nat) : State :=
  (if f == 0 && (s.feed f).crank then (s.setFeed f (s.feed f).unsagged).crankStop v
    else s.setFeed f (s.feed f).unsagged).raise (s.feedTo f) f 2 v

theorem State.sagExit_eq (s : State) (f v : Nat) : s.sagExit f v =
    let u := s.feedV f v
    let x := u.feed f
    if 1 < f || !x.sag || v < x.sagTh + (if f == 0 then 50 else 200) || u.et < x.sagAt + fltMs then u
    else ((u.sagEnded f v).reshed u f 0).sagCause f false := by
  unfold State.sagCause State.sagEnded Feed.unsagged
  rfl

theorem State.sagEnded_feed (s : State) (f v : Nat) :
    ((s.sagEnded f v).feed f).sag = false ∧ (f = 0 → ((s.sagEnded f v).feed f).crank = false) := by
  unfold State.sagEnded
  rw [State.raise_feed]
  split
  case isTrue h =>
    obtain ⟨hf, -⟩ : f = 0 ∧ (s.feed f).crank = true := by simpa using h
    subst hf
    rw [State.crankStop_feed, State.setFeed_feed]
    exact ⟨rfl, fun _ => rfl⟩
  case isFalse h =>
    rw [State.setFeed_feed]
    exact ⟨rfl, fun hf => by simpa [hf, Feed.unsagged] using h⟩

theorem State.sagExit_above {s : State} {f v : Nat} (hf : f ≤ 1) (hsag : (s.feed f).sag = true)
    (hv : (s.feed f).sagTh + (if f = 0 then 50 else 200) ≤ v) (hdue : (s.feed f).sagAt + 50000000 ≤ s.et) :
    ((s.sagExit f v).feed f).sag = false ∧
      (f = 0 → ((s.sagExit f v).feed 0).crank = false ∧ (s.sagExit f v).dev.causeSag = false) := by
  obtain ⟨hends, hcrank⟩ := (s.feedV f v).sagEnded_feed f v
  have hkept := State.reshed_alarms (f := f) (s := (s.feedV f v).sagEnded f v) rfl (s.feedV f v) 0
  have hlate : ¬ (s.feedV f v).et < (s.feed f).sagAt + fltMs := Nat.not_lt.mpr hdue
  have hguard : ¬ (decide (1 < f) || !((s.feed f).measured f v).sag ||
      decide (v < ((s.feed f).measured f v).sagTh + (if f == 0 then 50 else 200)) ||
      decide ((s.feedV f v).et < ((s.feed f).measured f v).sagAt + fltMs)) = true := by
    simpa [Feed.measured, hsag, hlate, hf] using hv
  rw [State.sagExit_eq]
  dsimp only
  rw [State.feedV_feed, if_neg hguard, State.sagCause_feed]
  refine ⟨hkept.sag.trans hends, fun h => ?_⟩
  subst h
  rw [State.sagCause_feed, State.sagCause_dev]
  exact ⟨hkept.crank.trans (hcrank rfl), rfl⟩

/-! ### Crank (R257, R258) -/

/-- A feed whose crank begins at `et`. -/
def Feed.cranking (x : Feed) (et : Nat) : Feed := { x with crank := true, crankAt := et }

/-- CAUSE_CRANK is set. -/
def State.crankCause (s : State) : State := ({ s with dev := { s.dev with causeCrank := true } }).degrade

theorem State.crankCause_feed (s : State) (f : Nat) : s.crankCause.feed f = s.feed f := State.degrade_feed _ f

theorem State.crankCause_dev (s : State) : s.crankCause.dev.causeCrank = true := by
  obtain ⟨-, hcrank, -⟩ := State.degrade_causes { s with dev := { s.dev with causeCrank := true } }
  exact hcrank

theorem State.crankStart_eq (s : State) (v : Nat) : s.crankStart v =
    let u := s.feedV 0 v
    let x := u.feed 0
    if !x.sag || x.crank || x.crankTh ≤ v then u else (u.feedTold 0 (x.cranking u.et) 3 v).crankCause := by
  unfold State.crankCause State.feedTold Feed.cranking
  rfl

theorem State.crankStart_below {s : State} {v : Nat} (hsag : (s.feed 0).sag = true) (hcrank : (s.feed 0).crank = false)
    (hv : v < (s.feed 0).crankTh) :
    ((s.crankStart v).feed 0).crank = true ∧ ((s.crankStart v).feed 0).crankAt = s.et ∧
      (s.crankStart v).dev.causeCrank = true := by
  rw [State.crankStart_eq]
  dsimp only
  rw [State.feedV_feed, if_neg (by simp [Feed.measured, hsag, hcrank]; omega), State.crankCause_feed, State.crankCause_dev,
    State.feedTold_feed]
  exact ⟨rfl, rfl, rfl⟩

theorem State.crankEnd_above {s : State} {v : Nat} (hcrank : (s.feed 0).crank = true) (hv : (s.feed 0).crankTh + 100 ≤ v)
    (hdue : (s.feed 0).crankAt + 50000000 ≤ s.et) :
    ((s.crankEnd v).feed 0).crank = false ∧ (s.crankEnd v).dev.causeCrank = false := by
  have hlate : ¬ (s.feedV 0 v).et < (s.feed 0).crankAt + fltMs := Nat.not_lt.mpr hdue
  obtain ⟨-, hcause, -⟩ := ((s.feedV 0 v).crankStop v).degrade_causes
  unfold State.crankEnd
  dsimp only
  rw [State.feedV_feed, if_neg (by simpa [Feed.measured, hcrank, hlate] using hv), State.degrade_feed, State.crankStop_feed, hcause,
    State.crankStop_dev]
  exact ⟨rfl, rfl⟩

/-! ### The UV latch (R257, R259, R260) -/

theorem State.inertOut_of_uv {s : State} {f k : Nat} (hf : f ≤ 1) (huv : (s.feed f).uv = true) (hk : f = 0 ∨ feedOf k = 1) :
    s.inertOut k = true := by
  obtain rfl | rfl : f = 0 ∨ f = 1 := by omega
  · simp [State.inertOut, huv]
  · have hfeed : feedOf k = 1 := hk.resolve_left Nat.one_ne_zero
    simp [State.inertOut, huv, hfeed]

theorem State.uvLatch_trips {s : State} {f mv : Nat} (hf : f ≤ 1) (hmv : mv < if f = 0 then 4500 else 24000) :
    ((s.uvLatch f mv).feed f).uv = true ∧ (s.uvLatch f mv).dev.armed = s.dev.armed ∧
      ∀ k, f = 0 ∨ feedOf k = 1 → (s.uvLatch f mv).inertOut k = true := by
  have hrow : s.uvLatch f mv = s.uvSet f := if_neg (by simpa [hf] using hmv)
  obtain ⟨huv, hdev, -⟩ := s.uvSet_facts f
  rw [hrow]
  exact ⟨huv, congrArg Dev.armed hdev, fun k => State.inertOut_of_uv hf huv⟩

/-! ### Overvoltage (R258, R260) -/

theorem overvoltLevel_eq (f : Nat) : overvoltLevel f = if f = 0 then 3200 else 5400 := by
  unfold overvoltLevel
  simp only [beq_iff_eq]

/-- A feed in overvoltage, or out of it. -/
def Feed.overvolted (x : Feed) (on : Bool) : Feed := { x with overvolt := on }

theorem State.overvoltage_eq (s : State) (f v : Nat) : s.overvoltage f v =
    let u := s.feedV f v
    let x := u.feed f
    if 1 < f || x.overvolt || v ≤ overvoltLevel f then u else u.feedTold f (x.overvolted true) 9 v := rfl

theorem State.overvoltageEnd_eq (s : State) (f v : Nat) : s.overvoltageEnd f v =
    let u := s.feedV f v
    let x := u.feed f
    if 1 < f || !x.overvolt || overvoltLevel f < v then u else u.feedTold f (x.overvolted false) 0xA v := rfl

section
variable {s : State} {f v : Nat} (hf : f ≤ 1)
include hf

theorem State.overvoltage_above (hover : (s.feed f).overvolt = false) (hv : (if f = 0 then 3200 else 5400) < v) :
    ((s.overvoltage f v).feed f).overvolt = true ∧ (s.overvoltage f v).lsw = s.lsw := by
  rw [← overvoltLevel_eq] at hv
  rw [State.overvoltage_eq]
  dsimp only
  rw [State.feedV_feed, if_neg (by simp [Feed.measured, hover]; omega), State.feedTold_feed, State.feedTold_lsw]
  exact ⟨rfl, rfl⟩

theorem State.overvoltageEnd_below (hover : (s.feed f).overvolt = true) (hv : v ≤ if f = 0 then 3200 else 5400) :
    ((s.overvoltageEnd f v).feed f).overvolt = false := by
  rw [← overvoltLevel_eq] at hv
  rw [State.overvoltageEnd_eq]
  dsimp only
  rw [State.feedV_feed, if_neg (by simp [Feed.measured, hover]; omega), State.feedTold_feed]
  rfl

end

/-! ### Overload (R261) -/

/-- 110 % of a feed's rating. -/
theorem overloadLevel_eq (f : Nat) : feedRating f * 11 / 10 = if f = 0 then 3300 else 1320 := by
  unfold feedRating
  by_cases hf : f = 0 <;> simp [hf]

theorem feedRating_eq (f : Nat) : feedRating f = if f = 0 then 3000 else 1200 := by
  unfold feedRating
  simp only [beq_iff_eq]

/-- A feed whose overload begins at `et`. -/
def Feed.overloaded (x : Feed) (et : Nat) : Feed := { x with overload := true, overAt := et, overloads := sat16 x.overloads }

/-- A feed whose overload sheds class 2 as well. -/
def Feed.overloaded2 (x : Feed) : Feed := { x with overload2 := true }

/-- A feed whose overload has ended. -/
def Feed.unloaded (x : Feed) : Feed := { x with overload := false, overload2 := false }

theorem State.overload_eq (s : State) (f i : Nat) : s.overload f i =
    let u := s.feedI f i
    let x := u.feed f
    if 1 < f || x.overload || i ≤ feedRating f * 11 / 10 then u
    else (u.feedTold f (x.overloaded u.et) 7 i).reshed u f 1 := rfl

theorem State.overload2_eq (s : State) (f i : Nat) : s.overload2 f i =
    let u := s.feedI f i
    let x := u.feed f
    if 1 < f || !x.overload || x.overload2 || i ≤ feedRating f * 11 / 10 || u.et < x.overAt + 10 * nsMs then u
    else (u.setFeed f x.overloaded2).reshed u f 1 := rfl

theorem State.overloadEnd_eq (s : State) (f i : Nat) : s.overloadEnd f i =
    let u := s.feedI f i
    let x := u.feed f
    if 1 < f || !x.overload || feedRating f ≤ i || u.et < x.overAt + 100 * nsMs then u
    else (u.feedTold f x.unloaded 8 i).reshed u f 1 := rfl

section
variable {s : State} {f i : Nat} (hf : f ≤ 1)
include hf

theorem State.overload_above (hover : (s.feed f).overload = false) (hi : (if f = 0 then 3300 else 1320) < i) :
    ((s.overload f i).feed f).overload = true ∧ ((s.overload f i).feed f).overAt = s.et := by
  have hstored := (s.feedI f i).feedTold_feed f (((s.feed f).drawing i).overloaded (s.feedI f i).et) 7 i
  have hkept := State.reshed_alarms hstored (s.feedI f i) 1
  rw [← overloadLevel_eq] at hi
  rw [State.overload_eq]
  dsimp only
  rw [State.feedI_feed, if_neg (by simp [Feed.drawing, hover]; omega)]
  exact ⟨hkept.overload, hkept.overAt⟩

theorem State.overload2_sheds (hover : (s.feed f).overload = true) (hover2 : (s.feed f).overload2 = false)
    (hi : (if f = 0 then 3300 else 1320) < i) (hdue : (s.feed f).overAt + 10000000 ≤ s.et) :
    ((s.overload2 f i).feed f).overload = true ∧ ((s.overload2 f i).feed f).overload2 = true := by
  have hstored := (s.feedI f i).setFeed_feed f ((s.feed f).drawing i).overloaded2
  have hkept := State.reshed_alarms hstored (s.feedI f i) 1
  have hlate : ¬ (s.feedI f i).et < (s.feed f).overAt + 10 * nsMs := Nat.not_lt.mpr hdue
  rw [← overloadLevel_eq] at hi
  rw [State.overload2_eq]
  dsimp only
  rw [State.feedI_feed, if_neg (by simp [Feed.drawing, hover, hover2, hlate]; omega)]
  exact ⟨hkept.overload.trans hover, hkept.overload2⟩

theorem State.overloadEnd_below (hover : (s.feed f).overload = true) (hi : i < if f = 0 then 3000 else 1200)
    (hdue : (s.feed f).overAt + 100000000 ≤ s.et) :
    ((s.overloadEnd f i).feed f).overload = false ∧ ((s.overloadEnd f i).feed f).overload2 = false := by
  have hstored := (s.feedI f i).feedTold_feed f ((s.feed f).drawing i).unloaded 8 i
  have hkept := State.reshed_alarms hstored (s.feedI f i) 1
  have hlate : ¬ (s.feedI f i).et < (s.feed f).overAt + 100 * nsMs := Nat.not_lt.mpr hdue
  rw [← feedRating_eq] at hi
  rw [State.overloadEnd_eq]
  dsimp only
  rw [State.feedI_feed, if_neg (by simp [Feed.drawing, hover, hlate]; omega)]
  exact ⟨hkept.overload, hkept.overload2⟩

end

end Sys2Proof.Machine

open Sys2Proof Sys2Proof.Machine

/-- Settles O36: each row by the rule of its operation, on the state with the measured value taken. The 50 ms, 10 ms and 100 ms
run from the beginning of the alarm (log entry 18). -/
theorem feedMonitors : Obligations.FeedMonitors := by
  intro s f v hpow hf
  exact ⟨fun hsag hv => ⟨_, next_onlyIf hpow _ _, State.sagEnter_below hf hsag hv⟩,
    fun hsag hv hdue => ⟨_, next_onlyIf hpow _ _, State.sagExit_above hf hsag hv hdue⟩,
    fun hsag hcrank hv => ⟨_, next_onlyIf hpow _ _, State.crankStart_below hsag hcrank hv⟩,
    fun hcrank hv hdue => ⟨_, next_onlyIf hpow _ _, State.crankEnd_above hcrank hv hdue⟩,
    fun hmv => ⟨_, next_onlyIf hpow _ _, State.uvLatch_trips hf hmv⟩,
    fun hover hv => ⟨_, next_onlyIf hpow _ _, State.overvoltage_above hf hover hv⟩,
    fun hover hv => ⟨_, next_onlyIf hpow _ _, State.overvoltageEnd_below hf hover hv⟩,
    fun hover hi => ⟨_, next_onlyIf hpow _ _, State.overload_above hf hover hi⟩,
    fun hover hover2 hi hdue => ⟨_, next_onlyIf hpow _ _, State.overload2_sheds hf hover hover2 hi hdue⟩,
    fun hover hi hdue => ⟨_, next_onlyIf hpow _ _, State.overloadEnd_below hf hover hi hdue⟩⟩

end

