-- ==== Sys2Proof/Proofs/Derating.lean ====
section
/-!
PROOFS. The derating step: its entry conditions, a change of the step, and the rows that raise and lower it (R270, R272).
-/

namespace Sys2Proof.Machine

/-! ### The power registers beside the feeds' entries -/

/-- The thermal model's and the rails' registers. -/
def State.thermal (s : State) : Pwr := { s.pwr with feeds := [] }

theorem State.pwr_of_thermal {s : State} {p : Pwr} (h : s.thermal = p) : s.pwr.psw = p.psw ∧ s.pwr.pmod = p.pmod ∧
    s.pwr.tcp = p.tcp ∧ s.pwr.tjc = p.tjc ∧ s.pwr.pmax = p.pmax ∧ s.pwr.step = p.step ∧ s.pwr.stepAt = p.stepAt := by
  subst h
  exact ⟨rfl, rfl, rfl, rfl, rfl, rfl, rfl⟩

theorem State.thermal_of_pwr {s t : State} (h : t.pwr = s.pwr) : t.thermal = s.thermal := by
  unfold State.thermal
  rw [h]

@[simp] theorem State.raise_thermal (s : State) (tos : List Nat) (src kind data : Nat) :
    (s.raise tos src kind data).thermal = s.thermal := State.thermal_of_pwr (State.raise_pwr ..)

@[simp] theorem State.degrade_thermal (s : State) : s.degrade.thermal = s.thermal := State.thermal_of_pwr s.degrade_pwr

@[simp] theorem State.setFeed_thermal (s : State) (f : Nat) (x : Feed) : (s.setFeed f x).thermal = s.thermal := rfl

theorem State.shedOut_thermal (s : State) (k : Nat) : (s.shedOut k).thermal = s.thermal := by
  unfold State.shedOut
  split
  · rfl
  · exact State.thermal_of_pwr ((State.setOutlet_pwr ..).trans (State.outOff_pwr ..))

theorem foldl_thermal {α : Type} (f : State → α → State) (h : ∀ s a, (f s a).thermal = s.thermal) (l : List α) (s : State) :
    (l.foldl f s).thermal = s.thermal :=
  List.foldlRecOn (motive := fun t => t.thermal = s.thermal) l f rfl fun t ht a _ => (h t a).trans ht

theorem State.shedStart_thermal (s : State) (f c cause : Nat) : (s.shedStart f c cause).thermal = s.thermal := by
  unfold State.shedStart
  dsimp only
  rw [State.raise_thermal, State.setFeed_thermal]
  exact foldl_thermal _ State.shedOut_thermal _ _

theorem State.shedStop_thermal (s : State) (f c cause : Nat) : (s.shedStop f c cause).thermal = s.thermal := by
  unfold State.shedStop
  dsimp only
  rw [State.raise_thermal, State.setFeed_thermal]

@[simp] theorem State.reshed_thermal (s old : State) (f cause : Nat) : (s.reshed old f cause).thermal = s.thermal := by
  unfold State.reshed
  refine foldl_thermal _ (fun t c => ?_) _ _
  split
  · exact t.shedStart_thermal f c cause
  · split
    · exact t.shedStop_thermal f c cause
    · rfl

/-! ### A change of the step (R272, R273) -/

/-- The registers of the new step `n`, and CAUSE_TEMP, which is set in every step but 0. -/
def State.stepSet (s : State) (n : Nat) : State :=
  { s with
    pwr := { s.pwr with
      step := n, stepCause := if decide (s.pwr.step < n) then s.entryBits n else 0, stepAt := s.et
      leaveAt := if s.leaveOk n then some s.et else none
      stepCount := if decide (s.pwr.step < n) then sat16 s.pwr.stepCount else s.pwr.stepCount }
    dev := { s.dev with causeTemp := n != 0 } }

/-- Another budget fraction than in `old` is reported (R269). -/
def State.fractionTold (s old : State) : State := if s.fraction == old.fraction then s else s.raise [0] 3 4 s.fraction

theorem State.fractionTold_spec (s old : State) :
    (s.fractionTold old).thermal = s.thermal ∧ (s.fractionTold old).dev = s.dev := by
  unfold State.fractionTold
  split
  · exact ⟨rfl, rfl⟩
  · exact ⟨State.raise_thermal .., State.raise_dev ..⟩

/-- The data of a step's event: the new step, the old one, and what made the step rise (R277). -/
def State.stepData (s : State) (n : Nat) : Nat :=
  pack [(0, 2, n), (2, 2, s.pwr.step), (4, 4, if decide (s.pwr.step < n) then s.entryBits n else 0)]

/-- The new step `n` in its registers, with its events. -/
def State.stepTold (s : State) (n : Nat) : State := ((s.stepSet n).raise [0] 2 1 (s.stepData n)).fractionTold s

/-- A change of the step ends in shedding on both feeds and the device state that follows CAUSE_TEMP. -/
theorem State.stepTo_eq (s : State) (n : Nat) : s.stepTo n = (((s.stepTold n).reshed s 0 2).reshed s 1 2).degrade := by
  unfold State.stepTold State.fractionTold State.stepSet State.stepData
  rfl

theorem State.stepTold_spec (s : State) (n : Nat) :
    (s.stepTold n).thermal = (s.stepSet n).thermal ∧ (s.stepTold n).dev = (s.stepSet n).dev := by
  obtain ⟨hthermal, hdev⟩ := ((s.stepSet n).raise [0] 2 1 (s.stepData n)).fractionTold_spec s
  exact ⟨hthermal.trans (State.raise_thermal ..), hdev.trans (State.raise_dev ..)⟩

theorem State.stepTo_thermal (s : State) (n : Nat) : (s.stepTo n).thermal = (s.stepSet n).thermal := by
  obtain ⟨hthermal, -⟩ := s.stepTold_spec n
  rw [State.stepTo_eq, State.degrade_thermal, State.reshed_thermal, State.reshed_thermal, hthermal]

theorem State.stepTo_causeTemp (s : State) (n : Nat) : (s.stepTo n).dev.causeTemp = (n != 0) := by
  obtain ⟨-, hdev⟩ := s.stepTold_spec n
  obtain ⟨-, -, htemp⟩ := State.degrade_causes (((s.stepTold n).reshed s 0 2).reshed s 1 2)
  rw [State.stepTo_eq, htemp, (State.reshed_feedSame ..).dev, (State.reshed_feedSame ..).dev, hdev]
  rfl

theorem State.stepTo_registers (s : State) (n : Nat) : (s.stepTo n).pwr.step = n ∧ (s.stepTo n).pwr.stepAt = s.et := by
  obtain ⟨-, -, -, -, -, hstep, hstepAt⟩ := State.pwr_of_thermal (s.stepTo_thermal n)
  exact ⟨hstep, hstepAt⟩

/-! ### Entry conditions (R272) -/

theorem flags_ne_zero : ∀ a b c d : Bool, (pack [(0, 1, b2n a), (1, 1, b2n b), (2, 1, b2n c), (3, 1, b2n d)] != 0) =
    (a || b || c || d) := by decide

theorem State.entryBits_two (s : State) : (s.entryBits 2 != 0) = true ↔
    80000 ≤ s.pwr.psw ∨ s.pwr.pmax ≤ s.pwr.pmod ∨ 880 ≤ s.pwr.tcp ∨ 1200 ≤ s.pwr.tjc := by
  have hbits : s.entryBits 2 = pack [(0, 1, b2n (decide (80000 ≤ s.pwr.psw))), (1, 1, b2n (decide (s.pwr.pmax ≤ s.pwr.pmod))),
      (2, 1, b2n (decide (880 ≤ s.pwr.tcp))), (3, 1, b2n (decide (1200 ≤ s.pwr.tjc)))] := rfl
  rw [hbits, flags_ne_zero]
  simp only [Bool.or_eq_true, decide_eq_true_eq, or_assoc]

theorem State.entryBits_one (s : State) : (s.entryBits 1 != 0) = true ↔
    72000 ≤ s.pwr.psw ∨ 9 * s.pwr.pmax ≤ 10 * s.pwr.pmod ∨ 850 ≤ s.pwr.tcp ∨ 1150 ≤ s.pwr.tjc := by
  have hbits : s.entryBits 1 = pack [(0, 1, b2n (decide (72000 ≤ s.pwr.psw))),
      (1, 1, b2n (decide (9 * s.pwr.pmax ≤ 10 * s.pwr.pmod))), (2, 1, b2n (decide (850 ≤ s.pwr.tcp))),
      (3, 1, b2n (decide (1150 ≤ s.pwr.tjc)))] := rfl
  rw [hbits, flags_ne_zero]
  simp only [Bool.or_eq_true, decide_eq_true_eq, or_assoc]

/-- The highest of the steps 0 to 2 whose entry condition holds. -/
def State.entryStep (s : State) : Nat := if s.entryBits 2 != 0 then 2 else if s.entryBits 1 != 0 then 1 else 0

theorem State.entryStep_eq (s : State) : s.entryStep =
    if 80000 ≤ s.pwr.psw ∨ s.pwr.pmax ≤ s.pwr.pmod ∨ 880 ≤ s.pwr.tcp ∨ 1200 ≤ s.pwr.tjc then 2
    else if 72000 ≤ s.pwr.psw ∨ 9 * s.pwr.pmax ≤ 10 * s.pwr.pmod ∨ 850 ≤ s.pwr.tcp ∨ 1150 ≤ s.pwr.tjc then 1 else 0 := by
  unfold State.entryStep
  simp only [State.entryBits_two, State.entryBits_one]

/-! ### The evaluation (R270, R272) -/

section
variable (s : State) (psw rail : Nat) (tcp tjc : Int)

/-- The measured values in their registers. -/
def State.thermalTaken : State :=
  { s with pwr := { s.pwr with
    psw := psw, pmod := psw + rail, pmax := pmaxAt tcp, tcp := tcp, tjc := tjc, pswPeak := max s.pwr.pswPeak psw } }

/-- The leave condition of the present step, and since when it has held. -/
def State.leaveTracked : State :=
  { s with pwr := { s.pwr with leaveAt := if s.leaveOk s.pwr.step then some (s.pwr.leaveAt.getD s.et) else none } }

theorem State.thermalEval_eq : s.thermalEval psw rail tcp tjc =
    let u := s.thermalTaken psw rail tcp tjc
    if u.pwr.step < u.entryStep then u.stepTo u.entryStep else u.leaveTracked := rfl

/-- The evaluation stores what is measured, and the step rises to the highest one whose entry condition holds. -/
theorem State.thermalEval_thermal : ∃ cause since leave count, (s.thermalEval psw rail tcp tjc).thermal =
    { (s.thermalTaken psw rail tcp tjc).thermal with
      step := max s.pwr.step (s.thermalTaken psw rail tcp tjc).entryStep
      stepCause := cause, stepAt := since, leaveAt := leave, stepCount := count } := by
  have hstep : (s.thermalTaken psw rail tcp tjc).pwr.step = s.pwr.step := rfl
  rw [State.thermalEval_eq]
  dsimp only
  split
  case isTrue hrises =>
    rw [hstep] at hrises
    rw [State.stepTo_thermal, Nat.max_eq_right (Nat.le_of_lt hrises)]
    exact ⟨_, _, _, _, rfl⟩
  case isFalse hstays =>
    rw [hstep] at hstays
    rw [Nat.max_eq_left (Nat.not_lt.mp hstays)]
    exact ⟨_, _, _, _, rfl⟩

end

/-! ### A fall, and step 3 (R272) -/

theorem State.stepFall_due {s : State} {a : Nat} (hstep : s.pwr.step ≠ 0) (hleave : s.pwr.leaveAt = some a)
    (hdue : a + 10000000000 ≤ s.et) : s.stepFall = s.stepTo (s.pwr.step - 1) := by
  have hheld : a + 10 * nsS ≤ s.et := hdue
  unfold State.stepFall
  rw [hleave]
  exact if_pos (by simp [hstep, hheld])

theorem State.stepFall_early {s : State} {a : Nat} (hleave : s.pwr.leaveAt = some a) (hearly : s.et < a + 10000000000) :
    s.stepFall = s := by
  have hheld : ¬ a + 10 * nsS ≤ s.et := Nat.not_le.mpr hearly
  unfold State.stepFall
  rw [hleave]
  exact if_neg (by simp [hheld])

theorem State.step3Entry_due {s : State} (hstep : s.pwr.step = 2) (hdue : s.pwr.stepAt + 1000000000 ≤ s.et)
    (hentry : (s.entryBits 2 != 0) = true) : s.step3Entry = s.stepTo 3 := by
  have hheld : s.pwr.stepAt + nsS ≤ s.et := hdue
  exact if_pos (by rw [hentry]; simp [hstep, hheld])

end Sys2Proof.Machine

open Sys2Proof Sys2Proof.Machine

/-- Settles O37: the evaluation by what it stores, a fall and step 3 as changes of the step. A fall before its 10 s is a row out of
place, which changes nothing (log entry 2). -/
theorem deratingSteps : Obligations.DeratingSteps := by
  intro s psw rail tcp tjc hactive
  refine ⟨⟨_, next_onlyIf hactive _ _, ?_⟩, fun a hstep hleave hdue => ⟨_, next_onlyIf hactive _ _, ?_⟩,
    fun a hleave hearly => ?_, fun hstep hdue hentry => ⟨_, next_onlyIf hactive _ _, ?_⟩⟩
  · obtain ⟨cause, since, leave, count, hregs⟩ := s.thermalEval_thermal psw rail tcp tjc
    rw [State.entryStep_eq] at hregs
    obtain ⟨hpsw, hpmod, htcp, htjc, hpmax, hstep, -⟩ := State.pwr_of_thermal hregs
    exact ⟨hpsw, hpmod, htcp, htjc, hpmax, hstep⟩
  · obtain ⟨hto, hat⟩ := s.stepTo_registers (s.pwr.step - 1)
    rw [State.stepFall_due hstep hleave hdue, State.stepTo_causeTemp]
    refine ⟨hto, hat, ?_⟩
    rw [bne_iff_ne]
    omega
  · exact (next_onlyIf hactive s s.stepFall).trans (congrArg Host.Outcome.next (State.stepFall_early hleave hearly))
  · obtain ⟨hto, -⟩ := s.stepTo_registers 3
    rw [State.step3Entry_due hstep hdue (s.entryBits_two.mpr hentry), hto]

end

