-- ==== Sys2Proof/Proofs/SwitchFrames.lean ====
section
/-!
PROOFS. The switch core's events: a frame at its decision point and at its end, transmission selection, ageing and the reset of
sequence recovery (R286 to R303).
-/

namespace Sys2Proof.Machine

/-! ### Port records and lists of ports -/

@[simp] theorem State.onPort_swPort (s : State) (p : Nat) (f : SwPort → SwPort) : (s.onPort p f).swPort p = f (s.swPort p) :=
  State.setSwPort_swPort ..

@[simp] theorem State.onPort_frames (s : State) (p : Nat) (f : SwPort → SwPort) :
    (s.onPort p f).swc.frames = s.swc.frames := rfl

/-- A record written back as it was reads the same at every port. -/
@[simp] theorem State.setSwPort_self_swPort (s : State) (p q : Nat) : (s.setSwPort p (s.swPort p)).swPort q = s.swPort q := by
  by_cases h : q = p
  · rw [h, State.setSwPort_swPort]
  · exact State.setSwPort_swPort_ne s p q _ h

theorem filter_upFrom_eq_nil {f : Nat → Bool} {a n q : Nat} (hq : q < a) (hf : ∀ k, f k = (k == q)) :
    (upFrom a n).filter f = [] := by
  refine List.filter_eq_nil_iff.mpr fun k hk => ?_
  have hak := (mem_upFrom.mp hk).1
  rw [hf, beq_iff_eq]
  omega

theorem filter_upFrom_eq_singleton {f : Nat → Bool} {q : Nat} (hf : ∀ k, f k = (k == q)) (n : Nat) :
    ∀ a, a ≤ q → q < a + n → (upFrom a n).filter f = [q] := by
  induction n with
  | zero => intro a ha hq; omega
  | succ n ih =>
    intro a ha hq
    rw [upFrom]
    by_cases h : a = q
    · subst h
      rw [List.filter_cons_of_pos ((hf a).trans (beq_self_eq_true a)), filter_upFrom_eq_nil (Nat.lt_succ_self a) hf]
    · have hskip : ¬ f a = true := by rw [hf, beq_iff_eq]; exact h
      rw [List.filter_cons_of_neg hskip, ih (a + 1) (by omega) (by omega)]

/-! ### Credits and cells (R288, R295) -/

@[simp] theorem State.touch_cfg (s : State) (p : Nat) : ((s.touch p).swPort p).cfg = (s.swPort p).cfg := by
  rw [State.touch, State.onPort_swPort]

@[simp] theorem State.touch_tx (s : State) (p : Nat) : ((s.touch p).swPort p).tx = (s.swPort p).tx := by
  rw [State.touch, State.onPort_swPort]

/-- Bringing a port's credits up to date leaves its queues alone. -/
@[simp] theorem State.touch_queue (s : State) (p c : Nat) :
    (((s.touch p).swPort p).clsAt c).queue = ((s.swPort p).clsAt c).queue := by
  rw [State.touch, State.onPort_swPort]
  refine List.foldlRecOn (motive := fun t : Tab SwCls => (t.val {} c).queue = ((s.swPort p).clsAt c).queue) _ _
    rfl (fun t ht k _ => ?_)
  split
  case isTrue => exact ht
  case isFalse =>
    by_cases h : c = k
    · subst h
      rw [Tab.val_put_same]
      exact ht
    · rw [Tab.val_put_ne _ _ _ _ _ h]
      exact ht

@[simp] theorem State.touch_clsCells (s : State) (p : Nat) : ((s.touch p).swPort p).clsCells = (s.swPort p).clsCells := by
  funext c
  unfold SwPort.clsCells
  rw [State.touch_queue, State.touch_tx]

/-- Admission does not look at credits. -/
@[simp] theorem State.touch_admitOk (s : State) (q c cells dst vid : Nat) :
    (s.touch q).admitOk q c cells dst vid = s.admitOk q c cells dst vid := by
  unfold State.admitOk SwPort.portCells
  dsimp only
  rw [State.touch_clsCells, State.touch_cfg]
  rfl

/-- A copy with room joins its queue: only the egress port changes. -/
theorem State.admitCopy_admitted {s : State} {q c cells dst vid : Nat} (hroom : s.admitOk q c cells dst vid = true)
    (ingress id : Nat) (cut : Bool) :
    ∃ x, s.admitCopy q c cells ingress id dst vid cut = ((s.touch q).setSwPort q x, true) := by
  rw [← State.touch_admitOk] at hroom
  unfold State.admitCopy
  exact ⟨_, if_pos hroom⟩

/-! ### The frame path (R286 to R290, R298, R299) -/

/-- The VID of a frame (R286 stage 4). -/
def State.frameVid (s : State) (f : EthFrame) : Nat := if f.tagged && f.vid != 0 then f.vid else (s.swPort f.port).cfg.pvid

/-- The VLAN record of a frame. -/
def State.frameVlan (s : State) (f : EthFrame) : VlanRec := s.swc.vlans.val {} (s.frameVid f)

/-- The PCP of a frame (R286 stage 5). -/
def framePcp (f : EthFrame) : Nat := if f.tagged then f.pcp else 0

/-- The traffic class of a frame without an entry that overrides it. -/
def State.frameClass (s : State) (f : EthFrame) : Nat := bits (s.swPort f.port).cfg.pcpMap (3 * framePcp f) 3

/-- The cells that a copy of a frame is charged at its decision point (R288). -/
def State.frameCells (s : State) (f : EthFrame) : Nat := cellsOf (if f.known then f.len else (s.swPort f.port).cfg.maxLen)

/-- A frame that no stream takes, on its way from stage 5 on. -/
def State.frameWay (s : State) (f : EthFrame) : SwWay := ⟨s.frameVlan f, s.frameVid f, framePcp f, s.frameClass f, none⟩

/-- The buffer entry of a frame that no stream takes, before its copies are admitted. -/
def State.frameBuf (s : State) (f : EthFrame) : FrameBuf :=
  { f := f, vid := s.frameVid f, pcp := framePcp f, tc := s.frameClass f, seq := f.rtag }

theorem State.vlanStage_foreign {s : State} {f : EthFrame}
    (h : (s.frameVlan f).vid = 0 ∨ (s.frameVlan f).members.testBit f.port = false) :
    s.vlanStage f = (s.rxDiscard f.port, rxGone) :=
  if_pos (by simpa [State.frameVlan, State.frameVid] using h)

/-- Without streams, stages 6 and 7 pass a member's frame on as it is. -/
theorem State.vlanStage_member {s : State} {f : EthFrame} (hvid : (s.frameVlan f).vid ≠ 0)
    (hmember : (s.frameVlan f).members.testBit f.port = true) (hstreams : s.swc.streams = []) :
    s.vlanStage f = s.forward f (s.frameWay f) none f.rtag := by
  have hpass : ¬ ((s.frameVlan f).vid == 0 || !(s.frameVlan f).members.testBit f.port) = true := by simp [hvid, hmember]
  refine (if_neg hpass).trans ?_
  rw [hstreams]
  rfl

theorem State.lateClass_false {s : State} {p : Nat} (hp : p < 16) (hsec : (s.swPort p).cfg.macsec = false) :
    s.lateClass p = false := by
  simp [State.lateClass, hsec, hp]

/-- A frame with a flagless entry for one port goes to that port in its own class. -/
theorem State.forward_entry {s : State} {f : EthFrame} {i q : Nat} (hfind : s.fdbFind f.dst (s.frameVlan f).fid = some i)
    (hports : (s.swc.fdb.val {} i).ports = 2 ^ q) (hflags : (s.swc.fdb.val {} i).flags = 0) :
    ∃ learn cut, s.forward f (s.frameWay f) none f.rtag =
      let r := s.egress f (s.frameBuf f) (s.frameVlan f) (2 ^ q) cut
      (r.1, { r.2 with learn := learn }) := by
  have hentry : (s.fdbFind f.dst (s.frameWay f).v.fid).map (fun i => s.swc.fdb.val ({} : FdbEnt) i) =
      some (s.swc.fdb.val {} i) := by
    rw [show s.fdbFind f.dst (s.frameWay f).v.fid = some i from hfind]
    rfl
  simp only [State.forward, State.lookupPorts, hentry, hports, hflags, Nat.zero_testBit, Bool.false_eq_true, if_false]
  exact ⟨_, _, rfl⟩

/-! ### Egress filter and admission (R286 stages 9 and 10) -/

/-- The ports that the egress filter leaves, disabled ones included. -/
def egressPorts (f : EthFrame) (v : VlanRec) (ports : Nat) : List Nat :=
  let reserved := decide (0x0180C2000000 ≤ f.dst) && decide (f.dst ≤ 0x0180C200000F)
  (upFrom 0 21).filter fun q =>
    ports.testBit q && v.members.testBit q && q != f.port && !(reserved && decide (f.port < 16) && decide (q < 16))

/-- One more copy of frame `id`, for port `q`, with the count of those admitted so far. -/
def admitOne (f : EthFrame) (b : FrameBuf) (cut : Bool) (cells id : Nat) (a : State × Nat) (q : Nat) : State × Nat :=
  let t := a.1.admitCopy q b.tc cells f.port id f.dst b.vid (cut && decide (a.1.portRate q ≤ a.1.portRate f.port))
  (t.1, if t.2 then a.2 + 1 else a.2)

/-- Frame `b` is in the buffer as number `id`. -/
def State.buffer (s : State) (id : Nat) (b : FrameBuf) : State :=
  let s := { s with swc := { s.swc with nextFrame := id + 1, frames := s.swc.frames.put none id (some b) } }
  { s with swc := { s.swc with peak := max s.swc.peak s.cellsUsed } }

theorem State.egress_eq (s : State) (f : EthFrame) (b : FrameBuf) (v : VlanRec) (ports : Nat) (cut : Bool) :
    s.egress f b v ports cut =
      let u := ((egressPorts f v ports).filter fun q => !s.portUp q).foldl
        (fun s q => s.onPort q fun x => { x with downDrops := sat32 x.downDrops }) s
      let up := (egressPorts f v ports).filter fun q => s.portUp q
      if up.isEmpty then (u.rxDiscard f.port, { dropped := true })
      else
        let id := u.swc.nextFrame
        let cells := cellsOf (if f.known || u.lateClass f.port then f.len else (u.swPort f.port).cfg.maxLen)
        let r := up.foldl (admitOne f b cut cells id) (u, 0)
        if r.2 == 0 then (r.1, { dropped := true }) else (r.1.buffer id { b with copies := r.2 }, { frame := some id }) := rfl

/-- An entry for one other member port passes the filter, outside the reserved addresses. -/
theorem egressPorts_one {f : EthFrame} {v : VlanRec} {q : Nat} (hq : q < 21) (hother : q ≠ f.port)
    (hmember : v.members.testBit q = true) (hdst : f.dst < 0x0180C2000000) : egressPorts f v (2 ^ q) = [q] := by
  unfold egressPorts
  refine filter_upFrom_eq_singleton ?_ 21 0 (Nat.zero_le q) (by omega)
  intro k
  have hfree : decide (0x0180C2000000 ≤ f.dst) = false := by simpa using hdst
  by_cases hk : k = q
  · subst hk
    simp [hmember, hother, hfree]
  · simp [hk, Ne.symm hk]

/-- A frame for one UP port with room is in the buffer with one copy, and only that port's registers have changed. -/
theorem State.egress_one {s : State} {f : EthFrame} {b : FrameBuf} {v : VlanRec} {ports q : Nat} (cut : Bool)
    (hearly : s.lateClass f.port = false) (hports : egressPorts f v ports = [q]) (hup : s.portUp q = true)
    (hroom : s.admitOk q b.tc (s.frameCells f) f.dst b.vid = true) :
    ∃ x, s.egress f b v ports cut =
      (((s.touch q).setSwPort q x).buffer s.swc.nextFrame { b with copies := 1 }, { frame := some s.swc.nextFrame }) := by
  obtain ⟨x, hadmit⟩ := State.admitCopy_admitted hroom f.port s.swc.nextFrame
    (cut && decide (s.portRate q ≤ s.portRate f.port))
  have hone : admitOne f b cut (s.frameCells f) s.swc.nextFrame (s, 0) q = ((s.touch q).setSwPort q x, 1) := by
    rw [admitOne, hadmit]
    rfl
  have hcells : cellsOf (if f.known || s.lateClass f.port then f.len else (s.swPort f.port).cfg.maxLen) = s.frameCells f := by
    rw [hearly, Bool.or_false]
    rfl
  refine ⟨x, ?_⟩
  rw [State.egress_eq, hports]
  simp only [List.filter_cons, List.filter_nil, hup, Bool.not_true, Bool.false_eq_true, if_false, if_true, List.foldl_nil,
    List.foldl_cons, List.isEmpty_cons, hcells, hone]
  rfl

/-- What the stages from 4 on do with a member's frame, of no stream, for one other UP member port with room. -/
theorem State.vlanStage_forwarded {s : State} {f : EthFrame} {i q : Nat} (hearly : s.lateClass f.port = false)
    (hvid : (s.frameVlan f).vid ≠ 0) (hmember : (s.frameVlan f).members.testBit f.port = true)
    (hstreams : s.swc.streams = []) (hfind : s.fdbFind f.dst (s.frameVlan f).fid = some i)
    (hentry : (s.swc.fdb.val {} i).ports = 2 ^ q) (hflags : (s.swc.fdb.val {} i).flags = 0)
    (hports : egressPorts f (s.frameVlan f) (2 ^ q) = [q]) (hup : s.portUp q = true)
    (hroom : s.admitOk q (s.frameClass f) (s.frameCells f) f.dst (s.frameVid f) = true) :
    ∃ x learn, s.vlanStage f = (((s.touch q).setSwPort q x).buffer s.swc.nextFrame { s.frameBuf f with copies := 1 },
      { frame := some s.swc.nextFrame, learn := learn }) := by
  obtain ⟨learn, cut, hforward⟩ := State.forward_entry hfind hentry hflags
  obtain ⟨x, hone⟩ := State.egress_one (b := s.frameBuf f) cut hearly hports hup hroom
  exact ⟨x, learn, by rw [State.vlanStage_member hvid hmember hstreams, hforward, hone]⟩

/-! ### A frame at its decision point (R287) -/

/-- A frame for none of the traps, on a port without MACsec, comes to its VLAN. -/
theorem State.classify_plain {s : State} {f : EthFrame} (hsec : (s.swPort f.port).cfg.macsec = false)
    (htrap : f.port < 12 → f.etherType ≠ 0x88F7) :
    s.classify f = (s.setSwPort f.port (s.swPort f.port)).vlanStage f := by
  have hverify : secVerify (s.swPort f.port) f = (s.swPort f.port, true) := by simp [secVerify, hsec]
  unfold State.classify
  simp only [hverify, Bool.not_true, Bool.false_eq_true, if_false, State.setSwPort_swPort, hsec, Bool.and_false, Bool.or_false]
  refine if_neg ?_
  simp only [Bool.and_eq_true, beq_iff_eq, decide_eq_true_eq, not_and]
  exact fun hgptp hp => htrap hp hgptp

theorem State.frameIn_early {s : State} {f : EthFrame} (hearly : s.lateClass f.port = false) :
    s.frameIn f = (s.classify f).1.onPort f.port fun x => { x with rx := some { (s.classify f).2 with len := f.len } } :=
  if_neg (by rw [hearly]; exact Bool.false_ne_true)

section
variable (s : State) (f : EthFrame) (p : Nat)

@[simp] theorem State.setSwPort_self_frameVid : (s.setSwPort p (s.swPort p)).frameVid f = s.frameVid f := by
  unfold State.frameVid
  rw [State.setSwPort_self_swPort]

@[simp] theorem State.setSwPort_self_frameVlan : (s.setSwPort p (s.swPort p)).frameVlan f = s.frameVlan f := by
  unfold State.frameVlan
  rw [State.setSwPort_self_frameVid]
  rfl

@[simp] theorem State.setSwPort_self_frameClass : (s.setSwPort p (s.swPort p)).frameClass f = s.frameClass f := by
  unfold State.frameClass
  rw [State.setSwPort_self_swPort]

@[simp] theorem State.setSwPort_self_frameBuf : (s.setSwPort p (s.swPort p)).frameBuf f = s.frameBuf f := by
  unfold State.frameBuf
  rw [State.setSwPort_self_frameVid, State.setSwPort_self_frameClass]

@[simp] theorem State.setSwPort_self_frameCells : (s.setSwPort p (s.swPort p)).frameCells f = s.frameCells f := by
  unfold State.frameCells
  rw [State.setSwPort_self_swPort]

@[simp] theorem State.setSwPort_self_lateClass (q : Nat) : (s.setSwPort p (s.swPort p)).lateClass q = s.lateClass q := by
  unfold State.lateClass
  rw [State.setSwPort_self_swPort]

@[simp] theorem State.setSwPort_fdbFind (x : SwPort) (mac fid : Nat) :
    (s.setSwPort p x).fdbFind mac fid = s.fdbFind mac fid := rfl

@[simp] theorem State.setSwPort_self_admitOk (q c cells dst vid : Nat) :
    (s.setSwPort p (s.swPort p)).admitOk q c cells dst vid = s.admitOk q c cells dst vid := by
  unfold State.admitOk
  rw [State.setSwPort_self_swPort]
  rfl

end

section
variable {s : State} {f : EthFrame} (hp : f.port < 16) (hsec : (s.swPort f.port).cfg.macsec = false)
  (htrap : f.port < 12 → f.etherType ≠ 0x88F7)
include hp hsec htrap

/-- A frame of an unknown VLAN, or of one that its port is no member of, is discarded, counted and received to its end. -/
theorem State.frameIn_foreign (h : (s.frameVlan f).vid = 0 ∨ (s.frameVlan f).members.testBit f.port = false) :
    ((s.frameIn f).swPort f.port).rxDiscard = sat32 (s.swPort f.port).rxDiscard ∧
    ((s.frameIn f).swPort f.port).rx = some { dropped := true, len := f.len } ∧
    (s.frameIn f).swc.frames = s.swc.frames := by
  have hgone : s.classify f = ((s.setSwPort f.port (s.swPort f.port)).rxDiscard f.port, rxGone) := by
    rw [State.classify_plain hsec htrap]
    exact State.vlanStage_foreign (by rwa [State.setSwPort_self_frameVlan])
  rw [State.frameIn_early (State.lateClass_false hp hsec), hgone]
  refine ⟨?_, ?_, rfl⟩ <;> simp [State.rxDiscard, rxGone]

/-- A member's frame for one other UP member port with room is in the buffer with one copy, and its port goes on receiving it. -/
theorem State.frameIn_forwarded {i q : Nat} (hvid : (s.frameVlan f).vid ≠ 0)
    (hmember : (s.frameVlan f).members.testBit f.port = true) (hstreams : s.swc.streams = [])
    (hfind : s.fdbFind f.dst (s.frameVlan f).fid = some i) (hports : (s.swc.fdb.val {} i).ports = 2 ^ q)
    (hflags : (s.swc.fdb.val {} i).flags = 0) (hq : q < 16) (hother : q ≠ f.port)
    (hegress : (s.frameVlan f).members.testBit q = true) (hup : s.portUp q = true) (hdst : f.dst < 0x0180C2000000)
    (hroom : s.admitOk q (s.frameClass f) (s.frameCells f) f.dst (s.frameVid f) = true) :
    (s.frameIn f).swc.nextFrame = s.swc.nextFrame + 1 ∧
    (s.frameIn f).swc.frames.val none s.swc.nextFrame = some { s.frameBuf f with copies := 1 } ∧
    ∃ r, ((s.frameIn f).swPort f.port).rx = some r ∧ r.frame = some s.swc.nextFrame ∧ r.len = f.len := by
  have hearly := State.lateClass_false hp hsec
  obtain ⟨x, learn, hvlan⟩ := State.vlanStage_forwarded (s := s.setSwPort f.port (s.swPort f.port)) (f := f) (i := i) (q := q)
    (by simpa using hearly) (by simpa using hvid) (by simpa using hmember) hstreams (by simpa using hfind) hports hflags
    (by simpa using egressPorts_one (by omega) hother hegress hdst) hup (by simpa using hroom)
  rw [State.setSwPort_self_frameBuf] at hvlan
  rw [State.frameIn_early hearly, State.classify_plain hsec htrap, hvlan]
  exact ⟨rfl, Tab.val_put_same .., _, congrArg SwPort.rx (State.onPort_swPort ..), rfl, rfl⟩

end

/-! ### The end of a frame (R286, R288, R297) -/

/-- A port's registers after the end of reception `r`. -/
def SwPort.received (x : SwPort) (r : SwRx) (good : Bool) : SwPort :=
  { x with
    rx := none
    rxFrames := if good then wrap32 x.rxFrames else x.rxFrames
    rxOctets := if good then wrapAdd 64 x.rxOctets r.len else x.rxOctets
    rxBad := if !good && !r.dropped then sat32 x.rxBad else x.rxBad }

/-- The reception of port `p` has ended and is counted; the port has been heard. -/
def State.countRx (s : State) (p : Nat) (r : SwRx) (good : Bool) : State :=
  let s := s.onPort p fun x => x.received r good
  if p < 16 then s.setPrt p { s.prtOf p with alone := false, heardAt := s.et } else s

/-- Frame `b`, number `id`, has fully arrived: its cells and its copies' charges are those of its true length. -/
def State.completeFrame (s : State) (id : Nat) (b : FrameBuf) (len : Nat) : State :=
  let s := { s with swc := { s.swc with
    frames := s.swc.frames.put none id (some { b with complete := true, cells := cellsOf len })
    ports := s.swc.ports.mapV fun _ x => x.recharge id (cellsOf len) } }
  { s with swc := { s.swc with peak := max s.swc.peak s.cellsUsed } }

theorem State.countRx_swc (s : State) (p : Nat) (r : SwRx) (good : Bool) :
    (s.countRx p r good).swc = (s.onPort p fun x => x.received r good).swc := by
  unfold State.countRx
  dsimp only
  split <;> rfl

@[simp] theorem State.countRx_frames (s : State) (p : Nat) (r : SwRx) (good : Bool) :
    (s.countRx p r good).swc.frames = s.swc.frames := by
  rw [State.countRx_swc]
  rfl

@[simp] theorem State.countRx_swPort (s : State) (p : Nat) (r : SwRx) (good : Bool) :
    (s.countRx p r good).swPort p = (s.swPort p).received r good := by
  rw [State.swPort, State.countRx_swc]
  exact State.onPort_swPort ..

theorem State.completeFrame_swPort (s : State) (id : Nat) (b : FrameBuf) (len q : Nat) :
    (s.completeFrame id b len).swPort q = (s.swPort q).recharge id (cellsOf len) :=
  Tab.val_mapV _ _ _ _ rfl

theorem State.finishRx_good {s : State} {p : Nat} {r : SwRx} {id : Nat} {b : FrameBuf} (hlearn : r.learn = none)
    (hframe : r.frame = some id) (hbuf : s.swc.frames.val none id = some b) :
    s.finishRx p r true = (s.countRx p r true).completeFrame id b r.len := by
  have hcounted : (s.countRx p r true).swc.frames.val none id = some b := by rwa [State.countRx_frames]
  unfold State.finishRx
  rw [hlearn, hframe]
  -- with nothing to learn, what follows the count is the lookup of the frame in the buffer
  change (match (s.countRx p r true).swc.frames.val none id with
    | none => s.countRx p r true
    | some b => (s.countRx p r true).completeFrame id b r.len) = _
  rw [hcounted]

theorem State.finishRx_unbuffered {s : State} {p : Nat} {r : SwRx} (hframe : r.frame = none) :
    s.finishRx p r false = s.countRx p r false := by
  unfold State.finishRx
  rw [hframe]
  rfl

/-- The end of a reception: good without a symbol or FCS error, within the port's maximum length. -/
theorem State.frameEnd_receiving {s : State} {p : Nat} {r : SwRx} (hrx : (s.swPort p).rx = some r) (good : Bool) :
    s.frameEnd p good false = s.finishRx p r (good && decide (r.len ≤ (s.swPort p).cfg.maxLen)) := by
  unfold State.frameEnd
  simp only [Bool.false_and, Bool.false_eq_true, if_false, hrx, Bool.not_false, Bool.and_true]

/-- A good frame that is in the buffer is complete there, with the cells of its true length. -/
theorem State.frameEnd_good {s : State} {p : Nat} {r : SwRx} {id : Nat} {b : FrameBuf} (hrx : (s.swPort p).rx = some r)
    (hframe : r.frame = some id) (hlearn : r.learn = none) (hlen : r.len ≤ (s.swPort p).cfg.maxLen)
    (hbuf : s.swc.frames.val none id = some b) :
    ((s.frameEnd p true false).swPort p).rx = none ∧
    ((s.frameEnd p true false).swPort p).rxFrames = wrap32 (s.swPort p).rxFrames ∧
    (s.frameEnd p true false).swc.frames.val none id = some { b with complete := true, cells := cellsOf r.len } := by
  rw [State.frameEnd_receiving hrx, decide_eq_true hlen, Bool.and_true, State.finishRx_good hlearn hframe hbuf,
    State.completeFrame_swPort, State.countRx_swPort]
  exact ⟨rfl, rfl, Tab.val_put_same ..⟩

/-- A bad frame that is not in the buffer is counted, unless a stage that dropped it has counted it. -/
theorem State.frameEnd_bad {s : State} {p : Nat} {r : SwRx} (hrx : (s.swPort p).rx = some r) (hframe : r.frame = none) :
    ((s.frameEnd p false false).swPort p).rx = none ∧
    ((s.frameEnd p false false).swPort p).rxBad =
      if r.dropped then (s.swPort p).rxBad else sat32 (s.swPort p).rxBad := by
  rw [State.frameEnd_receiving hrx, Bool.false_and, State.finishRx_unbuffered hframe, State.countRx_swPort]
  refine ⟨rfl, ?_⟩
  unfold SwPort.received
  cases r.dropped <;> rfl

/-! ### Transmission selection (R293) -/

theorem State.txDone_idle {s : State} {p : Nat} (hidle : (s.swPort p).tx = none) : s.txDone p = s.touch p := by
  unfold State.txDone
  simp only [State.touch_tx, hidle]

/-- Without MACsec, a copy on an external port starts: only the port's record changes, and its queues stay. -/
theorem State.sendCopy_external {s : State} {p : Nat} {x : SwPort} (hp : p < 16) (hsec : x.cfg.macsec = false) (c : Nat)
    (copy : Copy) (b : FrameBuf) :
    ∃ y t, s.sendCopy p c copy b x = s.setSwPort p y ∧ y.cls = x.cls ∧ y.tx = some t ∧ t.copy = copy ∧ t.cls = c := by
  unfold State.sendCopy
  simp only [hsec, Bool.false_and, Bool.false_eq_true, if_false, if_neg (Nat.not_le.mpr hp)]
  exact ⟨_, _, rfl, rfl, rfl, rfl, rfl⟩

/-- Port `x` with `rest` left in the queue of class `c`. -/
def SwPort.withQueue (x : SwPort) (c : Nat) (rest : List Copy) : SwPort :=
  { x with cls := x.cls.put {} c { x.clsAt c with queue := rest } }

/-- The first copy of the class selected is sent. -/
theorem State.selectTx_sends {s : State} {p c n : Nat} {copy : Copy} {rest : List Copy} {b : FrameBuf}
    (hsec : (s.swPort p).cfg.macsec = false) (hfind : [7, 6, 5, 4, 3, 2, 1, 0].find? (s.eligible p) = some c)
    (hqueue : ((s.swPort p).clsAt c).queue = copy :: rest) (hbuf : s.swc.frames.val none copy.frame = some b) :
    s.selectTx (n + 1) p = s.sendCopy p c copy b ((s.swPort p).withQueue c rest) := by
  rw [State.selectTx, hfind]
  simp only [hqueue, hsec, hbuf, Bool.false_and, Bool.false_eq_true, if_false]
  rfl

theorem State.transmissionSelect_idle {s : State} {p : Nat} (hidle : (s.swPort p).tx = none) (hup : s.portUp p = true) :
    ∃ n, s.transmissionSelect p = (s.touch p).selectTx (n + 1) p := by
  have hstill : (s.touch p).portUp p = true := hup
  unfold State.transmissionSelect
  simp only [hidle, State.txDone_idle hidle, hstill, Bool.not_true, Bool.false_eq_true, if_false]
  exact ⟨_, rfl⟩

/-- A free UP port without MACsec sends the first frame of the highest class that may start. -/
theorem State.transmissionSelect_sends {s : State} {p c : Nat} {copy : Copy} {rest : List Copy} {b : FrameBuf} (hp : p < 16)
    (hup : s.portUp p = true) (hsec : (s.swPort p).cfg.macsec = false) (hidle : (s.swPort p).tx = none)
    (hfind : [7, 6, 5, 4, 3, 2, 1, 0].find? ((s.touch p).eligible p) = some c)
    (hqueue : ((s.swPort p).clsAt c).queue = copy :: rest) (hbuf : s.swc.frames.val none copy.frame = some b) :
    ∃ x, ((s.transmissionSelect p).swPort p).tx = some x ∧ x.copy = copy ∧ x.cls = c ∧
      (((s.transmissionSelect p).swPort p).clsAt c).queue = rest := by
  obtain ⟨n, hselect⟩ := State.transmissionSelect_idle hidle hup
  have hsec' : ((s.touch p).swPort p).cfg.macsec = false := by rwa [State.touch_cfg]
  have hsend := State.selectTx_sends (n := n) hsec' hfind (by rwa [State.touch_queue]) (b := b) hbuf
  obtain ⟨y, t, hsent, hclasses, htx, hcopy, hcls⟩ := State.sendCopy_external (s := s.touch p)
    (x := ((s.touch p).swPort p).withQueue c rest) hp hsec' c copy b
  rw [hselect, hsend, hsent, State.setSwPort_swPort]
  refine ⟨t, htx, hcopy, hcls, ?_⟩
  rw [SwPort.clsAt, hclasses, SwPort.withQueue, Tab.val_put_same]

/-! ### Ageing and sequence recovery (R300, R303) -/

theorem State.fdbAgeing_old {s : State} {mac fid i : Nat} (hfind : s.fdbFind mac fid = some i)
    (hlearned : (s.swc.fdb.val {} i).type = 3) (hold : (s.swc.fdb.val {} i).seen + s.swc.ageing * 1000000000 ≤ s.et) :
    s.fdbAgeing mac fid = s.setFdb i {} := by
  have hdue : (s.swc.fdb.val {} i).seen + s.swc.ageing * nsS ≤ s.et := hold
  unfold State.fdbAgeing
  rw [hfind]
  exact if_pos (by simp [hlearned, hdue])

theorem State.cbTimeout_silent {s : State} {i k : Nat} (hk : k / 32 = i)
    (hfunc : (s.swc.cbs.val {} i).func = 2 ∨ (s.swc.cbs.val {} i).func = 3)
    (hsilent : (s.swc.cbState.val {} k).since + (s.swc.cbs.val {} i).timeout * 1000 ≤ s.et) :
    ((s.cbTimeout i).swc.cbState.val {} k).takeAny = true := by
  unfold State.cbTimeout
  dsimp only
  rw [Tab.val_mapV]
  case h => exact ite_self _
  rw [if_pos (by simp [hk, hfunc, hsilent])]

end Sys2Proof.Machine

open Sys2Proof Sys2Proof.Machine

/-- Settles O43: each row by the rule of its operation: the path of a frame by its stages, the end of one by what is counted and
completed, a transmission by the class selected after the credits are up to date. -/
theorem switchFrames : Obligations.SwitchFrames := by
  intro s hactive
  refine ⟨fun f hp hup hsec htrap => ?_, fun p r hp hrx => ⟨fun id b hframe hlearn hlen hbuf => ?_, fun hframe => ?_⟩,
    fun p c copy rest b hp hup hsec hidle hfind hqueue hbuf => ?_, fun mac fid i hfind hlearned hold => ?_,
    fun i k hk hfunc hsilent => ?_⟩
  · have hrow : (s.active && decide (f.port < 21) && s.portUp f.port) = true := by
      simp only [hactive, hup, decide_eq_true (show f.port < 21 by omega), Bool.and_true]
    refine ⟨fun hforeign => ⟨_, next_onlyIf hrow _ _, State.frameIn_foreign hp hsec htrap hforeign⟩,
      fun i q hvid hmember hstreams hfind hports hflags hq hother hegress hupq hdst hroom => ?_⟩
    obtain ⟨hnext, hbuf, hrx⟩ := State.frameIn_forwarded hp hsec htrap hvid hmember hstreams hfind hports hflags hq hother
      hegress hupq hdst hroom
    exact ⟨_, _, next_onlyIf hrow _ _, hnext, hbuf, rfl, rfl, rfl, hrx⟩
  · have hrow : (s.active && decide (p < 21)) = true := by simp [hactive, hp]
    exact ⟨_, next_onlyIf hrow _ _, State.frameEnd_good hrx hframe hlearn hlen hbuf⟩
  · have hrow : (s.active && decide (p < 21)) = true := by simp [hactive, hp]
    exact ⟨_, next_onlyIf hrow _ _, State.frameEnd_bad hrx hframe⟩
  · have hrow : (s.active && decide (p < 21)) = true := by simp [hactive]; omega
    obtain ⟨x, hsent⟩ := State.transmissionSelect_sends hp hup hsec hidle hfind hqueue hbuf
    exact ⟨_, x, next_onlyIf hrow _ _, hsent⟩
  · refine ⟨_, next_onlyIf hactive _ _, ?_⟩
    rw [State.fdbAgeing_old hfind hlearned hold]
    exact Tab.val_put_same ..
  · exact ⟨_, next_onlyIf hactive _ _, State.cbTimeout_silent hk hfunc hsilent⟩

end

