-- ==== Sys2Proof/Proofs/PortLinks.lean ====
section
/-!
PROOFS. The link events of the ports: training, loss and fault, TC10 sleep and wake, PLCA, cable diagnostics, and the timeout of
PRT_ENABLE (R323 to R331, R501). Each row by the record that it leaves the port.
-/

namespace Sys2Proof.Machine

variable {s : State} {p : Nat}

/-! ### Port records through the shared operations -/

@[simp] theorem State.portTrain_prtOf (s : State) (p : Nat) : (s.portTrain p).prtOf p =
    { s.prtOf p with st := 1, trainAt := s.et, fails := 0, sleepDue := none } := State.setPrt_prtOf ..

@[simp] theorem State.tc10End_prtOf (s : State) (p status q : Nat) : (s.tc10End p status).prtOf q = s.prtOf q :=
  State.finishWhere_prtOf ..

theorem State.prtOf_withWake (s : State) (w : Wake) (q : Nat) : ({ s with wake := w } : State).prtOf q = s.prtOf q := rfl

/-- Arming a port's detector, and ARMED with the last of the set, leave the ports' records alone. -/
theorem State.armDetector_armedCheck_prtOf (s : State) (bit q : Nat) :
    (s.armDetector bit).armedCheck.prtOf q = s.prtOf q := by
  obtain ⟨_, _, hprt, _⟩ := (s.armDetector bit).armedCheck_frame
  unfold State.prtOf
  rw [hprt]
  rfl

theorem State.portLeave_st (s : State) (p st : Nat) : ((s.portLeave p st).prtOf p).st = st := by
  obtain ⟨_, _, hleft⟩ := s.portLeave_prtOf p st
  rw [hleft]

theorem State.portLeave_plcaOk (s : State) (p st : Nat) : ((s.portLeave p st).prtOf p).plcaOk = false := by
  obtain ⟨_, _, hleft⟩ := s.portLeave_prtOf p st
  rw [hleft]

/-- A port that goes to ASLEEP: no sleep due any more, one more sleep counted. -/
theorem State.portSleep_asleep (s : State) (p cause : Nat) : ((s.portSleep p cause).prtOf p).st = 3 ∧
    ((s.portSleep p cause).prtOf p).sleepDue = none ∧ ((s.portSleep p cause).prtOf p).sleeps = sat16 (s.prtOf p).sleeps := by
  obtain ⟨_, _, _, hslept⟩ := s.portSleep_prtOf p cause
  rw [hslept]
  exact ⟨rfl, rfl, rfl⟩

/-! ### Link (R323) -/

/-- Training done: UP, with a quality that the link shows. -/
theorem State.linkUp_prtOf (htraining : (s.prtOf p).st = 1) : ∃ q, (s.linkUp p).prtOf p =
    { s.prtOf p with
      st := 2, fails := 0, plcaOk := decide (12 ≤ p), sqi := q, linkUps := sat16 (s.prtOf p).linkUps
      lastUp := s.et, heardAt := s.et } := by
  have het : (if p < 12 then s.fresh else (0, s)).2.et = s.et := by split <;> rfl
  refine ⟨(if p < 12 then s.fresh else (0, s)).1 % 8, ?_⟩
  unfold State.linkUp
  rw [if_neg (by simp [htraining])]
  simp only [State.finishWhere_prtOf, State.raise_prtOf, State.setPrt_prtOf, het]

/-- Link lost: the port leaves UP and trains from now on. -/
theorem State.linkDown_prtOf (hup : (s.prtOf p).st = 2) (localFault : Bool) :
    (s.linkDown p localFault).prtOf p = ((s.portLeave p 1).portTrain p).prtOf p := by
  unfold State.linkDown
  rw [if_neg (by simp [hup])]
  exact State.raise_prtOf ..

/-- The training time over: one more failure, training anew. -/
theorem State.trainFail_prtOf (htraining : (s.prtOf p).st = 1) (hp : p < 12)
    (hdue : (s.prtOf p).trainAt + (s.prtOf p).cfg.training * 1000000 ≤ s.et) : (s.trainFail p).prtOf p =
    { s.prtOf p with
      fails := (s.prtOf p).fails + 1, trainFails := sat16 (s.prtOf p).trainFails, trainAt := s.et } := by
  have hlate : ¬ s.et < (s.prtOf p).trainAt + (s.prtOf p).cfg.training * nsMs := Nat.not_lt.mpr hdue
  unfold State.trainFail
  rw [if_neg (by simp [htraining, hp, hlate]), State.raise_prtOf, State.setPrt_prtOf]

theorem State.phyFault_prtOf (hp : p < 16) (hon : (s.prtOf p).st ≠ 0) :
    (s.phyFault p).prtOf p = (s.portLeave p 4).prtOf p := by
  unfold State.phyFault
  rw [if_neg (by simp [hp, hon]), State.fault_prtOf]

/-! ### TC10 (R327, R501) -/

theorem State.tc10Asleep_prtOf (hdue : (s.prtOf p).sleepDue ≠ none) :
    (s.tc10Asleep p).prtOf p = (s.portSleep p 1).prtOf p := by
  unfold State.tc10Asleep
  rw [if_neg (by simpa using hdue)]
  rw [State.tc10End_prtOf, State.raise_prtOf, State.prtOf_withWake]

/-- The acknowledgement of a port of the set also arms its detector, which leaves its record alone. -/
theorem State.tc10Acked_prtOf (hdue : (s.prtOf p).sleepDue ≠ none) :
    (s.tc10Acked p).prtOf p = (s.portSleep p 1).prtOf p := by
  unfold State.tc10Acked
  dsimp only
  split
  · exact (State.armDetector_armedCheck_prtOf ..).trans (State.tc10Asleep_prtOf hdue)
  · exact State.tc10Asleep_prtOf hdue

/-- No acknowledgement outside ARMING: no sleep is due any more, and nothing else of the port changes. -/
theorem State.tc10Timeout_prtOf {due : Nat} (hsleep : (s.prtOf p).sleepDue = some due) (hdue : due ≤ s.et)
    (hout : s.wake.tc10Wait.contains p = false) : (s.tc10Timeout p).prtOf p = { s.prtOf p with sleepDue := none } := by
  unfold State.tc10Timeout
  rw [hsleep]
  dsimp only
  rw [hout, if_neg (by simp [hdue]), State.tc10End_prtOf, State.setPrt_prtOf]

theorem State.tc10Remote_prtOf (hup : (s.prtOf p).st = 2) (htc10 : (s.prtOf p).cfg.tc10 = true)
    (haccept : (s.prtOf p).cfg.acceptSleep = true) : (s.tc10Remote p).prtOf p = (s.portSleep p 1).prtOf p := by
  unfold State.tc10Remote
  rw [if_pos (by simp [hup, htc10, haccept]), State.tc10End_prtOf, State.raise_prtOf]

/-- A wake of a sleeping port: it trains, and the wake counts. -/
theorem State.portWake_prtOf (hasleep : (s.prtOf p).st = 3) (remote : Bool) : (s.portWake p remote).prtOf p =
    { s.prtOf p with st := 1, trainAt := s.et, fails := 0, sleepDue := none, wakes := sat16 (s.prtOf p).wakes } := by
  unfold State.portWake
  simp only [hasleep, beq_self_eq_true, if_true, State.raise_prtOf, State.portTrain_prtOf, State.setPrt_prtOf, State.setPrt_et]

/-- A local wake is no wake of the transceiver. -/
theorem State.tc10Wake_local (hp : p < 12) (hasleep : (s.prtOf p).st = 3) : s.tc10Wake p false = s.portWake p false := by
  unfold State.tc10Wake
  rw [if_neg (by simp [hp, hasleep])]
  rfl

theorem State.tc10Force_prtOf (harming : s.wake.phase = 2) (hwaits : s.wake.tc10Wait.contains p = true)
    (hdue : (s.prtOf p).sleepDue.getD (s.wake.armEt + 16000000) ≤ s.et) :
    (s.tc10Force p).prtOf p = (s.portSleep p 1).prtOf p := by
  have hlate : ¬ s.et < (s.prtOf p).sleepDue.getD (s.wake.armEt + 16 * nsMs) := Nat.not_lt.mpr hdue
  have hforced : ¬ (s.wake.phase != 2 || !s.wake.tc10Wait.contains p ||
      decide (s.et < (s.prtOf p).sleepDue.getD (s.wake.armEt + 16 * nsMs))) = true := by
    rw [harming, hwaits, decide_eq_false hlate]
    decide
  unfold State.tc10Force
  rw [if_neg hforced, State.armDetector_armedCheck_prtOf, State.prtOf_withWake, State.tc10End_prtOf]

/-! ### PLCA (R325, R326) -/

/-- A follower loses the beacon: out of PLCA until two have come again. -/
theorem State.beaconLost_prtOf (hup : (s.prtOf p).st = 2) (hseg : 12 ≤ p) (hfollower : (s.prtOf p).cfg.leader = false)
    (hplca : (s.prtOf p).plcaOk = true) : (s.beaconLost p).prtOf p =
    { s.prtOf p with
      plcaOk := false, beacons := 0, lostAt := s.et, beaconLosses := sat16 (s.prtOf p).beaconLosses } := by
  unfold State.beaconLost
  rw [if_neg (by simp [hup, hseg, hfollower, hplca]), State.raise_prtOf, State.setPrt_prtOf]

/-- A follower out of PLCA: the first beacon is noted, the second brings it back. -/
theorem State.beaconReceived_follower (hup : (s.prtOf p).st = 2) (hseg : 12 ≤ p)
    (hfollower : (s.prtOf p).cfg.leader = false) (hplca : (s.prtOf p).plcaOk = false) :
    ((s.beaconReceived p).prtOf p).plcaOk = decide ((s.prtOf p).beacons ≠ 0) := by
  unfold State.beaconReceived
  rw [if_neg (by simp [hup, hseg]), if_neg (by simp [hfollower]), if_neg (by simp [hplca])]
  by_cases hfirst : (s.prtOf p).beacons = 0
  · rw [if_pos (by simp [hfirst]), State.setPrt_prtOf]
    simp [hfirst, hplca]
  · rw [if_neg (by simp [hfirst]), State.raise_prtOf, State.setPrt_prtOf]
    simp [hfirst]

theorem State.beaconReceived_leader (hup : (s.prtOf p).st = 2) (hseg : 12 ≤ p) (hleader : (s.prtOf p).cfg.leader = true) :
    (s.beaconReceived p).prtOf p = { s.prtOf p with collisions := sat16 (s.prtOf p).collisions } := by
  unfold State.beaconReceived
  rw [if_neg (by simp [hup, hseg]), if_pos hleader, State.raiseOnce_prtOf, State.setPrt_prtOf]

theorem State.segmentAlone_prtOf (hup : (s.prtOf p).st = 2) (hseg : 12 ≤ p) (hp : p < 16)
    (halone : (s.prtOf p).cfg.alone ≠ 0) (hdue : (s.prtOf p).heardAt + (s.prtOf p).cfg.alone * 1000000 ≤ s.et) :
    (s.segmentAlone p).prtOf p = { s.prtOf p with alone := true, heardAt := s.et } := by
  have hlate : ¬ s.et < (s.prtOf p).heardAt + (s.prtOf p).cfg.alone * nsMs := Nat.not_lt.mpr hdue
  unfold State.segmentAlone
  rw [if_neg (by simp [hup, hseg, hp, halone, hlate]), State.raise_prtOf, State.setPrt_prtOf]

/-! ### Cable diagnostics and the timeout of PRT_ENABLE (R328, R331) -/

/-- The result of the test that runs on a port: kept in its fields' widths, and the command ended. -/
theorem State.diagDone_stores (hruns : (s.outstanding fun o => o.on 0x0703 p) = true) (result dist : Nat) :
    (s.diagDone p result dist).prtOf p = { s.prtOf p with diagResult := result % 4, diagDist := dist % 65536 } ∧
      ∀ o ∈ (s.diagDone p result dist).cmd.async, o.on 0x0703 p = false := by
  unfold State.diagDone
  rw [if_neg (by simp [hruns])]
  exact ⟨by rw [State.finishWhere_prtOf, State.raise_prtOf, State.setPrt_prtOf], State.finishWhere_none _ _ _ _⟩

/-- No PRT_ENABLE of a port that is not UP stays outstanding past its timeout. -/
theorem State.prtTrainTimeout_async (hdown : (s.prtOf p).st ≠ 2) : ∀ o ∈ (s.prtTrainTimeout p).cmd.async,
    o.on 0x0701 p = true → s.et < o.startEt + u16 o.pk.params 2 * nsMs := by
  intro o ho hon
  have hkept := State.finishWhere_none _ _ _ _ o ho
  simpa [hon, hdown] using hkept

end Sys2Proof.Machine

open Sys2Proof Sys2Proof.Machine

/-- Settles O42: each row by the record that it leaves the port; the acknowledged sleep, the partner's and the forced one of R501
leave the record of `portSleep`. -/
theorem portLinks : Obligations.PortLinks := by
  intro s p
  refine ⟨fun htraining => ?_, fun b hup => ?_, fun htraining hp hdue => ?_, fun hp hon => ?_, fun hdue => ?_,
    fun due hsleep hdue hout => ?_, fun hup htc10 haccept => ?_, fun hp hasleep => ?_,
    fun hup hseg => ⟨fun hfollower hplca => ?_, fun hfollower hplca => ?_, fun hleader => ?_, fun hp halone hdue => ?_⟩,
    fun result dist hruns hresult hdist => ?_, ?_, fun harming hwaits hdue => ?_⟩
  · obtain ⟨q, hport⟩ := State.linkUp_prtOf htraining
    refine ⟨_, rfl, ?_⟩
    rw [hport]
    exact ⟨rfl, rfl, rfl, rfl⟩
  · refine ⟨_, rfl, ?_⟩
    rw [State.linkDown_prtOf hup, State.portTrain_prtOf]
    exact ⟨rfl, State.portLeave_plcaOk ..⟩
  · refine ⟨_, rfl, ?_⟩
    rw [State.trainFail_prtOf htraining hp hdue]
    exact ⟨htraining, rfl, rfl, rfl⟩
  · refine ⟨_, rfl, ?_⟩
    rw [State.phyFault_prtOf hp hon]
    exact State.portLeave_st ..
  · refine ⟨_, rfl, ?_⟩
    rw [State.tc10Acked_prtOf hdue]
    exact State.portSleep_asleep ..
  · exact ⟨_, rfl, State.tc10Timeout_prtOf hsleep hdue hout⟩
  · obtain ⟨hst, _, hsleeps⟩ := s.portSleep_asleep p 1
    refine ⟨_, rfl, ?_⟩
    rw [State.tc10Remote_prtOf hup htc10 haccept]
    exact ⟨hst, hsleeps⟩
  · refine ⟨_, rfl, ?_⟩
    rw [State.tc10Wake_local hp hasleep, State.portWake_prtOf hasleep]
    exact ⟨rfl, rfl⟩
  · refine ⟨_, rfl, ?_⟩
    rw [State.beaconLost_prtOf hup hseg hfollower hplca]
    exact ⟨rfl, rfl⟩
  · exact ⟨_, rfl, State.beaconReceived_follower hup hseg hfollower hplca⟩
  · refine ⟨_, rfl, ?_⟩
    rw [State.beaconReceived_leader hup hseg hleader]
  · refine ⟨_, rfl, ?_⟩
    rw [State.segmentAlone_prtOf hup hseg hp halone hdue]
  · obtain ⟨hport, hended⟩ := State.diagDone_stores hruns result dist
    refine ⟨_, rfl, ?_⟩
    rw [hport]
    exact ⟨Nat.mod_eq_of_lt hresult, Nat.mod_eq_of_lt hdist, hended⟩
  · exact ⟨_, rfl, State.finishWhere_prt .., State.prtTrainTimeout_async⟩
  · obtain ⟨hst, _, hsleeps⟩ := s.portSleep_asleep p 1
    refine ⟨_, rfl, ?_⟩
    rw [State.tc10Force_prtOf harming hwaits hdue]
    exact ⟨hst, hsleeps⟩

end

