-- ==== Sys2Proof/Proofs/RingEventRows.lean ====
section
/-!
PROOFS. The frame of the rows of rings, partitions, memory, bridges and crossings, and the fault collector.
-/

namespace Sys2Proof.Machine

/-- Each row of the class is an operation that leaves the view `State.kRing` alone. -/
theorem exec_ringRow {i : Instr} (s : State) (h : i.ringRow = true) : ∃ t, exec i s = .next t ∧ t.kRing = s.kRing := by
  cases i with
  | dbProducer | dbConsumer | irqAck | viConsume | viOvfAck | lowWordRead | statusWindowStore
  | wirebreakTestDone | pairHalted | pairResumed | secureInterrupt | partResetDone | partRestarted | eventDelivery
  | bridgeRetry | busTimeout | holdBufferDrain | cdcOverrun | patrolScrub | poisonRead | faultReport | logFlush
  | prtTrainTimeout | fryStartTimeout =>
    exact ⟨_, rfl, by simp⟩
  | _ => cases h

end Sys2Proof.Machine

open Sys2Proof Sys2Proof.Machine

/-- Settles O24: the view that these rows leave alone, field by field. -/
theorem ringEventsFrame : Obligations.RingEventsFrame := by
  intro i s h
  obtain ⟨t, hexec, hview⟩ := exec_ringRow s h
  exact ⟨t, hexec, State.kRing_ext hview⟩

end

