-- ==== Sys2Proof/Proofs/IsolatedBank.lean ====
section
/-!
PROOFS. The isolated bank: loss and return of the barrier link and of XVS, faults and retries of an output, the end of a field
hold (R395 to R397).
-/

namespace Sys2Proof.Machine

variable {s : State}

/-! ### Inputs that ignore their samples (R392, R395) -/

theorem State.dinHold_din (s : State) (lo hi n : Nat) : (s.dinHold lo hi).din n =
    if (lo ≤ n && n < hi) = true then { s.din n with debUntil := none } else s.din n :=
  Tab.val_mapV _ _ _ _ (ite_self _)

theorem State.dinResume_din (s : State) (lo hi n : Nat) : (s.dinResume lo hi).din n =
    if (lo ≤ n && n < hi) = true then
      { s.din n with
        cnt := 0
        debUntil := if ((s.din n).sampled && (s.din n).filt != (s.din n).qual) = true then
          some (s.et + (s.din n).debounce * 1000) else none }
    else s.din n :=
  Tab.val_mapV _ _ _ _ (ite_self _)

/-- Holding the samples of some inputs leaves every level as it is. -/
theorem State.dinHold_levels (s : State) (lo hi n : Nat) :
    ((s.dinHold lo hi).din n).filt = (s.din n).filt ∧ ((s.dinHold lo hi).din n).qual = (s.din n).qual := by
  rw [State.dinHold_din]
  split <;> exact ⟨rfl, rfl⟩

/-! ### The barrier link (R395, R397) -/

/-- An output as the loss of the link leaves it: an enabled one in its field safe state, off or held for 500 ms. -/
def State.fieldSafe (s : State) (x : Xo) : Xo :=
  if !x.enabled then x
  else if x.safeField == 1 then { x with safe := 2, holdUntil := some (s.et + 500 * nsMs) }
  else { x with safe := 2, holdUntil := none, out := false }

theorem State.fieldSafe_enabled {x : Xo} (h : x.enabled = true) : s.fieldSafe x =
    if x.safeField = 1 then { x with safe := 2, holdUntil := some (s.et + 500000000) }
    else { x with safe := 2, holdUntil := none, out := false } := by
  simp [State.fieldSafe, h, nsMs]

/-- The link is lost now and counts; the outputs go to their field safe states, and the samples of every XI are held. -/
theorem State.barrierLost_dio (hpowered : s.powered = true) (hlink : s.dio.barrierOk = true) (a b : Bool) :
    (s.barrierLost a b).dio = (State.dinHold { s with dio := { s.dio with
      barrierOk := false, lostAt := s.et, losses := sat16 s.dio.losses
      xos := s.dio.xos.mapV fun _ x => s.fieldSafe x } } 64 80).dio := by
  unfold State.barrierLost
  rw [if_neg (by simp [hpowered, hlink])]
  exact State.raise_dio ..

theorem State.barrierLost_xo (hpowered : s.powered = true) (hlink : s.dio.barrierOk = true) (a b : Bool) (n : Nat) :
    (s.barrierLost a b).xo n = s.fieldSafe (s.xo n) := by
  rw [State.xo, State.barrierLost_dio hpowered hlink]
  exact Tab.val_mapV _ _ _ _ rfl

theorem State.barrierLost_levels (hpowered : s.powered = true) (hlink : s.dio.barrierOk = true) (a b : Bool) (n : Nat) :
    ((s.barrierLost a b).din n).filt = (s.din n).filt ∧ ((s.barrierLost a b).din n).qual = (s.din n).qual := by
  rw [State.din, State.barrierLost_dio hpowered hlink]
  exact State.dinHold_levels ..

theorem State.barrierRestored_dio (hpowered : s.powered = true) (hlost : s.dio.barrierOk = false) :
    s.barrierRestored.dio = (State.dinResume { s with dio := { s.dio with barrierOk := true } } 64 80).dio := by
  unfold State.barrierRestored
  rw [if_neg (by simp [hpowered, hlost])]
  exact State.raise_dio ..

/-! ### Faults and retries of an output (R396) -/

/-- An output in fault: off and counted, its retry 100 ms away, its commanded state as before. -/
theorem State.xoFault_xo {n current : Nat} {thermal : Bool} (hn : n < 8) (henabled : (s.xo n).enabled = true)
    (hon : (s.xo n).out = true) (hover : thermal = true ∨ 700 < current) : (s.xoFault n current thermal).xo n =
    { s.xo n with
      out := false, fault := true, current := clip 16 current, faults := sat16 (s.xo n).faults
      retryAt := s.et + 100 * nsMs } := by
  have hmeets : (!thermal && decide (current ≤ 700)) = false := by
    rcases hover with h | h
    · simp [h]
    · simp [Nat.not_le.mpr h]
  unfold State.xoFault
  rw [if_neg (by rw [hmeets, henabled, hon]; simpa using hn)]
  dsimp only
  split
  case isTrue => rw [State.raise_xo, State.setXo_xo]
  case isFalse => exact State.setXo_xo ..

/-- A retry in time of an output that may be driven. -/
theorem State.xoRetry_xo {n : Nat} (hn : n < 8) (hfault : (s.xo n).fault = true) (hcmd : (s.xo n).cmd = true)
    (hdue : (s.xo n).retryAt ≤ s.et) (hlive : s.xoInert = false) (hsafe : (s.xo n).safe ≠ 2) (hxvs : s.dio.xvsOk = true)
    (holds : Bool) : (s.xoRetry n holds).xo n =
    if holds = true then { s.xo n with fault := false, out := true }
    else { s.xo n with retryAt := s.et + 100 * nsMs } := by
  unfold State.xoRetry
  rw [if_neg (by simp [hn, hfault, hcmd, hdue, hlive, hsafe, hxvs])]
  split
  case isTrue => rw [State.raise_xo, State.setXo_xo]
  case isFalse => exact State.setXo_xo ..

/-! ### XVS and the field hold (R395, R396) -/

theorem State.xvsLost_dio {v : Nat} (hpowered : s.powered = true) (hxvs : s.dio.xvsOk = true) (hv : v < 1800) :
    (s.xvsLost v).dio = { s.dio with xvsOk := false, xos := s.dio.xos.mapV fun _ x => { x with out := false } } := by
  unfold State.xvsLost
  rw [if_neg (by simp [hpowered, hxvs, hv])]
  exact State.raise_dio ..

/-- With XVS back, an output outside its field safe state follows its commanded state. -/
theorem State.xvsReturn_xo {v : Nat} (hpowered : s.powered = true) (hxvs : s.dio.xvsOk = false) (hv : 1800 ≤ v) (n : Nat) :
    (s.xvsReturn v).dio.xvsOk = true ∧ (s.xvsReturn v).xo n = if (s.xo n).safe = 2 ∨ s.xoInert = true then s.xo n
      else { s.xo n with out := (s.xo n).cmd && !(s.xo n).fault } := by
  unfold State.xvsReturn
  rw [if_neg (by simp [hpowered, hxvs, hv])]
  refine ⟨rfl, ?_⟩
  have hinert : State.xoInert { s with dio := { s.dio with xvsOk := true } } = s.xoInert := rfl
  rw [State.xo]
  dsimp only
  rw [Tab.val_mapV]
  case h => exact ite_self _
  rw [hinert]
  exact if_congr (by simp [State.xo]) rfl (by simp [State.xoDrive, State.xo])

theorem State.fieldHoldEnd_xo {n due : Nat} (hhold : (s.xo n).holdUntil = some due) (hdue : due ≤ s.et) :
    (s.fieldHoldEnd n).xo n = { s.xo n with holdUntil := none, out := false } := by
  unfold State.fieldHoldEnd
  simp only [hhold]
  rw [if_neg (Nat.not_lt.mpr hdue), State.setXo_xo]

end Sys2Proof.Machine

open Sys2Proof Sys2Proof.Machine

/-- Settles O48: each row by the record that it leaves an output. -/
theorem isolatedBank : Obligations.IsolatedBank := by
  intro s hpowered
  refine ⟨fun a b hlink => ?_, fun hlost => ?_, fun n current thermal hn henabled hon hover => ?_,
    fun n holds hn hfault hcmd hdue hlive hsafe hxvs => ?_, fun v hxvs hv => ?_, fun v hxvs hv => ?_,
    fun n due hhold hdue => ⟨_, rfl, State.fieldHoldEnd_xo hhold hdue⟩⟩
  · have hdio := State.barrierLost_dio hpowered hlink a b
    refine ⟨_, rfl, congrArg Dio.barrierOk hdio, congrArg Dio.losses hdio, congrArg Dio.lostAt hdio, fun n henabled => ?_,
      State.barrierLost_levels hpowered hlink a b⟩
    rw [State.barrierLost_xo hpowered hlink, State.fieldSafe_enabled henabled]
  · have hdio := State.barrierRestored_dio hpowered hlost
    exact ⟨_, rfl, congrArg Dio.barrierOk hdio, (congrArg Dio.xos hdio).trans rfl⟩
  · refine ⟨_, rfl, ?_⟩
    rw [State.xoFault_xo hn henabled hon hover]
    exact ⟨rfl, rfl, rfl, rfl, rfl⟩
  · refine ⟨_, rfl, ?_⟩
    rw [State.xoRetry_xo hn hfault hcmd hdue hlive hsafe hxvs]
    cases holds <;> simp [hfault, nsMs]
  · have hdio := State.xvsLost_dio hpowered hxvs hv
    refine ⟨_, rfl, congrArg Dio.xvsOk hdio, fun n => ?_⟩
    rw [State.xo, hdio]
    exact Tab.val_mapV _ _ _ _ rfl
  · exact ⟨_, rfl, (State.xvsReturn_xo hpowered hxvs hv 0).1, fun n => (State.xvsReturn_xo hpowered hxvs hv n).2⟩

end

