-- ==== Sys2Proof/Proofs/InputFilters.lean ====
section
/-!
PROOFS. The inputs: filter, debounce, hold below 6.0 V, wire break and the end of a wire-break test (R389 to R393, R406).
-/

namespace Sys2Proof.Machine

variable {s : State} {n : Nat}

/-! ### Shared operations -/

@[simp] theorem State.triggerWhere_dio (s : State) (f : Trigger → Bool) (src et level : Nat) :
    (s.triggerWhere f src et level).dio = s.dio := congrArg KNet.dio (State.triggerWhere_kNet s f src et level)

@[simp] theorem State.triggerWhere_din (s : State) (f : Trigger → Bool) (src et level n : Nat) :
    (s.triggerWhere f src et level).din n = s.din n := by
  unfold State.din
  rw [State.triggerWhere_dio]

/-- The end of a command that no reset has discarded, unless QUIET withholds it. -/
theorem State.finishAsync_answered (s : State) {o : Outst} (hlive : o.discard = false) (status : Nat) (result : List Byte)
    (hreply : isQuiet o.pk = false ∨ status ≠ stOk) : (s.finishAsync o status result).answered o.pk status result := by
  unfold State.finishAsync
  rw [if_neg (by simp [hlive])]
  exact finalReply_answered _ _ _ _ _ hreply

/-! ### Filter and debounce (R389 to R391) -/

/-- A qualified change: the qualified level takes the filtered one, and counts with the edge's stamp unless a break value is
read. -/
theorem State.qualify_din (s : State) (n : Nat) : ∃ a b, (s.qualify n).din n =
    { s.din n with
      qual := (s.din n).filt, debUntil := none, pendEdges := 0, suppressed := a, canvasEdges := b
      edges := if (s.din n).wb = 0 then wrap32 (s.din n).edges else (s.din n).edges
      lastEdge := if (s.din n).wb = 0 then (s.din n).stamp else (s.din n).lastEdge } := by
  unfold State.qualify
  dsimp only
  by_cases hbreak : (s.din n).wb = 0
  · simp only [hbreak, bne_self_eq_false, Bool.false_eq_true, if_false, if_true]
    -- whether an event of this change is wanted is left open
    generalize (!s.active || !(if (s.din n).filt = true then (s.din n).rise else (s.din n).fall)) = quiet
    split
    · exact ⟨_, _, State.setDin_din ..⟩
    · split
      · exact ⟨_, _, State.setDin_din ..⟩
      · exact ⟨_, _, by rw [State.raiseAt_din, State.setDin_din]⟩
  · rw [if_pos (by simpa using hbreak), State.setDin_din, if_neg hbreak, if_neg hbreak]
    exact ⟨_, _, rfl⟩

/-- Back at the qualified level: no debounce runs, and the edges that it discards count as chatter. -/
theorem State.debounceOf_back (h : (s.din n).filt = (s.din n).qual) : (s.debounceOf n).din n =
    { s.din n with
      debUntil := none, chatter := satAdd 16 (s.din n).chatter (s.din n).pendEdges, pendEdges := 0 } := by
  unfold State.debounceOf
  rw [if_pos (by simp [h]), State.setDin_din]

theorem State.debounceOf_away (h : (s.din n).filt ≠ (s.din n).qual) (hdebounce : (s.din n).debounce ≠ 0) :
    (s.debounceOf n).din n = { s.din n with debUntil := some (s.et + (s.din n).debounce * 1000) } := by
  unfold State.debounceOf
  rw [if_neg (by simpa using h), if_neg (by simpa using hdebounce), State.setDin_din]

theorem State.debounceOf_none (h : (s.din n).filt ≠ (s.din n).qual) (hdebounce : (s.din n).debounce = 0) :
    s.debounceOf n = s.qualify n := by
  unfold State.debounceOf
  rw [if_neg (by simpa using h), if_pos (by simpa using hdebounce)]

/-- An input at a filtered edge, before its debounce. -/
def Din.edge (x : Din) (level : Bool) (first : Nat) : Din :=
  { x with raw := level, filt := level, cnt := 0, stamp := first, pendEdges := x.pendEdges + 1 }

section
variable {level : Bool} {first : Nat} (hn : n < 80) (henabled : (s.din n).enabled = true) (hpowered : s.powered = true)
  (hheld : s.dinHeld n = false) (hfirst : first ≤ s.et)
include hn henabled hpowered hheld hfirst

/-- The first sample of an input that counts its samples: both levels. -/
theorem State.filteredEdge_first (hnew : (s.din n).sampled = false) : (s.filteredEdge n level first).din n =
    { s.din n with sampled := true, raw := level, filt := level, qual := level, cnt := 0 } := by
  unfold State.filteredEdge
  rw [if_neg (by simp [hn, henabled, hpowered, hheld, hfirst]), if_pos (by simp [hnew]), State.setDin_din]

/-- Another level than the filtered one: the filtered level follows, and the debounce decides. -/
theorem State.filteredEdge_other (hknown : (s.din n).sampled = true) (hother : (s.din n).filt ≠ level) :
    (s.filteredEdge n level first).din n = ((s.setDin n ((s.din n).edge level first)).debounceOf n).din n := by
  unfold State.filteredEdge
  rw [if_neg (by simp [hn, henabled, hpowered, hheld, hfirst]), if_neg (by simp [hknown]), if_neg (by simpa using hother)]
  dsimp only
  split
  case isTrue => rfl
  case isFalse => exact State.triggerWhere_din ..

end

theorem State.diEdge_due {due : Nat} (hn : n < 80) (hheld : s.dinHeld n = false) (hruns : (s.din n).debUntil = some due)
    (hdue : due ≤ s.et) (hother : (s.din n).filt ≠ (s.din n).qual) : s.diEdge n = s.qualify n := by
  unfold State.diEdge
  simp only [hruns]
  exact if_neg (by simp [hn, hheld, hdue, hother])

/-! ### Low feed (R392) -/

@[simp] theorem State.feedV_dio (s : State) (f v : Nat) : (s.feedV f v).dio = s.dio := rfl

@[simp] theorem State.feedV_et (s : State) (f v : Nat) : (s.feedV f v).et = s.et := rfl

theorem State.diFeedLow_dio {v : Nat} (hpowered : s.powered = true) (hv : v < 600) (hhigh : s.dio.feedLow = false) :
    (s.diFeedLow v).dio =
      (State.dinHold { s with dio := { s.dio with feedLow := true, feedLowAt := s.et } } 0 64).dio := by
  unfold State.diFeedLow
  rw [if_neg (by simp [hpowered, hv])]
  dsimp only
  rw [if_neg (by simp [hhigh])]
  rfl

theorem State.diResume_dio {v : Nat} (hpowered : s.powered = true) (hv : 650 < v) (hlow : s.dio.feedLow = true)
    (hdue : s.dio.feedLowAt + 1000000 ≤ s.et) :
    (s.diResume v).dio = (State.dinResume { s with dio := { s.dio with feedLow := false } } 0 64).dio := by
  have hlate : ¬ s.et < s.dio.feedLowAt + nsMs := Nat.not_lt.mpr hdue
  unfold State.diResume
  rw [if_neg (by simp [hpowered, hv])]
  dsimp only
  rw [if_neg (by simp [hlow, hlate])]
  rfl

/-! ### Wire break (R393, R406) -/

/-- Means in a band for the break filter time, from OK: the state of the band, counted, with the level held. -/
theorem State.wireBreak_din {wb : Nat} (hn : n < 64) (hwatched : (s.din n).wbEn = true)
    (hfilter : (s.din n).breakFilter ≠ 0) (hok : (s.din n).wb = 0)
    (hrun : wb = 1 ∧ (s.din n).breakFilter ≤ (s.din n).brkRun ∨
      wb = 2 ∧ (s.din n).brkRun < (s.din n).breakFilter ∧ (s.din n).breakFilter ≤ (s.din n).shortRun) :
    (s.wireBreak n).din n =
      { s.din n with held := (s.din n).qual, wb := wb, breaks := sat16 (s.din n).breaks } := by
  have hband : (if (s.din n).breakFilter ≤ (s.din n).brkRun then 1
      else if (s.din n).breakFilter ≤ (s.din n).shortRun then 2 else 0) = wb := by
    rcases hrun with ⟨rfl, hbreak⟩ | ⟨rfl, hquiet, hshort⟩
    · exact if_pos hbreak
    · rw [if_neg (Nat.not_le.mpr hquiet), if_pos hshort]
  have hwb : wb ≠ 0 := by rcases hrun with ⟨rfl, -⟩ | ⟨rfl, -⟩ <;> decide
  unfold State.wireBreak
  simp only [hband, hok]
  rw [if_neg (by simp [hn, hwatched, hfilter, hwb]), State.raise_din, State.setDin_din]
  rfl

theorem State.wireOk_din (hn : n < 64) (hwatched : (s.din n).wbEn = true) (hwb : (s.din n).wb ≠ 0)
    (hrun : (s.din n).breakFilter ≤ (s.din n).okRun) : (s.wireOk n).din n = { s.din n with wb := 0 } := by
  unfold State.wireOk
  rw [if_neg (by simp [hn, hwatched, hwb, hrun]), State.raise_din, State.setDin_din]

/-- The inputs of `map` that a test of `o` has tested: those of its map that were not skipped. -/
def testedOf (o : Outst) (skipped map : Nat) : Nat :=
  mapBits (fun n => (mapBits (fun n => (testMap o).testBit n && !skipped.testBit n) 64).testBit n && map.testBit n) 64

/-- The test whose window is over ends OK, with the inputs tested and those found in the two bands. -/
theorem State.testDone_ends {o : Outst} {skipped brk shrt : Nat}
    (hover : s.diTests.find? (fun o => decide (testEnd o ≤ s.et)) = some o) : s.testDone skipped brk shrt =
    s.finishAsync o stOk (leBytes 8 (mapBits (fun n => (testMap o).testBit n && !skipped.testBit n) 64) ++
      leBytes 8 (testedOf o skipped brk) ++
      leBytes 8 (mapBits (fun n => (testedOf o skipped shrt).testBit n && (s.din n).mode == 2) 64)) := by
  unfold State.testDone
  rw [hover]
  rfl

end Sys2Proof.Machine

open Sys2Proof Sys2Proof.Machine

/-- Settles O47: each row by the record that it leaves the input. -/
theorem inputFilters : Obligations.InputFilters := by
  intro s n hn
  refine ⟨fun level first henabled hpowered hheld hfirst => ⟨fun hnew => ?_, fun hknown hother => ?_⟩,
    fun due hheld hruns hdue hother => ?_, fun v hpowered hv hhigh => ?_, fun v hpowered hv hlow hdue hdi => ?_,
    fun hdi hwatched => ⟨fun hfilter hok wb hrun => ?_, fun hwb hrun => ?_⟩, fun o skipped brk shrt hover => ?_⟩
  · exact ⟨_, rfl, State.filteredEdge_first hn henabled hpowered hheld hfirst hnew⟩
  · have hedge := State.filteredEdge_other hn henabled hpowered hheld hfirst hknown hother
    have hdin : (s.setDin n ((s.din n).edge level first)).din n = (s.din n).edge level first := State.setDin_din ..
    refine ⟨fun hback => ⟨_, rfl, ?_⟩, fun haway hdebounce => ⟨_, rfl, ?_⟩, fun haway hdebounce => ⟨_, rfl, ?_⟩⟩
    · rw [hedge, State.debounceOf_back (by rw [hdin]; exact hback.symm), hdin]
      exact ⟨rfl, hback, rfl, rfl, rfl⟩
    · rw [hedge, State.debounceOf_away (by rw [hdin]; exact haway.symm) (by rw [hdin]; exact hdebounce), hdin]
      exact ⟨rfl, rfl, rfl, rfl⟩
    · obtain ⟨_, _, hqualified⟩ := State.qualify_din (s.setDin n ((s.din n).edge level first)) n
      rw [hedge, State.debounceOf_none (by rw [hdin]; exact haway.symm) (by rw [hdin]; exact hdebounce), hqualified, hdin]
      exact ⟨rfl, rfl, fun hok => ⟨if_pos hok, if_pos hok⟩⟩
  · obtain ⟨_, _, hqualified⟩ := State.qualify_din s n
    refine ⟨_, rfl, ?_⟩
    rw [State.diEdge_due hn hheld hruns hdue hother, hqualified]
    exact ⟨rfl, rfl, rfl, rfl⟩
  · have hdio := State.diFeedLow_dio hpowered hv hhigh
    refine ⟨_, rfl, congrArg Dio.feedLow hdio, ?_⟩
    rw [State.din, hdio]
    refine (State.dinHold_din _ 0 64 n).trans ?_
    exact if_congr (by simp) rfl rfl
  · have hdio := State.diResume_dio hpowered hv hlow hdue
    have hdin := State.dinResume_din { s with dio := { s.dio with feedLow := false } } 0 64 n
    rw [if_pos (by simpa using hdi)] at hdin
    refine ⟨_, rfl, congrArg Dio.feedLow hdio, ?_⟩
    rw [State.din, hdio]
    rw [State.din] at hdin
    rw [hdin]
    exact ⟨rfl, rfl, rfl, if_congr (by simp [State.din]) rfl rfl⟩
  · refine ⟨_, rfl, ?_⟩
    rw [State.wireBreak_din hdi hwatched hfilter hok hrun]
    exact ⟨rfl, rfl, rfl, rfl⟩
  · refine ⟨_, rfl, ?_⟩
    rw [State.wireOk_din hdi hwatched hwb hrun]
    exact ⟨rfl, rfl⟩
  · refine ⟨_, _, _, _, rfl, ?_, rfl, rfl, rfl, fun hlive hloud => ?_⟩
    · rw [State.testDone_ends hover]
      exact State.finishAsync_async ..
    · rw [State.testDone_ends hover]
      exact State.finishAsync_answered s hlive stOk _ (.inl hloud)

end

