-- ==== Sys2Proof/Proofs/CanFrames.lean ====
section
/-!
PROOFS. The CAN channels: receptions, attempts and their ends, errors, bus-off, recovery and wake (R341 to R351).
-/

namespace Sys2Proof.Machine

variable {s : State} {n : Nat}

/-! ### Shared operations: receive buffers, triggers, wakes -/

@[simp] theorem State.triggerWhere_gw (s : State) (f : Trigger → Bool) (src et level : Nat) :
    (s.triggerWhere f src et level).gw = s.gw := congrArg KFld.gw (State.triggerWhere_kFld s f src et level)

@[simp] theorem State.triggerWhere_can (s : State) (f : Trigger → Bool) (src et level : Nat) :
    (s.triggerWhere f src et level).can = s.can := congrArg KFld.can (State.triggerWhere_kFld s f src et level)

@[simp] theorem State.triggerWhere_canOf (s : State) (f : Trigger → Bool) (src et level n : Nat) :
    (s.triggerWhere f src et level).canOf n = s.canOf n := by
  unfold State.canOf
  rw [State.triggerWhere_can]

@[simp] theorem State.freshBuf_canOf (s : State) (buf : Nat) (data : List Byte) (n : Nat) :
    (s.freshBuf buf data).canOf n = s.canOf n := rfl

/-- A receive buffer after a payload has come (R169). -/
theorem State.freshBuf_rx (s : State) (buf : Nat) (data : List Byte) : (s.freshBuf buf data).gw.rx.val {} buf =
    { s.gw.rx.val {} buf with data := data, has := true, age := 0 } := Tab.val_put_same ..

@[simp] theorem State.txSent_canOf (s : State) (buf n : Nat) : (s.txSent buf).canOf n = s.canOf n := rfl

/-- Only SLEEP-PREP holds a sleep request that may still be aborted. -/
theorem State.beforeCommit_false (h : s.dev.state ≠ .sleepPrep) : s.beforeCommit = false := by
  simp [State.beforeCommit, h]

/-- With no sleep request in progress, a wake of a transceiver is recorded and pulses the lines out at most. -/
theorem State.wakeTransceiver_idle (h : s.dev.state ≠ .sleepPrep) (code : Nat) (tos : List Nat) :
    (s.wakeTransceiver code tos).can = s.can ∧ (s.wakeTransceiver code tos).lin = s.lin ∧
      (s.wakeTransceiver code tos).cmd = s.cmd := by
  have hfrom : (s.wakeFrom code).can = s.can ∧ (s.wakeFrom code).lin = s.lin ∧ (s.wakeFrom code).cmd = s.cmd := by
    unfold State.wakeFrom
    dsimp only
    rw [if_neg (by rw [State.noteSource_bc, State.beforeCommit_false h]; decide)]
    split <;> exact ⟨rfl, rfl, rfl⟩
  unfold State.wakeTransceiver
  dsimp only
  split
  · rwa [State.raise_can, State.raise_lin, State.raise_cmd]
  · exact hfrom

/-! ### Ends of requests (R346, R351) -/

/-- A request's end leaves everything of its channel but the counters of ends and missing acknowledgements. -/
theorem State.canNoAck_canOf (s : State) (n status : Nat) : ∃ a b, (s.canNoAck n status).canOf n =
    { s.canOf n with noack := a, alone := b } := by
  unfold State.canNoAck
  dsimp only
  split
  · split
    · exact ⟨_, _, by rw [State.raise_canOf, State.setCan_canOf]⟩
    · exact ⟨_, _, State.setCan_canOf ..⟩
  · exact ⟨_, _, rfl⟩

theorem State.canNoAck_ok (s : State) (n : Nat) : s.canNoAck n stOk = s := rfl

/-- What ends a request after the counters leaves the channel alone: a reply, or the buffer sent, or an event. -/
theorem State.canEnd_canOf (s : State) (n : Nat) (r : CanReq) (status : Nat) : ∃ a b c d e, (s.canEnd n r status).canOf n =
    { s.canOf n with txOk := a, txFail := b, cancels := c, noack := d, alone := e } := by
  unfold State.canEnd
  dsimp only
  generalize eu : (s.setCan n _).canNoAck n status = u
  have hu : ∃ a b c d e, u.canOf n = { s.canOf n with txOk := a, txFail := b, cancels := c, noack := d, alone := e } := by
    obtain ⟨d, e, h⟩ := State.canNoAck_canOf (s.setCan n _) n status
    rw [← eu, h, State.setCan_canOf]
    exact ⟨_, _, _, d, e, rfl⟩
  clear eu
  split
  · rwa [State.finishWhere_canOf]
  · split
    · exact hu
    · rwa [State.raiseOnce_canOf]

/-- A request that ends OK counts as sent. -/
theorem State.canEnd_ok (s : State) (n : Nat) (r : CanReq) :
    (s.canEnd n r stOk).canOf n = { s.canOf n with txOk := wrap32 (s.canOf n).txOk } := by
  unfold State.canEnd
  dsimp only
  rw [State.canNoAck_ok]
  split
  · rw [State.finishWhere_canOf, State.setCan_canOf]
    rfl
  · exact State.setCan_canOf ..

theorem State.canNext_none (h : (s.canOf n).next = []) : (s.canNext n).canOf n = { s.canOf n with next := [] } := by
  unfold State.canNext
  dsimp only
  rw [h]
  exact State.setCan_canOf ..

/-! ### Error state (R347, R348, R351) -/

/-- An error-active channel below 128 stays as it is. -/
theorem State.canErrState_active (herr : (s.canOf n).err = 0) (htec : (s.canOf n).tec < 128)
    (hrx : (s.canOf n).rxErr < 128) : s.canErrState n = s := by
  unfold State.canErrState
  dsimp only
  rw [if_neg (by simp; omega), if_neg (by simp; omega), if_neg (by simp [herr])]

/-- The fields of a channel that the ends of its requests leave alone. -/
def Can.ended (x : Can) : Can := { x with txOk := 0, txFail := 0, cancels := 0, noack := 0, alone := false }

theorem State.canEnds_ended (n status : Nat) (l : List CanReq) (s : State) :
    ((l.foldl (fun s r => s.canEnd n r status) s).canOf n).ended = (s.canOf n).ended := by
  refine List.foldlRecOn (motive := fun t : State => (t.canOf n).ended = (s.canOf n).ended) l _ rfl fun t ht r _ => ?_
  obtain ⟨_, _, _, _, _, h⟩ := t.canEnd_canOf n r status
  rw [h]
  exact ht

/-- With no cancel in progress: every request has ended. -/
theorem State.canAllOff_canOf (hcancel : (s.canOf n).cancelling = false) : ((s.canAllOff n).canOf n).ended =
    Can.ended { s.canOf n with attempt := none, placed := [], next := [], waiting := [] } := by
  unfold State.canAllOff
  dsimp only
  rw [if_neg (by simp [hcancel]), State.canEnds_ended, State.setCan_canOf]

/-- A counter above 255: bus-off, and every request has ended. -/
theorem State.canErrState_busOff (htec : 255 < (s.canOf n).tec) (hst : (s.canOf n).st ≠ 3)
    (hcancel : (s.canOf n).cancelling = false) : ((s.canErrState n).canOf n).ended =
    Can.ended { s.canOf n with
      st := 3, err := 2, busOffs := sat16 (s.canOf n).busOffs, recovering := (s.canOf n).cfg.autoRec
      recAuto := (s.canOf n).cfg.autoRec, rx := none, attempt := none, placed := [], next := [], waiting := [] } := by
  unfold State.canErrState
  dsimp only
  rw [if_pos (by simp [htec, hst]), State.raise_canOf, State.canAllOff_canOf (by rw [State.setCan_canOf]; exact hcancel),
    State.setCan_canOf]

/-! ### Reception (R342, R343) -/

theorem State.canReceive_unmatched {f : CanFrame} (hst : (s.canOf n).st = 2) (hfree : (s.canOf n).rx = none)
    (hfilter : s.canFilter n f = none) : (s.canReceive n f).canOf n =
    { s.canOf n with unmatched := sat32 (s.canOf n).unmatched, rx := some ⟨f, s.et, none, false⟩ } := by
  unfold State.canReceive
  rw [if_neg (by simp [hst, hfree]), hfilter]
  exact State.setCan_canOf ..

/-- The first filter that matches decides buffer and ring. -/
theorem State.canReceive_filtered {f : CanFrame} {g : CanFilter} (hst : (s.canOf n).st = 2) (hfree : (s.canOf n).rx = none)
    (hfilter : s.canFilter n f = some g) :
    ((s.canReceive n f).canOf n).rx = some ⟨f, s.et, if g.toBuf then some g.buf else none, g.toRing⟩ ∧
    (g.toBuf = true → ((s.canReceive n f).gw.rx.val {} g.buf).data = f.payload.take g.len ∧
      ((s.canReceive n f).gw.rx.val {} g.buf).has = true) := by
  unfold State.canReceive
  rw [if_neg (by simp [hst, hfree]), hfilter]
  dsimp only
  by_cases hbuf : g.toBuf = true
  · rw [if_pos hbuf, if_pos hbuf, State.triggerWhere_canOf, State.freshBuf_canOf, State.setCan_canOf, State.triggerWhere_gw,
      State.freshBuf_rx]
    exact ⟨rfl, fun _ => ⟨rfl, rfl⟩⟩
  · rw [if_neg hbuf, State.setCan_canOf]
    exact ⟨rfl, fun h => absurd h hbuf⟩

section
variable {r : CanRx} (hrx : (s.canOf n).rx = some r) (herr : (s.canOf n).err = 0) (htec : (s.canOf n).tec < 128)
  (hrec : (s.canOf n).rxErr < 128)
include hrx herr htec hrec

/-- A valid frame for no ring counts, and lowers the receive error counter. -/
theorem State.canValid_noRing (hring : r.toRing = false) : (s.canValid n).canOf n =
    { s.canOf n with
      rx := none, rxOk := wrap32 (s.canOf n).rxOk, rxErr := (s.canOf n).rxErr - 1 } := by
  have hless : ¬ 127 < (s.canOf n).rxErr := by omega
  unfold State.canValid
  simp only [hrx, hring, Bool.false_and, Bool.false_eq_true, if_false, if_neg hless]
  rw [State.canErrState_active (by simp [herr]) (by simp [htec]) (by simp; omega), State.setCan_canOf]

/-- One for a ring whose owner runs joins the receive FIFO within its quota. -/
theorem State.canValid_toRing (hring : r.toRing = true) (hruns : s.ringStopped (s.canOf n).cfg.ring = false)
    (hroom : (s.canOf n).rxCells + canCells r.frame.payload.length ≤ (s.canOf n).cfg.rxQuota) :
    ((s.canValid n).canOf n).fifo = (s.canOf n).fifo ++ [(r.stamp, r.frame)] := by
  have hless : ¬ 127 < (s.canOf n).rxErr := by omega
  have hfits : decide ((s.canOf n).cfg.rxQuota < (s.canOf n).rxCells + canCells r.frame.payload.length) = false := by
    simpa using hroom
  unfold State.canValid
  simp only [hrx, hring, hruns, hfits, Bool.and_false, Bool.and_true, Bool.not_false, Bool.false_and,
    Bool.false_eq_true, if_false, if_true, if_neg hless]
  rw [State.canErrState_active (by simp [herr]) (by simp [htec]) (by simp; omega), State.setCan_canOf]

end

/-! ### Attempts (R345 to R347) -/

theorem State.canAttempt_best {r : CanReq} (hst : (s.canOf n).st = 2) (hidle : (s.canOf n).attempt = none)
    (hrx : (s.canOf n).rx = none) (hbest : bestReq (s.canOf n).placed = some r) : (s.canAttempt n).canOf n =
    { s.canOf n with
      placed := (s.canOf n).placed.erase r, attempt := some { r with attempts := r.attempts + 1, sof := s.et } } := by
  unfold State.canAttempt
  rw [if_neg (by simp [hst, hidle, hrx]), hbest]
  exact State.setCan_canOf ..

/-- An attempt that fails with attempts left and no cancel: the request is placed again, first. -/
theorem State.canRetry_again {r : CanReq} (hattempt : (s.canOf n).attempt = some r) (hcancel : (s.canOf n).cancelling = false)
    (hnext : (s.canOf n).next = []) (hleft : r.attempts < (s.canOf n).cfg.retry) (status : Nat) (past : Bool) :
    (s.canRetry n status past).canOf n =
      { s.canOf n with attempt := none, placed := r :: (s.canOf n).placed, next := [] } := by
  unfold State.canRetry
  simp only [hattempt, hcancel, Bool.false_eq_true, if_false, if_neg (Nat.not_le.mpr hleft), State.setCan_canOf]
  rw [State.canNext_none (by rw [State.setCan_canOf]; exact hnext), State.setCan_canOf]

theorem State.canLost_again {r : CanReq} (hattempt : (s.canOf n).attempt = some r) (hcancel : (s.canOf n).cancelling = false)
    (hnext : (s.canOf n).next = []) (hleft : r.attempts < (s.canOf n).cfg.retry) : (s.canLost n).canOf n =
    { s.canOf n with
      attempt := none, placed := { r with lost := true } :: (s.canOf n).placed, next := []
      arbLost := sat16 (s.canOf n).arbLost } := by
  unfold State.canLost
  simp only [hattempt]
  rw [State.canRetry_again (r := { r with lost := true }) (by simp) (by simp [hcancel]) (by simp [hnext]) (by simpa using hleft),
    State.setCan_canOf]

/-- A success ends the attempt, lowers the transmit error counter by one and counts. -/
theorem State.canSuccess_sent {r : CanReq} (hattempt : (s.canOf n).attempt = some r) (hcancel : (s.canOf n).cancelling = false)
    (hnext : (s.canOf n).next = []) (herr : (s.canOf n).err = 0) (htec : (s.canOf n).tec < 128)
    (hrec : (s.canOf n).rxErr < 128) : (s.canSuccess n).canOf n =
    { s.canOf n with
      attempt := none, tec := (s.canOf n).tec - 1, noack := 0, alone := false, txOk := wrap32 (s.canOf n).txOk
      next := [] } := by
  have hkeep : ¬ (s.canOf n).cancelling = true := by simp [hcancel]
  unfold State.canSuccess
  dsimp only
  rw [hattempt]
  dsimp only
  rw [if_neg hkeep, if_neg hkeep]
  generalize eu : (if (s.canOf n).alone = true then _ else _ : State) = u
  have hu : u.canOf n = { s.canOf n with attempt := none, tec := (s.canOf n).tec - 1, noack := 0, alone := false } := by
    rw [← eu]
    split
    · rw [State.raise_canOf, State.setCan_canOf]
    · exact State.setCan_canOf ..
  rw [State.canErrState_active (by rw [hu]; exact herr) (by rw [hu]; dsimp only; omega) (by rw [hu]; exact hrec),
    State.canNext_none (by rw [State.canEnd_ok, hu]; exact hnext), State.canEnd_ok, hu]

/-! ### Errors (R346 to R348, R351) -/

/-- A channel after an error while it sends, before its error state is looked at. -/
def State.canSendError (s : State) (n kind add : Nat) : State :=
  s.setCan n { s.canOf n with
    lastError := kind, lastErrorEt := s.et, rx := none, tec := min 511 ((s.canOf n).tec + add) }

/-- An error while sending raises the transmit error counter by 8, but for a missing acknowledgement met error-passive, and by 8
more where dominant bits follow the flag. -/
theorem State.canError_sending {r : CanReq} (hattempt : (s.canOf n).attempt = some r) (hst : (s.canOf n).st = 2)
    (hrx : (s.canOf n).rx = none) {kind : Nat} (hkind : kind ≠ 7) (hcounts : (s.canOf n).err = 0 ∨ kind ≠ 3)
    (past more : Bool) : s.canError n kind past more =
    let t := (s.canSendError n kind (8 + if more then 8 else 0)).canErrState n
    if ((t.canOf n).st == 3) = true then t else t.canRetry n (if kind == 3 then 0x0A02 else 0x0A03) past := by
  have hcounted : (kind == 3 && (s.canOf n).err == 1) = false := by
    rcases hcounts with h | h <;> simp [h]
  unfold State.canError State.canSendError
  simp only [hst, hkind, hattempt, hrx, hcounted, bne_self_eq_false, beq_iff_eq, Bool.false_eq_true, if_false,
    Option.isSome_some, Option.isSome_none, if_true, Nat.add_assoc, Bool.and_eq_true, false_and]

theorem State.canError_active {r : CanReq} (hattempt : (s.canOf n).attempt = some r)
    (hcancel : (s.canOf n).cancelling = false) (hnext : (s.canOf n).next = []) (hst : (s.canOf n).st = 2)
    (hrx : (s.canOf n).rx = none) {kind : Nat} (hkind : kind ≠ 7) (herr : (s.canOf n).err = 0)
    (htec : (s.canOf n).tec + 8 < 128) (hrec : (s.canOf n).rxErr < 128) (hleft : r.attempts < (s.canOf n).cfg.retry)
    (past : Bool) : (s.canError n kind past false).canOf n =
    { s.canOf n with
      lastError := kind, lastErrorEt := s.et, rx := none, tec := (s.canOf n).tec + 8, attempt := none
      placed := r :: (s.canOf n).placed, next := [] } := by
  have hx : (s.canSendError n kind 8).canOf n =
      { s.canOf n with lastError := kind, lastErrorEt := s.et, rx := none, tec := (s.canOf n).tec + 8 } := by
    rw [State.canSendError, State.setCan_canOf, Nat.min_eq_right (by omega)]
  rw [State.canError_sending hattempt hst hrx hkind (.inl herr)]
  simp only [Bool.false_eq_true, if_false, Nat.add_zero]
  rw [State.canErrState_active (by rw [hx]; exact herr) (by rw [hx]; exact htec) (by rw [hx]; exact hrec),
    if_neg (by rw [hx]; simp [hst]), State.canRetry_again (by rw [hx]; exact hattempt) (by rw [hx]; exact hcancel)
      (by rw [hx]; exact hnext) (by rw [hx]; exact hleft), hx]

theorem State.canError_busOff {r : CanReq} (hattempt : (s.canOf n).attempt = some r)
    (hcancel : (s.canOf n).cancelling = false) (hst : (s.canOf n).st = 2) (hrx : (s.canOf n).rx = none) {kind : Nat}
    (hkind : kind ≠ 7) (hack : kind ≠ 3) (htec : 255 < (s.canOf n).tec + 8) (past more : Bool) :
    ((s.canError n kind past more).canOf n).ended = Can.ended { s.canOf n with
      lastError := kind, lastErrorEt := s.et, rx := none, tec := min 511 ((s.canOf n).tec + (8 + if more then 8 else 0))
      st := 3, err := 2, busOffs := sat16 (s.canOf n).busOffs, recovering := (s.canOf n).cfg.autoRec
      recAuto := (s.canOf n).cfg.autoRec, attempt := none, placed := [], next := [], waiting := [] } := by
  have hx : (s.canSendError n kind (8 + if more then 8 else 0)).canOf n = { s.canOf n with
      lastError := kind, lastErrorEt := s.et, rx := none
      tec := min 511 ((s.canOf n).tec + (8 + if more then 8 else 0)) } := State.setCan_canOf ..
  have hoff := State.canErrState_busOff (s := s.canSendError n kind (8 + if more then 8 else 0)) (n := n)
    (by rw [hx]; dsimp only; omega) (by rw [hx]; simp [hst]) (by rw [hx]; exact hcancel)
  rw [State.canError_sending hattempt hst hrx hkind (.inr hack)]
  dsimp only
  rw [if_pos (by have := congrArg Can.st hoff; simpa [Can.ended] using this), hoff, hx]

/-! ### States (R341, R348, R350) -/

theorem State.canIntegrated_canOf (h : (s.canOf n).st = 1) : (s.canIntegrated n).canOf n = { s.canOf n with st := 2 } := by
  unfold State.canIntegrated
  rw [if_pos (by simp [h]), State.setCan_canOf]

theorem State.canRecovered_canOf (hst : (s.canOf n).st = 3) (hrec : (s.canOf n).recovering = true) :
    (s.canRecovered n).canOf n =
      { s.canOf n with st := 1, recovering := false, err := 0, tec := 0, rxErr := 0 } := by
  unfold State.canRecovered
  rw [if_pos (by simp [hst, hrec]), State.raise_canOf, State.setCan_canOf]

/-- A wake of an armed sleeping channel in RUN. -/
theorem State.canWake_canOf {reason : Nat} (hrun : s.dev.state = .run) (hst : (s.canOf n).st = 4)
    (harmed : (s.canOf n).armed = true) (hreason : reason ≤ 2) (hmode : reason = 0 ↔ (s.canOf n).wakeCfg.mode ≠ 2) :
    (s.canWake n reason).canOf n = { s.canOf n with st := 1, armed := false } := by
  have hmeets : ((reason == 0) != ((s.canOf n).wakeCfg.mode != 2)) = false := by
    rw [bne_eq_false_iff_eq, Bool.eq_iff_iff]
    simpa using hmode
  obtain ⟨hcan, -, -⟩ := State.wakeTransceiver_idle (s := s) (by simp [hrun]) (0x20 + n) (s.canTo n)
  have hx : (s.wakeTransceiver (0x20 + n) (s.canTo n)).canOf n = s.canOf n := by
    unfold State.canOf
    rw [hcan]
  unfold State.canWake
  rw [if_neg (by rw [hmeets]; simp [hst, harmed, hreason])]
  dsimp only
  rw [if_pos (by simp [hrun]), State.raise_canOf, State.canUp, hx, if_pos (by simp [hst]), State.setCan_canOf]

end Sys2Proof.Machine

open Sys2Proof Sys2Proof.Machine

/-- Settles O44: each row by the record that it leaves the channel. -/
theorem canFrames : Obligations.CanFrames := by
  intro s n
  refine ⟨fun f hst hfree => ⟨fun hfilter => ?_, fun g hfilter => ⟨_, rfl, State.canReceive_filtered hst hfree hfilter⟩⟩,
    fun r hrx herr htec hrec => ⟨fun hring => ?_, fun hring hruns hroom =>
      ⟨_, rfl, State.canValid_toRing hrx herr htec hrec hring hruns hroom⟩⟩,
    fun r hst hidle hrx hbest => ?_,
    fun r hattempt hcancel hnext => ⟨fun hleft => ?_, fun htec herr hrec => ?_,
      fun kind past hst hrx hkind herr htec hrec hleft => ?_, fun kind past more hst hrx hkind _ hack htec _ => ?_⟩,
    fun hst => ?_, fun hst hrec => ?_, fun reason hrun hst harmed hreason hmode => ?_⟩
  · refine ⟨_, rfl, ?_⟩
    rw [State.canReceive_unmatched hst hfree hfilter]
    exact ⟨rfl, rfl⟩
  · refine ⟨_, rfl, ?_⟩
    rw [State.canValid_noRing hrx herr htec hrec hring]
    exact ⟨rfl, rfl, rfl⟩
  · refine ⟨_, rfl, ?_⟩
    rw [State.canAttempt_best hst hidle hrx hbest]
    exact ⟨rfl, rfl⟩
  · refine ⟨_, rfl, ?_⟩
    rw [State.canLost_again hattempt hcancel hnext hleft]
    exact ⟨rfl, rfl, rfl⟩
  · refine ⟨_, rfl, ?_⟩
    rw [State.canSuccess_sent hattempt hcancel hnext herr htec hrec]
    exact ⟨rfl, rfl, rfl⟩
  · refine ⟨_, rfl, ?_⟩
    rw [State.canError_active hattempt hcancel hnext hst hrx hkind herr htec hrec hleft]
    exact ⟨rfl, rfl, rfl⟩
  · have hoff := State.canError_busOff hattempt hcancel hst hrx hkind hack htec past more
    exact ⟨_, rfl, congrArg Can.st hoff, congrArg Can.err hoff, congrArg Can.attempt hoff, congrArg Can.placed hoff,
      congrArg Can.waiting hoff, congrArg Can.busOffs hoff⟩
  · exact ⟨_, rfl, congrArg Can.st (State.canIntegrated_canOf hst)⟩
  · refine ⟨_, rfl, ?_⟩
    rw [State.canRecovered_canOf hst hrec]
    exact ⟨rfl, rfl, rfl, rfl⟩
  · refine ⟨_, rfl, ?_⟩
    rw [State.canWake_canOf hrun hst harmed hreason hmode]
    exact ⟨rfl, rfl⟩

end

