-- ==== Sys2Proof/Proofs/LinRows.lean ====
section
/-!
PROOFS. The LIN channels: frames that end, time out or begin, sleep and wake (R378 to R381, R512).
-/

namespace Sys2Proof.Machine

variable {s : State} {n : Nat}

/-! ### Shared operations -/

theorem getD_of_getElem? {α : Type} {l : List α} {i : Nat} {a : α} (h : l[i]? = some a) (d : α) : l.getD i d = a := by
  rw [List.getD_eq_getElem?_getD, h, Option.getD_some]

@[simp] theorem State.freshBuf_linOf (s : State) (buf : Nat) (data : List Byte) (n : Nat) :
    (s.freshBuf buf data).linOf n = s.linOf n := rfl

@[simp] theorem State.txSent_linOf (s : State) (buf n : Nat) : (s.txSent buf).linOf n = s.linOf n := rfl

/-- A transmit buffer after its frame has gone out (R378). -/
theorem State.txSent_tx (s : State) (buf : Nat) : (s.txSent buf).gw.tx.val {} buf =
    { s.gw.tx.val {} buf with written := false } := Tab.val_put_same ..

@[simp] theorem State.linTxEnd_linOf (s : State) (pk : Packet) (start err : Nat) (data : List Byte) (n : Nat) :
    (s.linTxEnd pk start err data).linOf n = s.linOf n := State.finishWhere_linOf ..

theorem State.linTxEnd_none (s : State) (pk : Packet) (start err : Nat) (data : List Byte) :
    ∀ o ∈ (s.linTxEnd pk start err data).cmd.async, (o.code == 0x0A01 && o.pk == pk) = false := by
  unfold State.linTxEnd
  exact State.finishWhere_none _ _ _ _

/-- A channel that goes to ASLEEP: nothing in progress, the sleep counted. -/
theorem State.linSleep_record (s : State) (n why : Nat) : (s.linSleep n why).linOf n =
    { s.linOf n with st := 2, cur := none, sleeps := sat16 (s.linOf n).sleeps, sleptAt := s.et } := by
  unfold State.linSleep
  rw [State.raise_linOf, State.setLin_linOf]

/-- An error: kept as the last one and counted; a responder's response error is set, a commander's run ends. -/
theorem State.linError_record (s : State) (n err id : Nat) : (s.linError n err id).linOf n =
    { s.linOf n with
      lastError := err, lastErrorEt := s.et, rxErrors := sat16 (s.linOf n).rxErrors
      respErr := (s.linOf n).respErr || !(s.linOf n).cfg.commander
      run := if (s.linOf n).cfg.commander then 0 else (s.linOf n).run } := by
  unfold State.linError
  rw [State.raiseOnce_linOf, State.setLin_linOf]

theorem State.linGood_record (s : State) (n : Nat) (subs : Bool) : ∃ run alone, (s.linGood n subs).linOf n =
    { s.linOf n with framesOk := wrap32 (s.linOf n).framesOk, run := run, alone := alone } := by
  unfold State.linGood
  dsimp only
  split
  · exact ⟨_, _, by rw [State.raise_linOf, State.setLin_linOf]⟩
  · exact ⟨_, _, State.setLin_linOf ..⟩

theorem State.linGood_gw (s : State) (n : Nat) (subs : Bool) : (s.linGood n subs).gw = s.gw := by
  unfold State.linGood
  dsimp only
  split
  · rw [State.raise_gw, State.setLin_gw]
  · rfl

theorem State.linGood_entries (s : State) (n : Nat) (subs : Bool) : (s.linGood n subs).lin.entries = s.lin.entries := by
  unfold State.linGood
  dsimp only
  split
  · rw [State.raise_lin]
    rfl
  · rfl

theorem State.linStore_record (s : State) (n : Nat) (c : LinCur) (data : List Byte) : ∃ fifo,
    (s.linStore n c data).linOf n = { s.linOf n with fifo := fifo } := by
  unfold State.linStore
  dsimp only
  generalize eu : (if (c.cmd.isNone && _) = true then _ else _ : State) = u
  have hu : u.linOf n = s.linOf n := by
    rw [← eu]
    exact (apply_ite (fun t : State => t.linOf n) ..).trans (ite_self _)
  rw [← hu]
  split
  · exact ⟨_, rfl⟩
  · split
    · exact ⟨_, State.setLin_linOf ..⟩
    · exact ⟨_, rfl⟩

/-- What follows the store into the buffer leaves the gateway alone. -/
theorem State.linStore_gw {c : LinCur} {i : Nat} {ent : LinEnt} (hcmd : c.cmd = none) (hentry : c.entry = some i)
    (hent : s.lin.entries[i]? = some ent) (hbuf : ent.buf ≠ 0xFFFF) (n : Nat) (data : List Byte) :
    (s.linStore n c data).gw = (s.freshBuf ent.buf (data.take ent.len)).gw := by
  have hstored : (c.cmd.isNone && ent.buf != 0xFFFF) = true := by simp [hcmd, hbuf]
  unfold State.linStore
  rw [hentry]
  dsimp only
  rw [getD_of_getElem? hent, if_pos hstored]
  split
  · rfl
  · split <;> rfl

/-! ### The end of a frame (R378, R380) -/

/-- The device subscribes to the response of an entry of direction 1. -/
theorem State.linSubs_entry {c : LinCur} {i : Nat} {ent : LinEnt} (hcmd : c.cmd = none) (hentry : c.entry = some i)
    (hent : s.lin.entries[i]? = some ent) : s.linSubs c = (ent.dir == 1) := by
  unfold State.linSubs
  rw [hcmd, hentry]
  dsimp only
  rw [getD_of_getElem? hent]

/-- The entry of a frame in progress, the default for a go-to-sleep frame. -/
def State.linEntryOf (s : State) (c : LinCur) : LinEnt := match c.entry with | some i => s.lin.entries.getD i {} | none => {}

theorem State.linEntryOf_some {c : LinCur} {i : Nat} {ent : LinEnt} (hentry : c.entry = some i)
    (hent : s.lin.entries[i]? = some ent) : s.linEntryOf c = ent := by
  unfold State.linEntryOf
  rw [hentry]
  exact getD_of_getElem? hent _

/-- The state after frame `c` has ended without error, before its command ends. -/
def State.linGoodFrame (s : State) (n : Nat) (c : LinCur) (data : List Byte) : State :=
  let x := s.linOf n
  let subs := s.linSubs c
  let ent := s.linEntryOf c
  let s := (s.setLin n { x with cur := none }).linGood n (subs && x.cfg.commander)
  let s := if subs then s.linStore n c data else if c.cmd.isNone then s.txSent ent.buf else s
  if !subs && c.cmd.isNone && c.entry == some x.cfg.respErrEntry then s.setLin n { s.linOf n with respErr := false } else s

/-- Nothing is in progress any more, and the frame counts. -/
theorem State.linGoodFrame_record (s : State) (n : Nat) (c : LinCur) (data : List Byte) : ∃ run alone fifo respErr,
    (s.linGoodFrame n c data).linOf n = { s.linOf n with
      cur := none, framesOk := wrap32 (s.linOf n).framesOk, run := run, alone := alone, fifo := fifo, respErr := respErr } := by
  obtain ⟨run, alone, hgood⟩ := State.linGood_record (s.setLin n { s.linOf n with cur := none }) n
    (s.linSubs c && (s.linOf n).cfg.commander)
  unfold State.linGoodFrame
  dsimp only
  generalize State.linGood _ n _ = u at hgood
  rw [State.setLin_linOf] at hgood
  generalize ev : (if s.linSubs c = true then _ else _ : State) = v
  have hv : ∃ fifo, v.linOf n = { u.linOf n with fifo := fifo } := by
    rw [← ev]
    split
    · exact State.linStore_record ..
    · exact ⟨_, (apply_ite (fun t : State => t.linOf n) ..).trans (ite_self _)⟩
  obtain ⟨fifo, hv⟩ := hv
  split
  · rw [State.setLin_linOf, hv, hgood]
    exact ⟨_, _, _, _, rfl⟩
  · rw [hv, hgood]
    exact ⟨_, _, _, _, rfl⟩

section
variable {c : LinCur} {i : Nat} {ent : LinEnt} (hcmd : c.cmd = none) (hentry : c.entry = some i)
  (hent : s.lin.entries[i]? = some ent)
include hcmd hentry hent

/-- A subscribed response for a buffer is stored fresh, cut to the entry's length. -/
theorem State.linGoodFrame_stores (hdir : ent.dir = 1) (hbuf : ent.buf ≠ 0xFFFF) (data : List Byte) :
    (s.linGoodFrame n c data).gw.rx.val {} ent.buf =
      { s.gw.rx.val {} ent.buf with data := data.take ent.len, has := true, age := 0 } := by
  have hsubs : s.linSubs c = true := by simp [State.linSubs_entry hcmd hentry hent, hdir]
  unfold State.linGoodFrame
  simp only [hsubs, if_true, Bool.not_true, Bool.false_and, Bool.false_eq_true, if_false]
  rw [State.linStore_gw hcmd hentry (by rw [State.linGood_entries]; exact hent) hbuf, State.freshBuf_rx, State.linGood_gw]
  rfl

/-- A published response counts its commits as sent. -/
theorem State.linGoodFrame_sends (hdir : ent.dir ≠ 1) (data : List Byte) :
    ((s.linGoodFrame n c data).gw.tx.val {} ent.buf).written = false := by
  have hsubs : s.linSubs c = false := by simp [State.linSubs_entry hcmd hentry hent, hdir]
  unfold State.linGoodFrame
  simp only [hsubs, hcmd, Bool.false_eq_true, if_false, Option.isNone_none, if_true]
  rw [State.linEntryOf_some hentry hent]
  split
  · rw [State.setLin_gw, State.txSent_tx]
  · rw [State.txSent_tx]

end

section
variable {c : LinCur} {e : LinEnd} (hcur : (s.linOf n).cur = some c)
include hcur

section
variable (hgood : e.err = 0)
include hgood

theorem State.linFrameEnd_scheduled (hcmd : c.cmd = none) : s.linFrameEnd n e = s.linGoodFrame n c e.data := by
  unfold State.linFrameEnd State.linGoodFrame
  simp only [hcur]
  rw [if_pos (by simp [hgood]), hcmd]
  rfl

/-- The go-to-sleep command has gone out: the channel sleeps, and LIN_GOTO_SLEEP ends. -/
theorem State.linFrameEnd_sleep {pk : Packet} (hcmd : c.cmd = some pk) (hentry : c.entry = none) :
    s.linFrameEnd n e =
      ((s.linGoodFrame n c e.data).linSleep n 0).finishWhere (fun o => o.on 0x0A03 n) stOk [] := by
  unfold State.linFrameEnd State.linGoodFrame
  simp only [hcur]
  rw [if_pos (by simp [hgood]), hcmd, hentry]
  rfl

theorem State.linFrameEnd_tx {pk : Packet} {i : Nat} (hcmd : c.cmd = some pk) (hentry : c.entry = some i) :
    ∃ data, s.linFrameEnd n e = (s.linGoodFrame n c e.data).linTxEnd pk c.start 0 data := by
  refine ⟨if s.linSubs c then e.data.take 8 else [], ?_⟩
  unfold State.linFrameEnd State.linGoodFrame
  simp only [hcur]
  rw [if_pos (by simp [hgood]), hcmd, hentry]
  rfl

/-- Whatever command ends with a good frame, nothing is in progress and the frame counts. -/
theorem State.linFrameEnd_good : ((s.linFrameEnd n e).linOf n).cur = none ∧
    ((s.linFrameEnd n e).linOf n).framesOk = wrap32 (s.linOf n).framesOk := by
  obtain ⟨_, _, _, _, hframe⟩ := s.linGoodFrame_record n c e.data
  rcases hcmd : c.cmd with _ | pk
  · rw [State.linFrameEnd_scheduled hcur hgood hcmd, hframe]
    exact ⟨rfl, rfl⟩
  · rcases hentry : c.entry with _ | i
    · rw [State.linFrameEnd_sleep hcur hgood hcmd hentry, State.finishWhere_linOf, State.linSleep_record, hframe]
      exact ⟨rfl, rfl⟩
    · obtain ⟨_, htx⟩ := State.linFrameEnd_tx hcur hgood hcmd hentry
      rw [htx, State.linTxEnd_linOf, hframe]
      exact ⟨rfl, rfl⟩

end

section
variable {i : Nat} {ent : LinEnt} (hentry : c.entry = some i) (hent : s.lin.entries[i]? = some ent)
include hentry hent

/-- A checksum or framing error of a subscribed event-triggered entry is a collision. -/
theorem State.linFrameEnd_collision (herr : e.err = 3 ∨ e.err = 5) (hcmd : c.cmd = none) (htype : ent.type = 1)
    (hdir : ent.dir = 1) : (s.linFrameEnd n e).linOf n =
    { s.linOf n with
      cur := none, collisions := sat16 (s.linOf n).collisions, lastError := 7, lastErrorEt := s.et
      collided := (s.linOf n).collided.put 0 i (s.easel.canvasCount + 1) } := by
  have hlook : ∀ x, (s.setLin n x).lin.entries.getD i {} = ent := fun _ => getD_of_getElem? hent _
  have hsubs : ∀ x, (s.setLin n x).linSubs c = true := fun x => by
    simp [State.linSubs_entry (s := s.setLin n x) hcmd hentry hent, hdir]
  have hbad : ¬ (e.err == 0) = true := by rcases herr with h | h <;> simp [h]
  have hkind : (e.err == 3 || e.err == 5) = true := by simpa using herr
  unfold State.linFrameEnd
  simp only [hcur, hentry, hlook, hsubs]
  rw [if_neg hbad, if_pos (by simp [hkind, htype, hcmd]), State.setLin_linOf, State.setLin_linOf]
  rfl

/-- Any other error is stored and counted. -/
theorem State.linFrameEnd_error (herr : e.err ≠ 0) (htype : ent.type ≠ 1) : (s.linFrameEnd n e).linOf n =
    { s.linOf n with
      cur := none, lastError := e.err, lastErrorEt := s.et, rxErrors := sat16 (s.linOf n).rxErrors
      respErr := (s.linOf n).respErr || !(s.linOf n).cfg.commander
      run := if (s.linOf n).cfg.commander then 0 else (s.linOf n).run } := by
  have hlook : ∀ x, (s.setLin n x).lin.entries.getD i {} = ent := fun _ => getD_of_getElem? hent _
  unfold State.linFrameEnd
  simp only [hcur, hentry, hlook]
  rw [if_neg (by simpa using herr), if_neg (by simp [htype])]
  split
  · rw [State.linTxEnd_linOf, State.linError_record, State.setLin_linOf]
    rfl
  · rw [State.linError_record, State.setLin_linOf]
    rfl

end
end

/-! ### The response time (R378, R380) -/

section
variable {c : LinCur} (hcur : (s.linOf n).cur = some c)
include hcur

/-- Without a byte: no response, and a commander's run rises. -/
theorem State.linTimeout_silent (hsubs : s.linSubs c = true) : ∃ alone, (s.linTimeout n []).linOf n =
    { s.linOf n with
      cur := none, lastError := 1, lastErrorEt := s.et, noResponse := sat16 (s.linOf n).noResponse, alone := alone
      run := if (s.linOf n).cfg.commander then sat8 (s.linOf n).run else (s.linOf n).run } := by
  have hours : ∀ x, ¬ (!(s.setLin n x).linSubs c) = true := fun x => by
    rw [show (s.setLin n x).linSubs c = true from hsubs]
    decide
  unfold State.linTimeout
  simp only [hcur, State.setLin_linOf, State.setLin_et]
  rw [if_neg (hours _)]
  generalize eu : (if List.isEmpty [] = true then _ else _ : State) = u
  have hu : ∃ alone, u.linOf n = { s.linOf n with
      cur := none, lastError := 1, lastErrorEt := s.et, noResponse := sat16 (s.linOf n).noResponse, alone := alone
      run := if (s.linOf n).cfg.commander then sat8 (s.linOf n).run else (s.linOf n).run } := by
    rw [← eu, if_pos List.isEmpty_nil]
    generalize ((s.linOf n).cfg.commander && decide (8 ≤ _) && !(s.linOf n).alone) = alone
    cases alone with
    | true => exact ⟨_, by rw [if_pos rfl, State.raise_linOf, State.setLin_linOf]⟩
    | false => exact ⟨_, by rw [if_neg Bool.false_ne_true, State.setLin_linOf]⟩
  split
  · rwa [State.linTxEnd_linOf]
  · exact hu

/-- With bytes: an incomplete response, which is an error. -/
theorem State.linTimeout_incomplete (hsubs : s.linSubs c = true) {data : List Byte} (hdata : data ≠ []) :
    (s.linTimeout n data).linOf n =
    { s.linOf n with
      cur := none, lastError := 2, lastErrorEt := s.et, rxErrors := sat16 (s.linOf n).rxErrors
      respErr := (s.linOf n).respErr || !(s.linOf n).cfg.commander
      run := if (s.linOf n).cfg.commander then 0 else (s.linOf n).run } := by
  have hours : ∀ x, ¬ (!(s.setLin n x).linSubs c) = true := fun x => by
    rw [show (s.setLin n x).linSubs c = true from hsubs]
    decide
  unfold State.linTimeout
  simp only [hcur]
  rw [if_neg (hours _), if_neg (by simpa using hdata)]
  split
  · rw [State.linTxEnd_linOf, State.linError_record, State.setLin_linOf]
    rfl
  · rw [State.linError_record, State.setLin_linOf]
    rfl

theorem State.linTimeout_cur (data : List Byte) : ((s.linTimeout n data).linOf n).cur = none := by
  by_cases hsubs : s.linSubs c = true
  · by_cases hdata : data = []
    · obtain ⟨_, hsilent⟩ := State.linTimeout_silent hcur hsubs
      rw [hdata, hsilent]
    · rw [State.linTimeout_incomplete hcur hsubs hdata]
  · have hoff : s.linSubs c = false := by simpa using hsubs
    have hothers : ∀ x, (!(s.setLin n x).linSubs c) = true := fun _ => congrArg (!·) hoff
    unfold State.linTimeout
    simp only [hcur]
    rw [if_pos (hothers _), State.setLin_linOf]

end

/-! ### Headers and sleep (R379, R381) -/

/-- A responder that has heard a header: it runs, with nothing in progress yet. -/
def Lin.heard (x : Lin) (et : Nat) : Lin := { x with st := 1, headerAt := et, cur := none, pulses := 0 }

theorem State.setLin_lin_entries (s : State) (n : Nat) (x : Lin) : (s.setLin n x).lin.entries = s.lin.entries := rfl

section
variable {id : Nat} (henabled : (s.linOf n).cfg.enabled = true) (hresponder : (s.linOf n).cfg.commander = false)
include henabled hresponder

section
variable (hawake : (s.linOf n).st = 1 ∨ (s.linOf n).st = 3)
include hawake

theorem State.linHeader_taken : ¬ (!(s.linOf n).cfg.enabled || (s.linOf n).cfg.commander ||
    !((s.linOf n).st == 1 || (s.linOf n).st == 3)) = true := by
  rcases hawake with h | h <;> simp [henabled, hresponder, h]

/-- The go-to-sleep command puts the channel to sleep. -/
theorem State.linHeader_sleep : s.linHeader n id true = (s.setLin n ((s.linOf n).heard s.et)).linSleep n 0 := by
  unfold State.linHeader
  rw [if_neg (State.linHeader_taken henabled hresponder hawake)]
  rfl

section
variable {i : Nat} (hfind : s.lin.entries.findIdx (fun e => e.ch == n && e.id == id) = i)
include hfind

/-- A header of no entry is ignored. -/
theorem State.linHeader_unknown (hnone : s.lin.entries[i]? = none) :
    (s.linHeader n id false).linOf n = (s.linOf n).heard s.et := by
  unfold State.linHeader
  rw [if_neg (State.linHeader_taken henabled hresponder hawake)]
  simp only [Bool.false_eq_true, if_false, State.setLin_lin_entries, hfind, hnone]
  exact State.setLin_linOf ..

/-- A subscribed entry is in progress from now. -/
theorem State.linHeader_subscribed {ent : LinEnt} (hent : s.lin.entries[i]? = some ent) (htype : ent.type ≠ 3)
    (hdir : ent.dir = 1) : (s.linHeader n id false).linOf n =
    { (s.linOf n).heard s.et with cur := some { entry := some i, start := s.et } } := by
  unfold State.linHeader
  rw [if_neg (State.linHeader_taken henabled hresponder hawake)]
  simp only [Bool.false_eq_true, if_false, State.setLin_lin_entries, hfind, hent]
  rw [if_neg (by simpa using htype), if_pos (by simp [hdir])]
  exact State.setLin_linOf ..

/-- A published entry is in progress with the bytes to send. -/
theorem State.linHeader_published {ent : LinEnt} (hent : s.lin.entries[i]? = some ent) (htype : ent.type = 0)
    (hdir : ent.dir = 0) (hother : i ≠ (s.linOf n).cfg.respErrEntry) : (s.linHeader n id false).linOf n =
    { (s.linOf n).heard s.et with cur := some { entry := some i, start := s.et, data := s.txData ent.buf } } := by
  unfold State.linHeader
  rw [if_neg (State.linHeader_taken henabled hresponder hawake)]
  simp only [Bool.false_eq_true, if_false, State.setLin_lin_entries, hfind, hent]
  rw [if_neg (by simp [htype]), if_neg (by simp [hdir]), if_pos (by simp [hdir, htype]), if_neg (by simpa using hother)]
  exact State.setLin_linOf ..

end

end

theorem State.linIdle_due (hst : (s.linOf n).st = 1)
    (hdue : (s.linOf n).headerAt + (s.linOf n).cfg.idle * 1000000 ≤ s.et) : s.linIdle n = s.linSleep n 1 := by
  have hidle : (s.linOf n).headerAt + (s.linOf n).cfg.idle * nsMs ≤ s.et := hdue
  unfold State.linIdle
  rw [if_pos (by simp [henabled, hresponder, hst, hidle])]

end

/-! ### Wakes (R381, R512) -/

/-- A pulse on a sleeping channel: it wakes from now on, and the wake counts. -/
theorem State.linWaking_record (hst : (s.linOf n).st = 2) (sent : Bool) : (s.linWaking n sent).linOf n =
    { s.linOf n with
      st := 3, wakeAt := s.et, pulses := if sent then 1 else 0, wakes := sat16 (s.linOf n).wakes } := by
  unfold State.linWaking
  rw [if_pos (by simp [hst]), State.raise_linOf, State.setLin_linOf]

theorem State.linWaking_dev (s : State) (n : Nat) (sent : Bool) : (s.linWaking n sent).dev = s.dev := by
  unfold State.linWaking
  dsimp only
  split
  · rw [State.raise_dev, State.setLin_dev]
  · rfl

section
variable (henabled : (s.linOf n).cfg.enabled = true)
include henabled

theorem State.linWake_sent (hst : (s.linOf n).st = 2) : s.linWake n true = s.linWaking n true := by
  unfold State.linWake
  rw [if_neg (by simp [henabled]), if_pos rfl, if_pos (by simp [hst])]

/-- A pulse detected in ASLEEP, in SLEEP on an armed channel. -/
theorem State.linWake_detected (hst : (s.linOf n).st = 2) (hstate : s.dev.state ≠ .sleepPrep)
    (harmed : s.dev.state = .sleep ∨ s.wake.phase = 4 → s.wake.armed.testBit (20 + n) = true) :
    (s.linWake n false).linOf n = (s.linWaking n false).linOf n := by
  have hlistens : ¬ ((s.dev.state == .sleep || s.wake.phase == 4) && !s.wake.armed.testBit (20 + n)) = true := by
    simpa using harmed
  obtain ⟨-, hlin, -⟩ := State.wakeTransceiver_idle (s := s.linWaking n false) (by rwa [State.linWaking_dev]) (0x30 + n) (s.linTo n)
  unfold State.linWake
  rw [if_neg (by simp [henabled]), if_neg Bool.false_ne_true, if_pos (by simp [hst]), if_neg hlistens]
  unfold State.linOf
  rw [hlin]

/-- A pulse detected while LIN_GOTO_SLEEP waits ends it. -/
theorem State.linWake_aborts (hst : (s.linOf n).st = 1) (hwaits : (s.linSleepCmd n).isSome = true)
    (hstate : s.dev.state ≠ .sleepPrep) : (s.linWake n false).linOf n = s.linOf n ∧
    ∀ o ∈ (s.linWake n false).cmd.async, o.on 0x0A03 n = false := by
  have heq : s.linWake n false = (s.finishWhere (fun o => o.on 0x0A03 n) 0x0C07 []).wakeTransceiver (0x30 + n) (s.linTo n) := by
    unfold State.linWake
    rw [if_neg (by simp [henabled]), if_neg Bool.false_ne_true, if_neg (by simp [hst]), if_pos (by simp [hst, hwaits])]
  obtain ⟨-, hlin, hcmd⟩ := State.wakeTransceiver_idle (s := s.finishWhere (fun o => o.on 0x0A03 n) 0x0C07 [])
    (by rwa [State.finishWhere_devState]) (0x30 + n) (s.linTo n)
  rw [heq, hcmd]
  refine ⟨?_, State.finishWhere_none _ _ _ _⟩
  unfold State.linOf
  rw [hlin, State.finishWhere_lin]

end

theorem State.linWakingEnd_due (hst : (s.linOf n).st = 3) (hcommander : (s.linOf n).cfg.commander = true)
    (hdue : (s.linOf n).wakeAt + 101000000 ≤ s.et) : (s.linWakingEnd n).linOf n =
    { s.linOf n with st := 1, pulses := 0 } := by
  have hover : (s.linOf n).wakeAt + 101 * nsMs ≤ s.et := hdue
  unfold State.linWakingEnd
  rw [if_pos (by simp [hst, hcommander, hover]), State.setLin_linOf]

theorem State.linNoHeader_due (hst : (s.linOf n).st = 3) (hresponder : (s.linOf n).cfg.commander = false)
    (hpulses : (s.linOf n).pulses ≠ 0) (hdue : (s.linOf n).wakeAt + 250 * (s.linOf n).pulses * 1000000 ≤ s.et) :
    (s.linNoHeader n).linOf n = { s.linOf n with pulses := 0 } := by
  have hover : (s.linOf n).wakeAt + 250 * (s.linOf n).pulses * nsMs ≤ s.et := hdue
  unfold State.linNoHeader
  rw [if_pos (by simp [hst, hresponder, hpulses, hover]), State.raise_linOf, State.setLin_linOf]

end Sys2Proof.Machine

open Sys2Proof Sys2Proof.Machine

/-- Settles O46: each row by the record that it leaves the channel. -/
theorem linRows : Obligations.LinRows := by
  intro s n
  refine ⟨fun c hcur => ⟨fun e hgood => ?_, fun e i ent herr hcmd hentry hent htype hdir => ?_,
      fun e i ent herr hentry hent htype => ?_, fun data => ?_⟩,
    fun id henabled hresponder hawake => ⟨?_, fun i hfind => ⟨fun ent hent htype hdir => ?_,
      fun ent hent htype hdir hother => ?_, fun hnone => ?_⟩⟩,
    fun henabled hresponder hst hdue => ?_,
    fun henabled hst => ⟨?_, fun hstate harmed => ?_⟩,
    fun henabled hst hwaits hstate => ?_, fun hst hcommander hdue => ?_, fun hst hresponder hpulses hdue => ?_⟩
  · obtain ⟨hdone, hok⟩ := State.linFrameEnd_good hcur hgood
    refine ⟨_, rfl, hdone, hok, fun i ent hcmd hentry hent hdir hbuf => ?_, fun i ent hcmd hentry hent hdir => ?_,
      fun pk hcmd hentry => ?_, fun pk i hcmd hentry => ?_⟩
    · rw [State.linFrameEnd_scheduled hcur hgood hcmd, State.linGoodFrame_stores hcmd hentry hent hdir hbuf]
      exact ⟨rfl, rfl, rfl⟩
    · rw [State.linFrameEnd_scheduled hcur hgood hcmd]
      exact State.linGoodFrame_sends hcmd hentry hent hdir e.data
    · obtain ⟨_, _, _, _, hframe⟩ := s.linGoodFrame_record n c e.data
      rw [State.linFrameEnd_sleep hcur hgood hcmd hentry, State.finishWhere_linOf, State.linSleep_record, hframe]
      exact ⟨rfl, rfl, State.finishWhere_none _ _ _ _⟩
    · obtain ⟨data, htx⟩ := State.linFrameEnd_tx hcur hgood hcmd hentry
      rw [htx]
      exact State.linTxEnd_none _ pk c.start 0 data
  · refine ⟨_, rfl, ?_⟩
    rw [State.linFrameEnd_collision hcur hentry hent herr hcmd htype hdir]
    exact ⟨rfl, rfl, rfl⟩
  · refine ⟨_, rfl, ?_⟩
    rw [State.linFrameEnd_error hcur hentry hent herr htype]
    exact ⟨rfl, rfl, rfl, fun hresponder => by simp [hresponder]⟩
  · refine ⟨_, rfl, State.linTimeout_cur hcur data, fun hsubs hdata => ?_, fun hsubs hdata => ?_⟩
    · obtain ⟨_, hsilent⟩ := State.linTimeout_silent hcur hsubs
      rw [hdata, hsilent]
      exact ⟨rfl, rfl, fun hcommander => if_pos hcommander⟩
    · rw [State.linTimeout_incomplete hcur hsubs hdata]
      exact ⟨rfl, rfl⟩
  · refine ⟨_, rfl, ?_⟩
    rw [State.linHeader_sleep henabled hresponder hawake, State.linSleep_record, State.setLin_linOf]
    exact ⟨rfl, rfl⟩
  · refine ⟨_, rfl, ?_⟩
    rw [State.linHeader_subscribed henabled hresponder hawake hfind hent htype hdir]
    exact ⟨rfl, rfl, rfl⟩
  · refine ⟨_, rfl, ?_⟩
    rw [State.linHeader_published henabled hresponder hawake hfind hent htype hdir hother]
    exact ⟨rfl, rfl⟩
  · refine ⟨_, rfl, ?_⟩
    rw [State.linHeader_unknown henabled hresponder hawake hfind hnone]
    exact ⟨rfl, rfl⟩
  · refine ⟨_, rfl, ?_⟩
    rw [State.linIdle_due henabled hresponder hst hdue, State.linSleep_record]
    exact ⟨rfl, rfl⟩
  · refine ⟨_, rfl, ?_⟩
    rw [State.linWake_sent henabled hst, State.linWaking_record hst]
    exact ⟨rfl, rfl, rfl, rfl⟩
  · refine ⟨_, rfl, ?_⟩
    rw [State.linWake_detected henabled hst hstate harmed, State.linWaking_record hst]
    exact ⟨rfl, rfl, rfl⟩
  · obtain ⟨hsame, hended⟩ := State.linWake_aborts henabled hst hwaits hstate
    exact ⟨_, rfl, (congrArg Lin.st hsame).trans hst, hended⟩
  · exact ⟨_, rfl, congrArg Lin.st (State.linWakingEnd_due hst hcommander hdue)⟩
  · refine ⟨_, rfl, ?_⟩
    rw [State.linNoHeader_due hst hresponder hpulses hdue]
    exact ⟨hst, rfl⟩

end

