-- ==== Sys2Proof/Proofs/FlexRayRows.lean ====
section
/-!
PROOFS. The FlexRay clusters: POC states, cycles, slots, receptions, the star's branches and FRY_START (R362 to R370, R384).
-/

namespace Sys2Proof.Machine

variable {s : State} {c k : Nat}

/-! ### What leaves the clusters and channels alone -/

@[simp] theorem State.timeLost_fry (s : State) (c : Nat) : (s.timeLost c).fry = s.fry :=
  congrArg KFld.fry (State.timeLost_kFld s c)

@[simp] theorem State.timeLost_cluster (s : State) (c m : Nat) : (s.timeLost c).cluster m = s.cluster m := by
  unfold State.cluster
  rw [State.timeLost_fry]

@[simp] theorem State.frRef_fry (s : State) (cycleNs cycle : Nat) (e : Int) : (s.frRef cycleNs cycle e).fry = s.fry :=
  congrArg KFld.fry (State.frRef_kFld s cycleNs cycle e)

@[simp] theorem State.frRef_cluster (s : State) (cycleNs cycle : Nat) (e : Int) (m : Nat) :
    (s.frRef cycleNs cycle e).cluster m = s.cluster m := by
  unfold State.cluster
  rw [State.frRef_fry]

@[simp] theorem State.triggerWhere_fry (s : State) (f : Trigger → Bool) (src et level : Nat) :
    (s.triggerWhere f src et level).fry = s.fry := congrArg KFld.fry (State.triggerWhere_kFld s f src et level)

@[simp] theorem State.triggerWhere_fryCh (s : State) (f : Trigger → Bool) (src et level m : Nat) :
    (s.triggerWhere f src et level).fryCh m = s.fryCh m := by
  unfold State.fryCh
  rw [State.triggerWhere_fry]

/-! ### POC states (R365 to R367) -/

/-- The record of a cluster that enters another POC state. -/
def FryCluster.enter (x : FryCluster) (code : Nat) : FryCluster :=
  let started := code == 12 && (x.poc == 6 || x.poc == 8 || x.poc == 11)
  let role := if x.poc == 6 then 0 else if x.poc == 8 then 1 else 2
  { x with
    poc := code
    haltAtEnd := x.haltAtEnd && code != 14
    attempts := if code == 5 && x.poc == 4 then x.attempts + 1 else x.attempts
    collisions := if code == 5 then sat16 x.collisions else x.collisions
    aborts := if code == 7 || (code == 4 && (x.poc == 5 || x.poc == 6)) then sat16 x.aborts else x.aborts
    passive := if code == 13 then sat16 x.passive else x.passive
    leader := if started && role == 0 then sat16 x.leader else x.leader
    follower := if started && role == 1 then sat16 x.follower else x.follower
    integrations := if started && role == 2 then sat16 x.integrations else x.integrations
    alone := x.alone && code != 12 }

theorem State.setPoc_same (h : (s.cluster c).poc = code) : s.setPoc c code = s := if_pos (by simpa using h)

/-- Events, the end of FRY_START and the loss of the time source leave the clusters alone. -/
theorem State.setPoc_cluster (h : (s.cluster c).poc ≠ code) :
    (s.setPoc c code).cluster c = (s.cluster c).enter code := by
  unfold State.setPoc
  dsimp only
  rw [if_neg (by simpa using h)]
  simp only [apply_ite (fun t : State => t.cluster c), State.timeLost_cluster, State.finishWhere_cluster,
    State.raise_cluster, State.setCluster_cluster, ite_self]
  rfl

theorem State.setPoc_poc (s : State) (c code : Nat) : ((s.setPoc c code).cluster c).poc = code := by
  by_cases h : (s.cluster c).poc = code
  · rwa [State.setPoc_same h]
  · rw [State.setPoc_cluster h]
    rfl

/-- A configured controller takes the state it reports. -/
theorem State.pocChange_configured {code : Nat} (henabled : (s.cluster c).cfg.enabled = true) (hconfigured : 2 ≤ (s.cluster c).poc)
    (hlow : 2 ≤ code) (hhigh : code ≤ 14) : s.pocChange c code = s.setPoc c code := by
  refine if_neg ?_
  simp [henabled]
  omega

theorem State.frAlone_spent (henabled : (s.cluster c).cfg.enabled = true) (hlow : 3 ≤ (s.cluster c).poc)
    (hhigh : (s.cluster c).poc ≤ 11)
    (hspent : (s.cluster c).cfg.coldstart = true ∧ (s.cluster c).cfg.attempts ≤ (s.cluster c).attempts ∨
      (s.cluster c).heardAt + 64 * cycleNs (s.cluster c).cfg ≤ s.et) :
    ((s.frAlone c).cluster c).alone = true ∧ ((s.frAlone c).cluster c).poc = 9 := by
  unfold State.frAlone
  dsimp only
  by_cases hthere : ((s.cluster c).alone && (s.cluster c).poc == 9) = true
  · rw [if_pos (by simp only [hthere, Bool.or_true])]
    simpa using hthere
  · have hends : ((s.cluster c).cfg.coldstart && decide ((s.cluster c).cfg.attempts ≤ (s.cluster c).attempts) ||
        decide ((s.cluster c).heardAt + 64 * cycleNs (s.cluster c).cfg ≤ s.et)) = true := by
      simpa only [Bool.or_eq_true, Bool.and_eq_true, decide_eq_true_eq] using hspent
    have hstartup : inStartup (s.cluster c).poc = true := by simp [inStartup, hlow, hhigh]
    rw [if_neg (by simpa [henabled, hends, hstartup] using hthere), State.raise_cluster]
    refine ⟨?_, State.setPoc_poc ..⟩
    by_cases hnine : (s.cluster c).poc = 9
    · rw [State.setPoc_same (by rwa [State.setCluster_cluster]), State.setCluster_cluster]
    · rw [State.setPoc_cluster (by rwa [State.setCluster_cluster]), State.setCluster_cluster]
      rfl

theorem State.coldstartRetry_due (halone : (s.cluster c).alone = true) (hcold : (s.cluster c).cfg.coldstart = true)
    (hretry : (s.cluster c).cfg.retry ≠ 0) (hpoc : (s.cluster c).poc = 9)
    (hdue : (s.cluster c).aloneAt + (s.cluster c).cfg.retry * 1000000 ≤ s.et) :
    ((s.coldstartRetry c).cluster c).poc = 4 ∧ ((s.coldstartRetry c).cluster c).attempts = 0 := by
  have hms : ¬ s.et < (s.cluster c).aloneAt + (s.cluster c).cfg.retry * nsMs := Nat.not_lt.mpr hdue
  unfold State.coldstartRetry
  dsimp only
  rw [if_neg (by simp [halone, hcold, hretry, hpoc, hms]), State.setPoc_cluster (by simp [hpoc]), State.setCluster_cluster]
  exact ⟨rfl, rfl⟩

/-! ### Cycles (R364, R370) -/

theorem State.fryRestore_cluster (s : State) (c k m : Nat) : (s.fryRestore c k).cluster m = s.cluster m := by
  refine List.foldlRecOn (motive := fun t : State => t.cluster m = s.cluster m) _ _ rfl fun t ht b _ => ?_
  dsimp only
  split
  · exact ht
  · split
    · rwa [State.raise_cluster]
    · exact ht

theorem State.fryLock_cluster (s : State) (c : Nat) (err : Int) : ∃ p l, (s.fryLock c err).cluster c =
    { s.cluster c with phaseErr := p, lock := l } := by
  refine ⟨err, decide (err.natAbs < 10000), ?_⟩
  unfold State.fryLock
  dsimp only
  split
  · rw [State.raise_cluster, State.setCluster_cluster]
  · split
    · rw [State.raise_cluster, State.setCluster_cluster]
    · exact State.setCluster_cluster ..

/-- A cycle start stores cycle, ET and corrections; a halt that waits happens. -/
theorem State.fryCycle_cluster {cycle : Nat} {err rate offs : Int} (henabled : (s.cluster c).cfg.enabled = true)
    (hlow : 3 ≤ (s.cluster c).poc) (hhigh : (s.cluster c).poc ≤ 13) (hcycle : cycle < 64) :
    ∃ p l, (s.fryCycle c cycle err rate offs).cluster c =
      let x := { s.cluster c with
        cycle := cycle, cycleEt := s.et, rateCorr := rate, offsCorr := offs, phaseErr := p, lock := l }
      if (s.cluster c).haltAtEnd then x.enter 14 else x := by
  unfold State.fryCycle
  dsimp only
  rw [if_neg (by simp [henabled]; omega)]
  generalize eu : ((State.setCluster s c _).fryRestore c (2 * c)).fryRestore c (2 * c + 1) = u
  have hu : u.cluster c = { s.cluster c with cycle := cycle, cycleEt := s.et, rateCorr := rate, offsCorr := offs } := by
    rw [← eu, State.fryRestore_cluster, State.fryRestore_cluster, State.setCluster_cluster]
  clear eu
  generalize ev : @ite _ _ (instDecidableEqBool _ _) (State.fryLock u c _) u = v
  obtain ⟨p, l, hv⟩ : ∃ p l, v.cluster c = { u.cluster c with phaseErr := p, lock := l } := by
    rw [← ev]
    split
    · exact State.fryLock_cluster ..
    · exact ⟨_, _, rfl⟩
  clear ev
  generalize ew : @ite _ _ (instDecidableEqBool _ _) (State.frRef v _ _ _) v = w
  have hw : w.cluster c = v.cluster c := by
    rw [← ew]
    split
    · exact State.frRef_cluster ..
    · rfl
  refine ⟨p, l, ?_⟩
  split
  · rw [State.setPoc_cluster (by rw [hw, hv, hu]; exact (by omega : (s.cluster c).poc ≠ 14)), hw, hv, hu]
  · rw [hw, hv, hu]

/-! ### The action point of a slot (R368) -/

@[simp] theorem State.txSent_fryCh (s : State) (buf m : Nat) : (s.txSent buf).fryCh m = s.fryCh m := rfl

@[simp] theorem State.txSent_fryTx (s : State) (buf m : Nat) : (s.txSent buf).fryTx m = s.fryTx m := rfl

theorem State.frySend_fryCh (s : State) (k slot : Nat) (data : Option (List Byte)) (isRepeat : Bool) :
    (s.frySend k slot data isRepeat).fryCh k = { s.fryCh k with
      sent := some (slot, data), txFrames := wrap32 (s.fryCh k).txFrames
      repeats := if isRepeat then sat32 (s.fryCh k).repeats else (s.fryCh k).repeats } := State.setFryCh_fryCh ..

@[simp] theorem State.frySend_fryTx (s : State) (k slot : Nat) (data : Option (List Byte)) (isRepeat : Bool) (m : Nat) :
    (s.frySend k slot data isRepeat).fryTx m = s.fryTx m := rfl

section
variable {slot cycle i : Nat} {b : FryBuf} (hindex : s.fry.bufs.findIdx (fun b => b.transmit && bufMatches b k slot cycle) = i)
  (hbuf : s.fry.bufs[i]? = some b) (henabled : (s.cluster (k / 2)).cfg.enabled = true)
  (hon : chanOn (s.cluster (k / 2)).cfg k = true) (halone : (s.cluster (k / 2)).alone = false)
include hindex hbuf henabled hon halone

/-- In NORMAL_ACTIVE the slot of a transmit record sends its commit or, in a static slot, the last payload. -/
theorem State.fryAction_active (hpoc : (s.cluster (k / 2)).poc = 12) : s.fryAction k slot cycle =
    let j := 2 * i + k % 2
    let y := s.fryTx j
    let due := decide (y.pendAt + 2000 ≤ s.et)
    let here := y.pend.isSome && (y.pendCycle == 0xFF || y.pendCycle == cycle)
    if here && due then
      ((s.setFryTx j { y with pend := none, last := y.pend }).frySend k slot y.pend false).txSent b.buf
    else
      let ch := s.fryCh k
      let s' := if here && !y.late then
        (s.setFryTx j { y with late := true }).setFryCh k { ch with lateCommits := sat16 ch.lateCommits } else s
      if (s.cluster (k / 2)).cfg.staticSlots < slot then s'
      else s'.frySend k slot y.last y.last.isSome := by
  unfold State.fryAction
  dsimp only
  rw [hindex, hbuf]
  dsimp only
  rw [if_neg (by simp [henabled, hon, halone]), if_neg (by simp [hpoc]), if_neg (by simp [hpoc])]

theorem State.fryAction_commit {d : List Byte} (hpoc : (s.cluster (k / 2)).poc = 12)
    (hpend : (s.fryTx (2 * i + k % 2)).pend = some d) (hany : (s.fryTx (2 * i + k % 2)).pendCycle = 0xFF)
    (hdue : (s.fryTx (2 * i + k % 2)).pendAt + 2000 ≤ s.et) :
    ((s.fryAction k slot cycle).fryCh k).sent = some (slot, some d) ∧
      ((s.fryAction k slot cycle).fryCh k).txFrames = wrap32 (s.fryCh k).txFrames ∧
      ((s.fryAction k slot cycle).fryTx (2 * i + k % 2)).pend = none := by
  rw [State.fryAction_active hindex hbuf henabled hon halone hpoc]
  dsimp only
  rw [if_pos (by simp [hpend, hany, hdue]), State.txSent_fryCh, State.txSent_fryTx, State.frySend_fryCh, State.frySend_fryTx,
    State.setFryTx_fryTx, hpend]
  exact ⟨rfl, rfl, rfl⟩

theorem State.fryAction_repeat (hpoc : (s.cluster (k / 2)).poc = 12) (hpend : (s.fryTx (2 * i + k % 2)).pend = none)
    (hstatic : slot ≤ (s.cluster (k / 2)).cfg.staticSlots) : s.fryAction k slot cycle =
      s.frySend k slot (s.fryTx (2 * i + k % 2)).last (s.fryTx (2 * i + k % 2)).last.isSome := by
  rw [State.fryAction_active hindex hbuf henabled hon halone hpoc]
  dsimp only
  rw [if_neg (by simp [hpend]), if_neg (by omega), if_neg (by simp [hpend])]

theorem State.fryAction_passive (hpoc : (s.cluster (k / 2)).poc = 13) : s.fryAction k slot cycle = s := by
  unfold State.fryAction
  dsimp only
  rw [hindex, hbuf]
  dsimp only
  rw [if_neg (by simp [henabled, hon, halone]), if_neg (by simp [hpoc]), if_pos (by simp [hpoc])]

end

/-! ### Receptions (R369) -/

section
variable {f : FryFrame} (henabled : (s.cluster (k / 2)).cfg.enabled = true) (hon : chanOn (s.cluster (k / 2)).cfg k = true)
  (hlow : 3 ≤ (s.cluster (k / 2)).poc) (hhigh : (s.cluster (k / 2)).poc ≤ 13)
include henabled hon hlow hhigh

theorem State.fryReceive_heard : ¬ (!(s.cluster (k / 2)).cfg.enabled || !chanOn (s.cluster (k / 2)).cfg k ||
    decide ((s.cluster (k / 2)).poc < 3) || (s.cluster (k / 2)).poc == 14) = true := by
  simp [henabled, hon]
  omega

theorem State.fryReceive_error {e : Nat} (herr : f.err = some e) : (s.fryReceive k f).gw = s.gw ∧
    ((s.fryReceive k f).fryCh k).rxErrors = sat32 (s.fryCh k).rxErrors ∧
    ((s.fryReceive k f).cluster (k / 2)).heardAt = s.et := by
  unfold State.fryReceive
  dsimp only
  rw [if_neg (State.fryReceive_heard henabled hon hlow hhigh), herr]
  dsimp only
  rw [State.raiseOnce_gw, State.raiseOnce_fryCh, State.raiseOnce_cluster, State.setFryCh_fryCh, State.setFryCh_cluster,
    State.setCluster_cluster]
  exact ⟨rfl, rfl, rfl⟩

theorem State.fryReceive_null (herr : f.err = none) (hnull : f.null = true) : (s.fryReceive k f).gw = s.gw ∧
    ((s.fryReceive k f).fryCh k).nullRx = sat16 (s.fryCh k).nullRx := by
  unfold State.fryReceive
  dsimp only
  rw [if_neg (State.fryReceive_heard henabled hon hlow hhigh), herr]
  dsimp only
  rw [if_pos hnull, State.setFryCh_fryCh]
  exact ⟨rfl, rfl⟩

/-- The store into the record's buffer is followed only by the receive ring's FIFO or its discard counter. -/
theorem State.fryReceive_stored {b : FryBuf} (herr : f.err = none) (hnull : f.null = false)
    (hpoc : (s.cluster (k / 2)).poc = 12)
    (hfind : s.fry.bufs.find? (fun b => !b.transmit && bufMatches b k f.slot f.cycle) = some b) (hbuf : b.buf ≠ 0xFFFF) :
    ((s.fryReceive k f).fryCh k).rxOk = wrap32 (s.fryCh k).rxOk ∧ (s.fryReceive k f).gw.rx.val {} b.buf =
      { s.gw.rx.val {} b.buf with data := f.payload.take (2 * b.words), has := true, age := 0 } := by
  unfold State.fryReceive
  dsimp only
  rw [if_neg (State.fryReceive_heard henabled hon hlow hhigh), herr]
  dsimp only
  rw [if_neg (by simp [hnull]), if_neg (by simp [hpoc])]
  generalize eu : State.setFryCh _ k _ = u
  have hbufs : u.fry.bufs = s.fry.bufs := by rw [← eu]; rfl
  have hgw : u.gw = s.gw := by rw [← eu]; rfl
  have hch : (u.fryCh k).rxOk = wrap32 (s.fryCh k).rxOk := by rw [← eu, State.setFryCh_fryCh]; rfl
  clear eu
  rw [hbufs, hfind]
  dsimp only
  have hstored : ¬ (b.buf == 0xFFFF) = true := by simpa using hbuf
  rw [if_neg hstored]
  generalize ev : (u.freshBuf _ _).triggerWhere _ _ _ _ = v
  have hv : (v.fryCh k).rxOk = wrap32 (s.fryCh k).rxOk ∧ v.gw.rx.val {} b.buf =
      { s.gw.rx.val {} b.buf with data := f.payload.take (2 * b.words), has := true, age := 0 } := by
    rw [← ev, State.triggerWhere_fryCh, State.triggerWhere_gw, State.freshBuf_rx, hgw]
    exact ⟨hch, rfl⟩
  split
  · exact hv
  · split
    · exact hv
    · exact hv

end

/-! ### The star's branches (R362 to R364) -/

section
variable {branch slot : Nat} {off : Int} (henabled : (s.cluster (k / 2)).cfg.enabled = true)
  (hon : chanOn (s.cluster (k / 2)).cfg k = true) (hstar : chanStar (s.cluster (k / 2)).cfg k = true)
  (hnormal : (s.cluster (k / 2)).poc = 12 ∨ (s.cluster (k / 2)).poc = 13)
  (hbranch : branch = 4 ∨ branch < 4 ∧ branch < chanBranches (s.cluster (k / 2)).cfg k)
  (hactive : ((s.fryCh k).branches.val {} branch).disabled = false) (hjoined : ((s.fryCh k).branches.val {} branch).iso = 0)
include henabled hon hstar hnormal hbranch hactive hjoined

/-- A transmission in a static slot from an active branch is forwarded where it may be, else it is a violation. -/
theorem State.branchTx_static : s.branchTx k branch 0 slot off =
    if s.ownsSlot k branch slot && decide (off.natAbs ≤ (s.cluster (k / 2)).cfg.guard) then
      let t := s.setFryCh k { s.fryCh k with
        branches := (s.fryCh k).branches.put {} branch { (s.fryCh k).branches.val {} branch with run := 0, blockEnd := 0 } }
      t.setFryCh k { t.fryCh k with fwd := some ⟨branch, 0, slot, (s.cluster (k / 2)).cycle⟩ }
    else s.violation k branch slot (!s.ownsSlot k branch slot) := by
  have hon' : ¬ (!(s.cluster (k / 2)).cfg.enabled || !chanOn (s.cluster (k / 2)).cfg k ||
      decide ((s.cluster (k / 2)).poc < 2) || decide (4 < branch)) = true := by
    simp [henabled, hon]
    omega
  have hthere : ¬ (branch != 4 && decide (chanBranches (s.cluster (k / 2)).cfg k ≤ branch)) = true := by
    simp
    omega
  have hpoc : ((s.cluster (k / 2)).poc == 12 || (s.cluster (k / 2)).poc == 13) = true := by simpa using hnormal
  unfold State.branchTx
  dsimp only
  rw [if_neg hon', if_neg (by simp [hstar]), if_neg hthere, if_neg (by simp [hactive, hjoined]), if_neg (by simp [hpoc]),
    if_pos (by decide)]

end

/-- Events apart, a violation counts, blocks the branch to its next own slot and isolates it at a run of 3. -/
theorem State.violation_fryCh (s : State) (k branch slot : Nat) (notOwned : Bool) :
    (s.violation k branch slot notOwned).fryCh k =
      let y := (s.fryCh k).branches.val {} branch
      { s.fryCh k with branches := (s.fryCh k).branches.put {} branch { y with
        blockEnd := s.nextOwn k branch, run := y.run + 1, violations := sat16 y.violations
        iso := if decide (3 ≤ y.run + 1) then 2 else 0
        isolations := if decide (3 ≤ y.run + 1) then sat8 y.isolations else y.isolations } } := by
  unfold State.violation
  dsimp only
  generalize eu : State.setFryCh s k _ = u
  refine Eq.trans ?_ ((congrArg (fun t : State => t.fryCh k) eu.symm).trans (State.setFryCh_fryCh ..))
  generalize ev : @ite State _ (instDecidableEqBool _ _) u _ = v
  have hv : v.fryCh k = u.fryCh k := by
    rw [← ev]
    split
    · rfl
    · exact State.raise_fryCh ..
  split
  · rw [State.raise_fryCh, hv]
  · exact hv

theorem State.branchTruncated_forwarded {g : FryFwd} (hfwd : (s.fryCh k).fwd = some g)
    (hstar : chanStar (s.cluster (k / 2)).cfg k = true)
    (hnormal : (s.cluster (k / 2)).poc = 12 ∨ (s.cluster (k / 2)).poc = 13) (slot : Nat) :
    (s.branchTruncated k g.branch slot).fryCh k =
      { s.fryCh k with fwd := none, truncations := sat16 (s.fryCh k).truncations } := by
  unfold State.branchTruncated
  dsimp only
  rw [hfwd]
  dsimp only
  rw [if_neg (by simpa [hstar] using fun h => hnormal.resolve_left h), State.raise_fryCh, State.setFryCh_fryCh]

end Sys2Proof.Machine

open Sys2Proof Sys2Proof.Machine

/-- Settles O45: the rows of the FlexRay clusters by what they do to the records of cluster, channel and branch. -/
theorem flexRayRows : Obligations.FlexRayRows := by
  intro s c k
  refine ⟨fun cycle err rate offs henabled hlow hhigh hcycle => ?_, fun slot cycle b i henabled hon hindex hbuf halone => ?_,
    fun f henabled hon hlow hhigh => ⟨fun herr => ?_, fun herr hnull => ?_, fun b herr hnull hpoc hfind hbuf => ?_⟩,
    fun branch slot off henabled hon hstar hnormal hbranch hactive hjoined => ⟨fun howns hguard => ?_, fun hviolates => ?_⟩,
    fun g slot hfwd hstar hnormal => ?_, fun code henabled hconfigured hlow hhigh => ?_,
    fun henabled hlow hhigh hspent => ⟨_, rfl, State.frAlone_spent henabled hlow hhigh hspent⟩,
    fun halone hcold hretry hpoc hdue => ⟨_, rfl, State.coldstartRetry_due halone hcold hretry hpoc hdue⟩, ?_⟩
  case refine_1 =>
    obtain ⟨p, l, hx⟩ := State.fryCycle_cluster (err := err) (rate := rate) (offs := offs) henabled hlow hhigh hcycle
    refine ⟨_, rfl, ?_⟩
    rw [hx]
    dsimp only
    split
    · exact ⟨rfl, rfl, rfl, rfl, rfl⟩
    · exact ⟨rfl, rfl, rfl, rfl, rfl⟩
  case refine_2 =>
    refine ⟨fun d hpoc hpend hany hdue => ⟨_, rfl, State.fryAction_commit hindex hbuf henabled hon halone hpoc hpend hany hdue⟩,
      fun hpoc hpend hstatic => ⟨_, rfl, ?_⟩,
      fun hpoc => congrArg Host.Outcome.next (State.fryAction_passive hindex hbuf henabled hon halone hpoc)⟩
    rw [State.fryAction_repeat hindex hbuf henabled hon halone hpoc hpend hstatic, State.frySend_fryCh]
    cases (s.fryTx (2 * i + k % 2)).last
    · exact ⟨rfl, rfl⟩
    · exact ⟨rfl, rfl⟩
  case refine_3 =>
    obtain ⟨e, he⟩ := Option.ne_none_iff_exists'.mp herr
    exact ⟨_, rfl, State.fryReceive_error henabled hon hlow hhigh he⟩
  case refine_4 => exact ⟨_, rfl, State.fryReceive_null henabled hon hlow hhigh herr hnull⟩
  case refine_5 =>
    obtain ⟨hcount, hstored⟩ := State.fryReceive_stored henabled hon hlow hhigh herr hnull hpoc hfind hbuf
    exact ⟨_, rfl, hcount, by rw [hstored], by rw [hstored], by rw [hstored]⟩
  case refine_6 =>
    refine ⟨_, rfl, ?_⟩
    rw [State.branchTx_static henabled hon hstar hnormal hbranch hactive hjoined, if_pos (by simp [howns, hguard])]
    dsimp only
    rw [State.setFryCh_fryCh, State.setFryCh_fryCh]
    exact ⟨rfl, congrArg FryBranch.run (Tab.val_put_same ..)⟩
  case refine_7 =>
    refine ⟨_, rfl, ?_⟩
    rw [State.branchTx_static henabled hon hstar hnormal hbranch hactive hjoined,
      if_neg (by simpa using fun howns => hviolates.resolve_left (by simp [howns])), State.violation_fryCh]
    dsimp only
    rw [Tab.val_put_same]
    refine ⟨rfl, rfl, rfl, rfl, ?_⟩
    by_cases h3 : 3 ≤ ((s.fryCh k).branches.val {} branch).run + 1
    · simp [h3]
    · simp [h3]
  case refine_8 =>
    refine ⟨_, rfl, ?_⟩
    rw [State.branchTruncated_forwarded hfwd hstar hnormal]
    exact ⟨rfl, rfl⟩
  case refine_9 =>
    refine ⟨_, rfl, ?_⟩
    rw [State.pocChange_configured henabled hconfigured hlow hhigh]
    refine ⟨State.setPoc_poc .., fun hcode hother => ?_⟩
    rw [State.setPoc_cluster (by omega), hcode]
    exact Bool.and_false _
  case refine_10 =>
    refine ⟨_, rfl, State.finishWhere_fry .., fun o ho hon => ?_⟩
    have hwaits := State.finishWhere_none _ _ _ _ o ho
    rw [hon, Bool.true_and] at hwaits
    exact Nat.lt_of_not_le (of_decide_eq_false hwaits)

end

