-- ==== Sys2Proof/Proofs/CrossingsErrors.lean ====
section
/-!
PROOFS. Bridges, crossings, memory errors and the fault collector (R521 to R534).
-/

namespace Sys2Proof.Machine

variable {s : State}

/-! ### Shared operations: reports, posted errors, injection -/

/-- A fault reported at once is the newest report. -/
theorem State.fault_recent (s : State) (src cls level part kind data attempts : Nat) : ∃ r,
    (s.fault src cls level part kind data attempts 0).flt.recent = (r :: s.flt.recent).take 1024 ∧
    r.cls = cls ∧ r.level = level ∧ r.part = part ∧ r.seq = s.flt.nextSeq := by
  obtain ⟨_, _, _, r, _, _, hcls, hlevel, hpart, _, _, hseq, _, _, hflt⟩ :=
    State.fault_flt s src cls level part kind data attempts
  exact ⟨r, by rw [hflt], hcls, hlevel, hpart, hseq⟩

/-- A fault with a lower mechanism is held for its worst case. -/
theorem State.fault_held (s : State) (src cls level part kind data attempts : Nat) {hold : Nat} (h : hold ≠ 0) : ∃ r,
    (s.fault src cls level part kind data attempts hold).flt =
      { s.flt with nextSeq := wrapAdd 32 s.flt.nextSeq 1, held := s.flt.held ++ [⟨r, s.et + hold⟩] } ∧ r.cls = cls := by
  refine ⟨⟨s.et, src, cls, level, false, attempts, part, kind, lo32 data, s.flt.nextSeq, s.et⟩, ?_, rfl⟩
  unfold State.fault
  dsimp only [State.nextFault]
  rw [if_neg (by simpa using h)]

theorem State.fault_posted (s : State) (src cls level part kind data attempts hold : Nat) :
    Posted s (s.fault src cls level part kind data attempts hold) := by
  unfold State.fault
  dsimp only [State.nextFault]
  split
  · unfold State.makeReport
    dsimp only
    refine .tr ?_ (State.raiseAt_posted _ _ _ _ _ _)
    intro q
    split <;> rfl
  · exact .rfl' s

/-- A fault that is not the injected one just arises. -/
theorem State.arise_miss {hit : Bool} (h : hit = false) (f : State → State) : s.arise hit f = f s := if_pos (by simp [h])

/-- A field that does not read the poison list is equal where the collector is but for that list. -/
theorem Flt.of_still {α : Type} (field : Flt → α) (hfield : ∀ f : Flt, field f.still = field f) {f g : Flt}
    (h : f.still = g.still) : field f = field g := by
  rw [← hfield f, h, hfield g]

/-! ### Stopped crossings (R523) -/

/-- The stall of an access is counted, told once and reported. -/
def State.stalled (s : State) (w : BusWrite) (x : Nat) (isLoad : Bool) : State :=
  let p := if w.init < 16 then w.init else 0x1F
  let src := if x == 10 then 0x203 else 0x202
  let d := pack [(0, 2, b2n !isLoad), (8, 8, if w.init < 16 then w.init else 0xFF)]
  let s := { s with flt := { s.flt with bridgeTimeouts := sat16 s.flt.bridgeTimeouts } }
  (s.raiseOnce (s.p0and p) src 1 d).fault src 5 0 p 1 d 0 0

theorem State.stalled_flt (s : State) (w : BusWrite) (x : Nat) (isLoad : Bool) : ∃ r,
    (s.stalled w x isLoad).flt.recent = (r :: s.flt.recent).take 1024 ∧
    (s.stalled w x isLoad).flt.bridgeTimeouts = sat16 s.flt.bridgeTimeouts ∧ r.cls = 5 ∧ r.level = 0 ∧
    r.part = (if w.init < 16 then w.init else 0x1F) ∧ r.seq = s.flt.nextSeq := by
  unfold State.stalled
  dsimp only
  generalize eu : State.raiseOnce _ _ _ _ _ = u
  have hu : u.flt = { s.flt with bridgeTimeouts := sat16 s.flt.bridgeTimeouts } := by rw [← eu, State.raiseOnce_flt]
  obtain ⟨_, _, _, r, _, _, hcls, hlevel, hpart, _, _, hseq, _, _, hflt⟩ := State.fault_flt u
    (if x == 10 then 0x203 else 0x202) 5 0 (if w.init < 16 then w.init else 0x1F) 1
    (pack [(0, 2, b2n !isLoad), (8, 8, if w.init < 16 then w.init else 0xFF)]) 0
  rw [hu] at hseq hflt
  exact ⟨r, by rw [hflt], by rw [hflt], hcls, hlevel, hpart, hseq⟩

theorem State.stalled_loadErrors (s : State) (w : BusWrite) (x : Nat) (isLoad : Bool) (q : Nat) :
    ((s.stalled w x isLoad).fltPart q).loadErrors = (s.fltPart q).loadErrors := by
  refine (State.fault_errors ..).1.trans (congrArg FltPart.loadErrors (State.fltPart_congr ?_ q))
  rw [State.raiseOnce_flt]

theorem State.stalled_posted (s : State) (w : BusWrite) (x : Nat) (isLoad : Bool) : Posted s (s.stalled w x isLoad) := by
  unfold State.stalled
  dsimp only
  refine .tr (.tr ?_ (State.raiseOnce_posted _ _ _ _ _)) (State.fault_posted _ _ _ _ _ _ _ _ _)
  exact fun _ => rfl

section
variable {w : BusWrite} {x : Nat} {isLoad : Bool} (hpowered : s.powered = true) (hx : x ≤ 10)
  (hstopped : holdMode x = true → s.clockRuns x = false)
include hpowered hx hstopped

theorem State.busTimeout_stopped :
    ¬ (!s.powered || decide (10 < x) || (holdMode x && s.clockRuns x)) = true := by
  cases hmode : holdMode x
  · simpa [hpowered] using hx
  · simpa [hpowered, hstopped hmode] using hx

theorem State.busTimeout_held (hmode : holdMode x = true) (hwrite : isLoad = false)
    (hroom : (s.flt.hold.val [] x).length < 8) : s.busTimeout w x isLoad =
      { s with flt := { s.flt with hold := s.flt.hold.put [] x (s.flt.hold.val [] x ++ [w]) } } := by
  unfold State.busTimeout
  dsimp only
  rw [if_neg (State.busTimeout_stopped hpowered hx hstopped), if_pos (by simp [hmode, hwrite, hroom])]

/-- An access that no buffer takes: a load of a partition counts there, a write of one is a posted error of it. -/
theorem State.busTimeout_stalled (hmiss : s.injected 2 w.addr 0 = false)
    (hfull : holdMode x = false ∨ isLoad = true ∨ 8 ≤ (s.flt.hold.val [] x).length) : ∃ r : PostedRec, r.part = w.init ∧
    s.busTimeout w x isLoad =
      let t := s.stalled w x isLoad
      if w.init < 16 then
        if isLoad then t.setFltPart w.init { t.fltPart w.init with loadErrors := sat16 (t.fltPart w.init).loadErrors }
        else t.postedError r
      else t := by
  have hunheld : ¬ (holdMode x && !isLoad && decide ((s.flt.hold.val [] x).length < 8)) = true := by
    simp only [Bool.and_eq_true, Bool.not_eq_true', decide_eq_true_eq]
    rintro ⟨⟨hmode, hwrite⟩, hroom⟩
    rcases hfull with h | h | h
    · exact absurd (hmode.symm.trans h) (by decide)
    · exact absurd (hwrite.symm.trans h) (by decide)
    · omega
  unfold State.busTimeout
  dsimp only
  rw [if_neg (State.busTimeout_stopped hpowered hx hstopped), if_neg hunheld, State.arise_miss hmiss]
  unfold State.stalled
  dsimp only
  by_cases hpart : w.init < 16
  · simp only [if_pos hpart]
    generalize State.raiseOnce _ _ _ _ _ = u
    generalize State.fault u _ _ _ _ _ _ _ _ = v
    exact ⟨_, rfl, rfl⟩
  · simp only [if_neg hpart]
    exact ⟨⟨0, 0, w.init, 0, 0, 0, 0, 0⟩, rfl, trivial⟩

end

/-- Writes touch the collector's poison list only. -/
theorem State.busWrite_still (s : State) (w : BusWrite) : (s.busWrite w).flt.still = s.flt.still := by
  unfold State.busWrite
  split <;> rfl

theorem State.busWrite_dram {w : BusWrite} (hwrite : w.isWrite = true) (hdram : inDram w.addr = true) :
    memRead (s.busWrite w).mem w.addr w.size = leBytes w.size w.data := by
  have hread := memRead_memWrite (leBytes w.size w.data) s.mem w.addr
  rw [length_leBytes] at hread
  unfold State.busWrite
  rwa [if_pos (by simp [hwrite, hdram])]

theorem State.holdDrain_runs {x : Nat} (hmode : holdMode x = true) (hruns : s.clockRuns x = true) : s.holdDrain x =
    (s.flt.hold.val [] x).foldl State.busWrite { s with flt := { s.flt with hold := s.flt.hold.put [] x [] } } := by
  refine if_neg ?_
  simp [hmode, hruns]

theorem State.holdDrain_empty {x : Nat} (hmode : holdMode x = true) (hruns : s.clockRuns x = true) :
    (s.holdDrain x).flt.hold.val [] x = [] := by
  rw [State.holdDrain_runs hmode hruns]
  generalize eu : ({ s with flt := { s.flt with hold := s.flt.hold.put [] x [] } } : State) = u
  have hu : u.flt.hold.val [] x = [] := by
    rw [← eu]
    exact Tab.val_put_same ..
  refine List.foldlRecOn (motive := fun t : State => t.flt.hold.val [] x = []) _ _ hu fun t ht w _ => ?_
  rw [show (t.busWrite w).flt.hold = t.flt.hold from Flt.of_still Flt.hold (fun _ => rfl) (State.busWrite_still t w)]
  exact ht

/-! ### Merged pulses (R526) -/

theorem State.cdcOverrun_merged (hpowered : s.powered = true) (hmiss : s.injected 3 0 0 = false) (src : Nat) : ∃ r,
    (s.cdcOverrun src).flt.cdcOverruns = sat16 s.flt.cdcOverruns ∧ src ∈ (s.cdcOverrun src).flt.cdcSticky ∧
    (s.cdcOverrun src).flt.recent = (r :: s.flt.recent).take 1024 ∧ r.cls = 6 ∧ r.level = 0 := by
  have hsticky : src ∈ (if s.flt.cdcSticky.contains src then s.flt.cdcSticky else s.flt.cdcSticky ++ [src]) := by
    split
    next h => simpa using h
    next => simp
  unfold State.cdcOverrun
  rw [if_neg (by simp [hpowered]), State.arise_miss hmiss]
  dsimp only
  generalize eu : State.raiseOnce _ _ _ _ _ = u
  have hu : u.flt = { s.flt with
      cdcOverruns := sat16 s.flt.cdcOverruns
      cdcSticky := if s.flt.cdcSticky.contains src then s.flt.cdcSticky else s.flt.cdcSticky ++ [src] } := by
    rw [← eu, State.raiseOnce_flt]
  clear eu
  generalize (if State.srcOwner _ src < 16 then _ else 0x1F) = p
  obtain ⟨_, _, _, r, _, _, hcls, hlevel, _, _, _, _, _, _, hflt⟩ := State.fault_flt u 0x200 6 0 p 2 (src % 1024) 0
  rw [hflt, hu]
  exact ⟨r, rfl, hsticky, rfl, hcls, hlevel⟩

/-! ### Memory errors (R528, R529) -/

section
variable {mem addr : Nat} (hpowered : s.powered = true) (hmem : mem ≤ 10)
include hpowered hmem

theorem State.eccCorrected_counts (hmiss : s.injected 0 addr 0 = false) (hnone : s.flt.inject = none) :
    (s.eccCorrected mem addr).flt = { s.flt with eccCorr := s.flt.eccCorr.put 0 mem (sat16 (s.flt.eccCorr.val 0 mem)) } ∧
      (0x201, 1 + 16 * mem, 0xFF) ∈ (s.eccCorrected mem addr).dev.onceCanvas := by
  unfold State.eccCorrected
  rw [if_neg (by simpa [hpowered] using hmem), State.arise_miss hmiss]
  dsimp only
  generalize ev : @ite State ((mem == 1) = true) _ _ _ = v
  have hv : v.flt = { s.flt with eccCorr := s.flt.eccCorr.put 0 mem (sat16 (s.flt.eccCorr.val 0 mem)) } := by
    rw [← ev]
    split <;> rfl
  clear ev
  generalize eu : (if v.dev.onceCanvas.contains _ then v else _) = u
  have hu : u.flt = v.flt ∧ (0x201, 1 + 16 * mem, 0xFF) ∈ u.dev.onceCanvas := by
    rw [← eu]
    split
    next h => exact ⟨rfl, List.contains_iff_mem.mp h⟩
    next =>
      rw [State.raise_flt, State.raise_dev]
      exact ⟨rfl, List.mem_cons_self⟩
  rw [hv] at hu
  rw [if_neg (by rw [hu.1, hnone]; decide)]
  exact hu

end

/-- What is done for an uncorrectable error leaves the collector but for its poison list. -/
theorem State.eccAction_still (s : State) (mem addr : Nat) : (s.eccAction mem addr).flt.still = s.flt.still := by
  unfold State.eccAction
  split
  · split
    · rw [State.spoilFrame_flt]; rfl
    · rfl
  · split
    · rw [State.raiseOnce_flt]
    · rfl
  · dsimp only
    split <;> rfl
  · dsimp only
    split <;> rfl
  · rfl
  · dsimp only
    split <;> rfl
  · split <;> rfl
  · rfl

/-- Shared SRAM and partition DRAM: the unit is poisoned. -/
theorem State.eccAction_poisons {mem : Nat} (h : mem = 2 ∨ mem = 8) (s : State) (addr : Nat) :
    eccUnit addr ∈ (s.eccAction mem addr).flt.poison := by
  have hunit : eccUnit addr ∈ (if s.flt.poison.contains (eccUnit addr) then s
      else { s with flt := { s.flt with poison := s.flt.poison ++ [eccUnit addr] } } : State).flt.poison := by
    split
    next h => simpa using h
    next => simp
  rcases h with rfl | rfl
  · exact hunit
  · exact hunit

/-- The state in which an uncorrectable error has been counted and told. -/
def State.eccFound (s : State) (mem addr : Nat) : State :=
  let s := { s with flt := { s.flt with eccUncorr := s.flt.eccUncorr.put 0 mem (sat16 (s.flt.eccUncorr.val 0 mem)) } }
  s.raiseOnce (s.p0and (s.eccPart mem addr)) 0x201 2 (eccData mem addr)

theorem State.eccFound_flt (s : State) (mem addr : Nat) : (s.eccFound mem addr).flt =
    { s.flt with eccUncorr := s.flt.eccUncorr.put 0 mem (sat16 (s.flt.eccUncorr.val 0 mem)) } := State.raiseOnce_flt ..

section
variable {mem addr : Nat} (hpowered : s.powered = true) (hmem : mem ≤ 10) (hmiss : s.injected 1 addr 0 = false)
include hpowered hmem hmiss

theorem State.eccRow_found (hother : mem ≠ 7) : s.eccRow mem addr =
    ((s.eccFound mem addr).fault 0x201 4 0 (s.eccPart mem addr) 2 (eccData mem addr) 0
      (if mem = 4 then 40000000 else 0)).eccAction mem addr := by
  unfold State.eccRow State.eccUncorrectable
  dsimp only
  rw [if_neg (by simp [hother]), if_neg (by simpa [hpowered] using hmem), State.arise_miss hmiss, if_neg (by simpa using hother)]
  simp only [beq_iff_eq]
  rfl

end

theorem State.eccRow_reset (hpowered : s.powered = true) (addr : Nat) :
    s.eccRow 7 addr = (s.eccUncorrectable 7 addr).deviceReset 3 := if_pos (by simp [hpowered])

theorem State.poisonRead_counts {p a : Nat} (hpoison : s.poisoned a 1 = true) (hpowered : s.powered = true) (hp : p < 16)
    (hgrant : s.grantOf a < 16) :
    ((s.poisonRead p a).fltPart (s.grantOf a)).poisonReads = sat16 (s.fltPart (s.grantOf a)).poisonReads ∧
      ((s.poisonRead p a).fltPart p).loadErrors = sat16 (s.fltPart p).loadErrors := by
  unfold State.poisonRead
  rw [if_neg (by simp [hpoison, hpowered])]
  dsimp only
  rw [if_pos hgrant, if_pos hp]
  generalize s.grantOf a = q
  generalize eu : s.setFltPart q _ = u
  have hq : (u.fltPart q).poisonReads = sat16 (s.fltPart q).poisonReads := by rw [← eu, State.setFltPart_fltPart]
  have hp : (u.fltPart p).loadErrors = (s.fltPart p).loadErrors := by
    rw [← eu]
    by_cases h : p = q
    · rw [h, State.setFltPart_fltPart]
    · rw [State.setFltPart_fltPart_ne _ _ _ _ h]
  clear eu
  generalize ev : u.setFltPart p _ = v
  have hv : (v.fltPart q).poisonReads = (u.fltPart q).poisonReads := by
    rw [← ev]
    by_cases h : q = p
    · rw [h, State.setFltPart_fltPart]
    · rw [State.setFltPart_fltPart_ne _ _ _ _ h]
  have hw : (v.fltPart p).loadErrors = sat16 (u.fltPart p).loadErrors := by rw [← ev, State.setFltPart_fltPart]
  rw [(State.fault_errors ..).1, (State.fault_errors ..).2, State.fltPart_congr (congrArg Flt.parts (State.raiseOnce_flt ..)),
    State.fltPart_congr (congrArg Flt.parts (State.raiseOnce_flt ..)), hv, hw, hq, hp]
  exact ⟨rfl, rfl⟩

/-! ### The collector (R530 to R534) -/

theorem State.faultReport_due {h : HeldReport} (hdue : s.flt.held.find? (fun h => decide (h.due ≤ s.et)) = some h) : ∃ r,
    (s.faultReport).flt.held = s.flt.held.erase h ∧ (s.faultReport).flt.recent = (r :: s.flt.recent).take 1024 ∧
    r.level = h.rep.level ∧ r.attempts = h.rep.attempts ∧ r.seq = h.rep.seq ∧ r.actionEt = s.et := by
  unfold State.faultReport
  rw [hdue]
  dsimp only
  obtain ⟨_, _, hflt⟩ := State.makeReport_flt { s with flt := { s.flt with held := s.flt.held.erase h } } h.rep
  rw [hflt]
  exact ⟨_, rfl, rfl, rfl, rfl, rfl, rfl⟩

theorem State.watchdog_due (hpowered : s.powered = true) (hup : s.dev.mcoreUp = true)
    (hdue : s.flt.wdog + 100000000 ≤ s.et) : s.watchdog = (s.fault 0x200 0xA 7 0x1F 0 0 0 0).deviceReset 3 := by
  have hms : ¬ s.et < s.flt.wdog + 100 * nsMs := Nat.not_lt.mpr hdue
  refine if_neg ?_
  simp [hpowered, hup, hms]

theorem State.logTick_due (hpowered : s.powered = true) (hdue : s.flt.lastFlush + 100000000 ≤ s.et) :
    s.logTick = s.logFlush := by
  have hms : ¬ s.et < s.flt.lastFlush + 100 * nsMs := Nat.not_lt.mpr hdue
  refine if_neg ?_
  simp [hpowered, hms]

end Sys2Proof.Machine

open Sys2Proof Sys2Proof.Machine

/-- Settles O55: each row by the rule of its operation; what a report adds to the collector comes from the law of reports. -/
theorem crossingsAndErrors : Obligations.CrossingsAndErrors := by
  intro s hpowered
  refine ⟨⟨_, rfl, congrArg State.flt (if_neg (by simp [hpowered]))⟩,
    fun w x isLoad hx hstopped => ⟨fun hmode hwrite hroom => ?_, fun hmiss hfull => ?_⟩,
    fun x hmode hruns => ⟨_, rfl, State.holdDrain_empty hmode hruns, fun w hheld hwrite hdram => ?_⟩,
    fun src hmiss => ?_, ⟨_, rfl, ?_⟩, ⟨_, rfl, ?_⟩, fun mem a hmem hmiss hnone => ?_,
    fun mem a hmem hmiss => ⟨fun hother => ?_, ?_⟩,
    fun p a hpoison hp hgrant => ⟨_, rfl, State.poisonRead_counts hpoison hpowered hp hgrant⟩, fun h hdue => ?_,
    fun hup hdue => ⟨_, rfl, ?_⟩, fun hdue => ⟨_, rfl, ?_⟩⟩
  case refine_1 => exact congrArg Host.Outcome.next (State.busTimeout_held hpowered hx hstopped hmode hwrite hroom)
  case refine_2 =>
    obtain ⟨rec, hpart, hstalled⟩ := State.busTimeout_stalled hpowered hx hstopped hmiss hfull
    obtain ⟨r, hrecent, hcount, hcls, hlevel, hrpart, hseq⟩ := s.stalled_flt w x isLoad
    refine ⟨_, r, rfl, ?_⟩
    rw [hstalled]
    dsimp only
    by_cases hinit : w.init < 16
    · rw [if_pos hinit]
      cases isLoad
      · rw [if_neg (by decide)]
        have hstill := State.postedError_still (s.stalled w x false) rec
        rw [Flt.of_still Flt.bridgeTimeouts (fun _ => rfl) hstill, Flt.of_still Flt.recent (fun _ => rfl) hstill]
        refine ⟨hcount, hrecent, hcls, hlevel, hrpart, hseq, fun _ h => absurd h (by decide), fun _ _ => ?_⟩
        rw [← hpart, State.postedError_count, (s.stalled_posted w x false) rec.part]
      · rw [if_pos rfl]
        refine ⟨hcount, hrecent, hcls, hlevel, hrpart, hseq, fun _ _ => ?_, fun _ h => absurd h (by decide)⟩
        rw [State.setFltPart_fltPart, State.stalled_loadErrors]
    · rw [if_neg hinit]
      exact ⟨hcount, hrecent, hcls, hlevel, hrpart, hseq, fun h => absurd h hinit, fun h => absurd h hinit⟩
  case refine_3 =>
    rw [State.holdDrain_runs hmode hruns, hheld]
    exact State.busWrite_dram hwrite hdram
  case refine_4 =>
    obtain ⟨r, hrow⟩ := State.cdcOverrun_merged hpowered hmiss src
    exact ⟨_, r, rfl, hrow⟩
  case refine_5 =>
    rw [State.patrol, if_neg (by simp [hpowered])]
    rfl
  case refine_6 =>
    rw [State.patrol, if_neg (by simp [hpowered])]
    rfl
  case refine_7 =>
    obtain ⟨hflt, honce⟩ := State.eccCorrected_counts hpowered hmem hmiss hnone
    exact ⟨_, rfl, by rw [hflt], honce, by rw [hflt]⟩
  case refine_8 =>
    refine ⟨_, rfl, ?_⟩
    rw [State.eccRow_found hpowered hmem hmiss hother]
    generalize eu : State.fault (s.eccFound mem a) _ _ _ _ _ _ _ _ = u
    have hstill := State.eccAction_still u mem a
    have hbefore := s.eccFound_flt mem a
    refine ⟨?_, fun hunit => State.eccAction_poisons hunit u a, fun hfour => ?_, fun hnot => ?_, ?_⟩
    · rw [Flt.of_still Flt.eccUncorr (fun _ => rfl) hstill, ← eu]
      by_cases hfour : mem = 4
      · obtain ⟨r, hflt, _⟩ := State.fault_held (s.eccFound mem a) 0x201 4 0 (s.eccPart mem a) 2 (eccData mem a) 0
          (by decide : (40000000 : Nat) ≠ 0)
        rw [if_pos hfour, hflt, hbefore]
      · obtain ⟨_, _, _, _, _, _, _, _, _, _, _, _, _, _, hflt⟩ := State.fault_flt (s.eccFound mem a) 0x201 4 0
          (s.eccPart mem a) 2 (eccData mem a) 0
        rw [if_neg hfour, hflt, hbefore]
    · obtain ⟨r, hflt, hcls⟩ := State.fault_held (s.eccFound mem a) 0x201 4 0 (s.eccPart mem a) 2 (eccData mem a) 0
        (by decide : (40000000 : Nat) ≠ 0)
      have het : (s.eccFound mem a).et = s.et := State.raiseOnce_et ..
      rw [Flt.of_still Flt.held (fun _ => rfl) hstill, Flt.of_still Flt.recent (fun _ => rfl) hstill, ← eu, if_pos hfour,
        hflt, hbefore, het]
      exact ⟨r, rfl, hcls, rfl⟩
    · obtain ⟨r, hrecent, hcls, _, _, hseq⟩ := State.fault_recent (s.eccFound mem a) 0x201 4 0 (s.eccPart mem a) 2
        (eccData mem a) 0
      rw [hbefore] at hrecent hseq
      rw [Flt.of_still Flt.recent (fun _ => rfl) hstill, ← eu, if_neg hnot]
      exact ⟨r, hrecent, hcls, hseq⟩
    · rintro rfl
      have heasel : u.easel = s.easel := by
        rw [← eu, State.fault_easel]
        exact State.raiseOnce_easel ..
      rw [← heasel]
      rfl
  case refine_9 =>
    rintro rfl
    refine ⟨_, rfl, ?_⟩
    rw [State.eccRow_reset hpowered]
    exact ⟨rfl, rfl⟩
  case refine_10 =>
    obtain ⟨r, hrow⟩ := State.faultReport_due hdue
    exact ⟨_, r, rfl, hrow⟩
  case refine_11 =>
    rw [State.watchdog_due hpowered hup hdue]
    exact ⟨rfl, rfl⟩
  case refine_12 =>
    rw [State.logTick_due hpowered hdue]
    exact ⟨rfl, rfl, rfl⟩

end

