-- ==== Sys2Proof/Proofs/BamlysRequests.lean ====
section
/-!
PROOFS. Bamlys: key slots, life cycle and the execution of its next request (R448, R457, R460, R463, R471 to R475).
-/

namespace Sys2Proof.Machine

variable {s : State} {o : Outst} {svc : BamService}

/-! ### Shared operations: ends of commands, sessions, the life cycle -/

@[simp] theorem State.finishAsync_sessions (s : State) (o : Outst) (status : Nat) (result : List Byte) :
    (s.finishAsync o status result).cmd.sessions = s.cmd.sessions := by
  unfold State.finishAsync
  dsimp only
  split
  · split <;> rfl
  · exact finalReply_sessions ..

theorem State.closeSessions_bam (s : State) : s.closeSessions.bam = s.bam :=
  List.foldlRecOn (motive := fun t : State => t.bam = s.bam) _ _ rfl fun t ht p _ => by rwa [State.raise_bam]

theorem State.closeSessions_cmd (s : State) : s.closeSessions.cmd = { s.cmd with sessions := [] } :=
  List.foldlRecOn (motive := fun t : State => t.cmd = { s.cmd with sessions := [] }) _ _ rfl
    fun t ht p _ => by rwa [State.raise_cmd]

theorem State.secErase_bam_cmd (s : State) (p : Nat) : (s.secErase p).bam = s.bam ∧ (s.secErase p).cmd = s.cmd := by
  unfold State.secErase
  split <;> exact ⟨rfl, rfl⟩

/-- What stays of Bamlys's store where records of an old epoch are erased. -/
def Bam.erased (b : Bam) : Bam :=
  let keep := fun (e : Nat × KeySlot) => decide (e.1 < 16) && b.lc != 4
  let old := fun (e : Nat × KeySlot) => keep e || (b.lc != 4 && e.2.epoch == pack [(0, 8, b.lc), (8, 8, b.count)])
  { b with
    slots := b.slots.filter old, other := b.other.filter old
    helper := b.helper && b.lc != 4, rootOk := b.rootOk && b.lc != 4 }

theorem State.eraseOld_bam (s : State) : s.eraseOld.bam = s.bam.erased := rfl

theorem State.eraseOld_cmd (s : State) : s.eraseOld.cmd = s.cmd := rfl

/-- The record of Bamlys after a transition to life-cycle state `lc`. -/
def Bam.moved (b : Bam) (lc : Nat) : Bam := { b with lc := lc, count := b.count + 1, kr := [] }.erased

theorem Bam.moved_slots {b : Bam} {lc : Nat} {e : Nat × KeySlot} (h : e ∈ (b.moved lc).slots) :
    e.1 < 16 ∨ e.2.epoch = pack [(0, 8, lc), (8, 8, b.count + 1)] := by
  have hkept := (List.mem_filter.mp h).2
  simp only [Bool.or_eq_true, Bool.and_eq_true, decide_eq_true_eq, beq_iff_eq] at hkept
  rcases hkept with hanchor | hnew
  · exact .inl hanchor.1
  · exact .inr hnew.2

theorem Bam.moved_retired {b : Bam} {lc : Nat} (h : lc = 4) : (b.moved lc).slots = [] :=
  List.filter_eq_nil_iff.mpr fun e _ => by simp [h]

theorem State.lifecycle_bam_cmd (s : State) (lc : Nat) :
    (s.lifecycle lc).bam = s.bam.moved lc ∧ (s.lifecycle lc).cmd = { s.cmd with sessions := [] } := by
  unfold State.lifecycle
  dsimp only
  rw [State.eraseOld_bam, State.eraseOld_cmd]
  generalize eu : State.closeSessions _ = u
  have hu : u.bam = { s.bam with lc := lc, count := s.bam.count + 1, kr := [] } ∧ u.cmd = { s.cmd with sessions := [] } := by
    rw [← eu, State.closeSessions_bam, State.closeSessions_cmd, State.raise_bam, State.raise_cmd]
    exact ⟨rfl, rfl⟩
  have hv : ((upFrom 0 12).foldl State.secErase u).bam = u.bam ∧ ((upFrom 0 12).foldl State.secErase u).cmd = u.cmd :=
    List.foldlRecOn (motive := fun t : State => t.bam = u.bam ∧ t.cmd = u.cmd) _ _ ⟨rfl, rfl⟩ fun t ht p _ =>
      ⟨(t.secErase_bam_cmd p).1.trans ht.1, (t.secErase_bam_cmd p).2.trans ht.2⟩
  rw [hv.1, hu.1, hv.2, hu.2]
  exact ⟨rfl, rfl⟩

/-! ### Operations of requests (R460, R472, R473, R475) -/

/-- What a request's action leaves alone: the outstanding commands, a deferred policy, the DRBG. -/
def Undisturbed (s t : State) : Prop :=
  t.cmd.async = s.cmd.async ∧ t.bam.policyAfter = s.bam.policyAfter ∧ t.bam.drbg = s.bam.drbg

theorem State.authTake_undisturbed (s : State) (ps : List Byte) (at_ : Nat) : Undisturbed s (s.authTake ps at_) :=
  ⟨rfl, rfl, rfl⟩

theorem State.lifecycle_undisturbed (s : State) (lc : Nat) : Undisturbed s (s.lifecycle lc) := by
  obtain ⟨hbam, hcmd⟩ := s.lifecycle_bam_cmd lc
  unfold Undisturbed
  rw [hbam, hcmd]
  exact ⟨rfl, rfl, rfl⟩

theorem State.bamSession_undisturbed (s : State) (ps : List Byte) (svc : BamService) :
    Undisturbed s (s.bamSession ps svc).1 := by
  unfold State.bamSession Undisturbed
  dsimp only
  split
  · rw [State.raise_cmd, State.raise_bam]
    exact ⟨rfl, rfl, rfl⟩
  · rw [State.raise_cmd, State.raise_bam]
    exact ⟨rfl, rfl, rfl⟩

/-- A session of partition `p` with an empty window. -/
theorem State.bamSession_opens {ps : List Byte} (h : u8 ps 0 ≠ 2) (s : State) (svc : BamService) : ∃ key,
    (s.bamSession ps svc).1.cmd.sessions = s.cmd.sessions.put {} (u8 ps 1) { isOpen := true, key := key } ∧
    (s.bamSession ps svc).2 = fit 16 svc.out := by
  unfold State.bamSession
  dsimp only
  rw [if_neg (by simpa using h), State.raise_cmd]
  exact ⟨_, rfl, rfl⟩

theorem State.bamSession_closes {ps : List Byte} (h : u8 ps 0 = 2) (s : State) (svc : BamService) :
    (s.bamSession ps svc).1.cmd.sessions = s.cmd.sessions.put {} (u8 ps 1) {} ∧ (s.bamSession ps svc).2 = [] := by
  unfold State.bamSession
  dsimp only
  rw [if_pos (by simpa using h), State.raise_cmd]
  exact ⟨rfl, rfl⟩

theorem State.writeRecord_bam (s : State) (n op : Nat) (k : KeySlot) : (s.writeRecord n op k).bam = { s.bam with
    slots := s.bam.slots.put {} n { k with seq := max (s.bam.slots.val {} n).seq (s.bam.other.val {} n).seq + 1 }
    other := s.bam.other.put {} n (s.bam.slots.val {} n), kr := s.bam.kr.filter (· != n) } := State.raise_bam ..

theorem State.writeRecord_cmd (s : State) (n op : Nat) (k : KeySlot) : (s.writeRecord n op k).cmd = s.cmd := State.raise_cmd ..

theorem State.bamInstall_stages {ps : List Byte} (h : u8 ps 0 = 0) (s : State) (svc : BamService) : ∃ bytes,
    s.bamInstall ps svc = ({ s with bam := { s.bam with stage := bytes } }, leBytes 4 0) :=
  ⟨_, if_pos (by simpa using h)⟩

theorem State.bamInstall_undisturbed (s : State) (ps : List Byte) (svc : BamService) :
    Undisturbed s (s.bamInstall ps svc).1 := by
  by_cases hstage : u8 ps 0 = 0
  · obtain ⟨bytes, hput⟩ := State.bamInstall_stages hstage s svc
    rw [hput]
    exact ⟨rfl, rfl, rfl⟩
  · unfold State.bamInstall
    dsimp only
    rw [if_neg (by simpa using hstage)]
    generalize eu : (if s.anchorAuth (u16 ps 2) then s.authTake ps 40 else s) = u
    have hu : Undisturbed s u := by
      rw [← eu]
      split
      · exact s.authTake_undisturbed ps 40
      · exact ⟨rfl, rfl, rfl⟩
    dsimp only
    generalize @ite KeySlot _ (instDecidableEqBool _ _) _ _ = new
    split
    · unfold Undisturbed
      dsimp only
      rw [State.writeRecord_bam, State.writeRecord_cmd]
      exact hu
    · unfold Undisturbed
      dsimp only
      rw [State.writeRecord_bam, State.writeRecord_cmd]
      exact hu

/-- A deletion: the slot is empty under the next sequence number, and nothing is staged. -/
theorem State.bamInstall_deletes {ps : List Byte} (h : u8 ps 0 = 4) (s : State) (svc : BamService) :
    let seq := max (s.bam.slots.val {} (u16 ps 2)).seq (s.bam.other.val {} (u16 ps 2)).seq + 1
    (s.bamInstall ps svc).1.bam.slots = s.bam.slots.put {} (u16 ps 2) { seq := seq } ∧
      (s.bamInstall ps svc).1.bam.stage = [] ∧ (s.bamInstall ps svc).2 = leBytes 4 seq := by
  unfold State.bamInstall
  dsimp only
  rw [if_neg (by simp [h])]
  generalize eu : (if s.anchorAuth (u16 ps 2) then s.authTake ps 40 else s) = u
  have hu : u.bam.slots = s.bam.slots ∧ u.bam.other = s.bam.other := by
    rw [← eu]
    split <;> exact ⟨rfl, rfl⟩
  dsimp only
  simp only [if_pos (show (u8 ps 0 == 4) = true by simp [h])]
  rw [if_neg (by simp)]
  dsimp only
  rw [State.writeRecord_bam]
  dsimp only
  rw [Tab.val_put_same, hu.1, hu.2]
  exact ⟨rfl, rfl, rfl⟩

theorem State.bamPolicy_undisturbed (s : State) (ps : List Byte) : Undisturbed s (s.bamPolicy ps) := by
  unfold State.bamPolicy
  dsimp only
  generalize eu : (if s.bam.lc != 0 then s.authTake ps 8 else s) = u
  have hu : Undisturbed s u := by
    rw [← eu]
    split
    · exact s.authTake_undisturbed ps 8
    · exact ⟨rfl, rfl, rfl⟩
  split
  · exact hu
  · split
    · unfold Undisturbed
      rw [State.raise_cmd, State.raise_bam]
      exact hu
    · exact hu

theorem State.bamPolicy_sets {ps : List Byte} (h : u8 ps 0 = 0) (s : State) :
    (s.bamPolicy ps).bam.policy = u8 ps 1 ∧ (s.bamPolicy ps).bam.armed = u8 ps 2 := by
  unfold State.bamPolicy
  dsimp only
  rw [if_pos (by simpa using h)]
  exact ⟨rfl, rfl⟩

theorem State.bamPolicy_unlocks {ps : List Byte} (h : u8 ps 0 ≠ 0) (s : State) : (s.bamPolicy ps).bam.locked = false := by
  unfold State.bamPolicy
  dsimp only
  rw [if_neg (by simpa using h)]
  generalize (if s.bam.lc != 0 then s.authTake ps 8 else s) = u
  split
  next => rw [State.raise_bam]
  next hopen => simpa using hopen

theorem bamAct_undisturbed (code : Nat) (ps : List Byte) (s : State) (svc : BamService) :
    Undisturbed s (bamAct code ps s svc).1 := by
  unfold bamAct
  split
  · exact ⟨rfl, rfl, rfl⟩
  · exact s.bamSession_undisturbed ps svc
  · exact s.bamInstall_undisturbed ps svc
  · exact ⟨rfl, rfl, rfl⟩
  · exact ⟨rfl, rfl, rfl⟩
  · exact ⟨rfl, rfl, rfl⟩
  · dsimp only
    split
    · exact s.lifecycle_undisturbed _
    · exact (s.authTake ps 8).lifecycle_undisturbed _
  · exact s.bamPolicy_undisturbed ps

/-! ### Execution (R448) -/

/-- Bamlys has drawn from its DRBG for a request. -/
def State.drawn (s : State) : State := { s with bam := { s.bam with drbg := (s.bam.drbg + 1) % 1024 } }

/-- No check of a request reads the DRBG. -/
theorem bamCheck_drawn (code : Nat) (ps : List Byte) (s : State) (svc : BamService) :
    bamCheck code ps s.drawn svc = bamCheck code ps s svc := by
  unfold bamCheck
  split <;> rfl

section
variable (hnext : bamFirst s.bamQueue = some o) (hserving : s.bam.serving = true) (hhalted : s.bam.halted = false)
  (hpolicy : s.bam.policyAfter = false) (hfeed : (s.feedBelow6 && writesRecord o.code o.pk.params) = false)
include hnext hserving hhalted hpolicy hfeed

/-- The request ends by its check, or by its action. -/
theorem State.bamExecute_served (hcheck : isCheckOnly o.pk = false) : s.bamExecute svc =
    if bamCheck o.code o.pk.params s svc ≠ stOk then s.drawn.finishAsync o (bamCheck o.code o.pk.params s svc) []
    else
      let r := bamAct o.code o.pk.params s.drawn svc
      r.1.finishAsync o r.2.1 r.2.2 := by
  have hlow : ¬ (s.drawn.feedBelow6 && writesRecord o.code o.pk.params) = true := by
    rw [show s.drawn.feedBelow6 = s.feedBelow6 from rfl, hfeed]
    decide
  unfold State.bamExecute
  rw [hnext]
  dsimp only
  rw [if_neg (by simp [hserving, hhalted])]
  change (let c := if (s.drawn.feedBelow6 && writesRecord o.code o.pk.params) then stBusy
      else bamCheck o.code o.pk.params s.drawn svc
    let t := if c != stOk || isCheckOnly o.pk then s.drawn.finishAsync o c [] else
      (bamAct o.code o.pk.params s.drawn svc).1.finishAsync o (bamAct o.code o.pk.params s.drawn svc).2.1
        (bamAct o.code o.pk.params s.drawn svc).2.2
    if t.bam.policyAfter then ({ t with bam := { t.bam with policyAfter := false } }).tamperPolicy else t) = _
  dsimp only
  rw [if_neg hlow, bamCheck_drawn, hcheck]
  generalize et : (if (bamCheck o.code o.pk.params s svc != stOk || false) = true then _ else _ : State) = t
  have hdefer : s.drawn.bam.policyAfter = false := hpolicy
  by_cases hok : bamCheck o.code o.pk.params s svc = stOk
  · rw [if_neg (by simp [hok])] at et
    rw [← et, State.finishAsync_bam, (bamAct_undisturbed o.code o.pk.params s.drawn svc).2.1, hdefer, if_neg (not_not.mpr hok)]
    rfl
  · rw [if_pos (by simp [hok])] at et
    rw [← et, State.finishAsync_bam, hdefer, if_pos hok]
    rfl

end

/-! ### The results of the eight opcodes (R471 to R475) -/

theorem bamAct_session (ps : List Byte) (s : State) (svc : BamService) :
    bamAct 0x0D01 ps s svc = ((s.bamSession ps svc).1, stOk, (s.bamSession ps svc).2) := rfl

theorem bamAct_install (ps : List Byte) (s : State) (svc : BamService) :
    bamAct 0x0D02 ps s svc = ((s.bamInstall ps svc).1, stOk, (s.bamInstall ps svc).2) := rfl

theorem bamAct_lifecycle (ps : List Byte) (s : State) (svc : BamService) : bamAct 0x0D06 ps s svc =
    ((if s.bam.lc == 0 then s else s.authTake ps 8).lifecycle (u8 ps 0), stOk, []) := rfl

theorem bamAct_policy (ps : List Byte) (s : State) (svc : BamService) :
    bamAct 0x0D07 ps s svc = (s.bamPolicy ps, stOk, []) := rfl

/-- The status of the island reads the same before and after a draw. -/
theorem State.bamStatus_drawn (s : State) {ps : List Byte} (h : u8 ps 0 = 0) : s.drawn.bamStatus ps =
    leBytes 1 s.bam.lc ++ leBytes 1 s.bam.count ++ leBytes 1 s.bam.policy ++
      leBytes 1 (pack [(0, 1, b2n s.bam.locked), (1, 1, b2n s.bam.rootOk), (2, 1, b2n s.debugOpen)]) ++ leBytes 4 s.epoch ++
      leBytes 4 s.bam.authCounter ++ leBytes 2 s.bam.restarts ++ leBytes 2 s.slotsUsed ++ fit 48 s.bam.measurement :=
  if_pos (by simpa using h)

theorem signLen_eq (type : Nat) : signLen type = if type = 0x10 then 64 else if type = 0x11 then 96 else 16 := by
  unfold signLen
  simp only [beq_iff_eq]

end Sys2Proof.Machine

open Sys2Proof Sys2Proof.Machine

/-- Settles O51: a request ends by its check or by its action, and each action by the rule of its operation. -/
theorem bamlysRequests : Obligations.BamlysRequests := by
  intro s o svc hnext hserving hhalted hpolicy hfeed hcheckOnly hlive _
  have hserved := State.bamExecute_served (svc := svc) hnext hserving hhalted hpolicy hfeed hcheckOnly
  refine ⟨fun hfails => ⟨_, rfl, ?_⟩, fun hok hloud => ⟨_, rfl, ?_⟩⟩
  · rw [hserved, if_pos hfails]
    exact ⟨State.finishAsync_answered _ hlive _ _ (.inr hfails), State.finishAsync_async .., State.finishAsync_bam ..⟩
  rw [hserved, if_neg (not_not.mpr hok)]
  have hans : ∀ (t : State) (status : Nat) (result : List Byte), (t.finishAsync o status result).answered o.pk status result :=
    fun t status result => State.finishAsync_answered t hlive status result (.inl hloud)
  obtain ⟨hasync, _, hdrbg⟩ := bamAct_undisturbed o.code o.pk.params s.drawn svc
  dsimp only
  rw [State.finishAsync_async, State.finishAsync_bam, State.finishAsync_sessions]
  refine ⟨congrArg (List.erase · o) hasync, hdrbg, fun hcode => ?_, fun hcode => ?_, fun hcode => ?_, fun hcode hop => ?_,
    fun hcode hop => ?_, fun hcode hop => ?_, fun hcode hop => ?_, fun hcode hop => ?_, fun hcode => ?_, fun hcode hop => ?_,
    fun hcode hop => ?_⟩
  case refine_1 =>
    rw [hcode]
    exact hans ..
  case refine_2 =>
    rw [hcode, ← signLen_eq]
    exact ⟨rfl, hans ..⟩
  case refine_3 =>
    rw [hcode]
    exact ⟨rfl, rfl, hans ..⟩
  case refine_4 =>
    rw [hcode, ← s.bamStatus_drawn hop]
    exact ⟨rfl, hans ..⟩
  case refine_5 =>
    obtain ⟨hsessions, hresult⟩ := State.bamSession_closes hop s.drawn svc
    rw [hcode, bamAct_session]
    dsimp only
    rw [hsessions, Tab.val_put_same, hresult]
    exact ⟨rfl, hans ..⟩
  case refine_6 =>
    obtain ⟨key, hsessions, hresult⟩ := State.bamSession_opens hop s.drawn svc
    rw [hcode, bamAct_session]
    dsimp only
    rw [hsessions, Tab.val_put_same, hresult]
    exact ⟨rfl, rfl, rfl, hans ..⟩
  case refine_7 =>
    obtain ⟨bytes, hstaged⟩ := State.bamInstall_stages hop s.drawn svc
    rw [hcode, bamAct_install, hstaged]
    exact ⟨rfl, hans ..⟩
  case refine_8 =>
    obtain ⟨hslots, hstage, hresult⟩ := State.bamInstall_deletes hop s.drawn svc
    rw [hcode, bamAct_install]
    dsimp only
    rw [hslots, hstage, hresult, Tab.val_put_same]
    exact ⟨rfl, rfl, rfl, hans ..⟩
  case refine_9 =>
    rw [hcode, bamAct_lifecycle]
    dsimp only
    generalize eu : (if s.drawn.bam.lc == 0 then s.drawn else s.drawn.authTake o.pk.params 8) = u
    have hcount : u.bam.count = s.bam.count := by
      rw [← eu]
      split <;> rfl
    obtain ⟨hbam, hcmd⟩ := u.lifecycle_bam_cmd (u8 o.pk.params 0)
    unfold State.epoch
    rw [State.finishAsync_bam, hbam, hcmd]
    exact ⟨rfl, congrArg (· + 1) hcount, rfl, rfl, fun e he => Bam.moved_slots he, Bam.moved_retired, hans ..⟩
  case refine_10 =>
    rw [hcode, bamAct_policy]
    obtain ⟨hset, harmed⟩ := State.bamPolicy_sets hop s.drawn
    exact ⟨hset, harmed, hans ..⟩
  case refine_11 =>
    rw [hcode, bamAct_policy]
    exact ⟨State.bamPolicy_unlocks hop s.drawn, hans ..⟩

end

