-- ==== Sys2Proof/Proofs/BamlysTamper.lean ====
section
/-!
PROOFS. Bamlys and tamper: starts, restarts and halts, MKA, and alarms by phase (R448, R451, R456, R457, R465 to R468).
-/

namespace Sys2Proof.Machine

variable {s : State}

/-! ### The tamper policy and Bamlys's halt (R448, R468) -/

/-- The record of Bamlys after its tamper policy has acted. -/
def Bam.policed (b : Bam) : Bam :=
  if b.policy == 1 then { b with locked := true } else if b.policy == 2 && b.lc != 4 then b.moved 4 else b

theorem State.tamperPolicy_bam (s : State) : s.tamperPolicy.bam = s.bam.policed := by
  unfold State.tamperPolicy Bam.policed
  split
  · rfl
  · split
    · exact (s.lifecycle_bam_cmd 4).1
    · rfl

theorem State.tamperPolicy_async (s : State) : s.tamperPolicy.cmd.async = s.cmd.async := by
  unfold State.tamperPolicy
  split
  · rfl
  · split
    · exact (s.lifecycle_undisturbed 4).1
    · rfl

/-- What the policy leaves of Bamlys. -/
theorem Bam.policed_keeps (b : Bam) : b.policed.serving = b.serving ∧ b.policed.measurement = b.measurement ∧
    b.policed.alarmsDue = b.alarmsDue ∧ b.policed.alarms = b.alarms ∧ b.policed.log = b.log ∧
    b.policed.keyAborts = b.keyAborts ∧ (b.kr = [] → b.policed.kr = []) := by
  unfold Bam.policed
  split
  · exact ⟨rfl, rfl, rfl, rfl, rfl, rfl, id⟩
  · split
    · exact ⟨rfl, rfl, rfl, rfl, rfl, rfl, fun _ => rfl⟩
    · exact ⟨rfl, rfl, rfl, rfl, rfl, rfl, id⟩

theorem Bam.policed_lock {b : Bam} (h : b.policy = 1) : b.policed = { b with locked := true } := if_pos (by simp [h])

theorem Bam.policed_report {b : Bam} (h : b.policy = 0) : b.policed = b := by
  unfold Bam.policed
  rw [if_neg (by simp [h]), if_neg (by simp [h])]

theorem Bam.policed_retire {b : Bam} (h : b.policy = 2) : b.policed.lc = 4 := by
  unfold Bam.policed
  rw [if_neg (by simp [h])]
  split
  next => rfl
  next hretired => simpa [h] using hretired

theorem State.tamperEvent_bam (s : State) (et src phase applied : Nat) : (s.tamperEvent et src phase applied).bam = s.bam :=
  State.raiseAt_bam ..

theorem State.tamperEvent_cmd (s : State) (et src phase applied : Nat) : (s.tamperEvent et src phase applied).cmd = s.cmd :=
  State.raiseAt_cmd ..

theorem State.bamHalt_bam (s : State) (why : Nat) : (s.bamHalt why).bam = { s.bam with halted := true, serving := false } := by
  unfold State.bamHalt
  dsimp only
  rw [State.finishWhere_bam, State.fault_bam, State.raise_bam]

theorem State.bamHalt_requests (s : State) (why : Nat) :
    ∀ o ∈ (s.bamHalt why).cmd.async, (o.code / 256 == 0x0D && o.started) = false := State.finishWhere_none _ _ _ _

/-! ### Starts (R451) -/

/-- The other copy of a key slot takes the place of the newer one, which was not valid. -/
def State.copyBack (s : State) (n : Nat) : State :=
  ({ s with bam := { s.bam with
    slots := s.bam.slots.put {} n (s.bam.other.val {} n), other := s.bam.other.put {} n {} } }).raise [0] 0x160 7 n

theorem State.copyBack_fold (u : State) (l : List Nat) : ∃ slots other,
    (l.foldl State.copyBack u).bam = { u.bam with slots := slots, other := other } ∧ (l.foldl State.copyBack u).cmd = u.cmd := by
  refine List.foldlRecOn (motive := fun t : State => ∃ slots other,
    t.bam = { u.bam with slots := slots, other := other } ∧ t.cmd = u.cmd) l _ ⟨_, _, rfl, rfl⟩ ?_
  intro t ⟨_, _, hbam, hcmd⟩ n _
  unfold State.copyBack
  rw [State.raise_bam, State.raise_cmd]
  exact ⟨_, _, by rw [hbam], hcmd⟩

/-- The root and the recovered slots: nothing else of Bamlys changes, and no command. -/
theorem State.bamRoot_bam (s : State) (fails : Nat) (recovered : List Nat) : ∃ root helper slots other,
    (s.bamRoot fails recovered).bam = { s.bam with rootOk := root, helper := helper, slots := slots, other := other } ∧
    (s.bamRoot fails recovered).cmd = s.cmd ∧
    (root = true ↔ s.bam.lc ≠ 4 ∧ ((s.bam.lc = 0 ∧ s.bam.helper = false) ∨ (s.bam.helper = true ∧ fails < 3))) := by
  unfold State.bamRoot
  dsimp only
  by_cases hretired : s.bam.lc = 4
  · rw [if_pos (by simp [hretired])]
    exact ⟨false, _, _, _, rfl, rfl, by simp [hretired]⟩
  · rw [if_neg (by simp [hretired])]
    have hroot : (((s.bam.lc == 0 && !s.bam.helper) || (s.bam.helper && decide (fails < 3))) = true ↔ s.bam.lc ≠ 4 ∧
        ((s.bam.lc = 0 ∧ s.bam.helper = false) ∨ (s.bam.helper = true ∧ fails < 3))) := by
      simp [hretired]
    generalize ((s.bam.lc == 0 && !s.bam.helper) || (s.bam.helper && decide (fails < 3))) = root at hroot ⊢
    generalize eu : (if root then _ else _ : State) = u
    have hu : u.bam = { s.bam with rootOk := root, helper := s.bam.helper || s.bam.lc == 0 && !s.bam.helper } ∧
        u.cmd = s.cmd := by
      rw [← eu]
      split
      · exact ⟨rfl, rfl⟩
      · rw [State.fault_bam, State.fault_cmd, State.raise_bam, State.raise_cmd]
        exact ⟨rfl, rfl⟩
    obtain ⟨slots, other, hbam, hcmd⟩ := u.copyBack_fold ((dedup recovered).filter fun n => decide (n < 256))
    rw [hu.1] at hbam
    exact ⟨root, _, slots, other, hbam, hcmd.trans hu.2, hroot⟩

/-- Bamlys serves, with no alarm left to report; a policy that is due acts. -/
theorem State.bamServe_bam (s : State) : s.bamServe.bam =
    if s.bam.policyDue then { s.bam with serving := true, alarmsDue := [], policyDue := false }.policed
    else { s.bam with serving := true, alarmsDue := [] } := by
  unfold State.bamServe
  dsimp only
  generalize eu : List.foldl _ _ _ = u
  have hu : u.bam = { s.bam with serving := true, alarmsDue := [] } := by
    rw [← eu]
    refine List.foldlRecOn (motive := fun t : State => t.bam = { s.bam with serving := true, alarmsDue := [] }) _ _ rfl ?_
    intro t ht a _
    rwa [State.tamperEvent_bam]
  rw [hu]
  dsimp only
  split
  · rw [State.tamperPolicy_bam]
  · exact hu

/-- The state in which a start has measured the firmware. -/
def State.measured (s : State) (store : BamStore) (meas : List Byte) : State :=
  { s.bamContent store with
    bam := { (s.bamContent store).bam with measurement := fit 48 meas, kr := [], stage := [], drbg := 0 } }

section
variable (hst : s.dev.state = .starting) (href : s.pwr.refOk = true) (hserving : s.bam.serving = false)
  (hhalted : s.bam.halted = false) (hretry : s.bam.bootRetry = none)
include hst href hserving hhalted hretry

theorem State.bamStart_runs (fails : Nat) (recovered : List Nat) (store : BamStore) (meas : List Byte) (fwOk : Bool) :
    s.bamStart fails recovered store meas fwOk =
      if !fwOk then (s.measured store meas).bamHalt 1
      else ((s.measured store meas).bamRoot fails recovered).eraseOld.bamServe := by
  refine if_neg ?_
  simp [hst, href, hserving, hhalted, hretry]

end

/-- With verified firmware Bamlys serves under the new measurement, whatever the policy then does. -/
theorem State.start_serves (s : State) (fails : Nat) (recovered : List Nat) :
    let t := (s.bamRoot fails recovered).eraseOld.bamServe
    t.bam.serving = true ∧ t.bam.measurement = s.bam.measurement ∧ (s.bam.kr = [] → t.bam.kr = []) ∧
      t.bam.alarmsDue = [] := by
  obtain ⟨root, helper, slots, other, hroot, _, _⟩ := s.bamRoot_bam fails recovered
  dsimp only
  rw [State.bamServe_bam, State.eraseOld_bam, hroot]
  split
  · obtain ⟨hs, hm, ha, _, _, _, hkr⟩ := Bam.policed_keeps {
      Bam.erased { s.bam with rootOk := root, helper := helper, slots := slots, other := other } with
      serving := true, alarmsDue := [], policyDue := false }
    exact ⟨hs, hm, hkr, ha⟩
  · exact ⟨rfl, rfl, id, rfl⟩

theorem State.start_root {fails : Nat} {recovered : List Nat} (hdue : s.bam.policyDue = false) :
    let t := (s.bamRoot fails recovered).eraseOld.bamServe
    t.bam.lc = s.bam.lc ∧ (t.bam.rootOk = true ↔
      s.bam.lc ≠ 4 ∧ ((s.bam.lc = 0 ∧ s.bam.helper = false) ∨ (s.bam.helper = true ∧ fails < 3))) := by
  obtain ⟨root, helper, slots, other, hbam, _, hroot⟩ := s.bamRoot_bam fails recovered
  dsimp only
  rw [State.bamServe_bam, State.eraseOld_bam, hbam, if_neg (by simp [Bam.erased, hdue])]
  refine ⟨rfl, ?_⟩
  rw [← hroot]
  change (root && s.bam.lc != 4) = true ↔ root = true
  rw [Bool.and_eq_true]
  exact ⟨fun h => h.1, fun h => ⟨h, by simpa using (hroot.mp h).1⟩⟩

/-! ### Restarts (R465, R466) -/

section
variable {cause : Nat} (hpowered : s.powered = true) (hserving : s.bam.serving = true) (hcause : cause ≤ 2)
include hpowered hserving hcause

/-- A restart: the requests end, the held reports are made, and the firmware starts or halts. -/
theorem State.bamRestart_runs (fwOk : Bool) (fails : Nat) (recovered : List Nat) (meas : List Byte) : ∃ u : State,
    (u.bam = { s.bam with
      restarts := sat16 s.bam.restarts
      restartAt := s.et :: s.bam.restartAt.filter (fun e => decide (s.et < e + 60000000000))
      lastRestart := s.et, kr := [], stage := [], drbg := 0, measurement := fit 48 meas }) ∧
    (∀ o ∈ u.cmd.async, (o.code / 256 == 0x0D && o.started) = false) ∧
    s.bamRestart cause fwOk fails recovered meas =
      if 4 ≤ (s.et :: s.bam.restartAt.filter (fun e => decide (s.et < e + 60000000000))).length then u.bamHalt 0
      else if !fwOk then u.bamHalt 1 else u.bamRoot fails recovered := by
  have hrun : ¬ (!s.powered || !s.bam.serving || decide (2 < cause)) = true := by
    simp [hpowered, hserving]
    omega
  have hsec : ∀ e, e + 60 * nsS = e + 60000000000 := fun _ => rfl
  unfold State.bamRestart
  dsimp only
  rw [if_neg hrun]
  simp only [hsec]
  generalize ev : State.finishWhere _ _ _ _ = v
  have hnone : ∀ o ∈ v.cmd.async, (o.code / 256 == 0x0D && o.started) = false := by
    rw [← ev]
    exact State.finishWhere_none _ _ _ _
  have hv : v.bam = { s.bam with
      restarts := sat16 s.bam.restarts
      restartAt := s.et :: s.bam.restartAt.filter (fun e => decide (s.et < e + 60000000000))
      lastRestart := s.et, kr := [], stage := [], drbg := 0, measurement := fit 48 meas } := by
    rw [← ev, State.finishWhere_bam, State.raise_bam]
  generalize eu : List.foldl _ _ _ = u
  have hu : u.bam = v.bam ∧ u.cmd = v.cmd := by
    rw [← eu]
    refine List.foldlRecOn (motive := fun t : State => t.bam = v.bam ∧ t.cmd = v.cmd) _ _ ⟨rfl, rfl⟩ fun t ht h _ => ?_
    rwa [State.makeReport_bam, State.makeReport_cmd]
  exact ⟨u, hu.1.trans hv, by rwa [hu.2], rfl⟩

end

/-- How a restart ends: halted at the fourth within 60 s and under firmware that fails, otherwise serving on. -/
theorem State.restart_ends (u : State) (hhalted : u.bam.halted = false) (hserving : u.bam.serving = true)
    (hnone : ∀ o ∈ u.cmd.async, (o.code / 256 == 0x0D && o.started) = false) (count : Nat) (fwOk : Bool) (fails : Nat)
    (recovered : List Nat) : ∃ t : State, t = (if 4 ≤ count then u.bamHalt 0 else if !fwOk then u.bamHalt 1
        else u.bamRoot fails recovered) ∧
      (∃ halted serving root helper slots other, t.bam = { u.bam with
        halted := halted, serving := serving, rootOk := root, helper := helper, slots := slots, other := other }) ∧
      (∀ o ∈ t.cmd.async, (o.code / 256 == 0x0D && o.started) = false) ∧
      ((4 ≤ count ∨ fwOk = false) → t.bam.halted = true ∧ t.bam.serving = false) ∧
      (count < 4 → fwOk = true → t.bam.halted = false ∧ t.bam.serving = true) := by
  refine ⟨_, rfl, ?_⟩
  have hhalt : ∀ why, ∃ halted serving root helper slots other, (u.bamHalt why).bam = { u.bam with
      halted := halted, serving := serving, rootOk := root, helper := helper, slots := slots, other := other } :=
    fun why => ⟨_, _, _, _, _, _, u.bamHalt_bam why⟩
  by_cases hfourth : 4 ≤ count
  · rw [if_pos hfourth]
    refine ⟨hhalt 0, u.bamHalt_requests 0, fun _ => ?_, fun hfew => absurd hfew (by omega)⟩
    rw [State.bamHalt_bam]
    exact ⟨rfl, rfl⟩
  rw [if_neg hfourth]
  cases fwOk
  · rw [if_pos (by decide)]
    refine ⟨hhalt 1, u.bamHalt_requests 1, fun _ => ?_, fun _ h => absurd h (by decide)⟩
    rw [State.bamHalt_bam]
    exact ⟨rfl, rfl⟩
  · rw [if_neg (by decide)]
    obtain ⟨root, helper, slots, other, hbam, hcmd, _⟩ := u.bamRoot_bam fails recovered
    rw [hbam, hcmd]
    exact ⟨⟨_, _, _, _, _, _, rfl⟩, hnone, fun h => absurd h (by simpa using hfourth), fun _ _ => ⟨hhalted, hserving⟩⟩

/-! ### MKA (R456) -/

theorem State.mkaInstall_bound {p an k : Nat} (hserving : s.bam.serving = true) (hhalted : s.bam.halted = false)
    (hlocked : s.bam.locked = false) (hup : s.portUp p = true) (hk : k < 238)
    (hkey : (s.keySlot (18 + k)).type ≠ 0 ∧ s.mayUse (s.keySlot (18 + k)) 5 = true ∧ (s.keySlot (18 + k)).bindKind = 2 ∧
      (s.keySlot (18 + k)).bindIdx = p) (scs : Nat) (xpn : Bool) : s.mkaInstall p an scs xpn = s.sakInstall p an scs xpn := by
  obtain ⟨htype, huse, hkind, hidx⟩ := hkey
  have hcak : ((upFrom 18 238).any fun n => (s.keySlot n).type != 0 && s.mayUse (s.keySlot n) 5 &&
      (s.keySlot n).bindKind == 2 && (s.keySlot n).bindIdx == p) = true :=
    List.any_eq_true.mpr ⟨18 + k, mem_upFrom.mpr (by omega), by simp [htype, huse, hkind, hidx]⟩
  unfold State.mkaInstall
  dsimp only
  rw [if_pos (by rw [hserving, hhalted, hlocked, hcak, hup]; rfl)]

theorem State.sakInstall_secures {p an : Nat} (hp : p < 12) (han : an < 4) (hmacsec : (s.swPort p).cfg.macsec = true)
    (scs : Nat) (xpn : Bool) :
    (∃ rx, (s.sakInstall p an scs xpn).swPort p = { s.swPort p with
      secTx := true, txAn := an, txPn := 1, xpn := xpn, exhausted := false, zeroized := false, rxSa := rx }) ∧
    p ∉ (s.sakInstall p an scs xpn).bam.mkaWait := by
  unfold State.sakInstall
  rw [if_neg (by simp [hmacsec]; omega)]
  generalize eu : s.onPort p _ = u
  have hu := congrArg (fun t : State => t.swPort p) eu.symm
  rw [State.onPort_swPort] at hu
  exact ⟨⟨_, hu⟩, by simp⟩

/-! ### Alarms by phase (R467, R468) -/

/-- The record of Bamlys after an alarm has been logged. -/
def Bam.alarmed (b : Bam) (src phase rtcNs : Nat) : Bam := { b with
  alarms := sat16 b.alarms, log := (⟨src, phase, rtcNs⟩ :: b.log).take 8
  logOverflow := if b.log.length < 8 then b.logOverflow else sat8 b.logOverflow }

theorem State.tamperLog_bam (s : State) (src phase : Nat) : (s.tamperLog src phase).bam = s.bam.alarmed src phase s.rtcNs := rfl

theorem State.tamperAlarm_unarmed {src : Nat} (h : s.bam.armed.testBit src = false) (phase : Nat) (b : Bool) :
    s.tamperAlarm src phase b = s := if_pos (by simp [h])

section
variable {src : Nat} (hsrc : src ≤ 4) (harmed : s.bam.armed.testBit src = true)
include hsrc harmed

theorem State.tamperAlarm_heard {phase : Nat} (hphase : s.tamperPhaseOk phase = true) :
    ¬ (decide (4 < src) || !s.bam.armed.testBit src || !s.tamperPhaseOk phase) = true := by
  simp [harmed, hphase]
  omega

omit hsrc harmed in
/-- Neither asleep nor in STANDBY: the alarm is told at once. -/
theorem State.tamperLog_powered {phase : Nat} (hactive : s.active = true) (hphase : phase ≠ 2) :
    ¬ (phase == 2 || (s.tamperLog src phase).dev.state == .standby) = true := by
  change ¬ (phase == 2 || s.dev.state == .standby) = true
  unfold State.active at hactive
  cases hst : s.dev.state <;> simp [hst, hphase] at hactive ⊢

/-- Running: the alarm is logged and told, and the policy acts. -/
theorem State.tamperAlarm_running (hactive : s.active = true) (b : Bool) : (s.tamperAlarm src 0 b).bam =
    (s.bam.alarmed src 0 s.rtcNs).policed := by
  have hstates : s.dev.state = .run ∨ s.dev.state = .degraded ∨ s.dev.state = .sleepPrep := by
    simpa [State.active, or_assoc] using hactive
  have hphase : s.tamperPhaseOk 0 = true := by
    rcases hstates with h | h | h <;> simp [State.tamperPhaseOk, h]
  unfold State.tamperAlarm
  rw [if_neg (State.tamperAlarm_heard hsrc harmed hphase), if_neg (by decide)]
  dsimp only
  rw [if_neg (State.tamperLog_powered hactive (by decide)), if_neg (by decide), State.tamperPolicy_bam, State.tamperEvent_bam,
    State.tamperLog_bam]

/-- At start: the alarm is the start's. -/
theorem State.tamperAlarm_starting (hst : s.dev.state = .starting) (hserving : s.bam.serving = false)
    (hhalted : s.bam.halted = false) (b : Bool) : s.tamperAlarm src 1 b = s.tamperStart src := by
  have hphase : s.tamperPhaseOk 1 = true := by simp [State.tamperPhaseOk, hst, hserving, hhalted]
  unfold State.tamperAlarm
  rw [if_neg (State.tamperAlarm_heard hsrc harmed hphase), if_pos (by decide)]

omit hsrc harmed in
theorem State.tamperStart_log (s : State) (src : Nat) :
    (s.tamperStart src).bam.log = (⟨src, 1, s.rtcNs⟩ :: s.bam.log).take 8 := by
  unfold State.tamperStart
  dsimp only
  split
  · rw [State.enterStandby_bam, State.raiseAt_bam]
    rfl
  · rw [State.raiseAt_bam]
    rfl

/-- Asleep: the alarm is logged, the policy is due at the next start, and the alarm is a wake source. -/
theorem State.tamperAlarm_asleep (hst : s.dev.state = .sleep) (b : Bool) :
    (s.tamperAlarm src 2 b).bam.log = (⟨src, 2, s.rtcNs⟩ :: s.bam.log).take 8 ∧
      (s.tamperAlarm src 2 b).bam.policyDue = true ∧
      (s.tamperAlarm src 2 b).wake.map = setBit s.wake.map (wakeBit 0x50) true := by
  have hphase : s.tamperPhaseOk 2 = true := by simp [State.tamperPhaseOk, hst]
  unfold State.tamperAlarm
  rw [if_neg (State.tamperAlarm_heard hsrc harmed hphase), if_neg (by decide)]
  dsimp only
  rw [if_pos (by simp), if_pos (by decide)]
  generalize eu : ({ s.tamperLog src 2 with bam := _ } : State) = u
  have hu : u.bam.log = (⟨src, 2, s.rtcNs⟩ :: s.bam.log).take 8 ∧ u.bam.policyDue = true ∧ u.wake = s.wake ∧
      u.dev.state = .sleep := by
    rw [← eu]
    exact ⟨rfl, rfl, rfl, hst⟩
  obtain ⟨hlog, hdue, hwake, hsleep⟩ := hu
  rw [show (u.wakeFrom 0x50).bam = u.bam from congrArg KAct.bam (State.wakeFrom_kAct u 0x50), ← hwake]
  refine ⟨hlog, hdue, ?_⟩
  unfold State.wakeFrom
  dsimp only
  rw [if_neg (by rw [State.noteSource_bc, State.beforeCommit_false (by rw [hsleep]; decide)]; decide)]
  split <;> rfl

section
variable {o : Outst} (hactive : s.active = true) (hnext : bamFirst s.bamQueue = some o) (hkey : keyOperation o.code = true)
  (hserving : s.bam.serving = true)
include hactive hnext hkey hserving

/-- In a key operation: the request is aborted before programming, and goes on after programming has begun. -/
theorem State.tamperAlarm_keyOperation (b : Bool) : ∃ u : State, u.cmd = s.cmd ∧ u.bam = s.bam.alarmed src 3 s.rtcNs ∧
    s.tamperAlarm src 3 b =
      if b && writesRecord o.code o.pk.params then { u with bam := { u.bam with policyAfter := true } }
      else (({ u with bam := { u.bam with kr := [], keyAborts := sat16 u.bam.keyAborts } }).finishAsync o
        stTamperAbort []).tamperPolicy := by
  have hrequest : s.keyRequest = some o := by
    unfold State.keyRequest
    rw [hnext]
    dsimp only
    rw [if_pos (by simp [hkey, hserving])]
  have hphase : s.tamperPhaseOk 3 = true := by simp [State.tamperPhaseOk, State.powered, hactive, hrequest]
  generalize eu : (s.tamperLog src 3).tamperEvent (s.tamperLog src 3).et src 3 (s.tamperLog src 3).bam.policy = u
  have hcmd : u.cmd = s.cmd := by
    rw [← eu, State.tamperEvent_cmd]
    rfl
  have hbam : u.bam = s.bam.alarmed src 3 s.rtcNs := by rw [← eu, State.tamperEvent_bam, State.tamperLog_bam]
  have hsame : u.keyRequest = some o := by
    rw [← hrequest]
    unfold State.keyRequest State.bamQueue
    rw [hcmd, hbam]
    rfl
  refine ⟨u, hcmd, hbam, ?_⟩
  unfold State.tamperAlarm
  rw [if_neg (State.tamperAlarm_heard hsrc harmed hphase), if_neg (show ¬ ((3 : Nat) == 1) = true by decide)]
  dsimp only
  rw [if_neg (State.tamperLog_powered hactive (by decide)), if_pos (show ((3 : Nat) == 3) = true by decide)]
  rw [eu, hsame]

end

end

end Sys2Proof.Machine

open Sys2Proof Sys2Proof.Machine

/-- Settles O52: starts, restarts, MKA and alarms, each by the rule of its operation and of the tamper policy. -/
theorem bamlysAndTamper : Obligations.BamlysAndTamper := by
  intro s
  refine ⟨fun fails recovered store meas hst href hserving hhalted hretry => ⟨⟨_, rfl, ?_⟩, ⟨_, rfl, ?_⟩⟩,
    fun cause fwOk fails recovered meas hpowered hserving hhalted hcause => ⟨_, rfl, ?_⟩,
    fun hserving => ⟨_, rfl, congrArg State.bam (if_pos hserving)⟩,
    fun p an scs xpn k hp han hmacsec hserving hhalted hlocked hup hk hkey => ⟨_, rfl, ?_⟩,
    fun src phase b hunarmed => congrArg Host.Outcome.next (State.tamperAlarm_unarmed hunarmed phase b),
    fun src b hsrc harmed => ⟨fun hactive => ⟨_, rfl, ?_⟩, fun hst hserving hhalted => ⟨_, rfl, ?_⟩,
      fun hst => ⟨_, rfl, State.tamperAlarm_asleep hsrc harmed hst b⟩,
      fun o hactive hnext hkey hserving => ⟨fun hbefore => ⟨_, rfl, ?_⟩, fun hb hwrites => ⟨_, rfl, ?_⟩⟩⟩,
    fun at_ hretry hdue => ⟨_, rfl, ?_⟩⟩
  case refine_1 =>
    rw [State.bamStart_runs hst href hserving hhalted hretry, if_neg (by decide)]
    obtain ⟨hserves, hmeasured, hkr, hreported⟩ := State.start_serves (s.measured store meas) fails recovered
    refine ⟨hserves, hmeasured, hkr rfl, hreported, fun hknown hdue => ?_⟩
    have hread : s.bamContent store = s := if_pos hknown
    unfold State.measured
    rw [hread]
    exact State.start_root hdue
  case refine_2 =>
    rw [State.bamStart_runs hst href hserving hhalted hretry, if_pos (by decide)]
    refine ⟨?_, ?_, State.bamHalt_requests _ _⟩
    · rw [State.bamHalt_bam]
    · rw [State.bamHalt_bam]
  case refine_3 =>
    obtain ⟨u, hbam, hnone, hrow⟩ := State.bamRestart_runs hpowered hserving hcause fwOk fails recovered meas
    obtain ⟨t, ht, ⟨halted, serving, root, helper, slots, other, htbam⟩, hrequests, hhalts, hserves⟩ :=
      u.restart_ends (by rw [hbam]; exact hhalted) (by rw [hbam]; exact hserving) hnone
        (s.et :: s.bam.restartAt.filter (fun e => decide (s.et < e + 60000000000))).length fwOk fails recovered
    have hlast : t.bam.restartAt = s.et :: s.bam.restartAt.filter (fun e => decide (s.et < e + 60000000000)) := by
      rw [htbam, hbam]
    rw [hrow, ← ht, hlast]
    refine ⟨?_, ?_, ?_, ?_, ?_, rfl, hrequests, hhalts, hserves⟩ <;> rw [htbam, hbam]
  case refine_4 =>
    obtain ⟨⟨rx, hport⟩, hwait⟩ := State.sakInstall_secures hp han hmacsec scs xpn
    rw [State.mkaInstall_bound hserving hhalted hlocked hup hk hkey, hport]
    exact ⟨rfl, rfl, rfl, rfl, hwait⟩
  case refine_5 =>
    rw [State.tamperAlarm_running hsrc harmed hactive]
    obtain ⟨_, _, _, halarms, hlog, _, _⟩ := Bam.policed_keeps (s.bam.alarmed src 0 s.rtcNs)
    refine ⟨halarms, hlog, fun hlock => ?_, fun hretire => Bam.policed_retire hretire, fun hreport => ?_⟩
    · rw [Bam.policed_lock (b := s.bam.alarmed src 0 s.rtcNs) hlock]
      exact ⟨rfl, rfl⟩
    · rw [Bam.policed_report (b := s.bam.alarmed src 0 s.rtcNs) hreport]
      exact ⟨rfl, rfl⟩
  case refine_6 =>
    rw [State.tamperAlarm_starting hsrc harmed hst hserving hhalted]
    refine ⟨s.tamperStart_log src, fun hfirst => ?_, fun hlater => s.tamperStart_later src hlater⟩
    obtain ⟨hdev, hretry⟩ := s.tamperStart_first src hfirst
    exact ⟨by rw [hdev, hst], hretry⟩
  case refine_7 =>
    obtain ⟨u, hcmd, hbam, hrow⟩ := State.tamperAlarm_keyOperation hsrc harmed hactive hnext hkey hserving b
    rw [hrow, if_neg (by simpa using hbefore), State.tamperPolicy_async, State.tamperPolicy_bam, State.finishAsync_async,
      State.finishAsync_bam, hbam, hcmd]
    obtain ⟨_, _, _, _, _, haborts, hkr⟩ := Bam.policed_keeps { s.bam.alarmed src 3 s.rtcNs with
      kr := [], keyAborts := sat16 (s.bam.alarmed src 3 s.rtcNs).keyAborts }
    exact ⟨rfl, hkr rfl, haborts⟩
  case refine_8 =>
    obtain ⟨u, hcmd, hbam, hrow⟩ := State.tamperAlarm_keyOperation hsrc harmed hactive hnext hkey hserving b
    rw [hrow, if_pos (by simp [hb, hwrites]), hcmd, hbam]
    exact ⟨rfl, rfl, rfl⟩
  case refine_9 =>
    unfold State.tamperRetry
    rw [hretry]
    dsimp only
    rw [if_neg (by omega)]

end
